-- ==== Sys2Proof/Word.lean ====
section
/-! DEFINITION. Word types of the CA5240 model and their plainest arithmetic. -/

namespace Sys2Proof

/-- A byte. -/
abbrev Byte := BitVec 8
/-- A 64-bit object word (spec/17 R386: a read returns the value in bits [63:0]). -/
abbrev Word := BitVec 64
/-- A system address, 40 bits (spec/19 R433 gives addresses [39:0]). -/
abbrev Addr := BitVec 40
/-- A Sundial angle stamp: revolution [55:24], fraction [23:0] (spec/02 R31). -/
abbrev Stamp := BitVec 56
/-- A Sundial fraction (spec/02 R31). -/
abbrev Frac := BitVec 24

end Sys2Proof
end

