-- ==== Sys2Proof/Syntax.lean ====
section
/-! DEFINITION. The commands of the block: one constructor of `Instr` per row of spec/opcode_table.json, with the
operand types they carry. A command is an access of a master, an event at a pin or on a link, the expiry of a timer
of the part, or an operation of one of its engines; operands are what reaches the part from outside (a writer, a
value, a measurement, a decoding outcome), never what the part itself holds. -/

namespace Sys2Proof

/-- The four variants (spec/00 R3; codes of spec/01 R28). -/
inductive Variant where
  | xe | xp | p32 | p120
deriving DecidableEq, Repr

/-- Master ids 0-16 of spec/17 R383: 0 Strongroom, 1 PWR, 2-5 CTL, 6-7 SERVO, 8-14 TRL, 15 management, 16 host. -/
abbrev Master := Fin 17
/-- Actuator a. -/
abbrev Act := Fin 2
/-- Slot index q = 2a + s (spec/07 R148). -/
abbrev Slot := Fin 4
/-- Trellis engine n (spec/10 R218). -/
abbrev Eng := Fin 7
/-- Head h of an actuator, 0-11. -/
abbrev Head := Fin 12
/-- Zone number (spec/11 R245: [17:0]). -/
abbrev ZoneNo := BitVec 18

/-- How a fabric store reaches an object's word (spec/17 R386, R387). -/
inductive StoreWidth where
  | low4 | high4 | full8
deriving DecidableEq, Repr

/-- One store to the dictionary window (spec/17 R386). -/
structure DictStore where
  master : Master
  index : BitVec 16
  sub : Byte
  width : StoreWidth
  data : Word
deriving DecidableEq, Repr

/-- Who makes a fabric access (spec/01 R20, R21). -/
inductive FabricMaster where
  | core (m : Fin 16)
  | sieve (n : Fin 8)
  | sheafUnit
  | nvme
  | ethernet
  | channel
  | pruner
  | hoe
  | flashCtl
deriving DecidableEq, Repr

/-- The width of a fabric access in bytes: 4 and 8 are the only ones the object window takes (spec/17 R386). -/
inductive AccessSize where
  | b1 | b2 | b4 | b8
deriving DecidableEq, Repr

/-- What the motor engine measures in a control cycle (spec/03 R54, R55). -/
structure CycleIn where
  /-- The three shunts' phase currents, mA, two's complement. -/
  iu : BitVec 16
  iv : BitVec 16
  iw : BitVec 16
  /-- Motor supply, mV. -/
  supplyMv : BitVec 16
  /-- Speed measured where no observer runs (the frequency of the braking current of R65), 0.01 rpm, two's complement. -/
  speedCrpm : BitVec 32
  /-- RMS phase current, mA. -/
  currentMa : BitVec 16
  /-- Hold-up rail, mV. -/
  railMv : BitVec 16
deriving DecidableEq, Repr

/-- Causes of a bridge fault (spec/03 R77). -/
inductive BridgeCause where
  | driverUndervoltage | overTemperature
deriving DecidableEq, Repr

/-- What the demodulator of a slot sees of one wedge (spec/04 R80, R81). -/
structure SampleIn where
  samFound : Bool
  wedge : BitVec 9
  index : Bool
  gray : BitVec 22
  burstN : BitVec 16
  burstQ : BitVec 16
  preamble : BitVec 16
  runout : BitVec 16
  rroParityOk : Bool
  samFraction : Frac
deriving DecidableEq, Repr

/-- The seek mailbox of spec/04 R85 with the twin extension of spec/05 R109. -/
structure Mailbox where
  target : Word
  head : Head
  slotB : Bool
  write : Bool
  twin : Bool
  seekSeq : BitVec 16
  deadline : Frac
  pairShift : BitVec 32
  zone : ZoneNo
  pair : BitVec 4
deriving DecidableEq, Repr

/-- Causes of a VCM driver fault (spec/04 R102). -/
inductive VcmCause where
  | overcurrent | short | undervoltage
deriving DecidableEq, Repr

/-- One request to the assist arbiter (spec/05 R116). -/
structure GrantReq where
  q : Slot
  stamp : Stamp
  head : Head
  ring : Fin 64
deriving DecidableEq, Repr

/-- What a read-gate request names (spec/07 R167, R168): the sector, and where the descriptor wants its data. -/
structure ReadGateIn where
  tag : BitVec 32
  sector : BitVec 10
  track : BitVec 22
  head : Head
  ring : Fin 64
  lba : BitVec 34
  ns2 : Bool
  /-- Cellar address the sector is delivered to. -/
  dest : Addr
deriving DecidableEq, Repr

/-- What reaches the slot while a read gate is open (spec/07 R149, R167): bit times passed, the predicted bit time of the sync mark, rails, and
the ADC samples of both readers. -/
structure ReadCloseIn where
  bits : BitVec 16
  predicted : BitVec 16
  gainRail : Bool
  timingRail : Bool
  adc : List (BitVec 7 × BitVec 7)
deriving DecidableEq, Repr

/-- Units of spec/08 R201. -/
inductive DecoderUnit where
  | line | replay | deep | solver
deriving DecidableEq, Repr

/-- Units of spec/09 R217. -/
inductive EncoderUnit where
  | encoder | staging | accumulator
deriving DecidableEq, Repr

/-- Cause of a memory or state check (spec/08 R201). -/
inductive CheckCause where
  | memory | state
deriving DecidableEq, Repr

/-- A sector handed to the write pipeline (spec/09 R202). -/
structure StageIn where
  tag : BitVec 32
  sector : BitVec 10
  head : Head
  kind : BitVec 2
  lba : BitVec 34
  track : BitVec 22
  zone : Option ZoneNo
  range : BitVec 5
  generation : Byte
  /-- Cellar address of the plaintext. -/
  source : Addr
  /-- Firmware-area bytes, or none (zeros). -/
  firmware : Option (List Byte)
  /-- The Cellar fetch met an uncorrectable or poisoned line (spec/14 R325). -/
  fetchFault : Bool
deriving DecidableEq, Repr

/-- A write-gate request (spec/09 R206). -/
structure GateIn where
  stamp : Stamp
  tag : BitVec 32
  sector : BitVec 10
  head : Head
  ring : Fin 64
  track : BitVec 22
  zone : Option ZoneNo
  /-- Track index (pair index for twin) in the zone's write order. -/
  trackIndex : BitVec 16
  /-- Counts by which the ASSIST_ARM stop bit led the gate angle. -/
  lead : BitVec 24
  /-- Sectors of the descriptor from this one on. -/
  left : BitVec 16
  twinB : Bool
  /-- Reopening after a servo wedge of a sector already in flight. -/
  reopening : Bool
  /-- Position of the sector in its outer-code group, for a zone with the outer code. -/
  groupPos : BitVec 6
deriving DecidableEq, Repr

/-- Which store of a Trellis engine (spec/10 R219). -/
inductive TrlStore where
  | micro | nano
deriving DecidableEq, Repr

/-- What Strongroom reports of one engine's load (spec/10 R235, R236, R237). -/
structure LoadReport where
  /-- Images rejected while selecting: (customer image?, security_version, check). -/
  rejected : List (Bool × BitVec 32 × BitVec 8)
  /-- security_version of the patch loaded, none for ROM only. -/
  patch : Option (BitVec 32)
  patchMicro : List (BitVec 16 × BitVec 41)
  patchNano : List (BitVec 16 × BitVec 128)
  redirects : List (BitVec 13 × BitVec 13)
  entryTable : List (BitVec 32)
  customer : Option (BitVec 32)
  custMicro : List (BitVec 16 × BitVec 41)
  custNano : List (BitVec 16 × BitVec 128)
  hooks : List (BitVec 16)
  /-- SHA-384 of the patch image and of the customer image. -/
  patchHash : List Byte
  custHash : List Byte
  /-- entry_table_id that the customer image requires. -/
  entryTableId : BitVec 32
deriving DecidableEq, Repr

/-- The queue and command identifier that name a command-table entry (spec/12 R279, R289). -/
structure CmdRef where
  sqid : BitVec 16
  cid : BitVec 16
deriving DecidableEq, Repr

/-- The submission queue entry fields the controller uses (spec/12 R279, R291). -/
structure Sqe where
  cid : BitVec 16
  opcode : Byte
  nsid : BitVec 32
  slba : BitVec 64
  nlb : BitVec 16
  cdw10 : BitVec 32
  cdw11 : BitVec 32
  cdw12 : BitVec 32
  cdw13 : BitVec 32
  fua : Bool
  /-- A reserved field is set (kind 8 of R291). -/
  reservedSet : Bool
  /-- A PRP entry or list is bad (kind 13). -/
  prpBad : Bool
  /-- An SGL descriptor is bad: 0 none, 1 type, 2 number (kind 14). -/
  sglBad : BitVec 2
deriving DecidableEq, Repr

/-- A transaction-layer packet to BAR0 as the endpoint classifies it (spec/12 R291 kinds 0-3). -/
inductive Tlp where
  | malformed (dw0 : BitVec 32)
  | poisonedWrite (dw0 : BitVec 32) (addr : BitVec 16)
  | readMisaligned (dw0 : BitVec 32) (addr : BitVec 16)
  | writeReserved (dw0 : BitVec 32) (addr : BitVec 16)
  | good (dw0 : BitVec 32) (addr : BitVec 16)
deriving DecidableEq, Repr

/-- Causes of a failed queue fetch or transfer (spec/12 R291 kinds 6 and 7). -/
inductive XferCause where
  | poisoned | unsupported | timeout
deriving DecidableEq, Repr

/-- A media descriptor (spec/01 step 3, spec/12 R282): the binary layout is not stated, so it is held by its fields. -/
structure Desc where
  tag : BitVec 32
  cls : BitVec 2
  write : Bool
  head : Head
  /-- First data track. -/
  track : BitVec 22
  firstSector : BitVec 10
  count : BitVec 16
  zone : Option ZoneNo
  twin : Bool
  pairN : BitVec 16
  /-- Fraction of the first sector and angle from the first sector to the last. -/
  firstFrac : Frac
  length : BitVec 24
  lba : BitVec 34
  /-- Metadata kind of its sectors (spec/08 R174). -/
  kind : BitVec 2
  generation : Byte
  range : BitVec 5
  profile : BitVec 3
  tap : BitVec 4
  /-- Group flag of spec/08 R195. -/
  group : Bool
  /-- Hook 0's adjusted arrival, in counts; the larger of it and the estimate is used (spec/10 R239). -/
  hookArrival : BitVec 32
deriving DecidableEq, Repr

/-- How a merge ended (spec/11 R269). -/
inductive MergeResult where
  | committed
  | readFailed
  | writeFailed
  | refused
deriving DecidableEq, Repr

/-- Requesters of a Cellar access (spec/14 R325). -/
inductive CellarReq where
  | core (m : Fin 16)
  | nvmeToHost (c : CmdRef)
  | writeFetch (q : Slot)
  | pruner
  | flashFlush
  | sieve (n : Fin 8)
  | hoe
  | other (m : FabricMaster)
deriving DecidableEq, Repr

/-- What the check bytes of a line say (spec/14 R322): poison is held in the state, not here. -/
inductive Ecc where
  | clean
  | correctable (syndrome : BitVec 32)
  | uncorrectable
  | addressTag
deriving DecidableEq, Repr

/-- What the cache's arrays, or the check bits of another on-die SRAM, say of an access (spec/14 R337, R338): the tag case names the ways of the
set whose tags cannot be trusted. -/
inductive ArrayEcc where
  | clean
  | correctable
  | uncorrectable
  | tag (ways : BitVec 16)
deriving DecidableEq, Repr

/-- Kind of a Cellar access: a read, a whole-line write, or a write of part of a line (spec/14 R326). -/
inductive CellarOp where
  | read
  | writeLine (data : List Byte)
  | writePart (offset : Fin 64) (data : List Byte)
deriving DecidableEq, Repr

/-- Who uses the Pantry: a fabric port or an engine's own port (spec/15 R347, R348). -/
inductive PantryPort where
  | fabric (m : FabricMaster)
  | trellis (n : Eng)
deriving DecidableEq, Repr

/-- What a Pantry operation finds in the cell and the pointers it uses (spec/15 R353, R354). -/
inductive PantryEcc where
  | ok
  | pointerMismatch
  | payloadBad
  | tagLinkBad
  | ownerBad
deriving DecidableEq, Repr

/-- A Sieve program image offered to Strongroom (spec/16 R366, R367). -/
structure ProgImage where
  keySlot : BitVec 16
  programId : BitVec 32
  version : BitVec 32
  entry : BitVec 32
  textSize : BitVec 32
  dataSize : BitVec 32
  bssSize : BitVec 32
  keyHash : List Byte
  sigOk : Bool
  persistent : Bool
  hash : List Byte
  payload : List Byte
deriving DecidableEq, Repr

/-- Where an Enunile frame comes from (spec/17 R398, R399). -/
inductive FramePath where
  | port (c : Fin 4)
  | mgmtBus
deriving DecidableEq, Repr

/-- Causes of a management link reset (spec/17 R399, R402). -/
inductive MgmtResetCause where
  | timeout | targetReset | reselection
deriving DecidableEq, Repr

/-- Control messages that advance mgmt_link_state (spec/17 R399, R401). -/
inductive MctpMsg where
  | dynamicAddress (addr : BitVec 7)
  | endpointId (eid : Byte)
deriving DecidableEq, Repr

/-- What Strongroom finds in flash, OTP and the checkers at an entry to Boot (spec/18 R404-R409, spec/14 R343). -/
structure BootIn where
  /-- First-stage copies that verify. -/
  fs0 : Bool
  fs1 : Bool
  fsVersion : BitVec 32
  fsHash : List Byte
  /-- Images A and B pass the checks of R405 other than the floor. -/
  imgA : Bool
  imgB : Bool
  verA : BitVec 32
  verB : BitVec 32
  hashA : List Byte
  hashB : List Byte
  /-- Checker self-test result of the checkers of rows 1-3 (spec/14 R343), one bit each. -/
  checkers : BitVec 15
  /-- Comparators of the trip chain that passed their offset injection (spec/20 R472). -/
  comparators : BitVec 8
deriving DecidableEq, Repr

/-- Result of checking a downloaded firmware image under R405 (spec/18 R407). -/
structure ImageCheck where
  ok : Bool
  version : BitVec 32
  hash : List Byte
deriving DecidableEq, Repr

/-- SPDM transports (spec/18 R418). -/
inductive SpdmPath where
  | doe | mctp
deriving DecidableEq, Repr

/-- Who asks for a power reservation (spec/20 R464). -/
inductive Holder where
  | slot (q : Slot)
  | sieve (n : Fin 8)
  | ethernet
deriving DecidableEq, Repr

/-- Inputs of the power-loss detector (spec/20 R457, R476). -/
inductive PowerInput where
  | v12 | v5 | pwrgd | rstL
deriving DecidableEq, Repr

/-- Causes of an electronics wake (spec/20 R455, R476). -/
inductive WakeCause where
  | perst | doorbell | capsule | management
deriving DecidableEq, Repr

/-- Debug ports (spec/19 R449). -/
inductive DebugPort where
  | jtag | trace
deriving DecidableEq, Repr

/-- Causes of a strongroom_fault (spec/18 R425). -/
inductive SrFault where
  | selfTest | keyStore | sram
deriving DecidableEq, Repr

/-- Causes of a warm reset (spec/20 R458). -/
inductive WarmCause where
  | powerLoss | thermalTrip | safeRestart
deriving DecidableEq, Repr

/-- The commands: one constructor per row of spec/opcode_table.json, in the table's order. -/
inductive Instr where
  /-- FABRIC_ACCESS (R21). -/
  | fabricAccess (fm : FabricMaster) (write : Bool) (addr : Addr) (size : AccessSize) (data : Word) (arr : ArrayEcc)
  /-- OBJECT_WRITE (R386): the stores that reach the engine in one dictionary cycle. -/
  | objectWrite (stores : List DictStore)
  /-- COUNTERS_CLEAR (R52): a write of v to the clear object of a block. -/
  | countersClear (m : Master) (index : BitVec 16) (sub : Byte) (v : Word)
  /-- STAGING_MISS (R24). -/
  | stagingMiss (q : Slot) (tag : BitVec 32) (sector : BitVec 10) (short : BitVec 24)
  /-- SNAPSHOT (R34). -/
  | snapshot (m : Master) (v : Word)
  /-- ACCEPT_WINDOW_CLOSE (R41). -/
  | acceptWindowClose (wedge : BitVec 9)
  /-- SUNDIAL_ENABLE_WRITE (R41). -/
  | sundialEnableWrite (m : Master) (v : Word)
  /-- FREE_LIMIT_EXPIRY (R41). -/
  | freeLimitExpiry
  /-- FRACTION_WRAP (R32). -/
  | fractionWrap
  /-- ANGLE_ALARM_FIRE (R45): the fraction advances across the target of alarm n. -/
  | angleAlarmFire (n : Fin 256)
  /-- ALARM_WORD_WRITE (R47). -/
  | alarmWordWrite (m : Master) (n : Fin 256) (v : Word)
  /-- SYNC_ENABLE_WRITE (R51). -/
  | syncEnableWrite (m : Master) (v : Word)
  /-- SYNC_IN_PULSE (R49, R50): an edge of SYNC_IN, rising or falling, at this fraction. -/
  | syncInPulse (falling : Bool) (fraction : Frac)
  /-- SYNC_PULSE_TIMEOUT (R49). -/
  | syncPulseTimeout
  /-- CONTROL_CYCLE (R56). -/
  | controlCycle (i : CycleIn)
  /-- SPEED_LOOP_TICK (R58). -/
  | speedLoopTick
  /-- SPIN_ENABLE_WRITE (R61). -/
  | spinEnableWrite (m : Master) (v : Word)
  /-- MEASURE_END (R62): largest back-EMF magnitude seen, the vector's angle at the end, and the measured speed. -/
  | measureEnd (emfMv : BitVec 16) (emfAngle : Frac) (speedCrpm : BitVec 32)
  /-- IPD_COMPLETE (R63): peak currents of V1 to V6. -/
  | ipdComplete (p1 p2 p3 p4 p5 p6 : BitVec 16)
  /-- CONVERGE_TIMEOUT (R66). -/
  | convergeTimeout
  /-- BRAKE_TIMEOUT (R61). -/
  | brakeTimeout
  /-- RECATCH_DELAY_EXPIRY (R61). -/
  | recatchDelayExpiry
  /-- BRIDGE_OVERCURRENT (R75). -/
  | bridgeOvercurrent (leg : Fin 3) (peakMa : BitVec 16)
  /-- BRIDGE_FAULT (R75). -/
  | bridgeFault (cause : BridgeCause)
  /-- POWER_LOSS_SEQUENCE_COMPLETE (R74). -/
  | powerLossSequenceComplete
  /-- SERVO_SAMPLE (R80). -/
  | servoSample (q : Slot) (i : SampleIn)
  /-- OUTPUT_LATCH (R87): rotational acceleration averaged over 2 µs, and the measured VCM values. -/
  | outputLatch (q : Slot) (rot : BitVec 16) (vcmMv : BitVec 16) (vcmUa beforeUa : BitVec 32)
  /-- SEEK_MAILBOX_WRITE (R85). -/
  | seekMailboxWrite (a : Act) (mb : Mailbox)
  /-- SEEK_TIMEOUT (R93). -/
  | seekTimeout (a : Act)
  /-- SETTLE_MISS (R93). -/
  | settleMiss (a : Act) (sectors : BitVec 16)
  /-- ACCEL_SAMPLE (R92): mg on each linear axis, rad/s² about Z. -/
  | accelSample (x y z rot : BitVec 16)
  /-- SHOCK_HOLDOFF_EXPIRY (R92). -/
  | shockHoldoffExpiry (a : Act)
  /-- LOAD_REQUEST (R97). -/
  | loadRequest (m : Master) (a : Act) (v : Word)
  /-- UNLOAD_REQUEST (R97). -/
  | unloadRequest (m : Master) (a : Act) (v : Word)
  /-- LOAD_MS_EXPIRY (R97). -/
  | loadMsExpiry (a : Act)
  /-- LOAD_SEARCH_TIMEOUT (R97). -/
  | loadSearchTimeout (a : Act)
  /-- UNLOAD_COMPLETE (R97). -/
  | unloadComplete (a : Act)
  /-- UNLOAD_TIMEOUT (R97). -/
  | unloadTimeout (a : Act)
  /-- RETRACT_EXPIRY (R97). -/
  | retractExpiry (a : Act)
  /-- BEMF_OVERSPEED (R97): the magnitude of the back-EMF. -/
  | bemfOverspeed (a : Act) (bemfMv : BitVec 16)
  /-- VCM_DRIVER_FAULT (R99). -/
  | vcmDriverFault (a : Act) (cause : VcmCause)
  /-- PZT_DRIVER_FAULT (R99). -/
  | pztDriverFault (a : Act) (h : Head) (cause : BitVec 8)
  /-- SERVO_DEGRADED_CLEAR (R100). -/
  | servoDegradedClear (m : Master) (a : Act) (v : Word)
  /-- MAP_VALID_WRITE (R106). -/
  | mapValidWrite (m : Master) (a : Act) (v : Word)
  /-- CAPTURE_START (R107). -/
  | captureStart (m : Master) (a : Act) (v : Word)
  /-- MAP_CAPTURE_DONE (R107). -/
  | mapCaptureDone (a : Act)
  /-- ASSIST_GRANT_REQUEST (R116): the requests of one Trellis cycle. -/
  | assistGrantRequest (reqs : List GrantReq)
  /-- ASSIST_BUDGET_WRITE (R119). -/
  | assistBudgetWrite (m : Master) (v : Word)
  /-- LINK_NOP (R130). -/
  | linkNop (a : Act)
  /-- LINK_READ (R130). -/
  | linkRead (a : Act) (head : BitVec 4) (addr : Byte)
  /-- LINK_WRITE (R130). -/
  | linkWrite (q : Slot) (head : BitVec 4) (addr : Byte) (data : BitVec 16) (due : Stamp)
  /-- ASSIST_ARM (R139). -/
  | assistArm (q : Slot) (head : Head) (gate : Stamp)
  /-- ASSIST_OFF (R142). -/
  | assistOff (q : Slot) (head : Head)
  /-- PREAMP_SAFE (R133). -/
  | preampSafe (a : Act) (stopClock : Bool)
  /-- LINK_RESPONSE (R135): status byte, data, CRC, stop bit, and the start bit's lag after the last ASSIST_ARM stop
  bit in ns. -/
  | linkResponse (a : Act) (status : Byte) (data : BitVec 16) (crc : Byte) (stop : Bool) (settleA settleB : BitVec 16)
  /-- LINK_RESPONSE_TIMEOUT (R129). -/
  | linkResponseTimeout (a : Act)
  /-- LINK_DEGRADED_CLEAR (R135). -/
  | linkDegradedClear (m : Master) (a : Act) (v : Word)
  /-- LINK_INIT (R136). -/
  | linkInit (m : Master) (a : Act) (v : Word)
  /-- PREAMP_FAULT_LINE (R137). -/
  | preampFaultLine (a : Act)
  /-- MONITOR_POLL (R139). -/
  | monitorPoll (a : Act)
  /-- MONITOR_AGE_EXPIRY (R141). -/
  | monitorAgeExpiry (q : Slot)
  /-- HEAD_TEMP_POLL (R145). -/
  | headTempPoll (a : Act)
  /-- REG_OP_READ (R146). -/
  | regOpRead (m : Master) (a : Act)
  /-- REG_OP_WRITE (R146). -/
  | regOpWrite (m : Master) (a : Act)
  /-- READ_GATE_REQUEST (R168). -/
  | readGateRequest (q : Slot) (i : ReadGateIn)
  /-- READ_GATE_CLOSE (R167). -/
  | readGateClose (q : Slot) (i : ReadCloseIn)
  /-- DEFECT_DETECT (R165): flag 0, 1 asperity of reader 0, 1; 2, 3 dropout of reader 0, 1. -/
  | defectDetect (q : Slot) (flag : Fin 4) (mean : BitVec 16) (bit : BitVec 16)
  /-- DEFECT_CLEAR (R164). -/
  | defectClear (q : Slot) (flag : Fin 4) (mean : BitVec 16) (bit : BitVec 16)
  /-- DEFECT_HOLDOFF_EXPIRY (R165). -/
  | defectHoldoffExpiry (q : Slot)
  /-- DEFECT_LONG (R165). -/
  | defectLong (q : Slot) (flag : Fin 4)
  /-- LOOP_RAIL (R161): loop 0, 1 gain of reader 0, 1; 2 timing. -/
  | loopRail (q : Slot) (loop : Fin 3) (held : BitVec 32)
  /-- RING_FORMAT_WRITE (R155). -/
  | ringFormatWrite (m : Master) (a : Act) (n : Fin 64) (v : Word)
  /-- BUF_PIN_WRITE (R168). -/
  | bufPinWrite (m : Master) (q : Slot) (v : Word)
  /-- LIVE_DECODE (R181). -/
  | liveDecode (q : Slot) (e : Fin 16)
  /-- MARK_TRIAL (R183). -/
  | markTrial (q : Slot) (e : Fin 16)
  /-- REDETECT_PASS (R184). -/
  | redetectPass (q : Slot) (e : Fin 16) (pass : Fin 4)
  /-- DEEP_JOB (R189). -/
  | deepJob
  /-- COMBINE_START (R193). -/
  | combineStart (m : Master) (q : Slot) (v : Word)
  /-- OUTER_CODE_SOLVE (R195). -/
  | outerCodeSolve
  /-- OC_RELEASE (R195). -/
  | ocRelease (m : Master) (v : Word)
  /-- DECODER_FAULT (R201). -/
  | decoderFault (q : Slot) (unit : DecoderUnit) (cause : CheckCause)
  /-- SECTOR_STAGE (R202). -/
  | sectorStage (q : Slot) (i : StageIn)
  /-- WRITE_GATE_REQUEST (R206). -/
  | writeGateRequest (q : Slot) (i : GateIn)
  /-- WRITE_GATE_CLOSE (R205): at the end of the pad (last) or of a region. -/
  | writeGateClose (q : Slot) (last : Bool) (descEnd : Bool) (runEnd : Bool)
  /-- ENCODER_FAULT (R211). -/
  | encoderFault (q : Slot) (unit : EncoderUnit) (cause : CheckCause)
  /-- NEXT (R223): the microword and nano-word at the present address, where the store is ROM, which the spec does
  not print; elsewhere the engine's own store supplies them. Bits 0 and 1 of `fix`: a single-bit error of the microword, of the nano-word,
  was corrected on the fetch (R219). -/
  | next (n : Eng) (w : BitVec 40) (nano : BitVec 128) (fix : BitVec 2)
  /-- JUMP (R223). -/
  | jump (n : Eng) (w : BitVec 40) (nano : BitVec 128) (fix : BitVec 2)
  /-- BR_T (R223). -/
  | brT (n : Eng) (w : BitVec 40) (nano : BitVec 128) (fix : BitVec 2)
  /-- BR_F (R223). -/
  | brF (n : Eng) (w : BitVec 40) (nano : BitVec 128) (fix : BitVec 2)
  /-- DISP (R223). -/
  | disp (n : Eng) (w : BitVec 40) (nano : BitVec 128) (fix : BitVec 2)
  /-- CALL (R223). -/
  | call (n : Eng) (w : BitVec 40) (nano : BitVec 128) (fix : BitVec 2)
  /-- CALL_T (R223). -/
  | callT (n : Eng) (w : BitVec 40) (nano : BitVec 128) (fix : BitVec 2)
  /-- RET (R223). -/
  | ret (n : Eng) (w : BitVec 40) (nano : BitVec 128) (fix : BitVec 2)
  /-- RET_T (R223). -/
  | retT (n : Eng) (w : BitVec 40) (nano : BitVec 128) (fix : BitVec 2)
  /-- LOOP (R223). -/
  | loop (n : Eng) (w : BitVec 40) (nano : BitVec 128) (fix : BitVec 2)
  /-- WAIT (R223). -/
  | wait (n : Eng) (w : BitVec 40) (nano : BitVec 128) (fix : BitVec 2)
  /-- RETI (R231). -/
  | reti (n : Eng) (w : BitVec 40) (nano : BitVec 128) (fix : BitVec 2)
  /-- HALT (R223). -/
  | halt (n : Eng) (w : BitVec 40) (nano : BitVec 128) (fix : BitVec 2)
  /-- SKIP (R223). -/
  | skip (n : Eng) (w : BitVec 40) (nano : BitVec 128) (fix : BitVec 2)
  /-- FABRIC_RESPONSE (R227). -/
  | fabricResponse (n : Eng) (error : Bool) (data : BitVec 32)
  /-- RUN_RESTART (R230). -/
  | runRestart (m : Master) (n : Eng)
  /-- RUN_RESUME (R230). -/
  | runResume (m : Master) (n : Eng)
  /-- HALT_REQ (R230). -/
  | haltReq (m : Master) (n : Eng) (v : Word)
  /-- SOFT_IRQ (R231). -/
  | softIrq (m : Master) (n : Eng) (v : Word)
  /-- TRELLIS_LOAD_REPORT (R235): done with a report, or failed (image kind, check). -/
  | trellisLoadReport (n : Eng) (r : Option LoadReport) (failKind failCheck : BitVec 8)
  /-- STORE_ERROR (R230). -/
  | storeError (n : Eng) (store : TrlStore) (addr : BitVec 13)
  /-- FORMAT_COMMIT (R251). -/
  | formatCommit (m : Master) (v : Word)
  /-- FORMAT_CHECK_DONE (R251). -/
  | formatCheckDone
  /-- ZONE_HW_ENABLE (R257). -/
  | zoneHwEnable (m : Master) (v : Word)
  /-- ALLOC_WRITE (R254). -/
  | allocWrite (m : Master) (port : Fin 4) (v : Word)
  /-- ALLOC_APPEND (R254). -/
  | allocAppend (m : Master) (port : Fin 4) (v : Word)
  /-- ALLOC_REWIND (R255). -/
  | allocRewind (m : Master) (port : Fin 4) (v : Word)
  /-- ZONE_OPEN (R252). -/
  | zoneOpen (c : CmdRef) (zone : ZoneNo)
  /-- ZONE_CLOSE (R252). -/
  | zoneClose (c : CmdRef) (zone : ZoneNo)
  /-- ZONE_FINISH (R256). -/
  | zoneFinish (c : CmdRef) (zone : ZoneNo)
  /-- ZONE_RESET (R256): the placement a reset of a demoted zone needs (R260). -/
  | zoneReset (c : CmdRef) (zone : ZoneNo) (placement : Option (BitVec 64))
  /-- ZONE_OFFLINE (R252). -/
  | zoneOffline (c : CmdRef) (zone : ZoneNo)
  /-- ZONE_SET_DESCRIPTOR_EXTENSION (R258). -/
  | zoneSetDescriptorExtension (c : CmdRef) (zone : ZoneNo)
  /-- ZONE_MANAGEMENT_RECEIVE (R258). -/
  | zoneManagementReceive (c : CmdRef)
  /-- MERGE_START (R269). -/
  | mergeStart (m : Master) (v : Word)
  /-- MERGE_END (R269). -/
  | mergeEnd (r : MergeResult)
  /-- MERGE_CANCEL (R269). -/
  | mergeCancel (m : Master) (v : Word)
  /-- CONTEXT_UNCORRECTABLE (R271). -/
  | contextUncorrectable (zone : ZoneNo)
  /-- HOST_TRANSPORT_WRITE (R274). -/
  | hostTransportWrite (m : Master) (v : Word)
  /-- LINK_ENABLE (R275). -/
  | linkEnable (m : Master) (v : Word)
  /-- PERST_ASSERT (R277). -/
  | perstAssert
  /-- FUNCTION_LEVEL_RESET (R277). -/
  | functionLevelReset
  /-- CC_EN_CLEAR (R277). -/
  | ccEnClear
  /-- SHUTDOWN_NOTIFICATION (R277). -/
  | shutdownNotification
  /-- SHUTDOWN_COMPLETE (R277). -/
  | shutdownComplete
  /-- SQ_TAIL_DOORBELL (R291). -/
  | sqTailDoorbell (qid : BitVec 16) (v : BitVec 32)
  /-- CQ_HEAD_DOORBELL (R291). -/
  | cqHeadDoorbell (qid : BitVec 16) (v : BitVec 32)
  /-- COMMAND_FETCH (R280). -/
  | commandFetch (qid : BitVec 16) (e : Sqe)
  /-- SQ_FETCH_ERROR (R291). -/
  | sqFetchError (qid : BitVec 16) (cause : XferCause)
  /-- TLP_RECEIVE (R291). -/
  | tlpReceive (t : Tlp)
  /-- DATA_TRANSFER_ERROR (R291). -/
  | dataTransferError (c : CmdRef) (cause : XferCause)
  /-- COMPLETION_WRITE (R281): Status Field [14:0] of R288 and DW0. -/
  | completionWrite (c : CmdRef) (status : BitVec 15) (dw0 : BitVec 32)
  /-- CQE_POST (R281). -/
  | cqePost (cqid : BitVec 16)
  /-- DESCRIPTOR_PICK (R282): the descriptors that arrived in the input queue since the last pick, in post order. -/
  | descriptorPick (a : Act) (fresh : List Desc)
  /-- ABORT_BUDGET_EXPIRY (R290). -/
  | abortBudgetExpiry (c : CmdRef)
  /-- READ (R261). -/
  | read (c : CmdRef)
  /-- WRITE (R255): the write data. -/
  | write (c : CmdRef)
  /-- ZONE_APPEND (R254). -/
  | zoneAppend (c : CmdRef)
  /-- WRITE_ZEROES (R309). -/
  | writeZeroes (c : CmdRef)
  /-- FLUSH (R278). -/
  | flush (c : CmdRef)
  /-- DATASET_MANAGEMENT (R268): the ranges (first LBA, blocks). -/
  | datasetManagement (c : CmdRef) (ranges : List (BitVec 64 × BitVec 32))
  /-- ABORT (R289). -/
  | abort (c : CmdRef)
  /-- CREATE_IO_SQ (R291). -/
  | createIoSq (c : CmdRef)
  /-- CREATE_IO_CQ (R291). -/
  | createIoCq (c : CmdRef)
  /-- DELETE_IO_SQ (R286). -/
  | deleteIoSq (c : CmdRef)
  /-- DELETE_IO_CQ (R291). -/
  | deleteIoCq (c : CmdRef)
  /-- GET_LOG_PAGE (R292). -/
  | getLogPage (c : CmdRef)
  /-- IDENTIFY (R278). -/
  | identify (c : CmdRef)
  /-- SET_FEATURES (R454). -/
  | setFeatures (c : CmdRef)
  /-- GET_FEATURES (R454). -/
  | getFeatures (c : CmdRef)
  /-- ASYNCHRONOUS_EVENT_REQUEST (R283). -/
  | asynchronousEventRequest (c : CmdRef)
  /-- FIRMWARE_IMAGE_DOWNLOAD (R407). -/
  | firmwareImageDownload (c : CmdRef) (data : List Byte)
  /-- FIRMWARE_COMMIT (R407). -/
  | firmwareCommit (c : CmdRef) (chk : ImageCheck)
  /-- DEVICE_SELF_TEST (R278). -/
  | deviceSelfTest (c : CmdRef)
  /-- FORMAT_NVM (R423). -/
  | formatNvm (c : CmdRef)
  /-- SANITIZE (R423). -/
  | sanitize (c : CmdRef)
  /-- SECURITY_SEND (R421): the TCG payload. -/
  | securitySend (c : CmdRef) (payload : List Byte)
  /-- SECURITY_RECEIVE (R421). -/
  | securityReceive (c : CmdRef)
  /-- NVME_MI_SEND (R399): an Enunile frame carried in band. -/
  | nvmeMiSend (c : CmdRef) (frame : List Byte)
  /-- NVME_MI_RECEIVE (R399). -/
  | nvmeMiReceive (c : CmdRef)
  /-- KEEP_ALIVE (R278). -/
  | keepAlive (c : CmdRef)
  /-- KEEP_ALIVE_TIMEOUT (R293). -/
  | keepAliveTimeout
  /-- DICTIONARY_WRITE (R296): the frame in the host's buffer. -/
  | dictionaryWrite (c : CmdRef) (frame : List Byte)
  /-- DICTIONARY_READ (R296). -/
  | dictionaryRead (c : CmdRef)
  /-- ORDERED_QUEUE_RESTART (R287). -/
  | orderedQueueRestart (c : CmdRef)
  /-- ORDERED_MASK_WRITE (R285). -/
  | orderedMaskWrite (m : Master) (v : Word)
  /-- FABRICS_CONNECT (R294): queue 0 for the admin queue; host NQN and controller id by number. -/
  | fabricsConnect (qid : BitVec 16) (hostNqn : BitVec 64) (cntlid : BitVec 16) (source : BitVec 32)
  /-- TCP_PDU_ERROR (R295): the connection by its queue, PDU type, termination code, 0 header 1 digest 2 length. -/
  | tcpPduError (conn : BitVec 16) (pduType : Byte) (code : BitVec 16) (what : BitVec 2)
  /-- TCP_CONNECTION_CLOSE (R294). -/
  | tcpConnectionClose (conn : BitVec 16)
  /-- PCIE_LINK_DOWN (R299). -/
  | pcieLinkDown (ltssm : Byte)
  /-- ETH_LINK_CHANGE (R299). -/
  | ethLinkChange (up : Bool) (detail : BitVec 32)
  /-- SHEAF_OPEN (R301). -/
  | sheafOpen (m : Master) (p : Fin 6)
  /-- SHEAF_SLOT_FREED (R300). -/
  | sheafSlotFreed
  /-- SHEAF_APPEND (R301): the internal ports 4 and 5 bring their own transaction and action. -/
  | sheafAppend (m : Master) (p : Fin 6) (txn : Byte) (action : BitVec 256)
  /-- SHEAF_COMMIT (R302). -/
  | sheafCommit (m : Master) (p : Fin 6) (txn : Byte)
  /-- SHEAF_COMMIT_PROCEED (R302). -/
  | sheafCommitProceed
  /-- SHEAF_ABORT (R301). -/
  | sheafAbort (m : Master) (p : Fin 6) (txn : Byte)
  /-- RELEASE_SEQ_WRITE (R305). -/
  | releaseSeqWrite (m : Master) (v : Word)
  /-- POWER_LOSS_SIGNAL (R311). -/
  | powerLossSignal (input : PowerInput) (mv : BitVec 16)
  /-- FLUSH_DONE (R313). -/
  | flushDone
  /-- FLUSH_FAIL (R313). -/
  | flushFail (flashAddr : BitVec 32)
  /-- HOLD_UP_LOST (R314). -/
  | holdUpLost
  /-- FLUSH_NOW (R314). -/
  | flushNow (m : Master) (v : Word)
  /-- RECOVER_LOAD (R316). -/
  | recoverLoad (m : Master) (v : Word)
  /-- RECOVERY_LOADED (R316): whether each flush slot's image CRC checks. -/
  | recoveryLoaded (crc0 crc1 : Bool)
  /-- REPLAY_START (R317). -/
  | replayStart (m : Master) (v : Word)
  /-- REPLAY_END (R317): the number of journal records, from replay_from on, that are valid in the loaded journal. -/
  | replayEnd (torn : Bool)
  /-- CELLAR_ACCESS (R325). -/
  | cellarAccess (req : CellarReq) (addr : Addr) (op : CellarOp) (ecc : Ecc) (arr : ArrayEcc)
  /-- CELLAR_FILL_DONE (R327). -/
  | cellarFillDone
  /-- REFRESH_RATE_INDICATION (R328). -/
  | refreshRateIndication (mult : BitVec 3) (hot : Bool)
  /-- CACHE_ENABLE_WRITE (R336). -/
  | cacheEnableWrite (m : Master) (v : Word)
  /-- LLC_CLEAN_DONE (R336). -/
  | llcCleanDone
  /-- SCRATCH_WAYS_WRITE (R335). -/
  | scratchWaysWrite (m : Master) (v : Word)
  /-- CACHE_CLEAN (R332). -/
  | cacheClean (addr : Addr)
  /-- CACHE_FLUSH (R332). -/
  | cacheFlush (addr : Addr)
  /-- CACHE_INVALIDATE (R333). -/
  | cacheInvalidate (addr : Addr)
  /-- ZERO_LINE (R332). -/
  | zeroLine (addr : Addr)
  /-- LINE_FILL (R331). -/
  | lineFill (addr : Addr) (ecc : Ecc) (arr : ArrayEcc)
  /-- TRACKER_CLEAR (R338). -/
  | trackerClear (m : Master) (v : Word)
  /-- HOE_START (R340). -/
  | hoeStart (m : Master) (v : Word)
  /-- HOE_CANCEL (R340). -/
  | hoeCancel (m : Master) (v : Word)
  /-- HOE_PASS_END (R342): the line addresses the pass found correctable and uncorrectable. -/
  | hoePassEnd (correctable uncorrectable : List Addr)
  /-- PANTRY_PUSH (R351). -/
  | pantryPush (port : PantryPort) (q : BitVec 9) (tag : BitVec 16) (ecc : PantryEcc)
  /-- PANTRY_POP (R349). -/
  | pantryPop (port : PantryPort) (q : BitVec 9) (ecc : PantryEcc)
  /-- QUEUE_RESET (R353). -/
  | queueReset (m : Master) (q : BitVec 9) (v : Word)
  /-- SWEEP_DONE (R353). -/
  | sweepDone (q : BitVec 9)
  /-- LOAD_PROGRAM (R367). -/
  | loadProgram (c : CmdRef) (slot : BitVec 4) (img : ProgImage)
  /-- PROGRAM_ACTIVATION_MANAGEMENT (R368). -/
  | programActivationManagement (c : CmdRef) (slot : BitVec 4) (activate : Bool)
  /-- MEMORY_RANGE_SET_MANAGEMENT (R372): create with ranges (offset, length), or delete a set. -/
  | memoryRangeSetManagement (c : CmdRef) (create : Bool) (set : BitVec 4) (ranges : List (BitVec 32 × BitVec 32))
  /-- EXECUTE_PROGRAM (R372). -/
  | executeProgram (c : CmdRef) (slot : BitVec 4) (set : BitVec 4) (cparam1 cparam2 : Word)
  /-- MEMORY_COPY (R372). -/
  | memoryCopy (c : CmdRef) (dest : BitVec 32)
  /-- SLM_READ (R372). -/
  | slmRead (c : CmdRef) (offset len : BitVec 32)
  /-- SLM_WRITE (R372). -/
  | slmWrite (c : CmdRef) (offset : BitVec 32) (data : List Byte)
  /-- FW_START (R378). -/
  | fwStart (m : Master) (n : Fin 8) (v : Word)
  /-- FW_STOP (R370). -/
  | fwStop (m : Master) (n : Fin 8) (v : Word)
  /-- PROGRAM_START (R369). -/
  | programStart (n : Fin 8)
  /-- ECALL_EXIT (R369). -/
  | ecallExit (n : Fin 8) (a0 : BitVec 32) (runUs : BitVec 32)
  /-- ECALL_POP (R369). -/
  | ecallPop (n : Fin 8) (a0 : BitVec 18)
  /-- ECALL_PUSH (R369). -/
  | ecallPush (n : Fin 8) (a0 : BitVec 18) (tag : BitVec 16)
  /-- PROGRAM_FAULT (R370). -/
  | programFault (n : Fin 8) (mcause : BitVec 32) (pc : Word) (addr : Addr)
  /-- EXEC_TIMEOUT (R370). -/
  | execTimeout (n : Fin 8) (pc : Word)
  /-- GRANT_WAIT_EXPIRY (R375). -/
  | grantWaitExpiry (n : Fin 8)
  /-- PAUSE_LIMIT_EXPIRY (R376). -/
  | pauseLimitExpiry (n : Fin 8)
  /-- FRAME_WRITE (R395). -/
  | frameWrite (p : FramePath) (frame : List Byte)
  /-- FRAME_READ (R395). -/
  | frameRead (p : FramePath) (frame : List Byte)
  /-- FRAME_DESCRIBE (R395). -/
  | frameDescribe (p : FramePath) (frame : List Byte)
  /-- LOCK_ACQUIRE (R393). -/
  | lockAcquire (m : Master) (i : Fin 16) (v : Word)
  /-- LOCK_RELEASE (R393). -/
  | lockRelease (m : Master) (i : Fin 16) (v : Word)
  /-- DICT_STORE_ERROR (R394). -/
  | dictStoreError (index : BitVec 16) (sub : Byte)
  /-- READ_NVME_MI_DATA_STRUCTURE (R399). -/
  | readNvmeMiDataStructure (dtyp : Byte)
  /-- NVM_SUBSYSTEM_HEALTH_STATUS_POLL (R399). -/
  | nvmSubsystemHealthStatusPoll (clear : Bool)
  /-- CONTROLLER_HEALTH_STATUS_POLL (R399). -/
  | controllerHealthStatusPoll
  /-- CONFIGURATION_GET (R399). -/
  | configurationGet (cfg : Byte)
  /-- CONFIGURATION_SET (R399). -/
  | configurationSet (cfg : Byte) (v : BitVec 32)
  /-- MGMT_LINK_RESET (R399). -/
  | mgmtLinkReset (cause : MgmtResetCause)
  /-- MGMT_RESET (R401). -/
  | mgmtReset (m : Master) (v : Word)
  /-- BOOT_ENTRY (R404). -/
  | bootEntry (i : BootIn)
  /-- MEAS_GO (R410). -/
  | measGo (m : Master) (v : Word)
  /-- SEAL_REQUEST (R411): whether programming and reading back the ledger slot succeeds. -/
  | sealRequest (m : Master) (v : Word) (stored : Bool)
  /-- SEAL_TIMEOUT (R411). -/
  | sealTimeout (stored : Bool)
  /-- FW_CONFIRM (R406). -/
  | fwConfirm (m : Master) (v : Word)
  /-- ROLLBACK_ADVANCE (R408). -/
  | rollbackAdvance (m : Master) (v : Word)
  /-- GET_VERSION (R418). -/
  | getVersion (t : SpdmPath)
  /-- GET_CAPABILITIES (R418). -/
  | getCapabilities (t : SpdmPath)
  /-- NEGOTIATE_ALGORITHMS (R418). -/
  | negotiateAlgorithms (t : SpdmPath) (supported : Bool)
  /-- GET_DIGESTS (R418). -/
  | getDigests (t : SpdmPath)
  /-- GET_CERTIFICATE (R418). -/
  | getCertificate (t : SpdmPath) (slot : BitVec 4) (offset len : BitVec 16)
  /-- CHALLENGE (R418). -/
  | challenge (t : SpdmPath) (slot : BitVec 4) (nonce : BitVec 256)
  /-- GET_MEASUREMENTS (R419): 0 count, 0xFF all blocks, else one block. -/
  | getMeasurements (t : SpdmPath) (index : Byte) (sign : Bool) (nonce : BitVec 256)
  /-- GENKEY (R423). -/
  | genkey (range : Fin 17) (auth : Bool)
  /-- REVERT (R423). -/
  | revert (auth : Bool)
  /-- REVERTSP (R423). -/
  | revertsp (auth : Bool)
  /-- PSID_REVERT (R423). -/
  | psidRevert (auth : Bool)
  /-- OPAL_LOCK_CHANGE (R422): set the range's locks; the authority's proof. -/
  | opalLockChange (range : Fin 17) (readLocked writeLocked : Bool) (auth : Bool)
  /-- ERASE_DONE (R423). -/
  | eraseDone (m : Master) (v : Word)
  /-- STRONGROOM_FAULT (R425). -/
  | strongroomFault (cause : SrFault)
  /-- BLOCK_RESET (R435): unit and the causing event. -/
  | blockReset (u : Fin 20) (cause : Fin 512)
  /-- BLANKING_END (R436): dependent sources whose condition still holds. -/
  | blankingEnd (u : Fin 20) (still : List (Fin 512))
  /-- FAULT_PULSE_END (R438). -/
  | faultPulseEnd
  /-- FAULT_HOLD_WRITE (R438). -/
  | faultHoldWrite (m : Master) (v : Word)
  /-- LATCHED_CLEAR (R428): status object, high word or low. -/
  | latchedClear (m : Master) (blk : Fin 20) (hi : Bool) (v : Word)
  /-- CAPTURE_RELEASE (R434). -/
  | captureRelease (m : Master) (blk : Fin 20) (v : Word)
  /-- CAPTURE_MODE_WRITE (R432). -/
  | captureModeWrite (m : Master) (v : Word)
  /-- EVENT_CFG_WRITE (R430). -/
  | eventCfgWrite (m : Master) (e : Fin 512) (v : Word)
  /-- INJECT_GO (R439). -/
  | injectGo (m : Master) (v : Word)
  /-- ALMANAC_RECORD_WRITE (R444). -/
  | almanacRecordWrite (p : Fin 3)
  /-- FW_WRITE (R441). -/
  | fwWrite (m : Master) (v : Word)
  /-- WINDOW3_READ (R445). -/
  | window3Read (m : Master) (p : Fin 3) (bad : Bool)
  /-- CURSOR_WRITE (R445). -/
  | cursorWrite (m : Master) (p : Fin 3) (v : Word)
  /-- PARTITION_RELEASE (R445). -/
  | partitionRelease (m : Master) (p : Fin 3) (v : Word)
  /-- PERSIST_GO (R446). -/
  | persistGo (m : Master) (p : Fin 3) (v : Word)
  /-- PERSIST_END (R446): done, or failed with the flash address. -/
  | persistEnd (p : Fin 3) (ok : Bool) (flashAddr : BitVec 32)
  /-- MODE_TICK (R451). -/
  | modeTick
  /-- MODE_ROW_COMPLETE (R452). -/
  | modeRowComplete
  /-- MODE_ROW_TIMEOUT (R452). -/
  | modeRowTimeout
  /-- MGMT_REQUEST_WRITE (R454). -/
  | mgmtRequestWrite (m : Master) (v : Word)
  /-- SAFE_ENTRY (R456): the causing event, and whether hardware enters without a class. -/
  | safeEntry (cause : Fin 512) (hw : Bool)
  /-- SAFE_RESTART (R456). -/
  | safeRestart (m : Master) (v : Word)
  /-- SUPPLY_OUT_OF_RANGE (R457): rail 0 the 12 V, 1 the 5 V. -/
  | supplyOutOfRange (rail : Fin 2) (mv : BitVec 16)
  /-- POWER_ON_RESET (R484): by RST_L, or by the rails first rising. -/
  | powerOnReset (byRstL : Bool)
  /-- WARM_RESET (R458). -/
  | warmReset (cause : WarmCause)
  /-- STANDBY_WAKE (R455). -/
  | standbyWake (cause : WakeCause) (mediaNeeded : Bool)
  /-- STANDBY_IDLE_EXPIRY (R455). -/
  | standbyIdleExpiry
  /-- DOMAIN_REQUEST (R460). -/
  | domainRequest (m : Master) (d : Fin 52) (v : Word)
  /-- DOMAIN_TRANSITION_DONE (R460): the checker result of a domain tested at power-up (R462). -/
  | domainTransitionDone (d : Fin 52) (checkerOk : Bool)
  /-- DOMAIN_TIMEOUT (R460). -/
  | domainTimeout (d : Fin 52)
  /-- RESERVATION_REQUEST (R465). -/
  | reservationRequest (h : Holder)
  /-- RESERVATION_RELEASE (R465). -/
  | reservationRelease (h : Holder)
  /-- SLOT_RELEASE_EXPIRY (R464). -/
  | slotReleaseExpiry (a : Act)
  /-- ENVELOPE_WRITE (R465). -/
  | envelopeWrite (m : Master) (v : Word)
  /-- POWER_MEASUREMENT (R466). -/
  | powerMeasurement (mw : BitVec 16)
  /-- SENSOR_SAMPLE (R468): 1/16 °C, two's complement. -/
  | sensorSample (i : Fin 40) (t : BitVec 16)
  /-- THROTTLE_STEP_DOWN (R470). -/
  | throttleStepDown
  /-- SUBSTITUTION_HOLD_EXPIRY (R473). -/
  | substitutionHoldExpiry
  /-- THERMAL_TRIP (R472): the comparators that tripped. -/
  | thermalTrip (mask : Byte)
  /-- TRIP_RECOVERY (R472): the trip's duration in ms. -/
  | tripRecovery (ms : BitVec 32)
  /-- COMPENSATION_UPDATE (R474): OTP check of the three coefficient sets. -/
  | compensationUpdate (otpOk : BitVec 3)
  /-- CC_EN_SET (R278). -/
  | ccEnSet
  /-- PCIE_LINK_TRAINED (R299): speed 1-5 for 2.5 to 32 GT/s, and lanes. -/
  | pcieLinkTrained (speed : BitVec 3) (width : BitVec 2)
  /-- PARK_HOLD_EXPIRY (R97). -/
  | parkHoldExpiry (a : Act)
  /-- DEBUG_PORT_ACTIVE (R462). -/
  | debugPortActive (port : DebugPort)
  /-- HS_FLT_L_RELEASE (R137). -/
  | hsFltLRelease (a : Act)
  /-- MCTP_CONTROL_MESSAGE (R399). -/
  | mctpControlMessage (msg : MctpMsg)
deriving DecidableEq, Repr

end Sys2Proof
end

