-- ==== Sys2Proof/Config.lean ====
section
/-! DEFINITION. What the spec leaves open, as constants with no body: nothing can be proved about a value of one
except that equal arguments give equal values. -/

namespace Sys2Proof

/-- The n-th free value drawn (log 4): a value the spec says is undefined, unstated or fixed by material it does not
print. -/
opaque Config.freeValue : Nat → Word

/-- Where an exact quotient is no integer and the spec gives no rounding, whether it is rounded up (log 5). -/
opaque Config.roundUp (num : Int) (den : Nat) : Bool

/-- The reason field of a write result where write_ok fell for a cause that spec/09 R212 lists no
reason for it (log 6). -/
opaque Config.unlistedReason : Nat

/-- A byte of the module flash that nothing has written since manufacture, by its offset: first-stage loaders, images, patch and customer
stores, calibration tables (spec/01 R19; log 59). -/
opaque Config.flashByte : Nat → Byte

/-- Bytes of DRAM that the boot fill covers in a microsecond beyond the 32,000 it never stays below (spec/14 R327: no less than 32 GB/s,
typically 34; log 41). -/
opaque Config.fillSurplus : Nat

/-- Where atan2(n, q) / π is no whole number in Q16, whether it is rounded up (spec/04 R80 gives no rounding; log 5). -/
opaque Config.atanUp : Int → Int → Bool

/-- Where x is no square, whether √x is rounded up (spec/04 R84 gives no rounding; log 5). -/
opaque Config.rootUp : Nat → Bool

/-- The motor engine's estimator (spec/03 R55 names its inputs and prints no arithmetic; log 7). From the last flux magnitude in
µWb, flux angle, torque in µN·m and observer speed in 0.01 rpm; the phase currents in mA; the voltage vector applied last, its
duty per mille and the supply in mV; and Rs, Ls, ke and the pole pairs: the new magnitude, angle, torque and speed. -/
opaque Config.estimate : List Int → Nat × Nat × Int × Int

/-- Phase currents in mA predicted by the motor model from the same inputs (spec/03 R57; log 7). -/
opaque Config.predictCurrents : List Int → Int × Int × Int

/-- i_q in mA of three phase currents at a flux angle (spec/03 R70; the transform is not printed; log 7). -/
opaque Config.qCurrent : Int → Int → Int → Nat → Int

/-- Interpolation of the highest IPD peak with its two neighbours: the angle from the vector with the highest peak, in counts
(spec/03 R63 names it and prints no formula; log 7). -/
opaque Config.ipdShift : Nat → Nat → Nat → Int

/-- The interpolated sample of a channel bit (spec/07 R158, R161: the interpolator, the timing loop's detector and the offset loop's digital
remainder are not printed; log 12). From the channel and ADC rates in kb/s and kS/s, the start of the frequency in parts per 10⁹, the
timing loop's gains and range, the offset in 1/64 ADC step; the ADC samples of a reader after asymmetry correction; and the bit. -/
opaque Config.interpolated : List Int → List Int → Nat → Int

/-- A tentative decision of the look-ahead slicer (spec/07 R160; its arithmetic is not printed; log 12): from the equalisation target and
the equalised samples up to eight bits on, newest first, whether the bit is 1. -/
opaque Config.slice : List Int → List Int → Bool

/-- The log-likelihood ratio of a codeword bit as the 16-state max-log-MAP detector finds it (spec/08 R179; its metrics and scaling are not
printed; log 12): from the target, the equalised samples by bit time, the bit times of the codeword's bits, the prior LLRs of them, and
the bit. -/
opaque Config.detect : List Int → List Int → List Nat → List Int → Nat → Int

/-- Parity bit i of a code rate over the scrambled information bits, and the bits that each parity check of it adds up: the matrices of
CT-4 are in the module ROM and are not printed (spec/08 R176; log 12). -/
opaque Config.ldpcParity : Nat → List Bool → Nat → Bool
opaque Config.parityChecks : Nat → List (List Nat)

/-- Posterior LLRs of an LDPC decoder, positive for a 0 (spec/08 R180, R189: normalised or offset min-sum with constants that are not
printed; log 12): from the schedule (0 layered, 1 reversed with offset, 2 flooding, 3 the line decoder's), the code rate, the channel LLRs
of each round so far, and the iterations run in the last round. -/
opaque Config.posterior : Nat → Nat → List (List Int) → Nat → List Int

/-- Running torque in µN·m of the motor model at a measured speed in 0.01 rpm (spec/03 R64; log 7). -/
opaque Config.runningTorque : Int → Nat

/-- Heads that the drive uses on an actuator (spec/06 R136; a property of the drive, log 8). -/
opaque Config.headsUsed : Nat → Nat

/-- SHA-384 of bytes, a published algorithm the spec names and does not print (spec/18; log 9). -/
opaque Config.sha384 : List Byte → List Byte

/-- A signature over bytes by a private key known by number (spec/18 R409; log 9). -/
opaque Config.signature : Nat → List Byte → List Byte

/-- The public key of a key pair (spec/18 R409; log 9). -/
opaque Config.publicKey : Nat → List Byte

/-- The alias key pair by first-stage hash and version, image hash, version and slot (spec/18 R409; log 9). -/
opaque Config.aliasKey : List Byte → Nat → List Byte → Nat → Nat → Nat

/-- AES-256-XTS under a range's key: encrypt, key, tweak, bytes (spec/01 R22; log 9). -/
opaque Config.xts : Bool → Nat → Nat → List Byte → List Byte

/-- What the TCG methods of a Security Send payload make of the extent and LockOnReset of a locking range: the methods'
encoding is TCG's and is not printed (spec/18 R421, R422; log 21). -/
opaque Config.tcgRange : List Byte → Nat → Nat × Nat × Bool → Nat × Nat × Bool

/-- What they make of opal_state (spec/18 R421; log 21). -/
opaque Config.tcgState : List Byte → Nat → Nat

/-- The TCG response to a payload (spec/18 R421; log 21). -/
opaque Config.tcgAnswer : List Byte → List Byte

/-- Certificates by number: 0 the chain of certificate slot 0, in DER (spec/18 R418; log 9). -/
opaque Config.certificate : Nat → List Byte

/-- Parity shards of the erasure code of k and m over the shards of ranges 0 to k - 1: spec/16 R373 names the field and not
the code's generator (log 43). -/
opaque Config.erasure : Nat → Nat → List (List Byte) → List (List Byte)

/-- Coefficient k of a compensation set: 0 crystal correction in ppb, 1 reference trim, 2 ADC trims (spec/20 R474: fused and not printed;
log 44). -/
opaque Config.compCoeff (set k : Nat) : BitVec 32
/-- Its scale: the coefficient counts in units of 2 ^ -shift (spec/20 R474 names a fused scale and not its form; log 44). -/
opaque Config.compShift (set k : Nat) : Nat

end Sys2Proof
end

