-- ==== Sys2Proof/Machine/Objects.lean ====
section
/-! DEFINITION. The object dictionary as data: every object the spec's tables give (spec/01 R28 to spec/21 R493), with
its type, access code, apply class, write-rank mask, default and the values a write may carry; where each unit's
objects lie (the windows of R101, R148, R170, R198, R216, R241, R358, R378); which objects belong to an absent unit
(R5); the names of the objects' keys; and the default reaction class of every event source. -/

namespace Sys2Proof.Machine

/-- Types of spec/17 R381. -/
inductive ObjTy where
  | u8 | u16 | u32 | u64 | i16 | i32 | bool | enum | bits32 | str | blob
deriving DecidableEq, Repr

/-- Access codes of spec/17 R382. -/
inductive Acc where
  | ro | rw | wo | w1c | w1s
deriving DecidableEq, Repr

/-- The boundaries an EDGE object names in its Apply column (spec/17 R390). -/
inductive Boundary where
  | wedge | revolution | sector | command | cycle | run | queueCreation | mgmtReset
deriving DecidableEq, Repr

/-- Whose running makes a write to a HALT object "block active"; each chapter's object rule says when it runs. -/
inductive Owner where
  | sundial | spindle | act | link | slot | slotPair | allSlots | trellis | zones | hostLink | orderedQueue | sheaf
  | cache | hoe | queue | sieve
deriving DecidableEq, Repr

/-- Apply classes of spec/17 R390. -/
inductive Apply where
  | none | live | edge (b : Boundary) | staged | halt (o : Owner)
deriving DecidableEq, Repr

/-- The values a write to an object may carry, as its table row states them: any value of its type, 0 or 1, listed
encodings, 0 or a range (`enum0`), a range, the bits that are not reserved, or multiples of an alignment. -/
inductive Chk where
  | any | bool | enum (l : List Nat) | enum0 (lo hi : Nat) | range (lo : Int) (hi : Int) | bits (m : Nat) | align (n : Nat)
deriving DecidableEq, Repr

/-- One row of the spec's object tables: indexes ilo-ihi and subindexes slo-shi of the first instance of the unit. -/
structure ObjRow where
  ilo : Nat
  ihi : Nat
  slo : Nat
  shi : Nat
  ty : ObjTy
  acc : Acc
  apply : Apply
  mask : Nat
  dflt : Nat
  chk : Chk
deriving DecidableEq, Repr

/-- An object's key: index × 256 + subindex, as in spec/17 R386 and R389. -/
abbrev Key := Nat

/-- Rows of spec/01 R28, spec/17 R401, spec/21 R493. -/
def objRows1a : List ObjRow := [
  ⟨0x1020, 0x1020, 1, 1, .enum, .ro, .none, 0xFFFF, 0, .any⟩,
  ⟨0x1020, 0x1020, 2, 2, .bits32, .ro, .none, 0xFFFF, 0, .any⟩,
  ⟨0x1020, 0x1020, 3, 3, .bits32, .ro, .none, 0xFFFF, 0, .any⟩,
  ⟨0x1020, 0x1020, 4, 4, .bits32, .ro, .none, 0xFFFF, 0, .any⟩,
  ⟨0x1020, 0x1020, 5, 5, .bool, .ro, .none, 0xFFFF, 0, .any⟩,
  ⟨0x1020, 0x1020, 6, 6, .bits32, .ro, .none, 0xFFFF, 0, .any⟩,
  ⟨0x1020, 0x1020, 7, 7, .bits32, .ro, .none, 0xFFFF, 0, .any⟩,
  ⟨0x1000, 0x1000, 1, 1, .u16, .ro, .none, 0xFFFF, 21056, .any⟩,
  ⟨0x1000, 0x1000, 2, 2, .u8, .ro, .none, 0xFFFF, 0, .any⟩,
  ⟨0x1000, 0x1000, 3, 3, .str, .ro, .none, 0xFFFF, 0, .any⟩,
  ⟨0x1000, 0x1000, 4, 4, .blob, .ro, .none, 0xFFFF, 0, .any⟩,
  ⟨0x1000, 0x1000, 5, 5, .u32, .ro, .none, 0xFFFF, 0, .any⟩,
  ⟨0x1000, 0x1000, 6, 6, .u32, .ro, .none, 0xFFFF, 0, .any⟩,
  ⟨0x1000, 0x1000, 7, 7, .enum, .ro, .none, 0xFFFF, 0, .any⟩,
  ⟨0x1000, 0x1000, 8, 8, .u16, .ro, .none, 0xFFFF, 1, .any⟩,
  ⟨0x1000, 0x1000, 9, 9, .bool, .ro, .none, 0xFFFF, 0, .any⟩,
  ⟨0x1010, 0x1010, 1, 1, .enum, .rw, (.edge .mgmtReset), 0xFFFD, 0, (.enum [0, 1])⟩,
  ⟨0x1010, 0x1010, 2, 2, .u8, .rw, (.edge .mgmtReset), 0xFFFD, 29, (.range 8 119)⟩,
  ⟨0x1010, 0x1010, 3, 3, .u8, .rw, (.edge .mgmtReset), 0xFFFD, 29, (.range 8 119)⟩,
  ⟨0x1010, 0x1010, 4, 4, .u8, .rw, (.edge .mgmtReset), 0xFFFD, 0, (.enum0 8 254)⟩,
  ⟨0x1010, 0x1010, 5, 5, .enum, .ro, .none, 0xFFFF, 0, .any⟩,
  ⟨0x1010, 0x1010, 6, 6, .bool, .w1s, .live, 0xFFFD, 0, .bool⟩,
  ⟨0x1040, 0x1040, 1, 16, .u64, .rw, .live, 0x1FFFF, 0, .any⟩,
  ⟨0x1050, 0x1050, 1, 17, .u32, .ro, .none, 0xFFFF, 0, .any⟩,
  ⟨0x1051, 0x1051, 1, 17, .u32, .ro, .none, 0xFFFF, 0, .any⟩,
  ⟨0x1052, 0x1052, 1, 17, .u32, .ro, .none, 0xFFFF, 0, .any⟩,
  ⟨0x1050, 0x1050, 31, 31, .bool, .w1s, .live, 0xFFFF, 0, .bool⟩,
  ⟨0x1060, 0x1060, 1, 1, .u64, .rw, .live, 0xFFFF, 0, (.align 8)⟩,
  ⟨0x1060, 0x1060, 2, 2, .u64, .rw, .live, 0xFFFF, 0, (.align 8)⟩,
  ⟨0x1060, 0x1060, 3, 3, .u16, .rw, .live, 0xFFFF, 4096, (.range 8 4096)⟩,
  ⟨0x1060, 0x1060, 4, 4, .bool, .w1s, .live, 0xFFFF, 0, .bool⟩,
  ⟨0x1060, 0x1060, 5, 5, .enum, .ro, .none, 0xFFFF, 0, .any⟩,
  ⟨0x1070, 0x1070, 1, 1, .bits32, .rw, .live, 0xFFFC, 0, (.bits 0xFFFFFFFF)⟩,
  ⟨0x1070, 0x1070, 2, 2, .bits32, .rw, .live, 0xFFFC, 0, (.bits 0xFFFFFFFF)⟩,
  ⟨0x1070, 0x1070, 3, 3, .bits32, .rw, .live, 0xFFFC, 0, (.bits 0xFFFFFFFF)⟩,
  ⟨0x1070, 0x1070, 4, 4, .bits32, .ro, .none, 0xFFFF, 0, .any⟩]

/-- Rows of spec/02 R52. -/
def objRows2a : List ObjRow := [
  ⟨0x2800, 0x2800, 1, 1, .enum, .ro, .none, 0xFFFF, 0, .any⟩,
  ⟨0x2800, 0x2800, 2, 2, .bool, .ro, .none, 0xFFFF, 0, .any⟩,
  ⟨0x2800, 0x2800, 3, 3, .enum, .ro, .none, 0xFFFF, 0, .any⟩,
  ⟨0x2800, 0x2800, 4, 4, .bits32, .ro, .none, 0xFFFF, 0, .any⟩,
  ⟨0x2800, 0x2800, 5, 5, .i32, .ro, .none, 0xFFFF, 0, .any⟩,
  ⟨0x2800, 0x2800, 6, 6, .u32, .ro, .none, 0xFFFF, 0, .any⟩,
  ⟨0x2801, 0x2801, 1, 1, .u64, .ro, .none, 0xFFFF, 0, .any⟩,
  ⟨0x2801, 0x2801, 2, 2, .u64, .ro, .none, 0xFFFF, 0, .any⟩,
  ⟨0x2801, 0x2801, 3, 3, .bool, .w1s, .live, 0xFFFF, 0, .bool⟩,
  ⟨0x2801, 0x2801, 4, 4, .u64, .ro, .none, 0xFFFF, 0, .any⟩,
  ⟨0x2801, 0x2801, 5, 5, .u64, .ro, .none, 0xFFFF, 0, .any⟩,
  ⟨0x2802, 0x2802, 1, 1, .u16, .rw, (.halt .sundial), 0xFFFF, 512, (.range 1 512)⟩,
  ⟨0x2802, 0x2802, 2, 2, .u32, .rw, .live, 0xFFFF, 1024, (.range 16 16384)⟩,
  ⟨0x2802, 0x2802, 3, 3, .u8, .rw, (.edge .wedge), 0xFFFF, 16, (.range 4 64)⟩,
  ⟨0x2802, 0x2802, 4, 4, .u16, .rw, (.edge .wedge), 0xFFFF, 1000, (.range 250 2000)⟩,
  ⟨0x2802, 0x2802, 5, 5, .u8, .rw, (.edge .wedge), 0xFFFF, 2, (.range 1 8)⟩,
  ⟨0x2802, 0x2802, 6, 6, .u32, .rw, (.edge .wedge), 0xFFFF, 1024, .any⟩,
  ⟨0x2802, 0x2802, 7, 7, .bool, .rw, .live, 0xFFFF, 1, .bool⟩,
  ⟨0x2802, 0x2802, 8, 8, .u16, .rw, (.edge .wedge), 0xFFFF, 2000, (.range 250 2000)⟩,
  ⟨0x2803, 0x2803, 1, 1, .u8, .rw, (.halt .sundial), 0xFFFF, 6, (.range 1 16)⟩,
  ⟨0x2803, 0x2803, 2, 2, .bool, .rw, .live, 0xFFFF, 1, .bool⟩,
  ⟨0x2803, 0x2803, 3, 3, .u32, .rw, .live, 0xFFFF, 100000, .any⟩,
  ⟨0x2804, 0x2804, 1, 1, .bool, .rw, (.edge .revolution), 0xFFFF, 0, .bool⟩,
  ⟨0x2804, 0x2804, 2, 2, .u8, .rw, (.edge .revolution), 0xFFFF, 1, (.range 1 64)⟩,
  ⟨0x2804, 0x2804, 3, 3, .u32, .rw, (.edge .revolution), 0xFFFF, 0, (.range 0 16777215)⟩,
  ⟨0x2804, 0x2804, 4, 4, .enum, .ro, .none, 0xFFFF, 0, .any⟩,
  ⟨0x2804, 0x2804, 5, 5, .i32, .ro, .none, 0xFFFF, 0, .any⟩,
  ⟨0x2804, 0x2804, 6, 6, .i16, .ro, .none, 0xFFFF, 0, .any⟩,
  ⟨0x2804, 0x2804, 7, 7, .enum, .rw, (.edge .revolution), 0xFFFF, 0, (.enum [0, 1])⟩,
  ⟨0x2805, 0x2805, 1, 1, .u32, .ro, .none, 0xFFFF, 0, .any⟩,
  ⟨0x2805, 0x2805, 2, 2, .u32, .ro, .none, 0xFFFF, 0, .any⟩,
  ⟨0x2805, 0x2805, 3, 3, .u32, .ro, .none, 0xFFFF, 0, .any⟩,
  ⟨0x2805, 0x2805, 4, 4, .u32, .ro, .none, 0xFFFF, 0, .any⟩,
  ⟨0x2805, 0x2805, 5, 5, .u32, .ro, .none, 0xFFFF, 0, .any⟩,
  ⟨0x2805, 0x2805, 6, 6, .u32, .ro, .none, 0xFFFF, 0, .any⟩,
  ⟨0x2805, 0x2805, 7, 7, .u32, .ro, .none, 0xFFFF, 0, .any⟩,
  ⟨0x2805, 0x2805, 15, 15, .bool, .w1s, .live, 0xFFFF, 0, .bool⟩,
  ⟨0x2810, 0x2810, 1, 12, .i32, .rw, (.edge .wedge), 0xFFFF, 0, .any⟩,
  ⟨0x2811, 0x2811, 1, 12, .i32, .rw, (.edge .wedge), 0xFFFF, 0, .any⟩,
  ⟨0x2840, 0x287F, 1, 4, .u64, .rw, .live, 0xFFFF, 1125899906842624, .any⟩]

/-- Rows of spec/02 R52, spec/03 R76. -/
def objRows2b : List ObjRow := [
  ⟨0x2880, 0x2880, 1, 8, .bits32, .w1c, .live, 0xFFFF, 0, (.bits 0xFFFFFFFF)⟩,
  ⟨0x2881, 0x2881, 1, 8, .bits32, .w1c, .live, 0xFFFF, 0, (.bits 0xFFFFFFFF)⟩,
  ⟨0x2000, 0x2000, 1, 1, .bool, .rw, .live, 0xFFFF, 0, .bool⟩,
  ⟨0x2000, 0x2000, 2, 2, .u16, .rw, (.edge .revolution), 0xFFFF, 7200, (.range 5400 7200)⟩,
  ⟨0x2000, 0x2000, 3, 3, .enum, .ro, .none, 0xFFFF, 0, .any⟩,
  ⟨0x2000, 0x2000, 4, 4, .i32, .ro, .none, 0xFFFF, 0, .any⟩,
  ⟨0x2000, 0x2000, 5, 5, .bool, .ro, .none, 0xFFFF, 0, .any⟩,
  ⟨0x2000, 0x2000, 6, 6, .bool, .ro, .none, 0xFFFF, 0, .any⟩,
  ⟨0x2000, 0x2000, 7, 7, .bool, .ro, .none, 0xFFFF, 0, .any⟩,
  ⟨0x2000, 0x2000, 8, 8, .enum, .ro, .none, 0xFFFF, 0, .any⟩,
  ⟨0x2000, 0x2000, 9, 9, .i32, .ro, .none, 0xFFFF, 0, .any⟩,
  ⟨0x2000, 0x2000, 10, 10, .u16, .ro, .none, 0xFFFF, 0, .any⟩,
  ⟨0x2000, 0x2000, 11, 11, .u16, .ro, .none, 0xFFFF, 0, .any⟩,
  ⟨0x2000, 0x2000, 12, 12, .enum, .ro, .none, 0xFFFF, 0, .any⟩,
  ⟨0x2010, 0x2010, 1, 1, .u32, .rw, (.edge .cycle), 0xFFFF, 400, (.range 50 5000)⟩,
  ⟨0x2010, 0x2010, 2, 2, .u16, .rw, (.edge .cycle), 0xFFFF, 20, (.range 5 100)⟩,
  ⟨0x2010, 0x2010, 3, 3, .u32, .rw, (.edge .cycle), 0xFFFF, 0, .any⟩,
  ⟨0x2010, 0x2010, 4, 4, .u16, .rw, .live, 0xFFFF, 930, (.range 500 930)⟩,
  ⟨0x2010, 0x2010, 5, 5, .u16, .rw, .live, 0xFFFF, 2000, (.range 500 6000)⟩,
  ⟨0x2011, 0x2011, 1, 1, .u32, .rw, (.edge .cycle), 0xFFFF, 8192, .any⟩,
  ⟨0x2011, 0x2011, 2, 2, .u32, .rw, (.edge .cycle), 0xFFFF, 1024, .any⟩,
  ⟨0x2011, 0x2011, 3, 3, .u16, .rw, .live, 0xFFFF, 500, (.range 50 2000)⟩,
  ⟨0x2011, 0x2011, 4, 4, .u32, .rw, .live, 0xFFFF, 30000, .any⟩,
  ⟨0x2020, 0x2020, 1, 1, .u16, .rw, (.halt .spindle), 0xFFFF, 0, .any⟩,
  ⟨0x2020, 0x2020, 2, 2, .u16, .rw, (.halt .spindle), 0xFFFF, 0, .any⟩,
  ⟨0x2020, 0x2020, 3, 3, .u16, .rw, (.halt .spindle), 0xFFFF, 0, .any⟩,
  ⟨0x2021, 0x2021, 1, 1, .u8, .rw, (.halt .spindle), 0xFFFF, 20, (.range 5 20)⟩,
  ⟨0x2021, 0x2021, 2, 2, .u16, .ro, .none, 0xFFFF, 30, .any⟩,
  ⟨0x2021, 0x2021, 3, 3, .u16, .rw, (.halt .spindle), 0xFFFF, 25, (.range 5 200)⟩,
  ⟨0x2021, 0x2021, 4, 4, .u16, .rw, (.halt .spindle), 0xFFFF, 20, (.range 5 200)⟩,
  ⟨0x2021, 0x2021, 5, 5, .u16, .rw, (.halt .spindle), 0xFFFF, 3000, (.range 500 6000)⟩,
  ⟨0x2021, 0x2021, 6, 6, .u16, .rw, (.halt .spindle), 0xFFFF, 1200, (.range 200 4000)⟩,
  ⟨0x2021, 0x2021, 7, 7, .u16, .rw, (.halt .spindle), 0xFFFF, 200, (.range 20 1000)⟩,
  ⟨0x2021, 0x2021, 8, 8, .u16, .rw, (.halt .spindle), 0xFFFF, 300, (.range 150 1000)⟩,
  ⟨0x2021, 0x2021, 9, 9, .u16, .rw, (.halt .spindle), 0xFFFF, 600, (.range 250 2000)⟩,
  ⟨0x2021, 0x2021, 10, 10, .u16, .rw, .live, 0xFFFF, 2000, (.range 200 6000)⟩,
  ⟨0x2021, 0x2021, 11, 11, .u8, .ro, .none, 0xFFFF, 20, .any⟩,
  ⟨0x2021, 0x2021, 12, 12, .u8, .rw, .live, 0xFFFF, 100, (.range 10 200)⟩,
  ⟨0x2021, 0x2021, 13, 13, .u16, .rw, .live, 0xFFFF, 1, (.range 0 1000)⟩,
  ⟨0x2022, 0x2022, 1, 1, .u8, .rw, .live, 0xFFFF, 95, (.range 90 99)⟩]

/-- Rows of spec/03 R76. -/
def objRows2c : List ObjRow := [
  ⟨0x2022, 0x2022, 2, 2, .u8, .rw, .live, 0xFFFF, 85, (.range 70 89)⟩,
  ⟨0x2022, 0x2022, 3, 3, .u16, .rw, .live, 0xFFFF, 1000, (.range 100 10000)⟩,
  ⟨0x2030, 0x2030, 1, 1, .u8, .rw, .live, 0xFFFF, 25, (.range 10 25)⟩,
  ⟨0x2030, 0x2030, 2, 2, .u8, .rw, .live, 0xFFFF, 30, (.range 10 30)⟩,
  ⟨0x2030, 0x2030, 3, 3, .u8, .rw, .live, 0xFFFF, 5, (.range 2 5)⟩,
  ⟨0x2030, 0x2030, 4, 4, .u8, .rw, .live, 0xFFFF, 10, (.range 2 20)⟩,
  ⟨0x2030, 0x2030, 5, 5, .u16, .rw, .live, 0xFFFF, 100, (.range 20 10000)⟩,
  ⟨0x2030, 0x2030, 6, 6, .u32, .ro, .none, 0xFFFF, 0, .any⟩,
  ⟨0x2040, 0x2040, 1, 1, .u16, .rw, (.halt .spindle), 0xFFFF, 11000, (.range 9000 11500)⟩,
  ⟨0x2040, 0x2040, 2, 2, .u16, .rw, (.halt .spindle), 0xFFFF, 1500, (.range 500 2700)⟩,
  ⟨0x2040, 0x2040, 3, 3, .bool, .rw, .live, 0xFFFF, 1, .bool⟩,
  ⟨0x2040, 0x2040, 4, 4, .u16, .ro, .none, 0xFFFF, 0, .any⟩,
  ⟨0x2060, 0x2060, 1, 1, .u32, .ro, .none, 0xFFFF, 0, .any⟩,
  ⟨0x2060, 0x2060, 2, 2, .u32, .ro, .none, 0xFFFF, 0, .any⟩,
  ⟨0x2060, 0x2060, 3, 3, .u32, .ro, .none, 0xFFFF, 0, .any⟩,
  ⟨0x2060, 0x2060, 4, 4, .u32, .ro, .none, 0xFFFF, 0, .any⟩,
  ⟨0x2060, 0x2060, 5, 5, .u32, .ro, .none, 0xFFFF, 0, .any⟩,
  ⟨0x2060, 0x2060, 6, 6, .u32, .ro, .none, 0xFFFF, 0, .any⟩,
  ⟨0x2060, 0x2060, 7, 7, .u32, .ro, .none, 0xFFFF, 0, .any⟩,
  ⟨0x2060, 0x2060, 8, 8, .u32, .ro, .none, 0xFFFF, 0, .any⟩,
  ⟨0x2060, 0x2060, 15, 15, .bool, .w1s, .live, 0xFFFF, 0, .bool⟩]

/-- Rows of spec/04 R101. -/
def objRows3a : List ObjRow := [
  ⟨0x3000, 0x3000, 1, 1, .enum, .ro, .none, 0xFFFF, 0, .any⟩,
  ⟨0x3000, 0x3000, 2, 2, .bool, .w1s, .live, 0xFFFF, 0, .bool⟩,
  ⟨0x3000, 0x3000, 3, 3, .bool, .w1s, .live, 0xFFFF, 0, .bool⟩,
  ⟨0x3000, 0x3000, 4, 4, .bits32, .ro, .none, 0xFFFF, 0, .any⟩,
  ⟨0x3000, 0x3000, 5, 5, .bool, .rw, .live, 0xFFFF, 0, .bool⟩,
  ⟨0x3000, 0x3000, 6, 6, .bits32, .ro, .none, 0xFFFF, 0, .any⟩,
  ⟨0x3000, 0x3000, 7, 7, .bits32, .ro, .none, 0xFFFF, 0, .any⟩,
  ⟨0x3000, 0x3000, 8, 8, .bits32, .ro, .none, 0xFFFF, 0, .any⟩,
  ⟨0x3000, 0x3000, 9, 9, .bool, .w1c, .live, 0xFFFF, 0, .bool⟩,
  ⟨0x3000, 0x3000, 10, 10, .i32, .ro, .none, 0xFFFF, 0, .any⟩,
  ⟨0x3000, 0x3000, 11, 11, .i32, .ro, .none, 0xFFFF, 0, .any⟩,
  ⟨0x3100, 0x3100, 1, 1, .u16, .rw, (.halt .act), 0xFFFF, 20000, (.range 5000 40000)⟩,
  ⟨0x3100, 0x3100, 2, 2, .u16, .rw, (.halt .act), 0xFFFF, 299, (.bits 0xFFF)⟩,
  ⟨0x3100, 0x3100, 3, 3, .u8, .rw, (.edge .wedge), 0xFFFF, 16, (.range 4 64)⟩,
  ⟨0x3100, 0x3100, 4, 4, .u16, .rw, (.edge .wedge), 0xFFFF, 250, (.range 50 800)⟩,
  ⟨0x3100, 0x3100, 5, 5, .u16, .rw, (.edge .wedge), 0xFFFF, 12, (.range 4 1024)⟩,
  ⟨0x3100, 0x3100, 6, 6, .bool, .rw, (.edge .wedge), 0xFFFF, 1, .bool⟩,
  ⟨0x3100, 0x3100, 7, 7, .u16, .rw, (.edge .wedge), 0xFFFF, 2000, (.range 800 6000)⟩,
  ⟨0x3100, 0x3100, 8, 8, .u8, .rw, .live, 0xFFFF, 3, (.range 1 16)⟩,
  ⟨0x3100, 0x3100, 9, 9, .u8, .rw, .live, 0xFFFF, 4, (.range 1 16)⟩,
  ⟨0x3100, 0x3100, 10, 10, .enum, .rw, (.halt .act), 0xFFFF, 0, (.enum [0, 1])⟩,
  ⟨0x3101, 0x3101, 1, 1, .u32, .rw, (.edge .wedge), 0xFFFF, 52429, (.range 32768 65536)⟩,
  ⟨0x3101, 0x3101, 2, 2, .u16, .rw, .live, 0xFFFF, 120, (.range 40 250)⟩,
  ⟨0x3101, 0x3101, 3, 3, .u16, .rw, .live, 0xFFFF, 80, (.range 20 250)⟩,
  ⟨0x3101, 0x3101, 4, 4, .u8, .rw, .live, 0xFFFF, 4, (.range 1 16)⟩,
  ⟨0x3101, 0x3101, 5, 5, .u16, .rw, .live, 0xFFFF, 150, (.range 40 400)⟩,
  ⟨0x3101, 0x3101, 6, 6, .u8, .rw, .live, 0xFFFF, 2, (.range 1 16)⟩,
  ⟨0x3101, 0x3101, 7, 7, .u32, .rw, .live, 0xFFFF, 50000, (.range 1000 500000)⟩,
  ⟨0x3101, 0x3101, 8, 8, .u32, .rw, .live, 0xFFFF, 131072, .any⟩,
  ⟨0x3102, 0x3102, 1, 1, .bool, .rw, .live, 0xFFFF, 1, .bool⟩,
  ⟨0x3102, 0x3102, 2, 2, .u16, .rw, .live, 0xFFFF, 2000, (.range 200 16000)⟩,
  ⟨0x3102, 0x3102, 3, 3, .u16, .rw, .live, 0xFFFF, 400, (.range 20 4000)⟩,
  ⟨0x3102, 0x3102, 4, 4, .u16, .rw, .live, 0xFFFF, 500, (.range 50 10000)⟩,
  ⟨0x3200, 0x3200, 1, 12, .u16, .rw, (.edge .wedge), 0xFFFF, 50, .any⟩,
  ⟨0x3201, 0x3201, 1, 12, .i16, .ro, .none, 0xFFFF, 0, .any⟩,
  ⟨0x3202, 0x3202, 1, 1, .u16, .rw, .live, 0xFFFF, 30000, (.range 5000 30000)⟩,
  ⟨0x3202, 0x3202, 2, 2, .u8, .rw, .live, 0xFFFF, 5, (.range 1 5)⟩,
  ⟨0x3202, 0x3202, 3, 3, .u8, .rw, .live, 0xFFFF, 8, .any⟩,
  ⟨0x3204, 0x3204, 1, 1, .i32, .ro, .none, 0xFFFF, 0, .any⟩,
  ⟨0x3204, 0x3204, 2, 2, .i32, .ro, .none, 0xFFFF, 0, .any⟩]

/-- Rows of spec/04 R101. -/
def objRows3b : List ObjRow := [
  ⟨0x3204, 0x3204, 3, 3, .u16, .rw, .live, 0xFFFF, 2000, (.range 200 2000)⟩,
  ⟨0x3204, 0x3204, 4, 4, .u16, .rw, (.halt .act), 0xFFFF, 0, .any⟩,
  ⟨0x3204, 0x3204, 5, 5, .u16, .rw, (.halt .act), 0xFFFF, 0, .any⟩,
  ⟨0x3204, 0x3204, 6, 6, .i16, .ro, .none, 0xFFFF, 0, .any⟩,
  ⟨0x3204, 0x3204, 7, 7, .u8, .rw, .live, 0xFFFF, 8, .any⟩,
  ⟨0x3300, 0x3300, 1, 1, .bool, .rw, .live, 0xFFFF, 0, .bool⟩,
  ⟨0x3300, 0x3300, 2, 2, .i32, .rw, .staged, 0xFFFF, 0, .any⟩,
  ⟨0x3300, 0x3300, 3, 3, .bool, .rw, .live, 0xFFFF, 0, .bool⟩,
  ⟨0x3300, 0x3300, 4, 4, .i32, .rw, .staged, 0xFFFF, 0, .any⟩,
  ⟨0x3300, 0x3300, 5, 5, .i32, .ro, .none, 0xFFFF, 0, .any⟩,
  ⟨0x3300, 0x3300, 6, 6, .i32, .ro, .none, 0xFFFF, 0, .any⟩,
  ⟨0x3301, 0x3301, 1, 10, .i32, .rw, .staged, 0xFFFF, 0, .any⟩,
  ⟨0x3302, 0x3302, 1, 10, .i32, .rw, .staged, 0xFFFF, 0, .any⟩,
  ⟨0x3400, 0x3400, 1, 1, .u16, .rw, .live, 0xFFFF, 150, (.range 20 600)⟩,
  ⟨0x3400, 0x3400, 2, 2, .u16, .rw, .live, 0xFFFF, 30, (.range 5 200)⟩,
  ⟨0x3400, 0x3400, 3, 3, .u16, .rw, .live, 0xFFFF, 50, (.range 10 500)⟩,
  ⟨0x3400, 0x3400, 4, 4, .u16, .rw, .live, 0xFFFF, 150, (.range 20 600)⟩,
  ⟨0x3400, 0x3400, 5, 5, .u16, .rw, .live, 0xFFFF, 40, (.range 5 200)⟩,
  ⟨0x3400, 0x3400, 6, 6, .u16, .rw, .live, 0xFFFF, 250, (.range 50 600)⟩,
  ⟨0x3400, 0x3400, 7, 7, .u16, .rw, .live, 0xFFFF, 400, (.range 100 1000)⟩,
  ⟨0x3400, 0x3400, 8, 8, .u16, .rw, .live, 0xFFFF, 40, (.range 10 40)⟩,
  ⟨0x3400, 0x3400, 9, 9, .u16, .rw, .live, 0xFFFF, 100, (.range 0 400)⟩,
  ⟨0x3400, 0x3400, 10, 10, .u8, .rw, .live, 0xFFFF, 10, (.range 0 10)⟩,
  ⟨0x3400, 0x3400, 11, 11, .u16, .rw, .live, 0xFFFF, 600, (.range 100 1500)⟩,
  ⟨0x3500, 0x3500, 1, 64, .u64, .rw, (.edge .command), 0xFFFF, 0, .any⟩,
  ⟨0x3600, 0x3600, 1, 1, .u32, .ro, .none, 0xFFFF, 0, .any⟩,
  ⟨0x3600, 0x3600, 2, 2, .u32, .ro, .none, 0xFFFF, 0, .any⟩,
  ⟨0x3600, 0x3600, 3, 3, .u32, .ro, .none, 0xFFFF, 0, .any⟩,
  ⟨0x3600, 0x3600, 4, 4, .u32, .ro, .none, 0xFFFF, 0, .any⟩,
  ⟨0x3600, 0x3600, 5, 5, .u32, .ro, .none, 0xFFFF, 0, .any⟩,
  ⟨0x3600, 0x3600, 6, 6, .u32, .ro, .none, 0xFFFF, 0, .any⟩,
  ⟨0x3600, 0x3600, 7, 7, .u32, .ro, .none, 0xFFFF, 0, .any⟩,
  ⟨0x3600, 0x3600, 8, 8, .u32, .ro, .none, 0xFFFF, 0, .any⟩,
  ⟨0x3600, 0x3600, 9, 9, .u32, .ro, .none, 0xFFFF, 0, .any⟩,
  ⟨0x3600, 0x3600, 10, 10, .u32, .ro, .none, 0xFFFF, 0, .any⟩,
  ⟨0x3600, 0x3600, 11, 11, .u32, .ro, .none, 0xFFFF, 0, .any⟩,
  ⟨0x3600, 0x3600, 12, 12, .u32, .ro, .none, 0xFFFF, 0, .any⟩,
  ⟨0x3600, 0x3600, 13, 13, .u32, .ro, .none, 0xFFFF, 0, .any⟩,
  ⟨0x3600, 0x3600, 14, 14, .u32, .ro, .none, 0xFFFF, 0, .any⟩,
  ⟨0x3600, 0x3600, 15, 15, .bool, .w1s, .live, 0xFFFF, 0, .bool⟩]

/-- Rows of spec/05 R120. -/
def objRows3c : List ObjRow := [
  ⟨0x3700, 0x3700, 1, 1, .bool, .rw, .live, 0xFFFF, 1, .bool⟩,
  ⟨0x3700, 0x3700, 2, 2, .bool, .ro, .none, 0xFFFF, 0, .any⟩,
  ⟨0x3700, 0x3700, 3, 3, .u8, .ro, .none, 0xFFFF, 0, .any⟩,
  ⟨0x3700, 0x3700, 4, 4, .u32, .rw, (.halt .act), 0xFFFF, 31750, (.range 10000 100000)⟩,
  ⟨0x3700, 0x3700, 5, 5, .u16, .ro, .none, 0xFFFF, 1200, .any⟩,
  ⟨0x3700, 0x3700, 6, 6, .u16, .rw, .live, 0xFFFF, 1350, (.range 500 1500)⟩,
  ⟨0x3700, 0x3700, 7, 7, .u16, .rw, .live, 0xFFFF, 1200, (.range 300 1500)⟩,
  ⟨0x3700, 0x3700, 8, 8, .u8, .rw, .live, 0xFFFF, 8, (.range 1 64)⟩,
  ⟨0x3700, 0x3700, 9, 9, .u16, .ro, .none, 0xFFFF, 0, .any⟩,
  ⟨0x3700, 0x3700, 10, 10, .u16, .ro, .none, 0xFFFF, 0, .any⟩,
  ⟨0x3701, 0x3701, 1, 1, .u64, .rw, (.halt .act), 0xFFFF, 0, (.align 256)⟩,
  ⟨0x3701, 0x3701, 2, 2, .u32, .rw, (.halt .act), 0xFFFF, 0, (.range 1 65536)⟩,
  ⟨0x3701, 0x3701, 3, 3, .bits32, .rw, .live, 0xFFFF, 0, (.bits 0x3F)⟩,
  ⟨0x3702, 0x3702, 1, 1, .u8, .rw, .live, 0xFFFF, 0, (.range 0 5)⟩,
  ⟨0x3702, 0x3702, 2, 2, .u8, .rw, .live, 0xFFFF, 0, (.range 0 63)⟩,
  ⟨0x3702, 0x3702, 3, 3, .u8, .rw, .live, 0xFFFF, 8, (.range 1 64)⟩,
  ⟨0x3702, 0x3702, 4, 4, .bool, .w1s, .live, 0xFFFF, 0, .bool⟩,
  ⟨0x3702, 0x3702, 5, 5, .enum, .ro, .none, 0xFFFF, 0, .any⟩,
  ⟨0x3702, 0x3702, 6, 6, .enum, .ro, .none, 0xFFFF, 0, .any⟩,
  ⟨0x3703, 0x3703, 1, 1, .u32, .ro, .none, 0xFFFF, 0, .any⟩,
  ⟨0x3703, 0x3703, 2, 2, .u32, .ro, .none, 0xFFFF, 0, .any⟩,
  ⟨0x3703, 0x3703, 3, 3, .u32, .ro, .none, 0xFFFF, 0, .any⟩,
  ⟨0x3703, 0x3703, 4, 4, .u32, .ro, .none, 0xFFFF, 0, .any⟩,
  ⟨0x3703, 0x3703, 5, 5, .u32, .ro, .none, 0xFFFF, 0, .any⟩,
  ⟨0x3703, 0x3703, 15, 15, .bool, .w1s, .live, 0xFFFF, 0, .bool⟩]

/-- Rows of spec/05 R121, spec/06 R146. -/
def objRows4a : List ObjRow := [
  ⟨0x4010, 0x4010, 1, 1, .u16, .rw, .live, 0x7FFE, 800, (.range 100 4000)⟩,
  ⟨0x4010, 0x4010, 2, 2, .u16, .ro, .none, 0xFFFF, 0, .any⟩,
  ⟨0x4010, 0x4010, 3, 3, .bits32, .ro, .none, 0xFFFF, 0, .any⟩,
  ⟨0x4010, 0x4010, 4, 4, .u16, .ro, .none, 0xFFFF, 0, .any⟩,
  ⟨0x4010, 0x4010, 5, 5, .u32, .ro, .none, 0xFFFF, 0, .any⟩,
  ⟨0x4010, 0x4010, 6, 6, .u32, .ro, .none, 0xFFFF, 0, .any⟩,
  ⟨0x4010, 0x4010, 7, 7, .bool, .ro, .none, 0xFFFF, 0, .any⟩,
  ⟨0x4010, 0x4010, 15, 15, .bool, .w1s, .live, 0x7FFE, 0, .bool⟩,
  ⟨0x4000, 0x4000, 1, 1, .enum, .ro, .none, 0xFFFF, 0, .any⟩,
  ⟨0x4000, 0x4000, 2, 2, .u16, .ro, .none, 0xFFFF, 0, .any⟩,
  ⟨0x4000, 0x4000, 3, 3, .u16, .ro, .none, 0xFFFF, 0, .any⟩,
  ⟨0x4000, 0x4000, 4, 4, .enum, .rw, (.halt .link), 0xFFFF, 1, (.enum [0, 1, 2])⟩,
  ⟨0x4000, 0x4000, 5, 5, .bool, .w1s, .live, 0xFFFF, 0, .bool⟩,
  ⟨0x4000, 0x4000, 6, 6, .u16, .ro, .none, 0xFFFF, 0, .any⟩,
  ⟨0x4000, 0x4000, 7, 7, .bool, .w1c, .live, 0xFFFF, 0, .bool⟩,
  ⟨0x4000, 0x4000, 8, 8, .u16, .ro, .none, 0xFFFF, 0, .any⟩,
  ⟨0x4001, 0x4001, 1, 1, .u32, .rw, (.edge .sector), 0xFFFF, 4096, (.range 1024 65536)⟩,
  ⟨0x4001, 0x4001, 2, 2, .u32, .rw, (.edge .sector), 0xFFFF, 2048, (.range 512 65536)⟩,
  ⟨0x4001, 0x4001, 3, 3, .u16, .rw, .live, 0xFFFF, 500, (.range 100 10000)⟩,
  ⟨0x4001, 0x4001, 4, 4, .u16, .rw, .live, 0xFFFF, 1000, (.range 500 10000)⟩,
  ⟨0x4001, 0x4001, 5, 5, .u16, .rw, .live, 0xFFFF, 2000, (.range 1000 20000)⟩,
  ⟨0x4001, 0x4001, 6, 6, .u32, .rw, (.edge .command), 0xFFFF, 786432, (.range 0 4194304)⟩,
  ⟨0x4001, 0x4001, 7, 7, .u8, .rw, .live, 0xFFFF, 10, (.range 1 100)⟩,
  ⟨0x4001, 0x4001, 8, 8, .i16, .rw, .live, 0xFFFF, 90, (.range 40 150)⟩,
  ⟨0x4001, 0x4001, 9, 9, .u8, .rw, .live, 0xFFFF, 2, (.range 0 4)⟩,
  ⟨0x4001, 0x4001, 10, 10, .u8, .rw, .live, 0xFFFF, 8, (.range 2 64)⟩,
  ⟨0x4002, 0x4002, 1, 1, .u16, .rw, .live, 0xFFFF, 0, (.bits 0xFFF)⟩,
  ⟨0x4002, 0x4002, 2, 2, .u16, .rw, .live, 0xFFFF, 0, .any⟩,
  ⟨0x4002, 0x4002, 3, 3, .enum, .w1s, .live, 0xFFFF, 0, (.enum [1, 2])⟩,
  ⟨0x4002, 0x4002, 4, 4, .enum, .ro, .none, 0xFFFF, 0, .any⟩,
  ⟨0x4003, 0x4003, 1, 1, .u32, .ro, .none, 0xFFFF, 0, .any⟩,
  ⟨0x4003, 0x4003, 2, 2, .u32, .ro, .none, 0xFFFF, 0, .any⟩,
  ⟨0x4003, 0x4003, 3, 3, .u32, .ro, .none, 0xFFFF, 0, .any⟩,
  ⟨0x4003, 0x4003, 4, 4, .u32, .ro, .none, 0xFFFF, 0, .any⟩,
  ⟨0x4003, 0x4003, 5, 5, .u32, .ro, .none, 0xFFFF, 0, .any⟩,
  ⟨0x4003, 0x4003, 6, 6, .u32, .ro, .none, 0xFFFF, 0, .any⟩,
  ⟨0x4003, 0x4003, 7, 7, .u32, .ro, .none, 0xFFFF, 0, .any⟩,
  ⟨0x4003, 0x4003, 8, 8, .u32, .ro, .none, 0xFFFF, 0, .any⟩,
  ⟨0x4003, 0x4003, 15, 15, .bool, .w1s, .live, 0xFFFF, 0, .bool⟩,
  ⟨0x4100, 0x410B, 1, 64, .u64, .rw, (.edge .run), 0xFFFF, 0, (.bits 0x3FFFFFFFF)⟩]

/-- Rows of spec/06 R146. -/
def objRows4b : List ObjRow := [
  ⟨0x4120, 0x412B, 1, 64, .u64, .rw, (.edge .run), 0xFFFF, 0, (.bits 0xFFFFFFFFFFFF)⟩,
  ⟨0x4140, 0x414B, 1, 64, .u32, .rw, (.edge .command), 0xFFFF, 0, (.bits 0x3FFFFFFF)⟩,
  ⟨0x4180, 0x4180, 1, 12, .i16, .ro, .none, 0xFFFF, 0, .any⟩,
  ⟨0x4180, 0x4180, 13, 13, .i16, .ro, .none, 0xFFFF, 0, .any⟩]

/-- Rows of spec/07 R169. -/
def objRows5a : List ObjRow := [
  ⟨0x5000, 0x5000, 1, 1, .enum, .ro, .none, 0xFFFF, 0, .any⟩,
  ⟨0x5000, 0x5000, 2, 2, .u8, .ro, .none, 0xFFFF, 0, .any⟩,
  ⟨0x5000, 0x5000, 3, 3, .u8, .ro, .none, 0xFFFF, 0, .any⟩,
  ⟨0x5000, 0x5000, 4, 4, .bits32, .ro, .none, 0xFFFF, 0, .any⟩,
  ⟨0x5000, 0x5000, 5, 5, .bool, .ro, .none, 0xFFFF, 0, .any⟩,
  ⟨0x5000, 0x5000, 6, 6, .u16, .ro, .none, 0xFFFF, 0, .any⟩,
  ⟨0x5000, 0x5000, 7, 7, .u16, .ro, .none, 0xFFFF, 0, .any⟩,
  ⟨0x5000, 0x5000, 8, 8, .i32, .ro, .none, 0xFFFF, 0, .any⟩,
  ⟨0x5000, 0x5000, 9, 9, .i16, .ro, .none, 0xFFFF, 0, .any⟩,
  ⟨0x5000, 0x5000, 10, 10, .i16, .ro, .none, 0xFFFF, 0, .any⟩,
  ⟨0x5000, 0x5000, 11, 11, .i16, .ro, .none, 0xFFFF, 0, .any⟩,
  ⟨0x5000, 0x5000, 12, 12, .i16, .ro, .none, 0xFFFF, 0, .any⟩,
  ⟨0x5001, 0x5001, 1, 1, .enum, .rw, (.edge .sector), 0xFFFF, 0, (.enum [0, 1, 2])⟩,
  ⟨0x5001, 0x5001, 2, 2, .bits32, .rw, (.edge .sector), 0xFFFF, 15, (.bits 0xF)⟩,
  ⟨0x5001, 0x5001, 3, 3, .enum, .rw, (.halt .slot), 0xFFFF, 0, (.enum [0, 1])⟩,
  ⟨0x5001, 0x5001, 4, 4, .u16, .rw, (.edge .wedge), 0xFFFF, 150, (.range 0 300)⟩,
  ⟨0x5001, 0x5001, 5, 5, .u16, .rw, (.edge .wedge), 0xFFFF, 120, (.range 50 400)⟩,
  ⟨0x5002, 0x5002, 1, 1, .u8, .rw, (.edge .sector), 0xFFFF, 4, (.range 2 12)⟩,
  ⟨0x5002, 0x5002, 2, 2, .u8, .rw, (.edge .sector), 0xFFFF, 9, (.range 4 16)⟩,
  ⟨0x5002, 0x5002, 3, 3, .u8, .rw, (.edge .sector), 0xFFFF, 10, (.range 4 16)⟩,
  ⟨0x5002, 0x5002, 4, 4, .u8, .rw, (.edge .sector), 0xFFFF, 12, (.range 6 20)⟩,
  ⟨0x5002, 0x5002, 5, 5, .u8, .rw, (.edge .sector), 0xFFFF, 14, (.range 6 20)⟩,
  ⟨0x5002, 0x5002, 6, 6, .u16, .rw, (.edge .sector), 0xFFFF, 2048, .any⟩,
  ⟨0x5002, 0x5002, 7, 7, .u16, .rw, (.edge .sector), 0xFFFF, 64, .any⟩,
  ⟨0x5002, 0x5002, 8, 8, .u16, .rw, (.edge .sector), 0xFFFF, 512, .any⟩,
  ⟨0x5002, 0x5002, 9, 9, .u16, .rw, (.edge .sector), 0xFFFF, 8, .any⟩,
  ⟨0x5002, 0x5002, 10, 10, .u8, .rw, (.edge .sector), 0xFFFF, 128, (.range 64 152)⟩,
  ⟨0x5002, 0x5002, 11, 11, .u16, .rw, (.edge .sector), 0xFFFF, 3000, (.range 1000 5000)⟩,
  ⟨0x5002, 0x5002, 12, 12, .u8, .rw, (.edge .sector), 0xFFFF, 40, (.range 16 56)⟩,
  ⟨0x5003, 0x5003, 1, 1, .u16, .rw, .live, 0xFFFF, 400, (.range 100 2000)⟩,
  ⟨0x5003, 0x5003, 2, 2, .u16, .rw, .live, 0xFFFF, 300, (.range 50 800)⟩,
  ⟨0x5003, 0x5003, 3, 3, .u16, .rw, .live, 0xFFFF, 64, (.range 0 1024)⟩,
  ⟨0x5003, 0x5003, 4, 4, .u16, .rw, .live, 0xFFFF, 2048, (.range 256 65535)⟩,
  ⟨0x5003, 0x5003, 5, 5, .u16, .rw, .live, 0xFFFF, 4096, (.range 256 65535)⟩,
  ⟨0x5004, 0x5004, 1, 1, .u32, .ro, .none, 0xFFFF, 0, .any⟩,
  ⟨0x5004, 0x5004, 2, 2, .u32, .ro, .none, 0xFFFF, 0, .any⟩,
  ⟨0x5004, 0x5004, 3, 3, .u32, .ro, .none, 0xFFFF, 0, .any⟩,
  ⟨0x5004, 0x5004, 4, 4, .u32, .ro, .none, 0xFFFF, 0, .any⟩,
  ⟨0x5004, 0x5004, 5, 5, .u32, .ro, .none, 0xFFFF, 0, .any⟩,
  ⟨0x5004, 0x5004, 6, 6, .u32, .ro, .none, 0xFFFF, 0, .any⟩]

/-- Rows of spec/07 R169, spec/07 R170, spec/08 R199. -/
def objRows5b : List ObjRow := [
  ⟨0x5004, 0x5004, 7, 7, .u32, .ro, .none, 0xFFFF, 0, .any⟩,
  ⟨0x5004, 0x5004, 8, 8, .u32, .ro, .none, 0xFFFF, 0, .any⟩,
  ⟨0x5004, 0x5004, 15, 15, .bool, .w1s, .live, 0xFFFF, 0, .bool⟩,
  ⟨0x5005, 0x5005, 1, 1, .u8, .ro, .none, 0xFFFF, 16, .any⟩,
  ⟨0x5005, 0x5005, 2, 2, .bits32, .rw, .live, 0xFFFF, 0, (.bits 0xFFFF)⟩,
  ⟨0x5005, 0x5005, 3, 3, .u8, .ro, .none, 0xFFFF, 16, .any⟩,
  ⟨0x5080, 0x5080, 1, 64, .u64, .rw, (.edge .command), 0xFFFF, 0, .any⟩,
  ⟨0x5081, 0x5081, 1, 64, .u64, .rw, (.edge .command), 0xFFFF, 0, (.bits 0x7FFFFFF)⟩,
  ⟨0x5082, 0x5082, 1, 1, .u64, .rw, (.halt .slotPair), 0xFFFF, 0, (.align 4096)⟩,
  ⟨0x5082, 0x5082, 2, 2, .bool, .rw, .live, 0xFFFF, 1, .bool⟩,
  ⟨0x5082, 0x5082, 3, 3, .u16, .rw, (.halt .slotPair), 0xFFFF, 60, (.range 20 1000)⟩,
  ⟨0x5082, 0x5082, 4, 4, .u16, .rw, (.halt .slotPair), 0xFFFF, 60, (.range 20 1000)⟩,
  ⟨0x5082, 0x5082, 5, 5, .u16, .rw, (.halt .slotPair), 0xFFFF, 7200, (.range 5400 7200)⟩,
  ⟨0x5083, 0x5083, 1, 64, .u16, .ro, .none, 0xFFFF, 0, .any⟩,
  ⟨0x5088, 0x5093, 1, 64, .u32, .rw, (.edge .command), 0xFFFF, 0, (.bits 0x803FFFFF)⟩,
  ⟨0x50A0, 0x50A0, 1, 8, .u64, .rw, (.edge .command), 0xFFFF, 0, (.bits 0x7FFFFFFFFFF)⟩,
  ⟨0x5100, 0x5100, 1, 1, .u8, .rw, (.edge .sector), 0xFFFF, 12, (.range 4 24)⟩,
  ⟨0x5100, 0x5100, 2, 2, .u8, .rw, (.edge .sector), 0xFFFF, 26, (.range 20 32)⟩,
  ⟨0x5100, 0x5100, 3, 3, .u8, .rw, (.edge .sector), 0xFFFF, 22, (.range 16 32)⟩,
  ⟨0x5100, 0x5100, 4, 4, .u8, .rw, (.edge .sector), 0xFFFF, 4, (.range 0 4)⟩,
  ⟨0x5100, 0x5100, 5, 5, .u8, .rw, (.edge .sector), 0xFFFF, 3, (.range 0 3)⟩,
  ⟨0x5100, 0x5100, 6, 6, .u8, .rw, (.edge .sector), 0xFFFF, 3, (.range 1 8)⟩,
  ⟨0x5100, 0x5100, 7, 7, .u8, .rw, (.edge .sector), 0xFFFF, 4, (.range 0 8)⟩,
  ⟨0x5100, 0x5100, 8, 8, .u8, .rw, (.edge .sector), 0xFFFF, 24, (.range 16 32)⟩,
  ⟨0x5101, 0x5101, 1, 1, .u8, .rw, (.edge .sector), 0xFFFF, 8, (.range 1 12)⟩,
  ⟨0x5101, 0x5101, 2, 2, .bits32, .rw, (.edge .sector), 0xFFFF, 15, (.bits 0xF)⟩,
  ⟨0x5101, 0x5101, 3, 3, .u8, .rw, (.edge .sector), 0xFFFF, 8, (.range 1 12)⟩,
  ⟨0x5101, 0x5101, 4, 4, .u16, .rw, (.edge .sector), 0xFFFF, 64, (.range 0 1024)⟩,
  ⟨0x5101, 0x5101, 5, 5, .enum, .rw, .live, 0xFFFF, 1, (.enum [0, 1])⟩,
  ⟨0x5101, 0x5101, 6, 6, .u8, .rw, .live, 0xFFFF, 2, (.range 1 4)⟩,
  ⟨0x5101, 0x5101, 7, 7, .bool, .rw, .live, 0xFFFF, 0, .bool⟩,
  ⟨0x5101, 0x5101, 8, 8, .u8, .rw, .live, 0xFFFF, 2, (.range 1 8)⟩,
  ⟨0x5101, 0x5101, 9, 9, .u16, .rw, .live, 0xFFFF, 900, (.range 500 1000)⟩,
  ⟨0x5101, 0x5101, 10, 10, .u16, .rw, .live, 0xFFFF, 250, (.range 50 500)⟩,
  ⟨0x5102, 0x5102, 1, 1, .u64, .ro, .none, 0xFFFF, 0, .any⟩,
  ⟨0x5103, 0x5103, 1, 7, .u64, .rw, (.edge .command), 0xFFFF, 0, (.bits 0xFFFFFFFF)⟩,
  ⟨0x5104, 0x5104, 1, 1, .bits32, .rw, .live, 0xFFFF, 0, (.bits 0xFFFF)⟩,
  ⟨0x5104, 0x5104, 2, 2, .bool, .w1s, .live, 0xFFFF, 0, .bool⟩,
  ⟨0x5104, 0x5104, 3, 3, .enum, .ro, .none, 0xFFFF, 0, .any⟩,
  ⟨0x5104, 0x5104, 4, 4, .u64, .ro, .none, 0xFFFF, 0, .any⟩]

/-- Rows of spec/08 R199, spec/08 R200, spec/09 R215. -/
def objRows5c : List ObjRow := [
  ⟨0x5104, 0x5104, 5, 5, .u64, .rw, .live, 0xFFFF, 0, (.align 4096)⟩,
  ⟨0x5105, 0x5105, 1, 1, .u32, .ro, .none, 0xFFFF, 0, .any⟩,
  ⟨0x5105, 0x5105, 2, 2, .u32, .ro, .none, 0xFFFF, 0, .any⟩,
  ⟨0x5105, 0x5105, 3, 3, .u32, .ro, .none, 0xFFFF, 0, .any⟩,
  ⟨0x5105, 0x5105, 4, 4, .u32, .ro, .none, 0xFFFF, 0, .any⟩,
  ⟨0x5105, 0x5105, 5, 5, .u32, .ro, .none, 0xFFFF, 0, .any⟩,
  ⟨0x5105, 0x5105, 6, 6, .u32, .ro, .none, 0xFFFF, 0, .any⟩,
  ⟨0x5105, 0x5105, 7, 7, .u32, .ro, .none, 0xFFFF, 0, .any⟩,
  ⟨0x5105, 0x5105, 8, 8, .u32, .ro, .none, 0xFFFF, 0, .any⟩,
  ⟨0x5105, 0x5105, 9, 9, .u32, .ro, .none, 0xFFFF, 0, .any⟩,
  ⟨0x5105, 0x5105, 10, 10, .u32, .ro, .none, 0xFFFF, 0, .any⟩,
  ⟨0x5105, 0x5105, 11, 11, .u32, .ro, .none, 0xFFFF, 0, .any⟩,
  ⟨0x5105, 0x5105, 12, 12, .u32, .ro, .none, 0xFFFF, 0, .any⟩,
  ⟨0x5105, 0x5105, 15, 15, .bool, .w1s, .live, 0xFFFF, 0, .bool⟩,
  ⟨0x5300, 0x5300, 1, 1, .u32, .rw, (.halt .allSlots), 0xFFFF, 979307670, .any⟩,
  ⟨0x5300, 0x5300, 2, 2, .u32, .rw, (.halt .allSlots), 0xFFFF, 1813951885, .any⟩,
  ⟨0x5301, 0x5301, 1, 1, .bool, .rw, .live, 0xFFFF, 1, .bool⟩,
  ⟨0x5301, 0x5301, 2, 2, .u8, .rw, (.edge .sector), 0xFFFF, 40, (.range 8 100)⟩,
  ⟨0x5301, 0x5301, 3, 3, .u8, .rw, (.edge .sector), 0xFFFF, 4, (.range 1 8)⟩,
  ⟨0x5301, 0x5301, 4, 4, .enum, .rw, (.edge .sector), 0xFFFF, 1, (.enum [0, 1, 2])⟩,
  ⟨0x5301, 0x5301, 5, 5, .u8, .ro, .none, 0xFFFF, 0, .any⟩,
  ⟨0x5301, 0x5301, 6, 6, .bits32, .ro, .none, 0xFFFF, 0, .any⟩,
  ⟨0x5302, 0x5302, 1, 1, .u8, .rw, .live, 0x2, 12, (.range 1 12)⟩,
  ⟨0x5303, 0x5303, 1, 1, .enum, .ro, .none, 0xFFFF, 0, .any⟩,
  ⟨0x5303, 0x5303, 2, 2, .u64, .ro, .none, 0xFFFF, 0, .any⟩,
  ⟨0x5303, 0x5303, 3, 3, .bool, .w1s, .live, 0xFFFF, 0, .bool⟩,
  ⟨0x5304, 0x5304, 1, 1, .u32, .ro, .none, 0xFFFF, 0, .any⟩,
  ⟨0x5304, 0x5304, 2, 2, .u32, .ro, .none, 0xFFFF, 0, .any⟩,
  ⟨0x5304, 0x5304, 3, 3, .u32, .ro, .none, 0xFFFF, 0, .any⟩,
  ⟨0x5304, 0x5304, 4, 4, .u32, .ro, .none, 0xFFFF, 0, .any⟩,
  ⟨0x5304, 0x5304, 5, 5, .u32, .ro, .none, 0xFFFF, 0, .any⟩,
  ⟨0x5304, 0x5304, 15, 15, .bool, .w1s, .live, 0xFFFF, 0, .bool⟩,
  ⟨0x5200, 0x5200, 1, 1, .enum, .ro, .none, 0xFFFF, 0, .any⟩,
  ⟨0x5200, 0x5200, 2, 2, .u8, .ro, .none, 0xFFFF, 8, .any⟩,
  ⟨0x5200, 0x5200, 3, 3, .u64, .ro, .none, 0xFFFF, 0, .any⟩,
  ⟨0x5200, 0x5200, 4, 4, .bits32, .ro, .none, 0xFFFF, 0, .any⟩,
  ⟨0x5201, 0x5201, 1, 1, .u32, .ro, .none, 0xFFFF, 0, .any⟩,
  ⟨0x5201, 0x5201, 2, 2, .u32, .ro, .none, 0xFFFF, 0, .any⟩,
  ⟨0x5201, 0x5201, 3, 3, .u32, .ro, .none, 0xFFFF, 0, .any⟩,
  ⟨0x5201, 0x5201, 4, 4, .u32, .ro, .none, 0xFFFF, 0, .any⟩]

/-- Rows of spec/09 R215, spec/09 R216. -/
def objRows5d : List ObjRow := [
  ⟨0x5201, 0x5201, 5, 5, .u32, .ro, .none, 0xFFFF, 0, .any⟩,
  ⟨0x5201, 0x5201, 6, 6, .u32, .ro, .none, 0xFFFF, 0, .any⟩,
  ⟨0x5201, 0x5201, 7, 7, .u32, .ro, .none, 0xFFFF, 0, .any⟩,
  ⟨0x5201, 0x5201, 15, 15, .bool, .w1s, .live, 0xFFFF, 0, .bool⟩,
  ⟨0x5280, 0x5280, 1, 64, .u64, .rw, (.edge .command), 0xFFFF, 0, (.bits 0x3FFFF)⟩,
  ⟨0x5290, 0x529B, 1, 16, .u64, .rw, (.halt .slotPair), 0x7FFD, 0, (.bits 0x80000FFFFFFFFFFF)⟩]

/-- Rows of spec/11 R272, spec/12 R298. -/
def objRows6a : List ObjRow := [
  ⟨0x6000, 0x6000, 1, 1, .enum, .rw, (.halt .zones), 0xFFFF, 0, (.enum [0, 1, 2])⟩,
  ⟨0x6000, 0x6000, 2, 2, .bool, .rw, .live, 0xFFFF, 0, .bool⟩,
  ⟨0x6000, 0x6000, 3, 3, .u32, .rw, (.halt .zones), 0xFFFF, 0, (.range 1 262144)⟩,
  ⟨0x6000, 0x6000, 4, 4, .u32, .rw, (.halt .zones), 0xFFFF, 0, .any⟩,
  ⟨0x6000, 0x6000, 5, 5, .u32, .ro, .none, 0xFFFF, 65536, .any⟩,
  ⟨0x6000, 0x6000, 6, 6, .u8, .rw, (.halt .zones), 0xFFFF, 2, (.range 1 16)⟩,
  ⟨0x6000, 0x6000, 7, 7, .u16, .rw, (.halt .zones), 0xFFFF, 128, (.range 1 1024)⟩,
  ⟨0x6000, 0x6000, 8, 8, .u16, .rw, (.halt .zones), 0xFFFF, 256, (.range 1 4096)⟩,
  ⟨0x6000, 0x6000, 9, 9, .u64, .rw, (.halt .zones), 0xFFFF, 0, (.range 0 17179869184)⟩,
  ⟨0x6000, 0x6000, 10, 10, .bool, .rw, .live, 0xFFFF, 1, .bool⟩,
  ⟨0x6000, 0x6000, 11, 11, .bool, .ro, .none, 0xFFFF, 0, .any⟩,
  ⟨0x6001, 0x6001, 1, 1, .u16, .ro, .none, 0xFFFF, 0, .any⟩,
  ⟨0x6001, 0x6001, 2, 2, .u16, .ro, .none, 0xFFFF, 0, .any⟩,
  ⟨0x6002, 0x6002, 1, 1, .bool, .w1s, .live, 0x7FFD, 0, .bool⟩,
  ⟨0x6002, 0x6002, 2, 2, .enum, .ro, .none, 0xFFFF, 0, .any⟩,
  ⟨0x6002, 0x6002, 3, 3, .u32, .ro, .none, 0xFFFF, 0, .any⟩,
  ⟨0x6002, 0x6002, 4, 4, .enum, .ro, .none, 0xFFFF, 0, .any⟩,
  ⟨0x6010, 0x6010, 1, 1, .u64, .rw, (.halt .zones), 0x7FFD, 0, (.align 4096)⟩,
  ⟨0x6010, 0x6010, 2, 2, .u32, .rw, (.halt .zones), 0x7FFD, 0, (.range 0 67108864)⟩,
  ⟨0x6010, 0x6010, 3, 3, .u64, .rw, (.halt .zones), 0x7FFD, 0, (.align 4096)⟩,
  ⟨0x6010, 0x6010, 4, 4, .u64, .rw, (.halt .zones), 0x7FFD, 0, (.align 4096)⟩,
  ⟨0x6020, 0x6020, 1, 4, .u64, .rw, .live, 0xFFFF, 0, .any⟩,
  ⟨0x6021, 0x6021, 1, 4, .u32, .ro, .none, 0xFFFF, 0, .any⟩,
  ⟨0x6030, 0x6030, 1, 1, .u64, .rw, .live, 0x7FFD, 0, .any⟩,
  ⟨0x6030, 0x6030, 2, 2, .bool, .w1s, .live, 0x7FFD, 0, .bool⟩,
  ⟨0x6030, 0x6030, 3, 3, .bool, .w1s, .live, 0x7FFD, 0, .bool⟩,
  ⟨0x6030, 0x6030, 4, 4, .enum, .ro, .none, 0xFFFF, 0, .any⟩,
  ⟨0x6030, 0x6030, 5, 5, .enum, .ro, .none, 0xFFFF, 0, .any⟩,
  ⟨0x6030, 0x6030, 6, 6, .u32, .ro, .none, 0xFFFF, 0, .any⟩,
  ⟨0x6030, 0x6030, 7, 7, .u32, .ro, .none, 0xFFFF, 0, .any⟩,
  ⟨0x6040, 0x6040, 1, 1, .u32, .ro, .none, 0xFFFF, 0, .any⟩,
  ⟨0x6040, 0x6040, 2, 2, .u32, .ro, .none, 0xFFFF, 0, .any⟩,
  ⟨0x6040, 0x6040, 3, 3, .u32, .ro, .none, 0xFFFF, 0, .any⟩,
  ⟨0x6040, 0x6040, 4, 4, .u32, .ro, .none, 0xFFFF, 0, .any⟩,
  ⟨0x6040, 0x6040, 5, 5, .u32, .ro, .none, 0xFFFF, 0, .any⟩,
  ⟨0x6040, 0x6040, 6, 6, .u32, .ro, .none, 0xFFFF, 0, .any⟩,
  ⟨0x6040, 0x6040, 7, 7, .u32, .ro, .none, 0xFFFF, 0, .any⟩,
  ⟨0x6040, 0x6040, 15, 15, .bool, .w1s, .live, 0xFFFF, 0, .bool⟩,
  ⟨0x6800, 0x6800, 1, 1, .enum, .rw, (.halt .hostLink), 0x7FFD, 0, (.enum [0, 1])⟩,
  ⟨0x6800, 0x6800, 2, 2, .enum, .ro, .none, 0xFFFF, 0, .any⟩]

/-- Rows of spec/12 R298, spec/13 R319. -/
def objRows6b : List ObjRow := [
  ⟨0x6800, 0x6800, 3, 3, .enum, .ro, .none, 0xFFFF, 0, .any⟩,
  ⟨0x6800, 0x6800, 4, 4, .u8, .ro, .none, 0xFFFF, 0, .any⟩,
  ⟨0x6800, 0x6800, 5, 5, .bool, .ro, .none, 0xFFFF, 0, .any⟩,
  ⟨0x6800, 0x6800, 6, 6, .bool, .rw, .live, 0x7FFD, 0, .bool⟩,
  ⟨0x6801, 0x6801, 1, 1, .bits32, .rw, (.halt .orderedQueue), 0x1FFFF, 0, (.bits 0xFFFF)⟩,
  ⟨0x6801, 0x6801, 2, 2, .u8, .rw, (.edge .queueCreation), 0x1FFFF, 1, (.range 1 8)⟩,
  ⟨0x6801, 0x6801, 3, 3, .u16, .rw, .live, 0x1FFFF, 256, (.range 1 1024)⟩,
  ⟨0x6802, 0x6802, 1, 1, .u8, .rw, (.edge .command), 0x1FFFF, 64, (.range 1 64)⟩,
  ⟨0x6802, 0x6802, 2, 2, .u16, .rw, .live, 0x1FFFF, 500, (.range 10 10000)⟩,
  ⟨0x6802, 0x6802, 3, 3, .u32, .rw, .live, 0x1FFFF, 4194304, (.range 0 16777216)⟩,
  ⟨0x6803, 0x6803, 1, 1, .u8, .ro, .none, 0xFFFF, 3, .any⟩,
  ⟨0x6803, 0x6803, 2, 2, .u32, .rw, .live, 0xFFFF, 100000, (.range 1000 2000000)⟩,
  ⟨0x6804, 0x6804, 1, 16, .u64, .ro, .none, 0xFFFF, 0, .any⟩,
  ⟨0x6810, 0x6810, 1, 1, .u16, .rw, (.halt .hostLink), 0x7FFD, 4420, (.range 1 65535)⟩,
  ⟨0x6810, 0x6810, 2, 2, .u32, .rw, (.halt .hostLink), 0x7FFD, 0, .any⟩,
  ⟨0x6810, 0x6810, 3, 3, .u32, .rw, (.halt .hostLink), 0x7FFD, 0, .any⟩,
  ⟨0x6810, 0x6810, 4, 4, .u32, .rw, (.halt .hostLink), 0x7FFD, 0, .any⟩,
  ⟨0x6810, 0x6810, 5, 5, .bool, .rw, (.halt .hostLink), 0x7FFD, 1, .bool⟩,
  ⟨0x6810, 0x6810, 6, 6, .str, .rw, (.halt .hostLink), 0x7FFD, 0, .any⟩,
  ⟨0x6810, 0x6810, 7, 7, .u64, .ro, .none, 0xFFFF, 0, .any⟩,
  ⟨0x6810, 0x6810, 8, 8, .enum, .ro, .none, 0xFFFF, 0, .any⟩,
  ⟨0x6820, 0x6820, 1, 1, .u32, .ro, .none, 0xFFFF, 0, .any⟩,
  ⟨0x6820, 0x6820, 2, 2, .u32, .ro, .none, 0xFFFF, 0, .any⟩,
  ⟨0x6820, 0x6820, 3, 3, .u32, .ro, .none, 0xFFFF, 0, .any⟩,
  ⟨0x6820, 0x6820, 4, 4, .u32, .ro, .none, 0xFFFF, 0, .any⟩,
  ⟨0x6820, 0x6820, 5, 5, .u32, .ro, .none, 0xFFFF, 0, .any⟩,
  ⟨0x6820, 0x6820, 6, 6, .u32, .ro, .none, 0xFFFF, 0, .any⟩,
  ⟨0x6820, 0x6820, 7, 7, .u32, .ro, .none, 0xFFFF, 0, .any⟩,
  ⟨0x6820, 0x6820, 8, 8, .u32, .ro, .none, 0xFFFF, 0, .any⟩,
  ⟨0x6820, 0x6820, 9, 9, .u32, .ro, .none, 0xFFFF, 0, .any⟩,
  ⟨0x6820, 0x6820, 15, 15, .bool, .w1s, .live, 0xFFFF, 0, .bool⟩,
  ⟨0x6100, 0x6100, 1, 1, .enum, .ro, .none, 0xFFFF, 0, .any⟩,
  ⟨0x6100, 0x6100, 2, 2, .u8, .ro, .none, 0xFFFF, 0, .any⟩,
  ⟨0x6100, 0x6100, 3, 3, .u64, .ro, .none, 0xFFFF, 0, .any⟩,
  ⟨0x6100, 0x6100, 4, 4, .u32, .ro, .none, 0xFFFF, 262144, .any⟩,
  ⟨0x6100, 0x6100, 5, 5, .u64, .rw, .live, 0x7FFD, 0, .any⟩,
  ⟨0x6100, 0x6100, 6, 6, .bool, .ro, .none, 0xFFFF, 0, .any⟩,
  ⟨0x6101, 0x6101, 1, 1, .u64, .rw, (.halt .sheaf), 0x7FFD, 0, (.align 2097152)⟩,
  ⟨0x6101, 0x6101, 2, 2, .bool, .ro, .none, 0xFFFF, 0, .any⟩,
  ⟨0x6101, 0x6101, 3, 3, .bool, .w1s, .live, 0x7FFD, 0, .bool⟩]

/-- Rows of spec/13 R319. -/
def objRows6c : List ObjRow := [
  ⟨0x6101, 0x6101, 4, 4, .enum, .ro, .none, 0xFFFF, 0, .any⟩,
  ⟨0x6101, 0x6101, 5, 5, .u32, .ro, .none, 0xFFFF, 0, .any⟩,
  ⟨0x6101, 0x6101, 6, 6, .u8, .ro, .none, 0xFFFF, 0, .any⟩,
  ⟨0x6101, 0x6101, 7, 7, .u16, .ro, .none, 0xFFFF, 0, .any⟩,
  ⟨0x6102, 0x6102, 1, 1, .bool, .w1s, .live, 0x7FFD, 0, .bool⟩,
  ⟨0x6102, 0x6102, 2, 2, .enum, .ro, .none, 0xFFFF, 0, .any⟩,
  ⟨0x6102, 0x6102, 3, 3, .u32, .ro, .none, 0xFFFF, 0, .any⟩,
  ⟨0x6102, 0x6102, 4, 4, .u64, .ro, .none, 0xFFFF, 0, .any⟩,
  ⟨0x6102, 0x6102, 5, 5, .u64, .rw, .live, 0x7FFD, 0, .any⟩,
  ⟨0x6102, 0x6102, 6, 6, .bool, .w1s, .live, 0x7FFD, 0, .bool⟩,
  ⟨0x6102, 0x6102, 7, 7, .enum, .ro, .none, 0xFFFF, 0, .any⟩,
  ⟨0x6102, 0x6102, 8, 8, .u32, .ro, .none, 0xFFFF, 0, .any⟩,
  ⟨0x6102, 0x6102, 9, 9, .u32, .ro, .none, 0xFFFF, 0, .any⟩,
  ⟨0x6110, 0x6110, 1, 1, .enum, .w1s, .live, 0xFFFF, 0, (.enum [1, 2, 3, 4])⟩,
  ⟨0x6110, 0x6110, 2, 2, .u8, .rw, .live, 0xFFFF, 0, (.range 0 31)⟩,
  ⟨0x6110, 0x6110, 3, 6, .u64, .rw, .live, 0xFFFF, 0, .any⟩,
  ⟨0x6110, 0x6110, 7, 7, .u32, .ro, .none, 0xFFFF, 0, .any⟩,
  ⟨0x6110, 0x6110, 8, 8, .u64, .ro, .none, 0xFFFF, 0, .any⟩,
  ⟨0x6120, 0x6120, 1, 1, .u32, .ro, .none, 0xFFFF, 0, .any⟩,
  ⟨0x6120, 0x6120, 2, 2, .u32, .ro, .none, 0xFFFF, 0, .any⟩,
  ⟨0x6120, 0x6120, 3, 3, .u32, .ro, .none, 0xFFFF, 0, .any⟩,
  ⟨0x6120, 0x6120, 4, 4, .u32, .ro, .none, 0xFFFF, 0, .any⟩,
  ⟨0x6120, 0x6120, 5, 5, .u32, .ro, .none, 0xFFFF, 0, .any⟩,
  ⟨0x6120, 0x6120, 6, 6, .u32, .ro, .none, 0xFFFF, 0, .any⟩,
  ⟨0x6120, 0x6120, 15, 15, .bool, .w1s, .live, 0xFFFF, 0, .bool⟩]

/-- Rows of spec/14 R344. -/
def objRows7a : List ObjRow := [
  ⟨0x7000, 0x7000, 1, 1, .enum, .ro, .none, 0xFFFF, 0, .any⟩,
  ⟨0x7000, 0x7000, 2, 2, .u64, .ro, .none, 0xFFFF, 8053063680, .any⟩,
  ⟨0x7000, 0x7000, 3, 3, .u64, .ro, .none, 0xFFFF, 4294967296, .any⟩,
  ⟨0x7000, 0x7000, 4, 4, .u8, .ro, .none, 0xFFFF, 1, .any⟩,
  ⟨0x7001, 0x7001, 1, 1, .u32, .ro, .none, 0xFFFF, 0, .any⟩,
  ⟨0x7001, 0x7001, 2, 2, .u32, .ro, .none, 0xFFFF, 0, .any⟩,
  ⟨0x7001, 0x7001, 3, 3, .u32, .ro, .none, 0xFFFF, 0, .any⟩,
  ⟨0x7001, 0x7001, 4, 4, .u32, .ro, .none, 0xFFFF, 0, .any⟩,
  ⟨0x7001, 0x7001, 5, 5, .u64, .ro, .none, 0xFFFF, 0, .any⟩,
  ⟨0x7001, 0x7001, 6, 6, .u64, .ro, .none, 0xFFFF, 0, .any⟩,
  ⟨0x7001, 0x7001, 15, 15, .bool, .w1s, .live, 0xFFFF, 0, .bool⟩,
  ⟨0x7100, 0x7100, 1, 1, .bool, .rw, .live, 0x7FFD, 1, .bool⟩,
  ⟨0x7100, 0x7100, 2, 2, .bool, .ro, .none, 0xFFFF, 0, .any⟩,
  ⟨0x7100, 0x7100, 3, 3, .u8, .rw, (.halt .cache), 0x7FFD, 0, (.range 0 12)⟩,
  ⟨0x7100, 0x7100, 4, 4, .u32, .ro, .none, 0xFFFF, 0, .any⟩,
  ⟨0x7100, 0x7100, 5, 5, .bool, .ro, .none, 0xFFFF, 0, .any⟩,
  ⟨0x7101, 0x7101, 1, 1, .u32, .ro, .none, 0xFFFF, 0, .any⟩,
  ⟨0x7101, 0x7101, 2, 2, .u32, .ro, .none, 0xFFFF, 0, .any⟩,
  ⟨0x7101, 0x7101, 3, 3, .u32, .ro, .none, 0xFFFF, 0, .any⟩,
  ⟨0x7101, 0x7101, 4, 4, .u32, .ro, .none, 0xFFFF, 0, .any⟩,
  ⟨0x7101, 0x7101, 5, 5, .u32, .ro, .none, 0xFFFF, 0, .any⟩,
  ⟨0x7101, 0x7101, 6, 6, .u32, .ro, .none, 0xFFFF, 0, .any⟩,
  ⟨0x7101, 0x7101, 15, 15, .bool, .w1s, .live, 0xFFFF, 0, .bool⟩,
  ⟨0x7200, 0x7200, 1, 1, .u8, .rw, .live, 0x7FFD, 16, (.range 2 255)⟩,
  ⟨0x7200, 0x7200, 2, 2, .u16, .rw, .live, 0x7FFD, 0, (.bits 0x73F)⟩,
  ⟨0x7200, 0x7200, 3, 3, .u64, .ro, .none, 0xFFFF, 0, .any⟩,
  ⟨0x7200, 0x7200, 4, 4, .bits32, .w1s, .live, 0x7FFD, 0, (.bits 0xFF)⟩,
  ⟨0x7200, 0x7200, 5, 5, .bits32, .ro, .none, 0xFFFF, 0, .any⟩,
  ⟨0x7201, 0x7201, 1, 1, .u32, .ro, .none, 0xFFFF, 0, .any⟩,
  ⟨0x7201, 0x7201, 15, 15, .bool, .w1s, .live, 0xFFFF, 0, .bool⟩,
  ⟨0x7300, 0x7300, 1, 1, .u64, .rw, (.halt .hoe), 0x7FFD, 0, .any⟩,
  ⟨0x7300, 0x7300, 2, 2, .u64, .rw, (.halt .hoe), 0x7FFD, 0, .any⟩,
  ⟨0x7300, 0x7300, 3, 3, .enum, .rw, (.halt .hoe), 0x7FFD, 0, (.enum [0, 1])⟩,
  ⟨0x7300, 0x7300, 4, 4, .u16, .rw, .live, 0x7FFD, 1000, (.range 50 8000)⟩,
  ⟨0x7300, 0x7300, 5, 5, .bool, .w1s, .live, 0x7FFD, 0, .bool⟩,
  ⟨0x7300, 0x7300, 6, 6, .bool, .w1s, .live, 0x7FFD, 0, .bool⟩,
  ⟨0x7300, 0x7300, 7, 7, .enum, .ro, .none, 0xFFFF, 0, .any⟩,
  ⟨0x7300, 0x7300, 8, 8, .u64, .ro, .none, 0xFFFF, 0, .any⟩,
  ⟨0x7301, 0x7301, 1, 1, .u32, .ro, .none, 0xFFFF, 0, .any⟩,
  ⟨0x7301, 0x7301, 2, 2, .u32, .ro, .none, 0xFFFF, 0, .any⟩]

/-- Rows of spec/14 R344, spec/15 R358, spec/15 R359. -/
def objRows7b : List ObjRow := [
  ⟨0x7301, 0x7301, 3, 3, .u64, .ro, .none, 0xFFFF, 0, .any⟩,
  ⟨0x7301, 0x7301, 4, 4, .u64, .ro, .none, 0xFFFF, 0, .any⟩,
  ⟨0x7301, 0x7301, 5, 5, .u32, .ro, .none, 0xFFFF, 0, .any⟩,
  ⟨0x7301, 0x7301, 6, 6, .u32, .ro, .none, 0xFFFF, 0, .any⟩,
  ⟨0x7301, 0x7301, 7, 7, .u32, .ro, .none, 0xFFFF, 0, .any⟩,
  ⟨0x7400, 0x7400, 1, 1, .bits32, .ro, .none, 0xFFFF, 0, .any⟩,
  ⟨0x7400, 0x7400, 2, 2, .u32, .ro, .none, 0xFFFF, 0, .any⟩,
  ⟨0x7800, 0x7800, 1, 1, .u16, .rw, .live, 0x7FFD, 256, (.range 1 16384)⟩,
  ⟨0x7800, 0x7800, 2, 2, .u8, .rw, (.halt .queue), 0x7FFD, 0, (.range 0 64)⟩,
  ⟨0x7800, 0x7800, 3, 3, .u16, .rw, .live, 0x7FFD, 0, (.range 0 16384)⟩,
  ⟨0x7800, 0x7800, 4, 4, .u16, .rw, .live, 0x7FFD, 0, (.range 0 16384)⟩,
  ⟨0x7800, 0x7800, 5, 5, .bool, .rw, .live, 0x7FFD, 0, .bool⟩,
  ⟨0x7800, 0x7800, 6, 6, .bool, .w1s, .live, 0x7FFD, 0, .bool⟩,
  ⟨0x7A00, 0x7A00, 1, 1, .u16, .ro, .none, 0xFFFF, 0, .any⟩,
  ⟨0x7A00, 0x7A00, 2, 2, .bits32, .w1c, .live, 0xFFFF, 0, (.bits 0x1F)⟩,
  ⟨0x7A00, 0x7A00, 3, 3, .u8, .ro, .none, 0xFFFF, 0, .any⟩,
  ⟨0x7A00, 0x7A00, 4, 4, .u8, .ro, .none, 0xFFFF, 0, .any⟩,
  ⟨0x7A00, 0x7A00, 5, 5, .bool, .w1s, .live, 0xFFFF, 0, .bool⟩,
  ⟨0x7C00, 0x7C00, 1, 1, .u16, .ro, .none, 0xFFFF, 16384, .any⟩,
  ⟨0x7C00, 0x7C00, 2, 2, .u16, .ro, .none, 0xFFFF, 0, .any⟩,
  ⟨0x7C00, 0x7C00, 3, 3, .bool, .ro, .none, 0xFFFF, 0, .any⟩,
  ⟨0x7C00, 0x7C00, 4, 4, .bool, .ro, .none, 0xFFFF, 0, .any⟩,
  ⟨0x7C00, 0x7C00, 5, 5, .u16, .ro, .none, 0xFFFF, 0, .any⟩,
  ⟨0x7C01, 0x7C01, 1, 1, .u32, .ro, .none, 0xFFFF, 0, .any⟩,
  ⟨0x7C01, 0x7C01, 2, 2, .u32, .ro, .none, 0xFFFF, 0, .any⟩,
  ⟨0x7C01, 0x7C01, 3, 3, .u32, .ro, .none, 0xFFFF, 0, .any⟩,
  ⟨0x7C01, 0x7C01, 4, 4, .u32, .ro, .none, 0xFFFF, 0, .any⟩,
  ⟨0x7C01, 0x7C01, 15, 15, .bool, .w1s, .live, 0xFFFF, 0, .bool⟩]

/-- Rows of spec/16 R378. -/
def objRows8a : List ObjRow := [
  ⟨0x8000, 0x8000, 1, 1, .bool, .rw, .live, 0x7FFD, 0, .bool⟩,
  ⟨0x8000, 0x8000, 2, 2, .bool, .rw, (.halt .sieve), 0x7FFD, 0, .bool⟩,
  ⟨0x8000, 0x8000, 3, 3, .bits32, .rw, .live, 0x7FFD, 255, (.bits 0xFF)⟩,
  ⟨0x8000, 0x8000, 4, 4, .u64, .rw, (.halt .sieve), 0x7FFD, 0, (.align 2097152)⟩,
  ⟨0x8000, 0x8000, 5, 5, .u64, .rw, (.halt .sieve), 0x7FFD, 0, (.align 2097152)⟩,
  ⟨0x8000, 0x8000, 6, 6, .u32, .rw, .live, 0x7FFD, 10000, (.range 1 600000)⟩,
  ⟨0x8000, 0x8000, 7, 7, .u32, .rw, .live, 0x7FFD, 5000, (.range 10 60000)⟩,
  ⟨0x8000, 0x8000, 8, 8, .u32, .rw, .live, 0x7FFD, 1000, (.range 1 60000)⟩,
  ⟨0x8001, 0x8001, 1, 1, .blob, .ro, .none, 0xFFFF, 0, .any⟩,
  ⟨0x8001, 0x8001, 2, 4, .blob, .rw, .live, 0x1, 0, .any⟩,
  ⟨0x8010, 0x8010, 1, 1, .enum, .ro, .none, 0xFFFF, 0, .any⟩,
  ⟨0x8010, 0x8010, 2, 2, .enum, .ro, .none, 0xFFFF, 0, .any⟩,
  ⟨0x8010, 0x8010, 3, 3, .u8, .ro, .none, 0xFFFF, 0, .any⟩,
  ⟨0x8010, 0x8010, 4, 4, .u8, .rw, .live, 0x7FFD, 0, .any⟩,
  ⟨0x8010, 0x8010, 5, 5, .u64, .rw, .live, 0x7FFD, 0, .any⟩,
  ⟨0x8010, 0x8010, 6, 6, .u64, .rw, .live, 0x7FFD, 0, .any⟩,
  ⟨0x8010, 0x8010, 7, 7, .u64, .rw, .live, 0x7FFD, 0, .any⟩,
  ⟨0x8010, 0x8010, 8, 8, .bool, .w1s, .live, 0x7FFD, 0, .bool⟩,
  ⟨0x8010, 0x8010, 9, 9, .bool, .w1s, .live, 0x7FFD, 0, .bool⟩,
  ⟨0x8010, 0x8010, 10, 10, .enum, .ro, .none, 0xFFFF, 0, .any⟩,
  ⟨0x8010, 0x8010, 11, 11, .u32, .ro, .none, 0xFFFF, 0, .any⟩,
  ⟨0x8010, 0x8010, 12, 12, .u64, .ro, .none, 0xFFFF, 0, .any⟩,
  ⟨0x8010, 0x8010, 13, 13, .u32, .ro, .none, 0xFFFF, 0, .any⟩,
  ⟨0x8100, 0x8100, 1, 16, .u64, .ro, .none, 0xFFFF, 0, .any⟩,
  ⟨0x8101, 0x8101, 1, 16, .blob, .ro, .none, 0xFFFF, 0, .any⟩,
  ⟨0x8200, 0x8200, 1, 15, .u64, .rw, .live, 0x7FFD, 0, (.bits 0xFFF)⟩,
  ⟨0x8201, 0x8201, 1, 15, .u32, .ro, .none, 0xFFFF, 0, .any⟩,
  ⟨0x8300, 0x8300, 1, 1, .u32, .ro, .none, 0xFFFF, 0, .any⟩,
  ⟨0x8300, 0x8300, 2, 2, .u32, .ro, .none, 0xFFFF, 0, .any⟩,
  ⟨0x8300, 0x8300, 3, 3, .u32, .ro, .none, 0xFFFF, 0, .any⟩,
  ⟨0x8300, 0x8300, 4, 4, .u32, .ro, .none, 0xFFFF, 0, .any⟩,
  ⟨0x8300, 0x8300, 5, 5, .u32, .ro, .none, 0xFFFF, 0, .any⟩,
  ⟨0x8300, 0x8300, 6, 6, .u32, .ro, .none, 0xFFFF, 0, .any⟩,
  ⟨0x8300, 0x8300, 15, 15, .bool, .w1s, .live, 0xFFFF, 0, .bool⟩]

/-- Rows of spec/18 R424. -/
def objRows9a : List ObjRow := [
  ⟨0x9000, 0x9000, 1, 1, .enum, .ro, .none, 0xFFFF, 0, .any⟩,
  ⟨0x9000, 0x9000, 2, 2, .u64, .ro, .none, 0xFFFF, 0, .any⟩,
  ⟨0x9000, 0x9000, 3, 3, .u8, .ro, .none, 0xFFFF, 0, .any⟩,
  ⟨0x9000, 0x9000, 4, 4, .enum, .ro, .none, 0xFFFF, 0, .any⟩,
  ⟨0x9000, 0x9000, 5, 5, .u16, .rw, .live, 0x7FFD, 120, (.range 10 3600)⟩,
  ⟨0x9010, 0x9010, 1, 1, .enum, .rw, .live, 0x7FFD, 1, (.enum [1, 2])⟩,
  ⟨0x9010, 0x9010, 2, 2, .enum, .ro, .none, 0xFFFF, 0, .any⟩,
  ⟨0x9010, 0x9010, 3, 3, .u8, .rw, .live, 0x7FFD, 1, (.range 1 8)⟩,
  ⟨0x9010, 0x9010, 4, 4, .u8, .ro, .none, 0xFFFF, 0, .any⟩,
  ⟨0x9010, 0x9010, 5, 5, .bool, .w1s, .live, 0x7FFD, 0, .bool⟩,
  ⟨0x9010, 0x9010, 6, 6, .enum, .ro, .none, 0xFFFF, 1, .any⟩,
  ⟨0x9010, 0x9010, 7, 7, .u32, .ro, .none, 0xFFFF, 0, .any⟩,
  ⟨0x9010, 0x9010, 8, 8, .u32, .ro, .none, 0xFFFF, 0, .any⟩,
  ⟨0x9011, 0x9011, 1, 1, .u8, .ro, .none, 0xFFFF, 0, .any⟩,
  ⟨0x9011, 0x9011, 2, 2, .u8, .ro, .none, 0xFFFF, 0, .any⟩,
  ⟨0x9011, 0x9011, 3, 3, .bool, .w1s, .live, 0x7FFD, 0, .bool⟩,
  ⟨0x9020, 0x9020, 1, 1, .u64, .rw, .live, 0x7FFD, 0, .any⟩,
  ⟨0x9020, 0x9020, 2, 2, .u32, .rw, .live, 0x7FFD, 0, (.range 1 268435456)⟩,
  ⟨0x9020, 0x9020, 3, 3, .u8, .rw, .live, 0x7FFD, 0, .any⟩,
  ⟨0x9020, 0x9020, 4, 4, .u64, .rw, .live, 0x7FFD, 0, .any⟩,
  ⟨0x9020, 0x9020, 5, 5, .u32, .rw, .live, 0x7FFD, 0, .any⟩,
  ⟨0x9020, 0x9020, 6, 6, .bool, .w1s, .live, 0x7FFD, 0, .bool⟩,
  ⟨0x9020, 0x9020, 7, 7, .enum, .ro, .none, 0xFFFF, 0, .any⟩,
  ⟨0x9020, 0x9020, 8, 8, .bool, .w1s, .live, 0x7FFD, 0, .bool⟩,
  ⟨0x9030, 0x9030, 1, 1, .blob, .ro, .none, 0xFFFF, 0, .any⟩,
  ⟨0x9030, 0x9030, 2, 2, .u16, .rw, .live, 0x1FFFF, 0, (.enum [0, 1024, 2048, 3072])⟩,
  ⟨0x9030, 0x9030, 3, 3, .blob, .ro, .none, 0xFFFF, 0, .any⟩,
  ⟨0x9030, 0x9030, 4, 4, .blob, .ro, .none, 0xFFFF, 0, .any⟩,
  ⟨0x9030, 0x9030, 5, 5, .u16, .ro, .none, 0xFFFF, 0, .any⟩,
  ⟨0x9030, 0x9030, 6, 6, .u32, .ro, .none, 0xFFFF, 0, .any⟩,
  ⟨0x9040, 0x9040, 1, 1, .u16, .ro, .none, 0xFFFF, 0, .any⟩,
  ⟨0x9040, 0x9040, 2, 2, .u16, .ro, .none, 0xFFFF, 65535, .any⟩,
  ⟨0x9040, 0x9040, 3, 3, .u16, .ro, .none, 0xFFFF, 0, .any⟩,
  ⟨0x9050, 0x9050, 1, 1, .enum, .ro, .none, 0xFFFF, 0, .any⟩,
  ⟨0x9050, 0x9050, 2, 2, .bits32, .ro, .none, 0xFFFF, 0, .any⟩,
  ⟨0x9050, 0x9050, 3, 3, .bits32, .ro, .none, 0xFFFF, 0, .any⟩,
  ⟨0x9050, 0x9050, 4, 4, .bits32, .ro, .none, 0xFFFF, 0, .any⟩,
  ⟨0x9050, 0x9050, 5, 5, .bool, .w1s, .live, 0x7FFD, 0, .bool⟩,
  ⟨0x9060, 0x9060, 1, 1, .bool, .rw, .live, 0x7FFD, 1, .bool⟩,
  ⟨0x9070, 0x9070, 1, 1, .u32, .ro, .none, 0xFFFF, 0, .any⟩]

/-- Rows of spec/18 R424. -/
def objRows9b : List ObjRow := [
  ⟨0x9070, 0x9070, 2, 2, .u32, .ro, .none, 0xFFFF, 0, .any⟩,
  ⟨0x9070, 0x9070, 3, 3, .u32, .ro, .none, 0xFFFF, 0, .any⟩,
  ⟨0x9070, 0x9070, 4, 4, .u32, .ro, .none, 0xFFFF, 0, .any⟩,
  ⟨0x9070, 0x9070, 5, 5, .u32, .ro, .none, 0xFFFF, 0, .any⟩,
  ⟨0x9070, 0x9070, 6, 6, .u32, .ro, .none, 0xFFFF, 0, .any⟩,
  ⟨0x9070, 0x9070, 15, 15, .bool, .w1s, .live, 0x7FFD, 0, .bool⟩]

/-- Rows of spec/19 R428, spec/19 R448. -/
def objRowsAa : List ObjRow := [
  ⟨0xA020, 0xA020, 1, 1, .bits32, .w1c, .live, 0xFFFF, 0, (.bits 0xFFFFFFFF)⟩,
  ⟨0xA020, 0xA020, 2, 2, .bits32, .w1c, .live, 0xFFFF, 0, (.bits 0xFFFFFFFF)⟩,
  ⟨0xA020, 0xA020, 3, 3, .bits32, .rw, .live, 0xFFFF, 4294967295, (.bits 0xFFFFFFFF)⟩,
  ⟨0xA020, 0xA020, 4, 4, .bits32, .rw, .live, 0xFFFF, 4294967295, (.bits 0xFFFFFFFF)⟩,
  ⟨0xA020, 0xA020, 5, 5, .bits32, .ro, .none, 0xFFFF, 0, .any⟩,
  ⟨0xA020, 0xA020, 6, 6, .bits32, .ro, .none, 0xFFFF, 0, .any⟩,
  ⟨0xA020, 0xA020, 7, 7, .bits32, .rw, .live, 0xFFFF, 1, (.bits 0x1FF)⟩,
  ⟨0xA020, 0xA020, 8, 8, .bits32, .ro, .none, 0xFFFF, 0, .any⟩,
  ⟨0xA020, 0xA020, 9, 9, .bits32, .ro, .none, 0xFFFF, 0, .any⟩,
  ⟨0xA020, 0xA020, 10, 10, .bool, .w1s, .live, 0xFFFF, 0, .bool⟩,
  ⟨0xA020, 0xA020, 11, 11, .u8, .ro, .none, 0xFFFF, 0, .any⟩,
  ⟨0xA020, 0xA020, 12, 12, .u16, .ro, .none, 0xFFFF, 0, .any⟩,
  ⟨0xA020, 0xA020, 13, 13, .bool, .ro, .none, 0xFFFF, 0, .any⟩,
  ⟨0xA020, 0xA020, 16, 23, .u64, .ro, .none, 0xFFFF, 0, .any⟩,
  ⟨0xA000, 0xA000, 1, 1, .enum, .rw, .live, 0xFFFF, 0, (.enum [0, 1])⟩,
  ⟨0xA000, 0xA000, 2, 2, .bits32, .ro, .none, 0xFFFF, 0, .any⟩,
  ⟨0xA010, 0xA010, 1, 1, .bool, .rw, .live, 0xFFFF, 0, .bool⟩,
  ⟨0xA010, 0xA010, 2, 2, .bool, .ro, .none, 0xFFFF, 0, .any⟩,
  ⟨0xA010, 0xA010, 3, 3, .u32, .ro, .none, 0xFFFF, 0, .any⟩,
  ⟨0xA011, 0xA011, 1, 20, .u32, .ro, .none, 0xFFFF, 0, .any⟩,
  ⟨0xA012, 0xA012, 1, 20, .u8, .ro, .none, 0xFFFF, 0, .any⟩,
  ⟨0xA040, 0xA040, 1, 4, .u64, .ro, .none, 0xFFFF, 0, .any⟩,
  ⟨0xA040, 0xA040, 5, 5, .u32, .rw, .live, 0xFFFF, 0, (.range 0 16777215)⟩,
  ⟨0xA040, 0xA040, 6, 6, .u32, .ro, .none, 0xFFFF, 0, .any⟩,
  ⟨0xA040, 0xA040, 7, 7, .u32, .ro, .none, 0xFFFF, 0, .any⟩,
  ⟨0xA040, 0xA040, 8, 8, .u16, .ro, .none, 0xFFFF, 0, .any⟩,
  ⟨0xA040, 0xA040, 9, 9, .u16, .ro, .none, 0xFFFF, 1536, .any⟩,
  ⟨0xA040, 0xA040, 10, 10, .bool, .w1s, .live, 0xFFFF, 0, .bool⟩,
  ⟨0xA040, 0xA040, 11, 11, .u32, .ro, .none, 0xFFFF, 0, .any⟩,
  ⟨0xA040, 0xA040, 12, 12, .u32, .ro, .none, 0xFFFF, 0, .any⟩,
  ⟨0xA040, 0xA040, 13, 13, .bool, .ro, .none, 0xFFFF, 0, .any⟩,
  ⟨0xA040, 0xA040, 14, 14, .u8, .ro, .none, 0xFFFF, 0, .any⟩,
  ⟨0xA040, 0xA040, 15, 15, .bool, .w1s, .live, 0xFFFF, 0, .bool⟩,
  ⟨0xA040, 0xA040, 16, 16, .enum, .ro, .none, 0xFFFF, 0, .any⟩,
  ⟨0xA040, 0xA040, 17, 17, .u16, .ro, .none, 0xFFFF, 0, .any⟩,
  ⟨0xA050, 0xA050, 1, 1, .u16, .rw, .live, 0xFFFF, 32768, (.range 32768 65535)⟩,
  ⟨0xA050, 0xA050, 2, 4, .u32, .rw, .live, 0xFFFF, 0, .any⟩,
  ⟨0xA050, 0xA050, 5, 5, .enum, .rw, .live, 0xFFFF, 0, (.enum [0, 2])⟩,
  ⟨0xA050, 0xA050, 6, 6, .bool, .w1s, .live, 0xFFFF, 0, .bool⟩,
  ⟨0xA200, 0xA203, 1, 128, .u16, .rw, .live, 0x7FFF, 0, (.bits 0xF)⟩]

/-- Rows of spec/20 R475. -/
def objRowsBa : List ObjRow := [
  ⟨0xB000, 0xB000, 1, 1, .enum, .ro, .none, 0xFFFF, 0, .any⟩,
  ⟨0xB000, 0xB000, 2, 2, .enum, .ro, .none, 0xFFFF, 0, .any⟩,
  ⟨0xB000, 0xB000, 3, 3, .enum, .ro, .none, 0xFFFF, 0, .any⟩,
  ⟨0xB000, 0xB000, 4, 4, .u8, .ro, .none, 0xFFFF, 0, .any⟩,
  ⟨0xB000, 0xB000, 5, 5, .u16, .ro, .none, 0xFFFF, 0, .any⟩,
  ⟨0xB000, 0xB000, 6, 6, .enum, .ro, .none, 0xFFFF, 0, .any⟩,
  ⟨0xB000, 0xB000, 7, 7, .bool, .w1s, .live, 0x7FFF, 0, .bool⟩,
  ⟨0xB001, 0xB001, 1, 1, .enum, .rw, .live, 0xFFFC, 0, (.enum [0, 1, 2, 3, 4])⟩,
  ⟨0xB001, 0xB001, 2, 2, .u16, .rw, .live, 0x7FFF, 0, (.enum0 5400 7200)⟩,
  ⟨0xB001, 0xB001, 3, 3, .u16, .rw, .live, 0x7FFF, 6500, (.range 4500 12000)⟩,
  ⟨0xB001, 0xB001, 4, 4, .u16, .rw, .live, 0x7FFF, 100, (.range 10 10000)⟩,
  ⟨0xB002, 0xB002, 1, 5, .u16, .rw, (.halt .hostLink), 0x7FFD, 0, .any⟩,
  ⟨0xB003, 0xB003, 1, 5, .u32, .rw, (.halt .hostLink), 0x7FFD, 0, .any⟩,
  ⟨0xB004, 0xB004, 1, 5, .u32, .rw, (.halt .hostLink), 0x7FFD, 0, .any⟩,
  ⟨0xB010, 0xB010, 1, 1, .u16, .rw, .live, 0x7FFF, 9000, (.range 4500 12000)⟩,
  ⟨0xB010, 0xB010, 2, 2, .u16, .rw, .live, 0x7FFF, 3000, (.range 1000 3100)⟩,
  ⟨0xB010, 0xB010, 3, 3, .u16, .ro, .none, 0xFFFF, 9000, .any⟩,
  ⟨0xB010, 0xB010, 4, 4, .u16, .ro, .none, 0xFFFF, 3000, .any⟩,
  ⟨0xB010, 0xB010, 5, 5, .bits32, .ro, .none, 0xFFFF, 0, .any⟩,
  ⟨0xB010, 0xB010, 6, 6, .u16, .ro, .none, 0xFFFF, 0, .any⟩,
  ⟨0xB010, 0xB010, 7, 7, .u16, .ro, .none, 0xFFFF, 0, .any⟩,
  ⟨0xB010, 0xB010, 8, 8, .bool, .ro, .none, 0xFFFF, 0, .any⟩,
  ⟨0xB010, 0xB010, 9, 9, .u8, .ro, .none, 0xFFFF, 0, .any⟩,
  ⟨0xB010, 0xB010, 10, 10, .u16, .rw, .live, 0x7FFF, 10, (.range 1 1000)⟩,
  ⟨0xB020, 0xB020, 1, 1, .i16, .ro, .none, 0xFFFF, 0, .any⟩,
  ⟨0xB020, 0xB020, 2, 2, .enum, .ro, .none, 0xFFFF, 0, .any⟩,
  ⟨0xB020, 0xB020, 3, 3, .u8, .ro, .none, 0xFFFF, 0, .any⟩,
  ⟨0xB020, 0xB020, 4, 4, .u8, .ro, .none, 0xFFFF, 0, .any⟩,
  ⟨0xB020, 0xB020, 5, 5, .i16, .rw, .live, 0x7FFF, 95, (.range 60 100)⟩,
  ⟨0xB020, 0xB020, 6, 6, .i16, .rw, .live, 0x7FFF, 105, (.range 80 105)⟩,
  ⟨0xB020, 0xB020, 7, 7, .i16, .ro, .none, 0xFFFF, 115, .any⟩,
  ⟨0xB020, 0xB020, 8, 8, .i16, .ro, .none, 0xFFFF, 125, .any⟩,
  ⟨0xB020, 0xB020, 9, 9, .u16, .rw, .live, 0x7FFF, 100, (.range 50 1000)⟩,
  ⟨0xB020, 0xB020, 10, 10, .u16, .rw, .live, 0x7FFF, 1000, (.range 500 60000)⟩,
  ⟨0xB020, 0xB020, 11, 11, .u8, .rw, .live, 0x7FFF, 6, (.range 1 12)⟩,
  ⟨0xB020, 0xB020, 12, 12, .u16, .rw, .live, 0x7FFF, 800, (.range 400 1600)⟩,
  ⟨0xB020, 0xB020, 13, 13, .bool, .ro, .none, 0xFFFF, 0, .any⟩,
  ⟨0xB021, 0xB021, 1, 1, .u32, .ro, .none, 0xFFFF, 0, .any⟩,
  ⟨0xB021, 0xB021, 2, 2, .u32, .ro, .none, 0xFFFF, 0, .any⟩,
  ⟨0xB021, 0xB021, 3, 3, .u32, .ro, .none, 0xFFFF, 0, .any⟩]

/-- Rows of spec/20 R475. -/
def objRowsBb : List ObjRow := [
  ⟨0xB021, 0xB021, 4, 4, .u32, .ro, .none, 0xFFFF, 0, .any⟩,
  ⟨0xB021, 0xB021, 5, 5, .u32, .ro, .none, 0xFFFF, 0, .any⟩,
  ⟨0xB021, 0xB021, 6, 6, .u32, .ro, .none, 0xFFFF, 0, .any⟩,
  ⟨0xB021, 0xB021, 15, 15, .bool, .w1s, .live, 0x7FFF, 0, .bool⟩,
  ⟨0xB030, 0xB030, 1, 40, .i16, .ro, .none, 0xFFFF, 0, .any⟩,
  ⟨0xB031, 0xB031, 1, 1, .bits32, .w1c, .live, 0x7FFF, 0, (.bits 0xFFFFFFFF)⟩,
  ⟨0xB031, 0xB031, 2, 2, .bits32, .w1c, .live, 0x7FFF, 0, (.bits 0xFF)⟩,
  ⟨0xB040, 0xB040, 1, 1, .bool, .rw, .live, 0x7FFF, 1, .bool⟩,
  ⟨0xB040, 0xB040, 2, 2, .i32, .ro, .none, 0xFFFF, 0, .any⟩,
  ⟨0xB040, 0xB040, 3, 3, .bits32, .ro, .none, 0xFFFF, 7, .any⟩,
  ⟨0xB100, 0xB100, 1, 52, .enum, .rw, .live, 0x7FFF, 0, (.enum [0, 1, 2])⟩,
  ⟨0xB101, 0xB101, 1, 52, .enum, .ro, .none, 0xFFFF, 0, .any⟩]

/-- Rows of spec/10 R241, spec/10 R242. -/
def objRowsCa : List ObjRow := [
  ⟨0xC000, 0xC000, 1, 1, .enum, .ro, .none, 0xFFFF, 0, .any⟩,
  ⟨0xC000, 0xC000, 2, 2, .enum, .rw, .live, 0x7FFD, 0, (.enum [0, 1, 2])⟩,
  ⟨0xC000, 0xC000, 3, 3, .bool, .w1s, .live, 0x7FFD, 0, .bool⟩,
  ⟨0xC000, 0xC000, 4, 4, .enum, .ro, .none, 0xFFFF, 0, .any⟩,
  ⟨0xC000, 0xC000, 5, 5, .u16, .ro, .none, 0xFFFF, 0, .any⟩,
  ⟨0xC000, 0xC000, 6, 6, .u16, .ro, .none, 0xFFFF, 0, .any⟩,
  ⟨0xC000, 0xC000, 7, 7, .u8, .ro, .none, 0xFFFF, 0, .any⟩,
  ⟨0xC000, 0xC000, 8, 8, .u32, .ro, .none, 0xFFFF, 0, .any⟩,
  ⟨0xC000, 0xC000, 9, 9, .enum, .ro, .none, 0xFFFF, 0, .any⟩,
  ⟨0xC000, 0xC000, 10, 10, .u32, .ro, .none, 0xFFFF, 0, .any⟩,
  ⟨0xC000, 0xC000, 11, 11, .u32, .ro, .none, 0xFFFF, 0, .any⟩,
  ⟨0xC000, 0xC000, 12, 12, .u32, .ro, .none, 0xFFFF, 0, .any⟩,
  ⟨0xC001, 0xC001, 1, 1, .bits32, .ro, .none, 0xFFFF, 0, .any⟩,
  ⟨0xC001, 0xC001, 2, 2, .bits32, .rw, .live, 0x7FFD, 0, (.bits 0xFFFFFFFF)⟩,
  ⟨0xC001, 0xC001, 3, 3, .bits32, .w1s, .live, 0x7FFD, 0, (.bits 0xFF)⟩,
  ⟨0xC002, 0xC002, 1, 1, .bool, .rw, (.halt .trellis), 0x7FFD, 0, .bool⟩,
  ⟨0xC002, 0xC002, 2, 2, .u64, .rw, (.halt .trellis), 0x7FFD, 0, (.bits 0xFFFFFFFFC0)⟩,
  ⟨0xC002, 0xC002, 3, 3, .u32, .rw, (.halt .trellis), 0x7FFD, 0, (.align 64)⟩,
  ⟨0xC002, 0xC002, 4, 4, .u16, .rw, (.halt .trellis), 0x7FFD, 0, (.range 0 511)⟩,
  ⟨0xC002, 0xC002, 5, 5, .u16, .rw, (.halt .trellis), 0x7FFD, 0, (.range 0 512)⟩,
  ⟨0xC003, 0xC003, 1, 16, .u16, .ro, .none, 0xFFFF, 0, .any⟩,
  ⟨0xC004, 0xC004, 1, 1, .u32, .ro, .none, 0xFFFF, 0, .any⟩,
  ⟨0xC004, 0xC004, 2, 2, .u32, .ro, .none, 0xFFFF, 0, .any⟩,
  ⟨0xC004, 0xC004, 3, 3, .u32, .ro, .none, 0xFFFF, 0, .any⟩,
  ⟨0xC004, 0xC004, 4, 4, .u32, .ro, .none, 0xFFFF, 0, .any⟩,
  ⟨0xC004, 0xC004, 5, 5, .u32, .ro, .none, 0xFFFF, 0, .any⟩,
  ⟨0xC004, 0xC004, 6, 6, .u16, .ro, .none, 0xFFFF, 0, .any⟩,
  ⟨0xC004, 0xC004, 15, 15, .bool, .w1s, .live, 0xFFFF, 0, .bool⟩,
  ⟨0xC010, 0xC010, 1, 64, .u32, .ro, .none, 0xFFFF, 0, .any⟩,
  ⟨0xC800, 0xC800, 1, 1, .u32, .ro, .none, 0xFFFF, 0, .any⟩,
  ⟨0xC800, 0xC800, 2, 2, .u32, .ro, .none, 0xFFFF, 0, .any⟩,
  ⟨0xC800, 0xC800, 3, 3, .bool, .ro, .none, 0xFFFF, 0, .any⟩,
  ⟨0xC800, 0xC800, 4, 4, .u32, .ro, .none, 0xFFFF, 0, .any⟩]

/-- Rows of spec/19 R439. -/
def objRowsFa : List ObjRow := [
  ⟨0xF100, 0xF100, 1, 1, .u16, .rw, .live, 0x7FFD, 0, (.range 0 511)⟩,
  ⟨0xF100, 0xF100, 2, 4, .u32, .rw, .live, 0x7FFD, 0, .any⟩,
  ⟨0xF100, 0xF100, 5, 5, .bool, .w1s, .live, 0x7FFD, 0, .bool⟩]

/-- The table, by the top digit of the index. -/
def objRows (nib : Nat) : List ObjRow :=
  match nib with
  | 0x1 => objRows1a
  | 0x2 => objRows2a ++ objRows2b ++ objRows2c
  | 0x3 => objRows3a ++ objRows3b ++ objRows3c
  | 0x4 => objRows4a ++ objRows4b
  | 0x5 => objRows5a ++ objRows5b ++ objRows5c ++ objRows5d
  | 0x6 => objRows6a ++ objRows6b ++ objRows6c
  | 0x7 => objRows7a ++ objRows7b
  | 0x8 => objRows8a
  | 0x9 => objRows9a ++ objRows9b
  | 0xA => objRowsAa
  | 0xB => objRowsBa ++ objRowsBb
  | 0xC => objRowsCa
  | 0xF => objRowsFa
  | _ => []

/-- Event numbers with their default class, part 1. -/
def eventClassesa : List (Nat × Nat) := [
  (0, 0), (1, 1), (2, 1), (3, 2), (4, 0), (5, 0), (6, 1), (7, 0), (8, 0), (9, 1), (10, 2), (11, 0), (12, 1), (32, 1), (33, 1), (34, 2), (35, 1), (36, 0), (37, 0), (38, 1), (39, 1), (40, 4), (41, 1), (42, 2), (64, 0), (65, 1), (66, 0), (67, 2), (68, 0), (69, 1), (70, 1), (71, 1), (72, 4), (73, 1), (74, 1), (75, 0), (76, 2), (77, 3), (78, 3), (79, 1)]

/-- Event numbers with their default class, part 2. -/
def eventClassesb : List (Nat × Nat) := [
  (80, 1), (81, 0), (82, 1), (83, 2), (84, 1), (85, 0), (86, 1), (87, 0), (88, 0), (89, 1), (90, 0), (96, 0), (97, 0), (98, 1), (99, 2), (100, 1), (101, 1), (102, 1), (103, 0), (104, 0), (105, 2), (106, 0), (107, 1), (108, 1), (109, 0), (110, 2), (111, 1), (112, 3), (113, 1), (114, 2), (115, 1), (116, 0), (117, 0), (118, 0), (119, 0), (128, 0), (129, 0), (130, 0), (131, 1), (132, 1)]

/-- Event numbers with their default class, part 3. -/
def eventClassesc : List (Nat × Nat) := [
  (133, 1), (134, 0), (135, 1), (136, 1), (137, 0), (138, 0), (139, 1), (224, 0), (225, 0), (226, 1), (227, 1), (228, 1), (229, 0), (230, 0), (231, 0), (232, 1), (233, 1), (234, 3), (235, 1), (236, 0), (237, 1), (238, 1), (239, 1), (288, 3), (289, 3), (290, 4), (291, 0), (316, 1), (320, 1), (321, 0), (322, 0), (323, 0), (324, 0), (325, 1), (326, 1), (327, 0), (328, 1), (329, 2), (330, 1), (331, 1)]

/-- Event numbers with their default class, part 4. -/
def eventClassesd : List (Nat × Nat) := [
  (332, 1), (333, 0), (334, 1), (335, 1), (336, 0), (337, 1), (338, 1), (339, 0), (340, 0), (341, 1), (342, 4), (343, 0), (344, 1), (345, 0), (346, 0), (347, 3), (352, 1), (353, 1), (354, 1), (355, 1), (356, 0), (357, 1), (358, 0), (359, 0), (360, 0), (361, 1), (362, 0), (363, 0), (364, 3), (365, 3), (366, 0), (384, 0), (385, 1), (386, 0), (387, 1), (388, 1), (389, 0), (390, 1), (391, 0), (392, 3)]

/-- Event numbers with their default class, part 5. -/
def eventClassese : List (Nat × Nat) := [
  (400, 0), (401, 1), (402, 1), (403, 0), (404, 1), (405, 0), (406, 0), (407, 1), (408, 0), (409, 0), (410, 1), (411, 2), (412, 1), (413, 4), (432, 1), (433, 1), (434, 0), (435, 1), (436, 0), (437, 0), (438, 1), (440, 4), (448, 0), (449, 1), (450, 0), (451, 0), (452, 1), (453, 1), (454, 0), (455, 0), (456, 1), (457, 1), (458, 1), (459, 3), (464, 1), (465, 1), (466, 1), (467, 0), (468, 0), (469, 2)]

/-- Event numbers with their default class, part 6. -/
def eventClassesf : List (Nat × Nat) := [
  (470, 1), (471, 1), (472, 0), (473, 1), (474, 0), (475, 1), (476, 1), (477, 1), (478, 4), (479, 1), (480, 1), (481, 0), (482, 0), (483, 1), (484, 1), (485, 4), (490, 0), (491, 1), (492, 2), (493, 0), (496, 0), (497, 1), (498, 0)]

/-- Default reaction class of each event source, by the source's number in its first unit: 0 none, 1 notify,
2 degrade, 3 block reset, 4 Safe (the event tables of spec/02 to spec/20). A number not listed is reserved. -/
def eventClasses : List (Nat × Nat) := eventClassesa ++ eventClassesb ++ eventClassesc ++ eventClassesd ++ eventClassese ++ eventClassesf

/-- The index of an object in the first instance of its unit. Actuator 1 lies at + 0x800 (R101, R120, R146), slot q at
+ 0x400 × q (R148), Trellis engine n at + 0x100 × n (R241), Pantry queue q and Sieve engine n and Sheaf port p at + q,
n, p (R358, R378, R300), and object 0x4010 exists once (R121). -/
def baseIndex (i : Nat) : Nat :=
  if 0x1061 ≤ i ∧ i ≤ 0x1063 then 0x1060
  else if 0x3800 ≤ i ∧ i < 0x4000 then i - 0x800
  else if i = 0x4810 then 0
  else if 0x4800 ≤ i ∧ i < 0x5000 then i - 0x800
  else if 0x5000 ≤ i ∧ i < 0x6000 then 0x5000 + i % 0x400
  else if 0x6111 ≤ i ∧ i ≤ 0x6113 then 0x6110
  else if 0x7800 ≤ i ∧ i < 0x7A00 then 0x7800
  else if 0x7A00 ≤ i ∧ i < 0x7C00 then 0x7A00
  else if 0x8011 ≤ i ∧ i ≤ 0x8017 then 0x8010
  else if 0xA021 ≤ i ∧ i ≤ 0xA033 then 0xA020
  else if 0xA041 ≤ i ∧ i ≤ 0xA042 then 0xA040
  else if 0xC100 ≤ i ∧ i < 0xC700 then 0xC000 + i % 0x100
  else i

/-- The index an access reaches: slot B windows alias the actuator-wide objects of the slot A window (R148, R216), and
every window aliases the module-wide detection objects of ACT[0].SLOT[A] (R198). -/
def aliasIndex (i : Nat) : Nat :=
  if 0x5000 ≤ i ∧ i < 0x6000 then
    let off := i % 0x400
    let q := (i - 0x5000) / 0x400
    if 0x300 ≤ off ∧ off < 0x340 then 0x5000 + off
    else if q % 2 = 1 ∧ (0x080 ≤ off ∧ off < 0x0C0 ∨ 0x280 ≤ off ∧ off < 0x2C0) then i - 0x400
    else i
  else i

/-- The row of an object, subindex 0x00 apart. -/
def findRow (i sub : Nat) : Option ObjRow :=
  let b := baseIndex i
  (objRows (b / 0x1000)).find? fun r => r.ilo ≤ b && b ≤ r.ihi && r.slo ≤ sub && sub ≤ r.shi

/-- Highest subindex of an index: the value of its entry_count (R380); 0 where the index holds no object. -/
def entryCount (i : Nat) : Nat :=
  let b := baseIndex i
  (objRows (b / 0x1000)).foldl (fun m r => if r.ilo ≤ b ∧ b ≤ r.ihi ∧ m < r.shi then r.shi else m) 0

/-- The row of any object, with entry_count at subindex 0x00 (U8, RO; R380). -/
def objRow (i sub : Nat) : Option ObjRow :=
  if sub = 0 then
    if entryCount i = 0 then none
    else some ⟨i, i, 0, 0, .u8, .ro, .none, 0xFFFF, entryCount i, .any⟩
  else findRow i sub

/-- ACT[a] is populated (R3). -/
def hasAct (v : Variant) (a : Nat) : Bool := a == 0 || (a == 1 && v != .p120)
/-- Slot q = 2a + s is populated (R3). -/
def hasSlot (v : Variant) (q : Nat) : Bool := q == 0 || (q < 4 && v != .p120)
/-- SIEVE[n] is populated (R3). -/
def hasSieve (v : Variant) : Bool := v == .xe || v == .xp
/-- The Ethernet unit is populated (R3). -/
def hasEth (v : Variant) : Bool := v == .xe
/-- TRL[n] is populated (R3, R16). -/
def hasTrl (v : Variant) (n : Nat) : Bool := n < 7 && (v != .p120 || n == 0 || n == 2 || n == 6)

/-- Power domains absent in a variant (the table under R5). -/
def domainAbsent (v : Variant) (d : Nat) : Bool :=
  match v with
  | .xe => false
  | .xp => d == 19 || d == 20
  | .p32 => d == 19 || d == 20 || (25 ≤ d && d ≤ 33)
  | .p120 => d == 19 || d == 20 || (25 ≤ d && d ≤ 33) || d == 37 || d == 39 || (44 ≤ d && d ≤ 51)

/-- The object belongs to a unit that the variant does not populate (R5, R298, R426). -/
def unitAbsent (v : Variant) (i : Nat) : Bool :=
  (!hasAct v 1 && ((0x3800 ≤ i && i < 0x4000) || (0x4800 ≤ i && i < 0x5000) || (0x5400 ≤ i && i < 0x6000) || i == 0x2811
      || i == 0xA023 || (0xA025 ≤ i && i ≤ 0xA027)))
    || (0xC000 ≤ i && i < 0xC700 && !hasTrl v ((i - 0xC000) / 0x100))
    || (!hasSieve v && ((0x8000 ≤ i && i < 0x8400) || i == 0xA02F))
    || (!hasEth v && (i == 0x6810 || i == 0xA02C))

/-- The number of an event source in the first unit of its kind (R102, R148, R232). -/
def eventBase (e : Nat) : Nat :=
  if 160 ≤ e ∧ e < 224 then e - 64
  else if 240 ≤ e ∧ e < 288 then 224 + (e - 224) % 16
  else if 288 ≤ e ∧ e < 316 then 288 + (e - 288) % 4
  else e

/-- The number is not reserved. Events 238 and 239 exist for each actuator, not for each slot (R147). -/
def eventDefined (e : Nat) : Bool :=
  e < 512 && !(e == 254 || e == 255 || e == 286 || e == 287) && eventClasses.any fun p => p.1 == eventBase e

/-- Default reaction class of a source. -/
def eventDefaultClass (e : Nat) : Nat := ((eventClasses.find? fun p => p.1 == eventBase e).map (·.2)).getD 0

/-- Block of a source: its status object is 0xA020 + the block (R426). -/
def eventBlock (e : Nat) : Nat :=
  if e < 32 then 8 else if e < 64 then 18 else if e < 80 then 1 else if e < 96 then 0 else if e < 160 then 2
  else if e < 224 then 3 else if e < 288 then 4 + (e - 224) / 16 else if e < 320 then 10 else if e < 352 then 9
  else if e < 384 then 11 else if e < 400 then 12 else if e < 432 then 13 else if e < 448 then 14
  else if e < 464 then 15 else if e < 480 then 16 else if e < 496 then 17 else 19

/-- First source of a block and the number of its sources (R426). -/
def blockFirst (b : Nat) : Nat :=
  match b with
  | 0 => 80 | 1 => 64 | 2 => 96 | 3 => 160 | 4 => 224 | 5 => 240 | 6 => 256 | 7 => 272 | 8 => 0 | 9 => 320 | 10 => 288
  | 11 => 352 | 12 => 384 | 13 => 400 | 14 => 432 | 15 => 448 | 16 => 464 | 17 => 480 | 18 => 32 | _ => 496
/-- Number of sources of a block (R426). -/
def blockSize (b : Nat) : Nat :=
  match b with
  | 0 => 16 | 1 => 16 | 2 => 64 | 3 => 64 | 4 => 16 | 5 => 16 | 6 => 16 | 7 => 16 | 8 => 32 | 9 => 32 | 10 => 32
  | 11 => 32 | 12 => 16 | 13 => 32 | 14 => 16 | 15 => 16 | 16 => 16 | 17 => 16 | 18 => 32 | _ => 16

/-- The source belongs to a unit that the variant does not populate, so it never latches (R5, R426). -/
def eventAbsent (v : Variant) (e : Nat) : Bool :=
  unitAbsent v (0xA020 + eventBlock e) || (288 ≤ e && e < 316 && !hasTrl v ((e - 288) / 4))

/-- The value an object holds when nothing has changed it since power-on reset: its default (R394), its reset value,
or its fused value. Fused and fixed values that the spec does not state are 0. DESIGN CHOICE (log 2). -/
def defaultOf (v : Variant) (k : Key) : Word :=
  let i := k / 256
  let s := k % 256
  match i with
  | 0x1020 =>
    match s with
    | 1 => match v with | .xe => 1 | .xp => 2 | .p32 => 3 | .p120 => 4
    | 2 => if hasAct v 1 then 3 else 1
    | 3 => if hasSlot v 1 then 0xF else 1
    | 4 => if hasSieve v then 0xFF else 0
    | 5 => if hasEth v then 1 else 0
    | 6 => match v with | .xe => 0 | .xp => 0x00180000 | .p32 => 0xFE180000 | .p120 => 0xFE180000
    | 7 => match v with | .xe => 0 | .xp => 0 | .p32 => 3 | .p120 => 0x000FF0A3
    | _ => 7
  | 0x3700 => if s = 1 then (if hasSlot v 1 then 1 else 0) else rowDefault i s
  | 0x3F00 => if s = 1 then (if hasSlot v 1 then 1 else 0) else rowDefault i s
  | 0x3301 => if s = 1 ∨ s = 6 then 0x10000000 else rowDefault i s
  | 0x3302 => if s = 1 ∨ s = 6 then 0x10000000 else rowDefault i s
  | 0x3B01 => if s = 1 ∨ s = 6 then 0x10000000 else rowDefault i s
  | 0x3B02 => if s = 1 ∨ s = 6 then 0x10000000 else rowDefault i s
  | 0xB002 => match s with | 1 => 900 | 2 => 650 | 3 => 450 | 4 => 350 | _ => if s = 5 then 150 else rowDefault i s
  | 0xB003 => match s with | 3 => 5000 | 4 => 1000000 | _ => if s = 5 then 10000000 else rowDefault i s
  | 0xB004 => match s with | 3 => 5000 | 4 => 1000000 | _ => if s = 5 then 12000000 else rowDefault i s
  | 0xB101 =>
    if s = 0 then rowDefault i s
    else if domainAbsent v (s - 1) then 0 else if s = 1 then 3 else 1
  | _ =>
    if 0xA200 ≤ i ∧ i ≤ 0xA203 ∧ s ≠ 0 then
      BitVec.ofNat 64 (8 + eventDefaultClass ((i - 0xA200) * 128 + (s - 1)))
    else rowDefault i s
where
  /-- The default of the table row, 0 where there is no object. -/
  rowDefault (i s : Nat) : Word := match objRow i s with
    | some r => BitVec.ofNat 64 r.dflt
    | none => 0

/-- variant_code, 0x1020:01 (spec/01 R28). -/
def K.presVariantCode : Key := (0x1020) * 256 + (1)
/-- act_present, 0x1020:02 (spec/01 R28). -/
def K.presActPresent : Key := (0x1020) * 256 + (2)
/-- slot_present, 0x1020:03 (spec/01 R28). -/
def K.presSlotPresent : Key := (0x1020) * 256 + (3)
/-- sieve_present, 0x1020:04 (spec/01 R28). -/
def K.presSievePresent : Key := (0x1020) * 256 + (4)
/-- eth_present, 0x1020:05 (spec/01 R28). -/
def K.presEthPresent : Key := (0x1020) * 256 + (5)
/-- domain_absent_lo, 0x1020:06 (spec/01 R28). -/
def K.presDomainAbsentLo : Key := (0x1020) * 256 + (6)
/-- domain_absent_hi, 0x1020:07 (spec/01 R28). -/
def K.presDomainAbsentHi : Key := (0x1020) * 256 + (7)
/-- state, 0x2800:01 (spec/02 R52). -/
def K.sunState : Key := (0x2800) * 256 + (1)
/-- zero_known, 0x2800:02 (spec/02 R52). -/
def K.sunZeroKnown : Key := (0x2800) * 256 + (2)
/-- zero_source, 0x2800:03 (spec/02 R52). -/
def K.sunZeroSource : Key := (0x2800) * 256 + (3)
/-- lock_sources, 0x2800:04 (spec/02 R52). -/
def K.sunLockSources : Key := (0x2800) * 256 + (4)
/-- phase_error, 0x2800:05 (spec/02 R52). -/
def K.sunPhaseError : Key := (0x2800) * 256 + (5)
/-- rev_period_ns, 0x2800:06 (spec/02 R52). -/
def K.sunRevPeriodNs : Key := (0x2800) * 256 + (6)
/-- angle_stamp, 0x2801:01 (spec/02 R52). -/
def K.sunAngleStamp : Key := (0x2801) * 256 + (1)
/-- us_counter, 0x2801:02 (spec/02 R52). -/
def K.sunUsCounter : Key := (0x2801) * 256 + (2)
/-- snapshot, 0x2801:03 (spec/02 R52). -/
def K.sunSnapshot : Key := (0x2801) * 256 + (3)
/-- snap_angle, 0x2801:04 (spec/02 R52). -/
def K.sunSnapAngle : Key := (0x2801) * 256 + (4)
/-- snap_us, 0x2801:05 (spec/02 R52). -/
def K.sunSnapUs : Key := (0x2801) * 256 + (5)
/-- wedges_per_rev, 0x2802:01 (spec/02 R52). -/
def K.sunWedgesPerRev : Key := (0x2802) * 256 + (1)
/-- accept_window, 0x2802:02 (spec/02 R52). -/
def K.sunAcceptWindow : Key := (0x2802) * 256 + (2)
/-- lock_count, 0x2802:03 (spec/02 R52). -/
def K.sunLockCount : Key := (0x2802) * 256 + (3)
/-- lock_error_ps, 0x2802:04 (spec/02 R52). -/
def K.sunLockErrorPs : Key := (0x2802) * 256 + (4)
/-- miss_limit, 0x2802:05 (spec/02 R52). -/
def K.sunMissLimit : Key := (0x2802) * 256 + (5)
/-- rebase_threshold, 0x2802:06 (spec/02 R52). -/
def K.sunRebaseThreshold : Key := (0x2802) * 256 + (6)
/-- sundial_enable, 0x2802:07 (spec/02 R52). -/
def K.sunSundialEnable : Key := (0x2802) * 256 + (7)
/-- loss_error_ps, 0x2802:08 (spec/02 R52). -/
def K.sunLossErrorPs : Key := (0x2802) * 256 + (8)
/-- pole_pairs, 0x2803:01 (spec/02 R52). -/
def K.sunPolePairs : Key := (0x2803) * 256 + (1)
/-- observer_use, 0x2803:02 (spec/02 R52). -/
def K.sunObserverUse : Key := (0x2803) * 256 + (2)
/-- free_limit_us, 0x2803:03 (spec/02 R52). -/
def K.sunFreeLimitUs : Key := (0x2803) * 256 + (3)
/-- sync_enable, 0x2804:01 (spec/02 R52). -/
def K.sunSyncEnable : Key := (0x2804) * 256 + (1)
/-- sync_divider, 0x2804:02 (spec/02 R52). -/
def K.sunSyncDivider : Key := (0x2804) * 256 + (2)
/-- sync_offset, 0x2804:03 (spec/02 R52). -/
def K.sunSyncOffset : Key := (0x2804) * 256 + (3)
/-- sync_state, 0x2804:04 (spec/02 R52). -/
def K.sunSyncState : Key := (0x2804) * 256 + (4)
/-- sync_error, 0x2804:05 (spec/02 R52). -/
def K.sunSyncError : Key := (0x2804) * 256 + (5)
/-- speed_trim_ppm, 0x2804:06 (spec/02 R52). -/
def K.sunSpeedTrimPpm : Key := (0x2804) * 256 + (6)
/-- sync_polarity, 0x2804:07 (spec/02 R52). -/
def K.sunSyncPolarity : Key := (0x2804) * 256 + (7)
/-- drop_count, 0x2805:01 (spec/02 R52). -/
def K.sunDropCount : Key := (0x2805) * 256 + (1)
/-- rebase_count, 0x2805:02 (spec/02 R52). -/
def K.sunRebaseCount : Key := (0x2805) * 256 + (2)
/-- wedge_reject_count, 0x2805:03 (spec/02 R52). -/
def K.sunWedgeRejectCount : Key := (0x2805) * 256 + (3)
/-- sync_ignored_count, 0x2805:04 (spec/02 R52). -/
def K.sunSyncIgnoredCount : Key := (0x2805) * 256 + (4)
/-- sync_lost_count, 0x2805:05 (spec/02 R52). -/
def K.sunSyncLostCount : Key := (0x2805) * 256 + (5)
/-- alarm_skipped_count, 0x2805:06 (spec/02 R52). -/
def K.sunAlarmSkippedCount : Key := (0x2805) * 256 + (6)
/-- write_interrupt_count, 0x2805:07 (spec/02 R52). -/
def K.sunWriteInterruptCount : Key := (0x2805) * 256 + (7)
/-- counters_clear, 0x2805:0F (spec/02 R52). -/
def K.sunCountersClear2805 : Key := (0x2805) * 256 + (15)
/-- head_skew[0][0–11], 0x2810:01 (spec/02 R52). -/
def K.sunHeadSkew (a h : Nat) : Key := (0x2810 + a) * 256 + (1 + h)
/-- alarm, 0x2840:01 (spec/02 R52). -/
def K.sunAlarm (n : Nat) : Key := (0x2840 + n / 4) * 256 + (1 + n % 4)
/-- alarm_fired[0–7], 0x2880:01 (spec/02 R52). -/
def K.sunAlarmFired (i : Nat) : Key := (0x2880) * 256 + (1 + i)
/-- alarm_skipped[0–7], 0x2881:01 (spec/02 R52). -/
def K.sunAlarmSkipped (i : Nat) : Key := (0x2881) * 256 + (1 + i)
/-- spin_enable, 0x2000:01 (spec/03 R76). -/
def K.spinSpinEnable : Key := (0x2000) * 256 + (1)
/-- target_rpm, 0x2000:02 (spec/03 R76). -/
def K.spinTargetRpm : Key := (0x2000) * 256 + (2)
/-- state, 0x2000:03 (spec/03 R76). -/
def K.spinState : Key := (0x2000) * 256 + (3)
/-- speed_crpm, 0x2000:04 (spec/03 R76). -/
def K.spinSpeedCrpm : Key := (0x2000) * 256 + (4)
/-- at_speed, 0x2000:05 (spec/03 R76). -/
def K.spinAtSpeed : Key := (0x2000) * 256 + (5)
/-- load_permit, 0x2000:06 (spec/03 R76). -/
def K.spinLoadPermit : Key := (0x2000) * 256 + (6)
/-- speed_capped, 0x2000:07 (spec/03 R76). -/
def K.spinSpeedCapped : Key := (0x2000) * 256 + (7)
/-- comm_source, 0x2000:08 (spec/03 R76). -/
def K.spinCommSource : Key := (0x2000) * 256 + (8)
/-- torque_cmd_unm, 0x2000:09 (spec/03 R76). -/
def K.spinTorqueCmdUnm : Key := (0x2000) * 256 + (9)
/-- modulation_pm, 0x2000:0A (spec/03 R76). -/
def K.spinModulationPm : Key := (0x2000) * 256 + (10)
/-- phase_current_ma, 0x2000:0B (spec/03 R76). -/
def K.spinPhaseCurrentMa : Key := (0x2000) * 256 + (11)
/-- brake_cause, 0x2000:0C (spec/03 R76). -/
def K.spinBrakeCause : Key := (0x2000) * 256 + (12)
/-- torque_band_unm, 0x2010:01 (spec/03 R76). -/
def K.spinTorqueBandUnm : Key := (0x2010) * 256 + (1)
/-- flux_band_pm, 0x2010:02 (spec/03 R76). -/
def K.spinFluxBandPm : Key := (0x2010) * 256 + (2)
/-- flux_ref_uwb, 0x2010:03 (spec/03 R76). -/
def K.spinFluxRefUwb : Key := (0x2010) * 256 + (3)
/-- depth_max_pm, 0x2010:04 (spec/03 R76). -/
def K.spinDepthMaxPm : Key := (0x2010) * 256 + (4)
/-- current_limit_ma, 0x2010:05 (spec/03 R76). -/
def K.spinCurrentLimitMa : Key := (0x2010) * 256 + (5)
/-- speed_kp, 0x2011:01 (spec/03 R76). -/
def K.spinSpeedKp : Key := (0x2011) * 256 + (1)
/-- speed_ki, 0x2011:02 (spec/03 R76). -/
def K.spinSpeedKi : Key := (0x2011) * 256 + (2)
/-- accel_limit_rpm_s, 0x2011:03 (spec/03 R76). -/
def K.spinAccelLimitRpmS : Key := (0x2011) * 256 + (3)
/-- torque_limit_unm, 0x2011:04 (spec/03 R76). -/
def K.spinTorqueLimitUnm : Key := (0x2011) * 256 + (4)
/-- rs_mohm, 0x2020:01 (spec/03 R76). -/
def K.spinRsMohm : Key := (0x2020) * 256 + (1)
/-- ls_uh, 0x2020:02 (spec/03 R76). -/
def K.spinLsUh : Key := (0x2020) * 256 + (2)
/-- ke_mv_krpm, 0x2020:03 (spec/03 R76). -/
def K.spinKeMvKrpm : Key := (0x2020) * 256 + (3)
/-- measure_max_ms, 0x2021:01 (spec/03 R76). -/
def K.spinMeasureMaxMs : Key := (0x2021) * 256 + (1)
/-- rest_rpm, 0x2021:02 (spec/03 R76). -/
def K.spinRestRpm : Key := (0x2021) * 256 + (2)
/-- emf_rest_mv, 0x2021:03 (spec/03 R76). -/
def K.spinEmfRestMv : Key := (0x2021) * 256 + (3)
/-- ipd_pulse_us, 0x2021:04 (spec/03 R76). -/
def K.spinIpdPulseUs : Key := (0x2021) * 256 + (4)
/-- ipd_current_ma, 0x2021:05 (spec/03 R76). -/
def K.spinIpdCurrentMa : Key := (0x2021) * 256 + (5)
/-- start_current_ma, 0x2021:06 (spec/03 R76). -/
def K.spinStartCurrentMa : Key := (0x2021) * 256 + (6)
/-- start_accel_rpm_s, 0x2021:07 (spec/03 R76). -/
def K.spinStartAccelRpmS : Key := (0x2021) * 256 + (7)
/-- handover_rpm, 0x2021:08 (spec/03 R76). -/
def K.spinHandoverRpm : Key := (0x2021) * 256 + (8)
/-- handover_max_rpm, 0x2021:09 (spec/03 R76). -/
def K.spinHandoverMaxRpm : Key := (0x2021) * 256 + (9)
/-- brake_current_ma, 0x2021:0A (spec/03 R76). -/
def K.spinBrakeCurrentMa : Key := (0x2021) * 256 + (10)
/-- brake_max_s, 0x2021:0B (spec/03 R76). -/
def K.spinBrakeMaxS : Key := (0x2021) * 256 + (11)
/-- converge_ms, 0x2021:0C (spec/03 R76). -/
def K.spinConvergeMs : Key := (0x2021) * 256 + (12)
/-- recatch_delay_ms, 0x2021:0D (spec/03 R76). -/
def K.spinRecatchDelayMs : Key := (0x2021) * 256 + (13)
/-- load_min_pct, 0x2022:01 (spec/03 R76). -/
def K.spinLoadMinPct : Key := (0x2022) * 256 + (1)
/-- unload_pct, 0x2022:02 (spec/03 R76). -/
def K.spinUnloadPct : Key := (0x2022) * 256 + (2)
/-- at_speed_tol_ppm, 0x2022:03 (spec/03 R76). -/
def K.spinAtSpeedTolPpm : Key := (0x2022) * 256 + (3)
/-- flux_err_pct, 0x2030:01 (spec/03 R76). -/
def K.spinFluxErrPct : Key := (0x2030) * 256 + (1)
/-- angle_err_deg, 0x2030:02 (spec/03 R76). -/
def K.spinAngleErrDeg : Key := (0x2030) * 256 + (2)
/-- ilimit_cycles, 0x2030:03 (spec/03 R76). -/
def K.spinIlimitCycles : Key := (0x2030) * 256 + (3)
/-- reconverge_deg, 0x2030:04 (spec/03 R76). -/
def K.spinReconvergeDeg : Key := (0x2030) * 256 + (4)
/-- reconverge_cycles, 0x2030:05 (spec/03 R76). -/
def K.spinReconvergeCycles : Key := (0x2030) * 256 + (5)
/-- comm_offset, 0x2030:06 (spec/03 R76). -/
def K.spinCommOffset : Key := (0x2030) * 256 + (6)
/-- hold_rail_mv, 0x2040:01 (spec/03 R76). -/
def K.spinHoldRailMv : Key := (0x2040) * 256 + (1)
/-- rectify_min_rpm, 0x2040:02 (spec/03 R76). -/
def K.spinRectifyMinRpm : Key := (0x2040) * 256 + (2)
/-- after_brake, 0x2040:03 (spec/03 R76). -/
def K.spinAfterBrake : Key := (0x2040) * 256 + (3)
/-- hold_rail_now_mv, 0x2040:04 (spec/03 R76). -/
def K.spinHoldRailNowMv : Key := (0x2040) * 256 + (4)
/-- depth_limited_count, 0x2060:01 (spec/03 R76). -/
def K.spinDepthLimitedCount : Key := (0x2060) * 256 + (1)
/-- speed_capped_count, 0x2060:02 (spec/03 R76). -/
def K.spinSpeedCappedCount : Key := (0x2060) * 256 + (2)
/-- catch_count, 0x2060:03 (spec/03 R76). -/
def K.spinCatchCount : Key := (0x2060) * 256 + (3)
/-- catch_fail_count, 0x2060:04 (spec/03 R76). -/
def K.spinCatchFailCount : Key := (0x2060) * 256 + (4)
/-- observer_loss_count, 0x2060:05 (spec/03 R76). -/
def K.spinObserverLossCount : Key := (0x2060) * 256 + (5)
/-- wedge_comm_count, 0x2060:06 (spec/03 R76). -/
def K.spinWedgeCommCount : Key := (0x2060) * 256 + (6)
/-- bridge_trip_count, 0x2060:07 (spec/03 R76). -/
def K.spinBridgeTripCount : Key := (0x2060) * 256 + (7)
/-- rectify_count, 0x2060:08 (spec/03 R76). -/
def K.spinRectifyCount : Key := (0x2060) * 256 + (8)
/-- counters_clear, 0x2060:0F (spec/03 R76). -/
def K.spinCountersClear2060 : Key := (0x2060) * 256 + (15)
/-- act_state, 0x3000:01 (spec/04 R101). -/
def K.actActState (a : Nat) : Key := (0x3000 + 0x800 * a) * 256 + (1)
/-- load_request, 0x3000:02 (spec/04 R101). -/
def K.actLoadRequest (a : Nat) : Key := (0x3000 + 0x800 * a) * 256 + (2)
/-- unload_request, 0x3000:03 (spec/04 R101). -/
def K.actUnloadRequest (a : Nat) : Key := (0x3000 + 0x800 * a) * 256 + (3)
/-- active_heads, 0x3000:04 (spec/04 R101). -/
def K.actActiveHeads (a : Nat) : Key := (0x3000 + 0x800 * a) * 256 + (4)
/-- servo_search_hold, 0x3000:05 (spec/04 R101). -/
def K.actServoSearchHold (a : Nat) : Key := (0x3000 + 0x800 * a) * 256 + (5)
/-- write_ok, 0x3000:06 (spec/04 R101). -/
def K.actWriteOk (a : Nat) : Key := (0x3000 + 0x800 * a) * 256 + (6)
/-- on_track_read, 0x3000:07 (spec/04 R101). -/
def K.actOnTrackRead (a : Nat) : Key := (0x3000 + 0x800 * a) * 256 + (7)
/-- on_track_write, 0x3000:08 (spec/04 R101). -/
def K.actOnTrackWrite (a : Nat) : Key := (0x3000 + 0x800 * a) * 256 + (8)
/-- servo_degraded, 0x3000:09 (spec/04 R101). -/
def K.actServoDegraded (a : Nat) : Key := (0x3000 + 0x800 * a) * 256 + (9)
/-- pes_a, 0x3000:0A (spec/04 R101). -/
def K.actPesA (a : Nat) : Key := (0x3000 + 0x800 * a) * 256 + (10)
/-- pes_b, 0x3000:0B (spec/04 R101). -/
def K.actPesB (a : Nat) : Key := (0x3000 + 0x800 * a) * 256 + (11)
/-- servo_cell_mhz_c, 0x3100:01 (spec/04 R101). -/
def K.actServoCellMhzC (a : Nat) : Key := (0x3100 + 0x800 * a) * 256 + (1)
/-- sam_pattern, 0x3100:02 (spec/04 R101). -/
def K.actSamPattern (a : Nat) : Key := (0x3100 + 0x800 * a) * 256 + (2)
/-- servo_gate_open_cells, 0x3100:03 (spec/04 R101). -/
def K.actServoGateOpenCells (a : Nat) : Key := (0x3100 + 0x800 * a) * 256 + (3)
/-- burst_min_pm, 0x3100:04 (spec/04 R101). -/
def K.actBurstMinPm (a : Nat) : Key := (0x3100 + 0x800 * a) * 256 + (4)
/-- track_jump_limit, 0x3100:05 (spec/04 R101). -/
def K.actTrackJumpLimit (a : Nat) : Key := (0x3100 + 0x800 * a) * 256 + (5)
/-- rro_enable, 0x3100:06 (spec/04 R101). -/
def K.actRroEnable (a : Nat) : Key := (0x3100 + 0x800 * a) * 256 + (6)
/-- compute_latency_ns, 0x3100:07 (spec/04 R101). -/
def K.actComputeLatencyNs (a : Nat) : Key := (0x3100 + 0x800 * a) * 256 + (7)
/-- late_limit, 0x3100:08 (spec/04 R101). -/
def K.actLateLimit (a : Nat) : Key := (0x3100 + 0x800 * a) * 256 + (8)
/-- decode_run_limit, 0x3100:09 (spec/04 R101). -/
def K.actDecodeRunLimit (a : Nat) : Key := (0x3100 + 0x800 * a) * 256 + (9)
/-- od_polarity, 0x3100:0A (spec/04 R101). -/
def K.actOdPolarity (a : Nat) : Key := (0x3100 + 0x800 * a) * 256 + (10)
/-- data_pitch_q16, 0x3101:01 (spec/04 R101). -/
def K.actDataPitchQ16 (a : Nat) : Key := (0x3101 + 0x800 * a) * 256 + (1)
/-- wi_threshold_pm, 0x3101:02 (spec/04 R101). -/
def K.actWiThresholdPm (a : Nat) : Key := (0x3101 + 0x800 * a) * 256 + (2)
/-- write_ontrack_pm, 0x3101:03 (spec/04 R101). -/
def K.actWriteOntrackPm (a : Nat) : Key := (0x3101 + 0x800 * a) * 256 + (3)
/-- write_ontrack_count, 0x3101:04 (spec/04 R101). -/
def K.actWriteOntrackCount (a : Nat) : Key := (0x3101 + 0x800 * a) * 256 + (4)
/-- read_ontrack_pm, 0x3101:05 (spec/04 R101). -/
def K.actReadOntrackPm (a : Nat) : Key := (0x3101 + 0x800 * a) * 256 + (5)
/-- read_ontrack_count, 0x3101:06 (spec/04 R101). -/
def K.actReadOntrackCount (a : Nat) : Key := (0x3101 + 0x800 * a) * 256 + (6)
/-- seek_timeout_us, 0x3101:07 (spec/04 R101). -/
def K.actSeekTimeoutUs (a : Nat) : Key := (0x3101 + 0x800 * a) * 256 + (7)
/-- head_switch_counts, 0x3101:08 (spec/04 R101). -/
def K.actHeadSwitchCounts (a : Nat) : Key := (0x3101 + 0x800 * a) * 256 + (8)
/-- shock_enable, 0x3102:01 (spec/04 R101). -/
def K.actShockEnable (a : Nat) : Key := (0x3102 + 0x800 * a) * 256 + (1)
/-- shock_lin_mg, 0x3102:02 (spec/04 R101). -/
def K.actShockLinMg (a : Nat) : Key := (0x3102 + 0x800 * a) * 256 + (2)
/-- shock_rot_rad_s2, 0x3102:03 (spec/04 R101). -/
def K.actShockRotRadS2 (a : Nat) : Key := (0x3102 + 0x800 * a) * 256 + (3)
/-- shock_holdoff_us, 0x3102:04 (spec/04 R101). -/
def K.actShockHoldoffUs (a : Nat) : Key := (0x3102 + 0x800 * a) * 256 + (4)
/-- pzt_gain_nm_v[0–11], 0x3200:01 (spec/04 R101). -/
def K.actPztGainNmV (a i : Nat) : Key := (0x3200 + 0x800 * a) * 256 + (1 + i)
/-- pzt_out_mv[0–11], 0x3201:01 (spec/04 R101). -/
def K.actPztOutMv (a i : Nat) : Key := (0x3201 + 0x800 * a) * 256 + (1 + i)
/-- pzt_limit_mv, 0x3202:01 (spec/04 R101). -/
def K.actPztLimitMv (a : Nat) : Key := (0x3202 + 0x800 * a) * 256 + (1)
/-- pzt_slew_v_us, 0x3202:02 (spec/04 R101). -/
def K.actPztSlewVUs (a : Nat) : Key := (0x3202 + 0x800 * a) * 256 + (2)
/-- pzt_sat_samples, 0x3202:03 (spec/04 R101). -/
def K.actPztSatSamples (a : Nat) : Key := (0x3202 + 0x800 * a) * 256 + (3)
/-- vcm_cmd_ua, 0x3204:01 (spec/04 R101). -/
def K.actVcmCmdUa (a : Nat) : Key := (0x3204 + 0x800 * a) * 256 + (1)
/-- vcm_current_ua, 0x3204:02 (spec/04 R101). -/
def K.actVcmCurrentUa (a : Nat) : Key := (0x3204 + 0x800 * a) * 256 + (2)
/-- vcm_current_limit, 0x3204:03 (spec/04 R101). -/
def K.actVcmCurrentLimit (a : Nat) : Key := (0x3204 + 0x800 * a) * 256 + (3)
/-- vcm_rs_mohm, 0x3204:04 (spec/04 R101). -/
def K.actVcmRsMohm (a : Nat) : Key := (0x3204 + 0x800 * a) * 256 + (4)
/-- vcm_ls_uh, 0x3204:05 (spec/04 R101). -/
def K.actVcmLsUh (a : Nat) : Key := (0x3204 + 0x800 * a) * 256 + (5)
/-- vcm_bemf_mv, 0x3204:06 (spec/04 R101). -/
def K.actVcmBemfMv (a : Nat) : Key := (0x3204 + 0x800 * a) * 256 + (6)
/-- vcm_sat_samples, 0x3204:07 (spec/04 R101). -/
def K.actVcmSatSamples (a : Nat) : Key := (0x3204 + 0x800 * a) * 256 + (7)
/-- xff_enable, 0x3300:01 (spec/04 R101). -/
def K.actXffEnable (a : Nat) : Key := (0x3300 + 0x800 * a) * 256 + (1)
/-- xff_gain, 0x3300:02 (spec/04 R101). -/
def K.actXffGain (a : Nat) : Key := (0x3300 + 0x800 * a) * 256 + (2)
/-- rvff_enable, 0x3300:03 (spec/04 R101). -/
def K.actRvffEnable (a : Nat) : Key := (0x3300 + 0x800 * a) * 256 + (3)
/-- rvff_gain, 0x3300:04 (spec/04 R101). -/
def K.actRvffGain (a : Nat) : Key := (0x3300 + 0x800 * a) * 256 + (4)
/-- xff_now_ua, 0x3300:05 (spec/04 R101). -/
def K.actXffNowUa (a : Nat) : Key := (0x3300 + 0x800 * a) * 256 + (5)
/-- rvff_now_ua, 0x3300:06 (spec/04 R101). -/
def K.actRvffNowUa (a : Nat) : Key := (0x3300 + 0x800 * a) * 256 + (6)
/-- xff_coef[0–9], 0x3301:01 (spec/04 R101). -/
def K.actXffCoef (a i : Nat) : Key := (0x3301 + 0x800 * a) * 256 + (1 + i)
/-- rvff_coef[0–9], 0x3302:01 (spec/04 R101). -/
def K.actRvffCoef (a i : Nat) : Key := (0x3302 + 0x800 * a) * 256 + (1 + i)
/-- load_bemf_mv, 0x3400:01 (spec/04 R101). -/
def K.actLoadBemfMv (a : Nat) : Key := (0x3400 + 0x800 * a) * 256 + (1)
/-- load_ms, 0x3400:02 (spec/04 R101). -/
def K.actLoadMs (a : Nat) : Key := (0x3400 + 0x800 * a) * 256 + (2)
/-- load_search_ms, 0x3400:03 (spec/04 R101). -/
def K.actLoadSearchMs (a : Nat) : Key := (0x3400 + 0x800 * a) * 256 + (3)
/-- unload_bemf_mv, 0x3400:04 (spec/04 R101). -/
def K.actUnloadBemfMv (a : Nat) : Key := (0x3400 + 0x800 * a) * 256 + (4)
/-- unload_ms, 0x3400:05 (spec/04 R101). -/
def K.actUnloadMs (a : Nat) : Key := (0x3400 + 0x800 * a) * 256 + (5)
/-- retract_bemf_mv, 0x3400:06 (spec/04 R101). -/
def K.actRetractBemfMv (a : Nat) : Key := (0x3400 + 0x800 * a) * 256 + (6)
/-- retract_current_ma, 0x3400:07 (spec/04 R101). -/
def K.actRetractCurrentMa (a : Nat) : Key := (0x3400 + 0x800 * a) * 256 + (7)
/-- retract_ms, 0x3400:08 (spec/04 R101). -/
def K.actRetractMs (a : Nat) : Key := (0x3400 + 0x800 * a) * 256 + (8)
/-- park_hold_ma, 0x3400:09 (spec/04 R101). -/
def K.actParkHoldMa (a : Nat) : Key := (0x3400 + 0x800 * a) * 256 + (9)
/-- park_hold_ms, 0x3400:0A (spec/04 R101). -/
def K.actParkHoldMs (a : Nat) : Key := (0x3400 + 0x800 * a) * 256 + (10)
/-- overspeed_bemf_mv, 0x3400:0B (spec/04 R101). -/
def K.actOverspeedBemfMv (a : Nat) : Key := (0x3400 + 0x800 * a) * 256 + (11)
/-- seek_profile[0–63], 0x3500:01 (spec/04 R101). -/
def K.actSeekProfile (a i : Nat) : Key := (0x3500 + 0x800 * a) * 256 + (1 + i)
/-- load_count, 0x3600:01 (spec/04 R101). -/
def K.actLoadCount (a : Nat) : Key := (0x3600 + 0x800 * a) * 256 + (1)
/-- unload_count, 0x3600:02 (spec/04 R101). -/
def K.actUnloadCount (a : Nat) : Key := (0x3600 + 0x800 * a) * 256 + (2)
/-- retract_count, 0x3600:03 (spec/04 R101). -/
def K.actRetractCount (a : Nat) : Key := (0x3600 + 0x800 * a) * 256 + (3)
/-- load_fail_count, 0x3600:04 (spec/04 R101). -/
def K.actLoadFailCount (a : Nat) : Key := (0x3600 + 0x800 * a) * 256 + (4)
/-- seek_count, 0x3600:05 (spec/04 R101). -/
def K.actSeekCount (a : Nat) : Key := (0x3600 + 0x800 * a) * 256 + (5)
/-- seek_timeout_count, 0x3600:06 (spec/04 R101). -/
def K.actSeekTimeoutCount (a : Nat) : Key := (0x3600 + 0x800 * a) * 256 + (6)
/-- settle_miss_count, 0x3600:07 (spec/04 R101). -/
def K.actSettleMissCount (a : Nat) : Key := (0x3600 + 0x800 * a) * 256 + (7)
/-- decode_fault_count, 0x3600:08 (spec/04 R101). -/
def K.actDecodeFaultCount (a : Nat) : Key := (0x3600 + 0x800 * a) * 256 + (8)
/-- rro_parity_count, 0x3600:09 (spec/04 R101). -/
def K.actRroParityCount (a : Nat) : Key := (0x3600 + 0x800 * a) * 256 + (9)
/-- offtrack_inhibit_count, 0x3600:0A (spec/04 R101). -/
def K.actOfftrackInhibitCount (a : Nat) : Key := (0x3600 + 0x800 * a) * 256 + (10)
/-- shock_inhibit_count, 0x3600:0B (spec/04 R101). -/
def K.actShockInhibitCount (a : Nat) : Key := (0x3600 + 0x800 * a) * 256 + (11)
/-- late_count, 0x3600:0C (spec/04 R101). -/
def K.actLateCount (a : Nat) : Key := (0x3600 + 0x800 * a) * 256 + (12)
/-- vcm_sat_count, 0x3600:0D (spec/04 R101). -/
def K.actVcmSatCount (a : Nat) : Key := (0x3600 + 0x800 * a) * 256 + (13)
/-- pzt_sat_count, 0x3600:0E (spec/04 R101). -/
def K.actPztSatCount (a : Nat) : Key := (0x3600 + 0x800 * a) * 256 + (14)
/-- counters_clear, 0x3600:0F (spec/04 R101). -/
def K.actCountersClear3600 (a : Nat) : Key := (0x3600 + 0x800 * a) * 256 + (15)
/-- twin_enable, 0x3700:01 (spec/05 R120). -/
def K.actTwinEnable (a : Nat) : Key := (0x3700 + 0x800 * a) * 256 + (1)
/-- twin_active, 0x3700:02 (spec/05 R120). -/
def K.actTwinActive (a : Nat) : Key := (0x3700 + 0x800 * a) * 256 + (2)
/-- twin_pair, 0x3700:03 (spec/05 R120). -/
def K.actTwinPair (a : Nat) : Key := (0x3700 + 0x800 * a) * 256 + (3)
/-- servo_pitch_pm, 0x3700:04 (spec/05 R120). -/
def K.actServoPitchPm (a : Nat) : Key := (0x3700 + 0x800 * a) * 256 + (4)
/-- twin_budget_nm, 0x3700:05 (spec/05 R120). -/
def K.actTwinBudgetNm (a : Nat) : Key := (0x3700 + 0x800 * a) * 256 + (5)
/-- stroke_limit_nm, 0x3700:06 (spec/05 R120). -/
def K.actStrokeLimitNm (a : Nat) : Key := (0x3700 + 0x800 * a) * 256 + (6)
/-- stroke_warn_nm, 0x3700:07 (spec/05 R120). -/
def K.actStrokeWarnNm (a : Nat) : Key := (0x3700 + 0x800 * a) * 256 + (7)
/-- oos_samples, 0x3700:08 (spec/05 R120). -/
def K.actOosSamples (a : Nat) : Key := (0x3700 + 0x800 * a) * 256 + (8)
/-- stroke_use_nm, 0x3700:09 (spec/05 R120). -/
def K.actStrokeUseNm (a : Nat) : Key := (0x3700 + 0x800 * a) * 256 + (9)
/-- stroke_peak_nm, 0x3700:0A (spec/05 R120). -/
def K.actStrokePeakNm (a : Nat) : Key := (0x3700 + 0x800 * a) * 256 + (10)
/-- map_base, 0x3701:01 (spec/05 R120). -/
def K.actMapBase (a : Nat) : Key := (0x3701 + 0x800 * a) * 256 + (1)
/-- map_step_tracks, 0x3701:02 (spec/05 R120). -/
def K.actMapStepTracks (a : Nat) : Key := (0x3701 + 0x800 * a) * 256 + (2)
/-- map_valid, 0x3701:03 (spec/05 R120). -/
def K.actMapValid (a : Nat) : Key := (0x3701 + 0x800 * a) * 256 + (3)
/-- capture_pair, 0x3702:01 (spec/05 R120). -/
def K.actCapturePair (a : Nat) : Key := (0x3702 + 0x800 * a) * 256 + (1)
/-- capture_point, 0x3702:02 (spec/05 R120). -/
def K.actCapturePoint (a : Nat) : Key := (0x3702 + 0x800 * a) * 256 + (2)
/-- capture_revs, 0x3702:03 (spec/05 R120). -/
def K.actCaptureRevs (a : Nat) : Key := (0x3702 + 0x800 * a) * 256 + (3)
/-- capture_start, 0x3702:04 (spec/05 R120). -/
def K.actCaptureStart (a : Nat) : Key := (0x3702 + 0x800 * a) * 256 + (4)
/-- capture_state, 0x3702:05 (spec/05 R120). -/
def K.actCaptureState (a : Nat) : Key := (0x3702 + 0x800 * a) * 256 + (5)
/-- capture_cause, 0x3702:06 (spec/05 R120). -/
def K.actCaptureCause (a : Nat) : Key := (0x3702 + 0x800 * a) * 256 + (6)
/-- twin_entry_count, 0x3703:01 (spec/05 R120). -/
def K.actTwinEntryCount (a : Nat) : Key := (0x3703 + 0x800 * a) * 256 + (1)
/-- twin_serial_count, 0x3703:02 (spec/05 R120). -/
def K.actTwinSerialCount (a : Nat) : Key := (0x3703 + 0x800 * a) * 256 + (2)
/-- stroke_warn_count, 0x3703:03 (spec/05 R120). -/
def K.actStrokeWarnCount (a : Nat) : Key := (0x3703 + 0x800 * a) * 256 + (3)
/-- oos_count, 0x3703:04 (spec/05 R120). -/
def K.actOosCount (a : Nat) : Key := (0x3703 + 0x800 * a) * 256 + (4)
/-- demote_count, 0x3703:05 (spec/05 R120). -/
def K.actDemoteCount (a : Nat) : Key := (0x3703 + 0x800 * a) * 256 + (5)
/-- counters_clear, 0x3703:0F (spec/05 R120). -/
def K.actCountersClear3703 (a : Nat) : Key := (0x3703 + 0x800 * a) * 256 + (15)
/-- assist_budget_mw, 0x4010:01 (spec/05 R121). -/
def K.asstAssistBudgetMw : Key := (0x4010) * 256 + (1)
/-- assist_granted_mw, 0x4010:02 (spec/05 R121). -/
def K.asstAssistGrantedMw : Key := (0x4010) * 256 + (2)
/-- assist_holders, 0x4010:03 (spec/05 R121). -/
def K.asstAssistHolders : Key := (0x4010) * 256 + (3)
/-- assist_peak_mw, 0x4010:04 (spec/05 R121). -/
def K.asstAssistPeakMw : Key := (0x4010) * 256 + (4)
/-- assist_defer_count, 0x4010:05 (spec/05 R121). -/
def K.asstAssistDeferCount : Key := (0x4010) * 256 + (5)
/-- assist_tie_count, 0x4010:06 (spec/05 R121). -/
def K.asstAssistTieCount : Key := (0x4010) * 256 + (6)
/-- assist_over_budget, 0x4010:07 (spec/05 R121). -/
def K.asstAssistOverBudget : Key := (0x4010) * 256 + (7)
/-- counters_clear, 0x4010:0F (spec/05 R121). -/
def K.asstCountersClear4010 : Key := (0x4010) * 256 + (15)
/-- link_state, 0x4000:01 (spec/06 R146). -/
def K.lnkLinkState (a : Nat) : Key := (0x4000 + 0x800 * a) * 256 + (1)
/-- preamp_id, 0x4000:02 (spec/06 R146). -/
def K.lnkPreampId (a : Nat) : Key := (0x4000 + 0x800 * a) * 256 + (2)
/-- preamp_caps, 0x4000:03 (spec/06 R146). -/
def K.lnkPreampCaps (a : Nat) : Key := (0x4000 + 0x800 * a) * 256 + (3)
/-- assist_kind, 0x4000:04 (spec/06 R146). -/
def K.lnkAssistKind (a : Nat) : Key := (0x4000 + 0x800 * a) * 256 + (4)
/-- link_init, 0x4000:05 (spec/06 R146). -/
def K.lnkLinkInit (a : Nat) : Key := (0x4000 + 0x800 * a) * 256 + (5)
/-- di_delay_ps, 0x4000:06 (spec/06 R146). -/
def K.lnkDiDelayPs (a : Nat) : Key := (0x4000 + 0x800 * a) * 256 + (6)
/-- link_degraded, 0x4000:07 (spec/06 R146). -/
def K.lnkLinkDegraded (a : Nat) : Key := (0x4000 + 0x800 * a) * 256 + (7)
/-- preamp_status, 0x4000:08 (spec/06 R146). -/
def K.lnkPreampStatus (a : Nat) : Key := (0x4000 + 0x800 * a) * 256 + (8)
/-- prebias_lead_counts, 0x4001:01 (spec/06 R146). -/
def K.lnkPrebiasLeadCounts (a : Nat) : Key := (0x4001 + 0x800 * a) * 256 + (1)
/-- prebias_min_counts, 0x4001:02 (spec/06 R146). -/
def K.lnkPrebiasMinCounts (a : Nat) : Key := (0x4001 + 0x800 * a) * 256 + (2)
/-- mon_settle_ns, 0x4001:03 (spec/06 R146). -/
def K.lnkMonSettleNs (a : Nat) : Key := (0x4001 + 0x800 * a) * 256 + (3)
/-- mon_poll_ns, 0x4001:04 (spec/06 R146). -/
def K.lnkMonPollNs (a : Nat) : Key := (0x4001 + 0x800 * a) * 256 + (4)
/-- mon_age_ns, 0x4001:05 (spec/06 R146). -/
def K.lnkMonAgeNs (a : Nat) : Key := (0x4001 + 0x800 * a) * 256 + (5)
/-- heater_lead_counts, 0x4001:06 (spec/06 R146). -/
def K.lnkHeaterLeadCounts (a : Nat) : Key := (0x4001 + 0x800 * a) * 256 + (6)
/-- head_temp_poll_ms, 0x4001:07 (spec/06 R146). -/
def K.lnkHeadTempPollMs (a : Nat) : Key := (0x4001 + 0x800 * a) * 256 + (7)
/-- head_temp_max_c, 0x4001:08 (spec/06 R146). -/
def K.lnkHeadTempMaxC (a : Nat) : Key := (0x4001 + 0x800 * a) * 256 + (8)
/-- link_retries, 0x4001:09 (spec/06 R146). -/
def K.lnkLinkRetries (a : Nat) : Key := (0x4001 + 0x800 * a) * 256 + (9)
/-- link_fail_limit, 0x4001:0A (spec/06 R146). -/
def K.lnkLinkFailLimit (a : Nat) : Key := (0x4001 + 0x800 * a) * 256 + (10)
/-- reg_addr, 0x4002:01 (spec/06 R146). -/
def K.lnkRegAddr (a : Nat) : Key := (0x4002 + 0x800 * a) * 256 + (1)
/-- reg_data, 0x4002:02 (spec/06 R146). -/
def K.lnkRegData (a : Nat) : Key := (0x4002 + 0x800 * a) * 256 + (2)
/-- reg_op, 0x4002:03 (spec/06 R146). -/
def K.lnkRegOp (a : Nat) : Key := (0x4002 + 0x800 * a) * 256 + (3)
/-- reg_result, 0x4002:04 (spec/06 R146). -/
def K.lnkRegResult (a : Nat) : Key := (0x4002 + 0x800 * a) * 256 + (4)
/-- frame_count, 0x4003:01 (spec/06 R146). -/
def K.lnkFrameCount (a : Nat) : Key := (0x4003 + 0x800 * a) * 256 + (1)
/-- crc_error_count, 0x4003:02 (spec/06 R146). -/
def K.lnkCrcErrorCount (a : Nat) : Key := (0x4003 + 0x800 * a) * 256 + (2)
/-- preamp_crc_count, 0x4003:03 (spec/06 R146). -/
def K.lnkPreampCrcCount (a : Nat) : Key := (0x4003 + 0x800 * a) * 256 + (3)
/-- timeout_count, 0x4003:04 (spec/06 R146). -/
def K.lnkTimeoutCount (a : Nat) : Key := (0x4003 + 0x800 * a) * 256 + (4)
/-- retry_count, 0x4003:05 (spec/06 R146). -/
def K.lnkRetryCount (a : Nat) : Key := (0x4003 + 0x800 * a) * 256 + (5)
/-- prebias_late_count, 0x4003:06 (spec/06 R146). -/
def K.lnkPrebiasLateCount (a : Nat) : Key := (0x4003 + 0x800 * a) * 256 + (6)
/-- monitor_fault_count, 0x4003:07 (spec/06 R146). -/
def K.lnkMonitorFaultCount (a : Nat) : Key := (0x4003 + 0x800 * a) * 256 + (7)
/-- preamp_fault_count, 0x4003:08 (spec/06 R146). -/
def K.lnkPreampFaultCount (a : Nat) : Key := (0x4003 + 0x800 * a) * 256 + (8)
/-- counters_clear, 0x4003:0F (spec/06 R146). -/
def K.lnkCountersClear4003 (a : Nat) : Key := (0x4003 + 0x800 * a) * 256 + (15)
/-- assist_ring[h][n], 0x4100:01 (spec/06 R146). -/
def K.lnkAssistRing (a h i : Nat) : Key := (0x4100 + 0x800 * a + h) * 256 + (1 + i)
/-- monitor_ring[h][n], 0x4120:01 (spec/06 R146). -/
def K.lnkMonitorRing (a h i : Nat) : Key := (0x4120 + 0x800 * a + h) * 256 + (1 + i)
/-- heater_ring[h][n], 0x4140:01 (spec/06 R146). -/
def K.lnkHeaterRing (a h i : Nat) : Key := (0x4140 + 0x800 * a + h) * 256 + (1 + i)
/-- head_temp[0–11], 0x4180:01 (spec/06 R146). -/
def K.lnkHeadTemp (a i : Nat) : Key := (0x4180 + 0x800 * a) * 256 + (1 + i)
/-- preamp_temp, 0x4180:0D (spec/06 R146). -/
def K.lnkPreampTemp (a : Nat) : Key := (0x4180 + 0x800 * a) * 256 + (13)
/-- slot_state, 0x5000:01 (spec/07 R169). -/
def K.slotSlotState (q : Nat) : Key := (0x5000 + 0x400 * q) * 256 + (1)
/-- slot_head, 0x5000:02 (spec/07 R169). -/
def K.slotSlotHead (q : Nat) : Key := (0x5000 + 0x400 * q) * 256 + (2)
/-- slot_ring, 0x5000:03 (spec/07 R169). -/
def K.slotSlotRing (q : Nat) : Key := (0x5000 + 0x400 * q) * 256 + (3)
/-- defect_flags, 0x5000:04 (spec/07 R169). -/
def K.slotDefectFlags (q : Nat) : Key := (0x5000 + 0x400 * q) * 256 + (4)
/-- loops_frozen, 0x5000:05 (spec/07 R169). -/
def K.slotLoopsFrozen (q : Nat) : Key := (0x5000 + 0x400 * q) * 256 + (5)
/-- vga_db_r0, 0x5000:06 (spec/07 R169). -/
def K.slotVgaDbR0 (q : Nat) : Key := (0x5000 + 0x400 * q) * 256 + (6)
/-- vga_db_r1, 0x5000:07 (spec/07 R169). -/
def K.slotVgaDbR1 (q : Nat) : Key := (0x5000 + 0x400 * q) * 256 + (7)
/-- timing_offset_ppb, 0x5000:08 (spec/07 R169). -/
def K.slotTimingOffsetPpb (q : Nat) : Key := (0x5000 + 0x400 * q) * 256 + (8)
/-- offset_r0, 0x5000:09 (spec/07 R169). -/
def K.slotOffsetR0 (q : Nat) : Key := (0x5000 + 0x400 * q) * 256 + (9)
/-- offset_r1, 0x5000:0A (spec/07 R169). -/
def K.slotOffsetR1 (q : Nat) : Key := (0x5000 + 0x400 * q) * 256 + (10)
/-- asym_r0, 0x5000:0B (spec/07 R169). -/
def K.slotAsymR0 (q : Nat) : Key := (0x5000 + 0x400 * q) * 256 + (11)
/-- asym_r1, 0x5000:0C (spec/07 R169). -/
def K.slotAsymR1 (q : Nat) : Key := (0x5000 + 0x400 * q) * 256 + (12)
/-- reader_use, 0x5001:01 (spec/07 R169). -/
def K.slotReaderUse (q : Nat) : Key := (0x5001 + 0x400 * q) * 256 + (1)
/-- loop_enable, 0x5001:02 (spec/07 R169). -/
def K.slotLoopEnable (q : Nat) : Key := (0x5001 + 0x400 * q) * 256 + (2)
/-- servo_reader, 0x5001:03 (spec/07 R169). -/
def K.slotServoReader (q : Nat) : Key := (0x5001 + 0x400 * q) * 256 + (3)
/-- servo_gain_db, 0x5001:04 (spec/07 R169). -/
def K.slotServoGainDb (q : Nat) : Key := (0x5001 + 0x400 * q) * 256 + (4)
/-- servo_cutoff_mhz, 0x5001:05 (spec/07 R169). -/
def K.slotServoCutoffMhz (q : Nat) : Key := (0x5001 + 0x400 * q) * 256 + (5)
/-- agc_acq_shift, 0x5002:01 (spec/07 R169). -/
def K.slotAgcAcqShift (q : Nat) : Key := (0x5002 + 0x400 * q) * 256 + (1)
/-- agc_trk_shift, 0x5002:02 (spec/07 R169). -/
def K.slotAgcTrkShift (q : Nat) : Key := (0x5002 + 0x400 * q) * 256 + (2)
/-- offset_shift, 0x5002:03 (spec/07 R169). -/
def K.slotOffsetShift (q : Nat) : Key := (0x5002 + 0x400 * q) * 256 + (3)
/-- asym_shift, 0x5002:04 (spec/07 R169). -/
def K.slotAsymShift (q : Nat) : Key := (0x5002 + 0x400 * q) * 256 + (4)
/-- lms_shift, 0x5002:05 (spec/07 R169). -/
def K.slotLmsShift (q : Nat) : Key := (0x5002 + 0x400 * q) * 256 + (5)
/-- timing_acq_kp, 0x5002:06 (spec/07 R169). -/
def K.slotTimingAcqKp (q : Nat) : Key := (0x5002 + 0x400 * q) * 256 + (6)
/-- timing_acq_ki, 0x5002:07 (spec/07 R169). -/
def K.slotTimingAcqKi (q : Nat) : Key := (0x5002 + 0x400 * q) * 256 + (7)
/-- timing_trk_kp, 0x5002:08 (spec/07 R169). -/
def K.slotTimingTrkKp (q : Nat) : Key := (0x5002 + 0x400 * q) * 256 + (8)
/-- timing_trk_ki, 0x5002:09 (spec/07 R169). -/
def K.slotTimingTrkKi (q : Nat) : Key := (0x5002 + 0x400 * q) * 256 + (9)
/-- acq_bits, 0x5002:0A (spec/07 R169). -/
def K.slotAcqBits (q : Nat) : Key := (0x5002 + 0x400 * q) * 256 + (10)
/-- timing_range_ppm, 0x5002:0B (spec/07 R169). -/
def K.slotTimingRangePpm (q : Nat) : Key := (0x5002 + 0x400 * q) * 256 + (11)
/-- agc_target, 0x5002:0C (spec/07 R169). -/
def K.slotAgcTarget (q : Nat) : Key := (0x5002 + 0x400 * q) * 256 + (12)
/-- ta_threshold_pm, 0x5003:01 (spec/07 R169). -/
def K.slotTaThresholdPm (q : Nat) : Key := (0x5003 + 0x400 * q) * 256 + (1)
/-- dropout_threshold_pm, 0x5003:02 (spec/07 R169). -/
def K.slotDropoutThresholdPm (q : Nat) : Key := (0x5003 + 0x400 * q) * 256 + (2)
/-- defect_holdoff_bits, 0x5003:03 (spec/07 R169). -/
def K.slotDefectHoldoffBits (q : Nat) : Key := (0x5003 + 0x400 * q) * 256 + (3)
/-- defect_max_bits, 0x5003:04 (spec/07 R169). -/
def K.slotDefectMaxBits (q : Nat) : Key := (0x5003 + 0x400 * q) * 256 + (4)
/-- gain_rail_bits, 0x5003:05 (spec/07 R169). -/
def K.slotGainRailBits (q : Nat) : Key := (0x5003 + 0x400 * q) * 256 + (5)
/-- ta_count, 0x5004:01 (spec/07 R169). -/
def K.slotTaCount (q : Nat) : Key := (0x5004 + 0x400 * q) * 256 + (1)
/-- dropout_count, 0x5004:02 (spec/07 R169). -/
def K.slotDropoutCount (q : Nat) : Key := (0x5004 + 0x400 * q) * 256 + (2)
/-- defect_long_count, 0x5004:03 (spec/07 R169). -/
def K.slotDefectLongCount (q : Nat) : Key := (0x5004 + 0x400 * q) * 256 + (3)
/-- gain_rail_count, 0x5004:04 (spec/07 R169). -/
def K.slotGainRailCount (q : Nat) : Key := (0x5004 + 0x400 * q) * 256 + (4)
/-- timing_rail_count, 0x5004:05 (spec/07 R169). -/
def K.slotTimingRailCount (q : Nat) : Key := (0x5004 + 0x400 * q) * 256 + (5)
/-- buffer_full_count, 0x5004:06 (spec/07 R169). -/
def K.slotBufferFullCount (q : Nat) : Key := (0x5004 + 0x400 * q) * 256 + (6)
/-- hr_writeback_count, 0x5004:07 (spec/07 R169). -/
def K.slotHrWritebackCount (q : Nat) : Key := (0x5004 + 0x400 * q) * 256 + (7)
/-- hr_skip_count, 0x5004:08 (spec/07 R169). -/
def K.slotHrSkipCount (q : Nat) : Key := (0x5004 + 0x400 * q) * 256 + (8)
/-- counters_clear, 0x5004:0F (spec/07 R169). -/
def K.slotCountersClear5004 (q : Nat) : Key := (0x5004 + 0x400 * q) * 256 + (15)
/-- buf_free, 0x5005:01 (spec/07 R169). -/
def K.slotBufFree (q : Nat) : Key := (0x5005 + 0x400 * q) * 256 + (1)
/-- buf_pin, 0x5005:02 (spec/07 R169). -/
def K.slotBufPin (q : Nat) : Key := (0x5005 + 0x400 * q) * 256 + (2)
/-- buf_low_water, 0x5005:03 (spec/07 R169). -/
def K.slotBufLowWater (q : Nat) : Key := (0x5005 + 0x400 * q) * 256 + (3)
/-- ring_format[0–63], 0x5080:01 (spec/07 R170). -/
def K.ringRingFormat (a i : Nat) : Key := (0x5080 + 0x800 * a) * 256 + (1 + i)
/-- ring_fe[0–63], 0x5081:01 (spec/07 R170). -/
def K.ringRingFe (a i : Nat) : Key := (0x5081 + 0x800 * a) * 256 + (1 + i)
/-- hr_state_base, 0x5082:01 (spec/07 R170). -/
def K.ringHrStateBase (a : Nat) : Key := (0x5082 + 0x800 * a) * 256 + (1)
/-- hr_writeback, 0x5082:02 (spec/07 R170). -/
def K.ringHrWriteback (a : Nat) : Key := (0x5082 + 0x800 * a) * 256 + (2)
/-- guard_pre_ns, 0x5082:03 (spec/07 R170). -/
def K.ringGuardPreNs (a : Nat) : Key := (0x5082 + 0x800 * a) * 256 + (3)
/-- guard_post_ns, 0x5082:04 (spec/07 R170). -/
def K.ringGuardPostNs (a : Nat) : Key := (0x5082 + 0x800 * a) * 256 + (4)
/-- format_rpm, 0x5082:05 (spec/07 R170). -/
def K.ringFormatRpm (a : Nat) : Key := (0x5082 + 0x800 * a) * 256 + (5)
/-- ring_max_spt[0–63], 0x5083:01 (spec/07 R170). -/
def K.ringRingMaxSpt (a i : Nat) : Key := (0x5083 + 0x800 * a) * 256 + (1 + i)
/-- ring_start[h][n], 0x5088:01 (spec/07 R170). -/
def K.ringRingStart (a h i : Nat) : Key := (0x5088 + 0x800 * a + h) * 256 + (1 + i)
/-- eq_target[0–7], 0x50A0:01 (spec/07 R170). -/
def K.ringEqTarget (a i : Nat) : Key := (0x50A0 + 0x800 * a) * 256 + (1 + i)
/-- sync_window_bits, 0x5100:01 (spec/08 R199). -/
def K.slotSyncWindowBits (q : Nat) : Key := (0x5100 + 0x400 * q) * 256 + (1)
/-- sync_min_match, 0x5100:02 (spec/08 R199). -/
def K.slotSyncMinMatch (q : Nat) : Key := (0x5100 + 0x400 * q) * 256 + (2)
/-- sync_cand_min, 0x5100:03 (spec/08 R199). -/
def K.slotSyncCandMin (q : Nat) : Key := (0x5100 + 0x400 * q) * 256 + (3)
/-- sync_cand_max, 0x5100:04 (spec/08 R199). -/
def K.slotSyncCandMax (q : Nat) : Key := (0x5100 + 0x400 * q) * 256 + (4)
/-- mark_offset_range, 0x5100:05 (spec/08 R199). -/
def K.slotMarkOffsetRange (q : Nat) : Key := (0x5100 + 0x400 * q) * 256 + (5)
/-- mark_trial_iters, 0x5100:06 (spec/08 R199). -/
def K.slotMarkTrialIters (q : Nat) : Key := (0x5100 + 0x400 * q) * 256 + (6)
/-- resync_window_bits, 0x5100:07 (spec/08 R199). -/
def K.slotResyncWindowBits (q : Nat) : Key := (0x5100 + 0x400 * q) * 256 + (7)
/-- resync_min_match, 0x5100:08 (spec/08 R199). -/
def K.slotResyncMinMatch (q : Nat) : Key := (0x5100 + 0x400 * q) * 256 + (8)
/-- line_iter_max, 0x5101:01 (spec/08 R199). -/
def K.slotLineIterMax (q : Nat) : Key := (0x5101 + 0x400 * q) * 256 + (1)
/-- redetect_mask, 0x5101:02 (spec/08 R199). -/
def K.slotRedetectMask (q : Nat) : Key := (0x5101 + 0x400 * q) * 256 + (2)
/-- redetect_iters, 0x5101:03 (spec/08 R199). -/
def K.slotRedetectIters (q : Nat) : Key := (0x5101 + 0x400 * q) * 256 + (3)
/-- erasure_widen_bits, 0x5101:04 (spec/08 R199). -/
def K.slotErasureWidenBits (q : Nat) : Key := (0x5101 + 0x400 * q) * 256 + (4)
/-- buf_policy, 0x5101:05 (spec/08 R199). -/
def K.slotBufPolicy (q : Nat) : Key := (0x5101 + 0x400 * q) * 256 + (5)
/-- shed_free, 0x5101:06 (spec/08 R199). -/
def K.slotShedFree (q : Nat) : Key := (0x5101 + 0x400 * q) * 256 + (6)
/-- pin_failed, 0x5101:07 (spec/08 R199). -/
def K.slotPinFailed (q : Nat) : Key := (0x5101 + 0x400 * q) * 256 + (7)
/-- pin_max, 0x5101:08 (spec/08 R199). -/
def K.slotPinMax (q : Nat) : Key := (0x5101 + 0x400 * q) * 256 + (8)
/-- no_signal_pm, 0x5101:09 (spec/08 R199). -/
def K.slotNoSignalPm (q : Nat) : Key := (0x5101 + 0x400 * q) * 256 + (9)
/-- offtrack_max_pm, 0x5101:0A (spec/08 R199). -/
def K.slotOfftrackMaxPm (q : Nat) : Key := (0x5101 + 0x400 * q) * 256 + (10)
/-- last_result, 0x5102:01 (spec/08 R199). -/
def K.slotLastResult (q : Nat) : Key := (0x5102 + 0x400 * q) * 256 + (1)
/-- retry_profile[1–7], 0x5103:01 (spec/08 R199). -/
def K.slotRetryProfile (q i : Nat) : Key := (0x5103 + 0x400 * q) * 256 + (1 + i)
/-- combine_entries, 0x5104:01 (spec/08 R199). -/
def K.slotCombineEntries (q : Nat) : Key := (0x5104 + 0x400 * q) * 256 + (1)
/-- combine_start, 0x5104:02 (spec/08 R199). -/
def K.slotCombineStart (q : Nat) : Key := (0x5104 + 0x400 * q) * 256 + (2)
/-- combine_state, 0x5104:03 (spec/08 R199). -/
def K.slotCombineState (q : Nat) : Key := (0x5104 + 0x400 * q) * 256 + (3)
/-- combine_result, 0x5104:04 (spec/08 R199). -/
def K.slotCombineResult (q : Nat) : Key := (0x5104 + 0x400 * q) * 256 + (4)
/-- combine_dest, 0x5104:05 (spec/08 R199). -/
def K.slotCombineDest (q : Nat) : Key := (0x5104 + 0x400 * q) * 256 + (5)
/-- sectors_count, 0x5105:01 (spec/08 R199). -/
def K.slotSectorsCount (q : Nat) : Key := (0x5105 + 0x400 * q) * 256 + (1)
/-- ok_line_count, 0x5105:02 (spec/08 R199). -/
def K.slotOkLineCount (q : Nat) : Key := (0x5105 + 0x400 * q) * 256 + (2)
/-- ok_mark_count, 0x5105:03 (spec/08 R199). -/
def K.slotOkMarkCount (q : Nat) : Key := (0x5105 + 0x400 * q) * 256 + (3)
/-- ok_redetect_count, 0x5105:04 (spec/08 R199). -/
def K.slotOkRedetectCount (q : Nat) : Key := (0x5105 + 0x400 * q) * 256 + (4)
/-- ok_deep_count, 0x5105:05 (spec/08 R199). -/
def K.slotOkDeepCount (q : Nat) : Key := (0x5105 + 0x400 * q) * 256 + (5)
/-- failed_count, 0x5105:06 (spec/08 R199). -/
def K.slotFailedCount (q : Nat) : Key := (0x5105 + 0x400 * q) * 256 + (6)
/-- shed_count, 0x5105:07 (spec/08 R199). -/
def K.slotShedCount (q : Nat) : Key := (0x5105 + 0x400 * q) * 256 + (7)
/-- sync_missed_count, 0x5105:08 (spec/08 R199). -/
def K.slotSyncMissedCount (q : Nat) : Key := (0x5105 + 0x400 * q) * 256 + (8)
/-- sync_false_count, 0x5105:09 (spec/08 R199). -/
def K.slotSyncFalseCount (q : Nat) : Key := (0x5105 + 0x400 * q) * 256 + (9)
/-- check_mismatch_count, 0x5105:0A (spec/08 R199). -/
def K.slotCheckMismatchCount (q : Nat) : Key := (0x5105 + 0x400 * q) * 256 + (10)
/-- no_signal_count, 0x5105:0B (spec/08 R199). -/
def K.slotNoSignalCount (q : Nat) : Key := (0x5105 + 0x400 * q) * 256 + (11)
/-- profile_invalid_count, 0x5105:0C (spec/08 R199). -/
def K.slotProfileInvalidCount (q : Nat) : Key := (0x5105 + 0x400 * q) * 256 + (12)
/-- counters_clear, 0x5105:0F (spec/08 R199). -/
def K.slotCountersClear5105 (q : Nat) : Key := (0x5105 + 0x400 * q) * 256 + (15)
/-- sync_pattern, 0x5300:01 (spec/08 R200). -/
def K.detSyncPattern : Key := (0x5300) * 256 + (1)
/-- resync_pattern, 0x5300:02 (spec/08 R200). -/
def K.detResyncPattern : Key := (0x5300) * 256 + (2)
/-- deep_enable, 0x5301:01 (spec/08 R200). -/
def K.detDeepEnable : Key := (0x5301) * 256 + (1)
/-- deep_iter_max, 0x5301:02 (spec/08 R200). -/
def K.detDeepIterMax : Key := (0x5301) * 256 + (2)
/-- deep_global, 0x5301:03 (spec/08 R200). -/
def K.detDeepGlobal : Key := (0x5301) * 256 + (3)
/-- deep_schedule, 0x5301:04 (spec/08 R200). -/
def K.detDeepSchedule : Key := (0x5301) * 256 + (4)
/-- deep_queue, 0x5301:05 (spec/08 R200). -/
def K.detDeepQueue : Key := (0x5301) * 256 + (5)
/-- deep_busy, 0x5301:06 (spec/08 R200). -/
def K.detDeepBusy : Key := (0x5301) * 256 + (6)
/-- iter_cap_thermal, 0x5302:01 (spec/08 R200). -/
def K.detIterCapThermal : Key := (0x5302) * 256 + (1)
/-- oc_state, 0x5303:01 (spec/08 R200). -/
def K.detOcState : Key := (0x5303) * 256 + (1)
/-- oc_failed_map, 0x5303:02 (spec/08 R200). -/
def K.detOcFailedMap : Key := (0x5303) * 256 + (2)
/-- oc_release, 0x5303:03 (spec/08 R200). -/
def K.detOcRelease : Key := (0x5303) * 256 + (3)
/-- deep_job_count, 0x5304:01 (spec/08 R200). -/
def K.detDeepJobCount : Key := (0x5304) * 256 + (1)
/-- deep_fail_count, 0x5304:02 (spec/08 R200). -/
def K.detDeepFailCount : Key := (0x5304) * 256 + (2)
/-- oc_group_count, 0x5304:03 (spec/08 R200). -/
def K.detOcGroupCount : Key := (0x5304) * 256 + (3)
/-- oc_recovered_count, 0x5304:04 (spec/08 R200). -/
def K.detOcRecoveredCount : Key := (0x5304) * 256 + (4)
/-- combine_count, 0x5304:05 (spec/08 R200). -/
def K.detCombineCount : Key := (0x5304) * 256 + (5)
/-- counters_clear, 0x5304:0F (spec/08 R200). -/
def K.detCountersClear5304 : Key := (0x5304) * 256 + (15)
/-- write_state, 0x5200:01 (spec/09 R215). -/
def K.slotWriteState (q : Nat) : Key := (0x5200 + 0x400 * q) * 256 + (1)
/-- staging_free, 0x5200:02 (spec/09 R215). -/
def K.slotStagingFree (q : Nat) : Key := (0x5200 + 0x400 * q) * 256 + (2)
/-- last_write_result, 0x5200:03 (spec/09 R215). -/
def K.slotLastWriteResult (q : Nat) : Key := (0x5200 + 0x400 * q) * 256 + (3)
/-- interlock_now, 0x5200:04 (spec/09 R215). -/
def K.slotInterlockNow (q : Nat) : Key := (0x5200 + 0x400 * q) * 256 + (4)
/-- sectors_written_count, 0x5201:01 (spec/09 R215). -/
def K.slotSectorsWrittenCount (q : Nat) : Key := (0x5201 + 0x400 * q) * 256 + (1)
/-- interrupted_count, 0x5201:02 (spec/09 R215). -/
def K.slotInterruptedCount (q : Nat) : Key := (0x5201 + 0x400 * q) * 256 + (2)
/-- ended_early_count, 0x5201:03 (spec/09 R215). -/
def K.slotEndedEarlyCount (q : Nat) : Key := (0x5201 + 0x400 * q) * 256 + (3)
/-- deferral_count, 0x5201:04 (spec/09 R215). -/
def K.slotDeferralCount (q : Nat) : Key := (0x5201 + 0x400 * q) * 256 + (4)
/-- staging_miss_count, 0x5201:05 (spec/09 R215). -/
def K.slotStagingMissCount (q : Nat) : Key := (0x5201 + 0x400 * q) * 256 + (5)
/-- shingle_refused_count, 0x5201:06 (spec/09 R215). -/
def K.slotShingleRefusedCount (q : Nat) : Key := (0x5201 + 0x400 * q) * 256 + (6)
/-- adjacent_check_count, 0x5201:07 (spec/09 R215). -/
def K.slotAdjacentCheckCount (q : Nat) : Key := (0x5201 + 0x400 * q) * 256 + (7)
/-- counters_clear, 0x5201:0F (spec/09 R215). -/
def K.slotCountersClear5201 (q : Nat) : Key := (0x5201 + 0x400 * q) * 256 + (15)
/-- write_ring[0–63], 0x5280:01 (spec/09 R216). -/
def K.ringWriteRing (a i : Nat) : Key := (0x5280 + 0x800 * a) * 256 + (1 + i)
/-- unshingled[h][1–16], 0x5290:01 (spec/09 R216). -/
def K.ringUnshingled (a h i : Nat) : Key := (0x5290 + 0x800 * a + h) * 256 + (1 + i)
/-- state, 0xC000:01 (spec/10 R241). -/
def K.trlState (n : Nat) : Key := (0xC000 + 0x100 * n) * 256 + (1)
/-- run, 0xC000:02 (spec/10 R241). -/
def K.trlRun (n : Nat) : Key := (0xC000 + 0x100 * n) * 256 + (2)
/-- halt_req, 0xC000:03 (spec/10 R241). -/
def K.trlHaltReq (n : Nat) : Key := (0xC000 + 0x100 * n) * 256 + (3)
/-- halt_cause, 0xC000:04 (spec/10 R241). -/
def K.trlHaltCause (n : Nat) : Key := (0xC000 + 0x100 * n) * 256 + (4)
/-- halt_upc, 0xC000:05 (spec/10 R241). -/
def K.trlHaltUpc (n : Nat) : Key := (0xC000 + 0x100 * n) * 256 + (5)
/-- upc, 0xC000:06 (spec/10 R241). -/
def K.trlUpc (n : Nat) : Key := (0xC000 + 0x100 * n) * 256 + (6)
/-- stack_depth, 0xC000:07 (spec/10 R241). -/
def K.trlStackDepth (n : Nat) : Key := (0xC000 + 0x100 * n) * 256 + (7)
/-- progress, 0xC000:08 (spec/10 R241). -/
def K.trlProgress (n : Nat) : Key := (0xC000 + 0x100 * n) * 256 + (8)
/-- load_state, 0xC000:09 (spec/10 R241). -/
def K.trlLoadState (n : Nat) : Key := (0xC000 + 0x100 * n) * 256 + (9)
/-- rom_id, 0xC000:0A (spec/10 R241). -/
def K.trlRomId (n : Nat) : Key := (0xC000 + 0x100 * n) * 256 + (10)
/-- patch_version, 0xC000:0B (spec/10 R241). -/
def K.trlPatchVersion (n : Nat) : Key := (0xC000 + 0x100 * n) * 256 + (11)
/-- customer_version, 0xC000:0C (spec/10 R241). -/
def K.trlCustomerVersion (n : Nat) : Key := (0xC000 + 0x100 * n) * 256 + (12)
/-- irq_pending, 0xC001:01 (spec/10 R241). -/
def K.trlIrqPending (n : Nat) : Key := (0xC001 + 0x100 * n) * 256 + (1)
/-- irq_mask, 0xC001:02 (spec/10 R241). -/
def K.trlIrqMask (n : Nat) : Key := (0xC001 + 0x100 * n) * 256 + (2)
/-- soft_irq, 0xC001:03 (spec/10 R241). -/
def K.trlSoftIrq (n : Nat) : Key := (0xC001 + 0x100 * n) * 256 + (3)
/-- customer_enable, 0xC002:01 (spec/10 R241). -/
def K.trlCustomerEnable (n : Nat) : Key := (0xC002 + 0x100 * n) * 256 + (1)
/-- cust_fabric_base, 0xC002:02 (spec/10 R241). -/
def K.trlCustFabricBase (n : Nat) : Key := (0xC002 + 0x100 * n) * 256 + (2)
/-- cust_fabric_size, 0xC002:03 (spec/10 R241). -/
def K.trlCustFabricSize (n : Nat) : Key := (0xC002 + 0x100 * n) * 256 + (3)
/-- cust_queue_first, 0xC002:04 (spec/10 R241). -/
def K.trlCustQueueFirst (n : Nat) : Key := (0xC002 + 0x100 * n) * 256 + (4)
/-- cust_queue_count, 0xC002:05 (spec/10 R241). -/
def K.trlCustQueueCount (n : Nat) : Key := (0xC002 + 0x100 * n) * 256 + (5)
/-- hook[0–15], 0xC003:01 (spec/10 R241). -/
def K.trlHook (n i : Nat) : Key := (0xC003 + 0x100 * n) * 256 + (1 + i)
/-- micro_corrected_count, 0xC004:01 (spec/10 R241). -/
def K.trlMicroCorrectedCount (n : Nat) : Key := (0xC004 + 0x100 * n) * 256 + (1)
/-- nano_corrected_count, 0xC004:02 (spec/10 R241). -/
def K.trlNanoCorrectedCount (n : Nat) : Key := (0xC004 + 0x100 * n) * 256 + (2)
/-- irq_taken_count, 0xC004:03 (spec/10 R241). -/
def K.trlIrqTakenCount (n : Nat) : Key := (0xC004 + 0x100 * n) * 256 + (3)
/-- fault_count, 0xC004:04 (spec/10 R241). -/
def K.trlFaultCount (n : Nat) : Key := (0xC004 + 0x100 * n) * 256 + (4)
/-- isolation_count, 0xC004:05 (spec/10 R241). -/
def K.trlIsolationCount (n : Nat) : Key := (0xC004 + 0x100 * n) * 256 + (5)
/-- max_irq_latency, 0xC004:06 (spec/10 R241). -/
def K.trlMaxIrqLatency (n : Nat) : Key := (0xC004 + 0x100 * n) * 256 + (6)
/-- counters_clear, 0xC004:0F (spec/10 R241). -/
def K.trlCountersClearC004 (n : Nat) : Key := (0xC004 + 0x100 * n) * 256 + (15)
/-- entry_table[0–63], 0xC010:01 (spec/10 R241). -/
def K.trlEntryTable (n i : Nat) : Key := (0xC010 + 0x100 * n) * 256 + (1 + i)
/-- patch_floor, 0xC800:01 (spec/10 R242). -/
def K.trlxPatchFloor : Key := (0xC800) * 256 + (1)
/-- customer_floor, 0xC800:02 (spec/10 R242). -/
def K.trlxCustomerFloor : Key := (0xC800) * 256 + (2)
/-- customer_key_fused, 0xC800:03 (spec/10 R242). -/
def K.trlxCustomerKeyFused : Key := (0xC800) * 256 + (3)
/-- loader_reject_count, 0xC800:04 (spec/10 R242). -/
def K.trlxLoaderRejectCount : Key := (0xC800) * 256 + (4)
/-- zone_mode, 0x6000:01 (spec/11 R272). -/
def K.zoneZoneMode : Key := (0x6000) * 256 + (1)
/-- zone_hw_enable, 0x6000:02 (spec/11 R272). -/
def K.zoneZoneHwEnable : Key := (0x6000) * 256 + (2)
/-- zone_count, 0x6000:03 (spec/11 R272). -/
def K.zoneZoneCount : Key := (0x6000) * 256 + (3)
/-- conv_count, 0x6000:04 (spec/11 R272). -/
def K.zoneConvCount : Key := (0x6000) * 256 + (4)
/-- zone_blocks, 0x6000:05 (spec/11 R272). -/
def K.zoneZoneBlocks : Key := (0x6000) * 256 + (5)
/-- guard_tracks, 0x6000:06 (spec/11 R272). -/
def K.zoneGuardTracks : Key := (0x6000) * 256 + (6)
/-- max_open, 0x6000:07 (spec/11 R272). -/
def K.zoneMaxOpen : Key := (0x6000) * 256 + (7)
/-- max_active, 0x6000:08 (spec/11 R272). -/
def K.zoneMaxActive : Key := (0x6000) * 256 + (8)
/-- ns_blocks, 0x6000:09 (spec/11 R272). -/
def K.zoneNsBlocks : Key := (0x6000) * 256 + (9)
/-- fast_path_enable, 0x6000:0A (spec/11 R272). -/
def K.zoneFastPathEnable : Key := (0x6000) * 256 + (10)
/-- dulbe, 0x6000:0B (spec/11 R272). -/
def K.zoneDulbe : Key := (0x6000) * 256 + (11)
/-- open_now, 0x6001:01 (spec/11 R272). -/
def K.zoneOpenNow : Key := (0x6001) * 256 + (1)
/-- active_now, 0x6001:02 (spec/11 R272). -/
def K.zoneActiveNow : Key := (0x6001) * 256 + (2)
/-- format_commit, 0x6002:01 (spec/11 R272). -/
def K.zoneFormatCommit : Key := (0x6002) * 256 + (1)
/-- format_state, 0x6002:02 (spec/11 R272). -/
def K.zoneFormatState : Key := (0x6002) * 256 + (2)
/-- format_error_zone, 0x6002:03 (spec/11 R272). -/
def K.zoneFormatErrorZone : Key := (0x6002) * 256 + (3)
/-- format_error_cause, 0x6002:04 (spec/11 R272). -/
def K.zoneFormatErrorCause : Key := (0x6002) * 256 + (4)
/-- attic_index_base, 0x6010:01 (spec/11 R272). -/
def K.zoneAtticIndexBase : Key := (0x6010) * 256 + (1)
/-- attic_index_entries, 0x6010:02 (spec/11 R272). -/
def K.zoneAtticIndexEntries : Key := (0x6010) * 256 + (2)
/-- attic_head_base, 0x6010:03 (spec/11 R272). -/
def K.zoneAtticHeadBase : Key := (0x6010) * 256 + (3)
/-- bitmap_base, 0x6010:04 (spec/11 R272). -/
def K.zoneBitmapBase : Key := (0x6010) * 256 + (4)
/-- alloc_request[0–3], 0x6020:01 (spec/11 R272). -/
def K.zoneAllocRequest (i : Nat) : Key := (0x6020) * 256 + (1 + i)
/-- alloc_result[0–3], 0x6021:01 (spec/11 R272). -/
def K.zoneAllocResult (i : Nat) : Key := (0x6021) * 256 + (1 + i)
/-- merge_job, 0x6030:01 (spec/11 R272). -/
def K.zoneMergeJob : Key := (0x6030) * 256 + (1)
/-- merge_start, 0x6030:02 (spec/11 R272). -/
def K.zoneMergeStart : Key := (0x6030) * 256 + (2)
/-- merge_cancel, 0x6030:03 (spec/11 R272). -/
def K.zoneMergeCancel : Key := (0x6030) * 256 + (3)
/-- merge_state, 0x6030:04 (spec/11 R272). -/
def K.zoneMergeState : Key := (0x6030) * 256 + (4)
/-- merge_cause, 0x6030:05 (spec/11 R272). -/
def K.zoneMergeCause : Key := (0x6030) * 256 + (5)
/-- merge_progress, 0x6030:06 (spec/11 R272). -/
def K.zoneMergeProgress : Key := (0x6030) * 256 + (6)
/-- merge_consumed, 0x6030:07 (spec/11 R272). -/
def K.zoneMergeConsumed : Key := (0x6030) * 256 + (7)
/-- fast_path_count, 0x6040:01 (spec/11 R272). -/
def K.zoneFastPathCount : Key := (0x6040) * 256 + (1)
/-- zero_read_count, 0x6040:02 (spec/11 R272). -/
def K.zoneZeroReadCount : Key := (0x6040) * 256 + (2)
/-- implicit_close_count, 0x6040:03 (spec/11 R272). -/
def K.zoneImplicitCloseCount : Key := (0x6040) * 256 + (3)
/-- invalid_write_count, 0x6040:04 (spec/11 R272). -/
def K.zoneInvalidWriteCount : Key := (0x6040) * 256 + (4)
/-- alloc_refused_count, 0x6040:05 (spec/11 R272). -/
def K.zoneAllocRefusedCount : Key := (0x6040) * 256 + (5)
/-- merge_count, 0x6040:06 (spec/11 R272). -/
def K.zoneMergeCount : Key := (0x6040) * 256 + (6)
/-- merge_fail_count, 0x6040:07 (spec/11 R272). -/
def K.zoneMergeFailCount : Key := (0x6040) * 256 + (7)
/-- counters_clear, 0x6040:0F (spec/11 R272). -/
def K.zoneCountersClear6040 : Key := (0x6040) * 256 + (15)
/-- host_transport, 0x6800:01 (spec/12 R298). -/
def K.hostHostTransport : Key := (0x6800) * 256 + (1)
/-- ctrl_state, 0x6800:02 (spec/12 R298). -/
def K.hostCtrlState : Key := (0x6800) * 256 + (2)
/-- link_speed, 0x6800:03 (spec/12 R298). -/
def K.hostLinkSpeed : Key := (0x6800) * 256 + (3)
/-- link_width, 0x6800:04 (spec/12 R298). -/
def K.hostLinkWidth : Key := (0x6800) * 256 + (4)
/-- link_up, 0x6800:05 (spec/12 R298). -/
def K.hostLinkUp : Key := (0x6800) * 256 + (5)
/-- link_enable, 0x6800:06 (spec/12 R298). -/
def K.hostLinkEnable : Key := (0x6800) * 256 + (6)
/-- ordered_mask, 0x6801:01 (spec/12 R298). -/
def K.hostOrderedMask : Key := (0x6801) * 256 + (1)
/-- ordered_window, 0x6801:02 (spec/12 R298). -/
def K.hostOrderedWindow : Key := (0x6801) * 256 + (2)
/-- sq_inflight_max, 0x6801:03 (spec/12 R298). -/
def K.hostSqInflightMax : Key := (0x6801) * 256 + (3)
/-- pick_depth, 0x6802:01 (spec/12 R298). -/
def K.hostPickDepth : Key := (0x6802) * 256 + (1)
/-- age_limit_ms, 0x6802:02 (spec/12 R298). -/
def K.hostAgeLimitMs : Key := (0x6802) * 256 + (2)
/-- bg_slack_counts, 0x6802:03 (spec/12 R298). -/
def K.hostBgSlackCounts : Key := (0x6802) * 256 + (3)
/-- abort_limit, 0x6803:01 (spec/12 R298). -/
def K.hostAbortLimit : Key := (0x6803) * 256 + (1)
/-- abort_budget_us, 0x6803:02 (spec/12 R298). -/
def K.hostAbortBudgetUs : Key := (0x6803) * 256 + (2)
/-- oq_state[17–32], 0x6804:01 (spec/12 R298). -/
def K.hostOqState (i : Nat) : Key := (0x6804) * 256 + (1 + i)
/-- tcp_port, 0x6810:01 (spec/12 R298). -/
def K.hostTcpPort : Key := (0x6810) * 256 + (1)
/-- ipv4_addr, 0x6810:02 (spec/12 R298). -/
def K.hostIpv4Addr : Key := (0x6810) * 256 + (2)
/-- ipv4_mask, 0x6810:03 (spec/12 R298). -/
def K.hostIpv4Mask : Key := (0x6810) * 256 + (3)
/-- ipv4_gateway, 0x6810:04 (spec/12 R298). -/
def K.hostIpv4Gateway : Key := (0x6810) * 256 + (4)
/-- dhcp_enable, 0x6810:05 (spec/12 R298). -/
def K.hostDhcpEnable : Key := (0x6810) * 256 + (5)
/-- subsystem_nqn, 0x6810:06 (spec/12 R298). -/
def K.hostSubsystemNqn : Key := (0x6810) * 256 + (6)
/-- mac_addr, 0x6810:07 (spec/12 R298). -/
def K.hostMacAddr : Key := (0x6810) * 256 + (7)
/-- assoc_state, 0x6810:08 (spec/12 R298). -/
def K.hostAssocState : Key := (0x6810) * 256 + (8)
/-- commands_count, 0x6820:01 (spec/12 R298). -/
def K.hostCommandsCount : Key := (0x6820) * 256 + (1)
/-- fetch_stall_count, 0x6820:02 (spec/12 R298). -/
def K.hostFetchStallCount : Key := (0x6820) * 256 + (2)
/-- cq_full_count, 0x6820:03 (spec/12 R298). -/
def K.hostCqFullCount : Key := (0x6820) * 256 + (3)
/-- abort_done_count, 0x6820:04 (spec/12 R298). -/
def K.hostAbortDoneCount : Key := (0x6820) * 256 + (4)
/-- abort_missed_count, 0x6820:05 (spec/12 R298). -/
def K.hostAbortMissedCount : Key := (0x6820) * 256 + (5)
/-- oq_freeze_count, 0x6820:06 (spec/12 R298). -/
def K.hostOqFreezeCount : Key := (0x6820) * 256 + (6)
/-- urgent_count, 0x6820:07 (spec/12 R298). -/
def K.hostUrgentCount : Key := (0x6820) * 256 + (7)
/-- violation_count, 0x6820:08 (spec/12 R298). -/
def K.hostViolationCount : Key := (0x6820) * 256 + (8)
/-- tcp_reject_count, 0x6820:09 (spec/12 R298). -/
def K.hostTcpRejectCount : Key := (0x6820) * 256 + (9)
/-- counters_clear, 0x6820:0F (spec/12 R298). -/
def K.hostCountersClear6820 : Key := (0x6820) * 256 + (15)
/-- sheaf_state, 0x6100:01 (spec/13 R319). -/
def K.sheafSheafState : Key := (0x6100) * 256 + (1)
/-- open_count, 0x6100:02 (spec/13 R319). -/
def K.sheafOpenCount : Key := (0x6100) * 256 + (2)
/-- commit_seq, 0x6100:03 (spec/13 R319). -/
def K.sheafCommitSeq : Key := (0x6100) * 256 + (3)
/-- journal_free, 0x6100:04 (spec/13 R319). -/
def K.sheafJournalFree : Key := (0x6100) * 256 + (4)
/-- release_seq, 0x6100:05 (spec/13 R319). -/
def K.sheafReleaseSeq : Key := (0x6100) * 256 + (5)
/-- hold_up_ok, 0x6100:06 (spec/13 R319). -/
def K.sheafHoldUpOk : Key := (0x6100) * 256 + (6)
/-- pwc_base, 0x6101:01 (spec/13 R319). -/
def K.sheafPwcBase : Key := (0x6101) * 256 + (1)
/-- pwc_armed, 0x6101:02 (spec/13 R319). -/
def K.sheafPwcArmed : Key := (0x6101) * 256 + (2)
/-- flush_now, 0x6101:03 (spec/13 R319). -/
def K.sheafFlushNow : Key := (0x6101) * 256 + (3)
/-- flush_state, 0x6101:04 (spec/13 R319). -/
def K.sheafFlushState : Key := (0x6101) * 256 + (4)
/-- flush_seq, 0x6101:05 (spec/13 R319). -/
def K.sheafFlushSeq : Key := (0x6101) * 256 + (5)
/-- flush_slot, 0x6101:06 (spec/13 R319). -/
def K.sheafFlushSlot : Key := (0x6101) * 256 + (6)
/-- pwc_valid, 0x6101:07 (spec/13 R319). -/
def K.sheafPwcValid : Key := (0x6101) * 256 + (7)
/-- recover_load, 0x6102:01 (spec/13 R319). -/
def K.sheafRecoverLoad : Key := (0x6102) * 256 + (1)
/-- recover_state, 0x6102:02 (spec/13 R319). -/
def K.sheafRecoverState : Key := (0x6102) * 256 + (2)
/-- image_seq, 0x6102:03 (spec/13 R319). -/
def K.sheafImageSeq : Key := (0x6102) * 256 + (3)
/-- image_commit_seq, 0x6102:04 (spec/13 R319). -/
def K.sheafImageCommitSeq : Key := (0x6102) * 256 + (4)
/-- replay_from, 0x6102:05 (spec/13 R319). -/
def K.sheafReplayFrom : Key := (0x6102) * 256 + (5)
/-- replay_start, 0x6102:06 (spec/13 R319). -/
def K.sheafReplayStart : Key := (0x6102) * 256 + (6)
/-- replay_state, 0x6102:07 (spec/13 R319). -/
def K.sheafReplayState : Key := (0x6102) * 256 + (7)
/-- replay_applied, 0x6102:08 (spec/13 R319). -/
def K.sheafReplayApplied : Key := (0x6102) * 256 + (8)
/-- replay_discarded, 0x6102:09 (spec/13 R319). -/
def K.sheafReplayDiscarded : Key := (0x6102) * 256 + (9)
/-- op, 0x6110:01 (spec/13 R319). -/
def K.shfOp (p : Nat) : Key := (0x6110 + 0x1 * p) * 256 + (1)
/-- txn, 0x6110:02 (spec/13 R319). -/
def K.shfTxn (p : Nat) : Key := (0x6110 + 0x1 * p) * 256 + (2)
/-- action[0–3], 0x6110:03 (spec/13 R319). -/
def K.shfAction (p i : Nat) : Key := (0x6110 + 0x1 * p) * 256 + (3 + i)
/-- result, 0x6110:07 (spec/13 R319). -/
def K.shfResult (p : Nat) : Key := (0x6110 + 0x1 * p) * 256 + (7)
/-- result_seq, 0x6110:08 (spec/13 R319). -/
def K.shfResultSeq (p : Nat) : Key := (0x6110 + 0x1 * p) * 256 + (8)
/-- commit_count, 0x6120:01 (spec/13 R319). -/
def K.sheafCommitCount : Key := (0x6120) * 256 + (1)
/-- abort_count, 0x6120:02 (spec/13 R319). -/
def K.sheafAbortCount : Key := (0x6120) * 256 + (2)
/-- refused_count, 0x6120:03 (spec/13 R319). -/
def K.sheafRefusedCount : Key := (0x6120) * 256 + (3)
/-- wait_count, 0x6120:04 (spec/13 R319). -/
def K.sheafWaitCount : Key := (0x6120) * 256 + (4)
/-- flush_count, 0x6120:05 (spec/13 R319). -/
def K.sheafFlushCount : Key := (0x6120) * 256 + (5)
/-- flush_fail_count, 0x6120:06 (spec/13 R319). -/
def K.sheafFlushFailCount : Key := (0x6120) * 256 + (6)
/-- counters_clear, 0x6120:0F (spec/13 R319). -/
def K.sheafCountersClear6120 : Key := (0x6120) * 256 + (15)
/-- cellar_state, 0x7000:01 (spec/14 R344). -/
def K.memCellarState : Key := (0x7000) * 256 + (1)
/-- cellar_usable_bytes, 0x7000:02 (spec/14 R344). -/
def K.memCellarUsableBytes : Key := (0x7000) * 256 + (2)
/-- fill_pointer, 0x7000:03 (spec/14 R344). -/
def K.memFillPointer : Key := (0x7000) * 256 + (3)
/-- refresh_multiplier, 0x7000:04 (spec/14 R344). -/
def K.memRefreshMultiplier : Key := (0x7000) * 256 + (4)
/-- ce_count, 0x7001:01 (spec/14 R344). -/
def K.memCeCount : Key := (0x7001) * 256 + (1)
/-- ue_count, 0x7001:02 (spec/14 R344). -/
def K.memUeCount : Key := (0x7001) * 256 + (2)
/-- poison_read_count, 0x7001:03 (spec/14 R344). -/
def K.memPoisonReadCount : Key := (0x7001) * 256 + (3)
/-- poison_write_count, 0x7001:04 (spec/14 R344). -/
def K.memPoisonWriteCount : Key := (0x7001) * 256 + (4)
/-- last_ce_addr, 0x7001:05 (spec/14 R344). -/
def K.memLastCeAddr : Key := (0x7001) * 256 + (5)
/-- last_ue_addr, 0x7001:06 (spec/14 R344). -/
def K.memLastUeAddr : Key := (0x7001) * 256 + (6)
/-- counters_clear, 0x7001:0F (spec/14 R344). -/
def K.memCountersClear7001 : Key := (0x7001) * 256 + (15)
/-- cache_enable, 0x7100:01 (spec/14 R344). -/
def K.memCacheEnable : Key := (0x7100) * 256 + (1)
/-- clean_in_progress, 0x7100:02 (spec/14 R344). -/
def K.memCleanInProgress : Key := (0x7100) * 256 + (2)
/-- scratch_ways, 0x7100:03 (spec/14 R344). -/
def K.memScratchWays : Key := (0x7100) * 256 + (3)
/-- scratch_bytes, 0x7100:04 (spec/14 R344). -/
def K.memScratchBytes : Key := (0x7100) * 256 + (4)
/-- llc_degraded, 0x7100:05 (spec/14 R344). -/
def K.memLlcDegraded : Key := (0x7100) * 256 + (5)
/-- miss_count, 0x7101:01 (spec/14 R344). -/
def K.memMissCount : Key := (0x7101) * 256 + (1)
/-- evict_hit_count, 0x7101:02 (spec/14 R344). -/
def K.memEvictHitCount : Key := (0x7101) * 256 + (2)
/-- evict_stall_count, 0x7101:03 (spec/14 R344). -/
def K.memEvictStallCount : Key := (0x7101) * 256 + (3)
/-- maint_wait_count, 0x7101:04 (spec/14 R344). -/
def K.memMaintWaitCount : Key := (0x7101) * 256 + (4)
/-- llc_ce_count, 0x7101:05 (spec/14 R344). -/
def K.memLlcCeCount : Key := (0x7101) * 256 + (5)
/-- llc_ue_count, 0x7101:06 (spec/14 R344). -/
def K.memLlcUeCount : Key := (0x7101) * 256 + (6)
/-- counters_clear, 0x7101:0F (spec/14 R344). -/
def K.memCountersClear7101 : Key := (0x7101) * 256 + (15)
/-- tracker_threshold, 0x7200:01 (spec/14 R344). -/
def K.memTrackerThreshold : Key := (0x7200) * 256 + (1)
/-- tracker_select, 0x7200:02 (spec/14 R344). -/
def K.memTrackerSelect : Key := (0x7200) * 256 + (2)
/-- tracker_entry, 0x7200:03 (spec/14 R344). -/
def K.memTrackerEntry : Key := (0x7200) * 256 + (3)
/-- tracker_clear, 0x7200:04 (spec/14 R344). -/
def K.memTrackerClear : Key := (0x7200) * 256 + (4)
/-- tracker_reported, 0x7200:05 (spec/14 R344). -/
def K.memTrackerReported : Key := (0x7200) * 256 + (5)
/-- tracker_evict_count, 0x7201:01 (spec/14 R344). -/
def K.memTrackerEvictCount : Key := (0x7201) * 256 + (1)
/-- counters_clear, 0x7201:0F (spec/14 R344). -/
def K.memCountersClear7201 : Key := (0x7201) * 256 + (15)
/-- hoe_base, 0x7300:01 (spec/14 R344). -/
def K.memHoeBase : Key := (0x7300) * 256 + (1)
/-- hoe_length, 0x7300:02 (spec/14 R344). -/
def K.memHoeLength : Key := (0x7300) * 256 + (2)
/-- hoe_mode, 0x7300:03 (spec/14 R344). -/
def K.memHoeMode : Key := (0x7300) * 256 + (3)
/-- hoe_rate_mbps, 0x7300:04 (spec/14 R344). -/
def K.memHoeRateMbps : Key := (0x7300) * 256 + (4)
/-- hoe_start, 0x7300:05 (spec/14 R344). -/
def K.memHoeStart : Key := (0x7300) * 256 + (5)
/-- hoe_cancel, 0x7300:06 (spec/14 R344). -/
def K.memHoeCancel : Key := (0x7300) * 256 + (6)
/-- hoe_state, 0x7300:07 (spec/14 R344). -/
def K.memHoeState : Key := (0x7300) * 256 + (7)
/-- hoe_progress, 0x7300:08 (spec/14 R344). -/
def K.memHoeProgress : Key := (0x7300) * 256 + (8)
/-- ce_found, 0x7301:01 (spec/14 R344). -/
def K.memCeFound : Key := (0x7301) * 256 + (1)
/-- ue_found, 0x7301:02 (spec/14 R344). -/
def K.memUeFound : Key := (0x7301) * 256 + (2)
/-- first_fail_addr, 0x7301:03 (spec/14 R344). -/
def K.memFirstFailAddr : Key := (0x7301) * 256 + (3)
/-- last_fail_addr, 0x7301:04 (spec/14 R344). -/
def K.memLastFailAddr : Key := (0x7301) * 256 + (4)
/-- tracker_hits, 0x7301:05 (spec/14 R344). -/
def K.memTrackerHits : Key := (0x7301) * 256 + (5)
/-- rewritten, 0x7301:06 (spec/14 R344). -/
def K.memRewritten : Key := (0x7301) * 256 + (6)
/-- pass_us, 0x7301:07 (spec/14 R344). -/
def K.memPassUs : Key := (0x7301) * 256 + (7)
/-- selftest_result, 0x7400:01 (spec/14 R344). -/
def K.memSelftestResult : Key := (0x7400) * 256 + (1)
/-- selftest_us, 0x7400:02 (spec/14 R344). -/
def K.memSelftestUs : Key := (0x7400) * 256 + (2)
/-- depth_max, 0x7800:01 (spec/15 R358). -/
def K.panDepthMax (q : Nat) : Key := (0x7800 + 0x1 * q) * 256 + (1)
/-- reserve, 0x7800:02 (spec/15 R358). -/
def K.panReserve (q : Nat) : Key := (0x7800 + 0x1 * q) * 256 + (2)
/-- high_mark, 0x7800:03 (spec/15 R358). -/
def K.panHighMark (q : Nat) : Key := (0x7800 + 0x1 * q) * 256 + (3)
/-- low_mark, 0x7800:04 (spec/15 R358). -/
def K.panLowMark (q : Nat) : Key := (0x7800 + 0x1 * q) * 256 + (4)
/-- mark_event, 0x7800:05 (spec/15 R358). -/
def K.panMarkEvent (q : Nat) : Key := (0x7800 + 0x1 * q) * 256 + (5)
/-- queue_reset, 0x7800:06 (spec/15 R358). -/
def K.panQueueReset (q : Nat) : Key := (0x7800 + 0x1 * q) * 256 + (6)
/-- level, 0x7A00:01 (spec/15 R358). -/
def K.panLevel (q : Nat) : Key := (0x7A00 + 0x1 * q) * 256 + (1)
/-- flags, 0x7A00:02 (spec/15 R358). -/
def K.panFlags (q : Nat) : Key := (0x7A00 + 0x1 * q) * 256 + (2)
/-- hi_count, 0x7A00:03 (spec/15 R358). -/
def K.panHiCount (q : Nat) : Key := (0x7A00 + 0x1 * q) * 256 + (3)
/-- lo_count, 0x7A00:04 (spec/15 R358). -/
def K.panLoCount (q : Nat) : Key := (0x7A00 + 0x1 * q) * 256 + (4)
/-- counts_clear, 0x7A00:05 (spec/15 R358). -/
def K.panCountsClear (q : Nat) : Key := (0x7A00 + 0x1 * q) * 256 + (5)
/-- pool_free, 0x7C00:01 (spec/15 R359). -/
def K.poolPoolFree : Key := (0x7C00) * 256 + (1)
/-- reserve_total, 0x7C00:02 (spec/15 R359). -/
def K.poolReserveTotal : Key := (0x7C00) * 256 + (2)
/-- pool_exhausted, 0x7C00:03 (spec/15 R359). -/
def K.poolPoolExhausted : Key := (0x7C00) * 256 + (3)
/-- pantry_degraded, 0x7C00:04 (spec/15 R359). -/
def K.poolPantryDegraded : Key := (0x7C00) * 256 + (4)
/-- cells_lost, 0x7C00:05 (spec/15 R359). -/
def K.poolCellsLost : Key := (0x7C00) * 256 + (5)
/-- overrun_count, 0x7C01:01 (spec/15 R359). -/
def K.poolOverrunCount : Key := (0x7C01) * 256 + (1)
/-- mismatch_count, 0x7C01:02 (spec/15 R359). -/
def K.poolMismatchCount : Key := (0x7C01) * 256 + (2)
/-- reclaimed_count, 0x7C01:03 (spec/15 R359). -/
def K.poolReclaimedCount : Key := (0x7C01) * 256 + (3)
/-- poison_count, 0x7C01:04 (spec/15 R359). -/
def K.poolPoisonCount : Key := (0x7C01) * 256 + (4)
/-- counters_clear, 0x7C01:0F (spec/15 R359). -/
def K.poolCountersClear7C01 : Key := (0x7C01) * 256 + (15)
/-- sieve_enable, 0x8000:01 (spec/16 R378). -/
def K.sivSieveEnable : Key := (0x8000) * 256 + (1)
/-- sieve_host_enable, 0x8000:02 (spec/16 R378). -/
def K.sivSieveHostEnable : Key := (0x8000) * 256 + (2)
/-- host_engine_mask, 0x8000:03 (spec/16 R378). -/
def K.sivHostEngineMask : Key := (0x8000) * 256 + (3)
/-- slm_base, 0x8000:04 (spec/16 R378). -/
def K.sivSlmBase : Key := (0x8000) * 256 + (4)
/-- slm_size, 0x8000:05 (spec/16 R378). -/
def K.sivSlmSize : Key := (0x8000) * 256 + (5)
/-- exec_timeout_ms, 0x8000:06 (spec/16 R378). -/
def K.sivExecTimeoutMs : Key := (0x8000) * 256 + (6)
/-- pause_limit_ms, 0x8000:07 (spec/16 R378). -/
def K.sivPauseLimitMs : Key := (0x8000) * 256 + (7)
/-- grant_wait_ms, 0x8000:08 (spec/16 R378). -/
def K.sivGrantWaitMs : Key := (0x8000) * 256 + (8)
/-- key_hash[0], 0x8001:01 (spec/16 R378). -/
def K.sivKeyHash : Key := (0x8001) * 256 + (1)
/-- key_hash[1–3], 0x8001:02 (spec/16 R378). -/
def K.sivKeyHash8001 (i : Nat) : Key := (0x8001) * 256 + (2 + i)
/-- engine_state, 0x8010:01 (spec/16 R378). -/
def K.engEngineState (n : Nat) : Key := (0x8010 + 0x1 * n) * 256 + (1)
/-- owner, 0x8010:02 (spec/16 R378). -/
def K.engOwner (n : Nat) : Key := (0x8010 + 0x1 * n) * 256 + (2)
/-- run_slot, 0x8010:03 (spec/16 R378). -/
def K.engRunSlot (n : Nat) : Key := (0x8010 + 0x1 * n) * 256 + (3)
/-- fw_slot, 0x8010:04 (spec/16 R378). -/
def K.engFwSlot (n : Nat) : Key := (0x8010 + 0x1 * n) * 256 + (4)
/-- fw_cparam1, 0x8010:05 (spec/16 R378). -/
def K.engFwCparam1 (n : Nat) : Key := (0x8010 + 0x1 * n) * 256 + (5)
/-- fw_cparam2, 0x8010:06 (spec/16 R378). -/
def K.engFwCparam2 (n : Nat) : Key := (0x8010 + 0x1 * n) * 256 + (6)
/-- fw_ranges, 0x8010:07 (spec/16 R378). -/
def K.engFwRanges (n : Nat) : Key := (0x8010 + 0x1 * n) * 256 + (7)
/-- fw_start, 0x8010:08 (spec/16 R378). -/
def K.engFwStart (n : Nat) : Key := (0x8010 + 0x1 * n) * 256 + (8)
/-- fw_stop, 0x8010:09 (spec/16 R378). -/
def K.engFwStop (n : Nat) : Key := (0x8010 + 0x1 * n) * 256 + (9)
/-- last_end, 0x8010:0A (spec/16 R378). -/
def K.engLastEnd (n : Nat) : Key := (0x8010 + 0x1 * n) * 256 + (10)
/-- last_result, 0x8010:0B (spec/16 R378). -/
def K.engLastResult (n : Nat) : Key := (0x8010 + 0x1 * n) * 256 + (11)
/-- fault_pc, 0x8010:0C (spec/16 R378). -/
def K.engFaultPc (n : Nat) : Key := (0x8010 + 0x1 * n) * 256 + (12)
/-- run_us, 0x8010:0D (spec/16 R378). -/
def K.engRunUs (n : Nat) : Key := (0x8010 + 0x1 * n) * 256 + (13)
/-- program_slot[0–15], 0x8100:01 (spec/16 R378). -/
def K.sivProgramSlot (i : Nat) : Key := (0x8100) * 256 + (1 + i)
/-- program_hash[0–15], 0x8101:01 (spec/16 R378). -/
def K.sivProgramHash (i : Nat) : Key := (0x8101) * 256 + (1 + i)
/-- tap[1–15], 0x8200:01 (spec/16 R378). -/
def K.sivTap (i : Nat) : Key := (0x8200) * 256 + (1 + i)
/-- tap_drop_count[1–15], 0x8201:01 (spec/16 R378). -/
def K.sivTapDropCount (i : Nat) : Key := (0x8201) * 256 + (1 + i)
/-- run_count, 0x8300:01 (spec/16 R378). -/
def K.sivRunCount : Key := (0x8300) * 256 + (1)
/-- fault_count, 0x8300:02 (spec/16 R378). -/
def K.sivFaultCount : Key := (0x8300) * 256 + (2)
/-- timeout_count, 0x8300:03 (spec/16 R378). -/
def K.sivTimeoutCount : Key := (0x8300) * 256 + (3)
/-- withdrawn_count, 0x8300:04 (spec/16 R378). -/
def K.sivWithdrawnCount : Key := (0x8300) * 256 + (4)
/-- pause_count, 0x8300:05 (spec/16 R378). -/
def K.sivPauseCount : Key := (0x8300) * 256 + (5)
/-- reject_count, 0x8300:06 (spec/16 R378). -/
def K.sivRejectCount : Key := (0x8300) * 256 + (6)
/-- counters_clear, 0x8300:0F (spec/16 R378). -/
def K.sivCountersClear8300 : Key := (0x8300) * 256 + (15)
/-- device_code, 0x1000:01 (spec/17 R401). -/
def K.idnDeviceCode : Key := (0x1000) * 256 + (1)
/-- silicon_step, 0x1000:02 (spec/17 R401). -/
def K.idnSiliconStep : Key := (0x1000) * 256 + (2)
/-- serial_number, 0x1000:03 (spec/17 R401). -/
def K.idnSerialNumber : Key := (0x1000) * 256 + (3)
/-- unit_id, 0x1000:04 (spec/17 R401). -/
def K.idnUnitId : Key := (0x1000) * 256 + (4)
/-- rom_version, 0x1000:05 (spec/17 R401). -/
def K.idnRomVersion : Key := (0x1000) * 256 + (5)
/-- fw_version, 0x1000:06 (spec/17 R401). -/
def K.idnFwVersion : Key := (0x1000) * 256 + (6)
/-- fw_image, 0x1000:07 (spec/17 R401). -/
def K.idnFwImage : Key := (0x1000) * 256 + (7)
/-- dict_layout, 0x1000:08 (spec/17 R401). -/
def K.idnDictLayout : Key := (0x1000) * 256 + (8)
/-- factory_mode, 0x1000:09 (spec/17 R401). -/
def K.idnFactoryMode : Key := (0x1000) * 256 + (9)
/-- mgmt_bus, 0x1010:01 (spec/17 R401). -/
def K.mgmtMgmtBus : Key := (0x1010) * 256 + (1)
/-- smbus_addr, 0x1010:02 (spec/17 R401). -/
def K.mgmtSmbusAddr : Key := (0x1010) * 256 + (2)
/-- i3c_static_addr, 0x1010:03 (spec/17 R401). -/
def K.mgmtI3cStaticAddr : Key := (0x1010) * 256 + (3)
/-- mctp_eid, 0x1010:04 (spec/17 R401). -/
def K.mgmtMctpEid : Key := (0x1010) * 256 + (4)
/-- mgmt_link_state, 0x1010:05 (spec/17 R401). -/
def K.mgmtMgmtLinkState : Key := (0x1010) * 256 + (5)
/-- mgmt_reset, 0x1010:06 (spec/17 R401). -/
def K.mgmtMgmtReset : Key := (0x1010) * 256 + (6)
/-- lock[0–15], 0x1040:01 (spec/17 R401). -/
def K.dictLock (i : Nat) : Key := (0x1040) * 256 + (1 + i)
/-- dict_last_status[0–16], 0x1050:01 (spec/17 R401). -/
def K.dictDictLastStatus (i : Nat) : Key := (0x1050) * 256 + (1 + i)
/-- violation_count[0–16], 0x1051:01 (spec/17 R401). -/
def K.dictViolationCount (i : Nat) : Key := (0x1051) * 256 + (1 + i)
/-- conflict_count[0–16], 0x1052:01 (spec/17 R401). -/
def K.dictConflictCount (i : Nat) : Key := (0x1052) * 256 + (1 + i)
/-- counters_clear, 0x1050:1F (spec/17 R401). -/
def K.dictCountersClear1050 : Key := (0x1050) * 256 + (31)
/-- frame_addr, 0x1060:01 (spec/17 R401). -/
def K.portFrameAddr (c : Nat) : Key := (0x1060 + 0x1 * c) * 256 + (1)
/-- resp_addr, 0x1060:02 (spec/17 R401). -/
def K.portRespAddr (c : Nat) : Key := (0x1060 + 0x1 * c) * 256 + (2)
/-- resp_len, 0x1060:03 (spec/17 R401). -/
def K.portRespLen (c : Nat) : Key := (0x1060 + 0x1 * c) * 256 + (3)
/-- frame_go, 0x1060:04 (spec/17 R401). -/
def K.portFrameGo (c : Nat) : Key := (0x1060 + 0x1 * c) * 256 + (4)
/-- frame_state, 0x1060:05 (spec/17 R401). -/
def K.portFrameState (c : Nat) : Key := (0x1060 + 0x1 * c) * 256 + (5)
/-- sr_state, 0x9000:01 (spec/18 R424). -/
def K.srSrState : Key := (0x9000) * 256 + (1)
/-- boot_counter, 0x9000:02 (spec/18 R424). -/
def K.srBootCounter : Key := (0x9000) * 256 + (2)
/-- boot_flags, 0x9000:03 (spec/18 R424). -/
def K.srBootFlags : Key := (0x9000) * 256 + (3)
/-- sig_alg, 0x9000:04 (spec/18 R424). -/
def K.srSigAlg : Key := (0x9000) * 256 + (4)
/-- seal_timeout_s, 0x9000:05 (spec/18 R424). -/
def K.srSealTimeoutS : Key := (0x9000) * 256 + (5)
/-- boot_select, 0x9010:01 (spec/18 R424). -/
def K.srBootSelect : Key := (0x9010) * 256 + (1)
/-- trial_image, 0x9010:02 (spec/18 R424). -/
def K.srTrialImage : Key := (0x9010) * 256 + (2)
/-- trial_boots, 0x9010:03 (spec/18 R424). -/
def K.srTrialBoots : Key := (0x9010) * 256 + (3)
/-- trial_left, 0x9010:04 (spec/18 R424). -/
def K.srTrialLeft : Key := (0x9010) * 256 + (4)
/-- fw_confirm, 0x9010:05 (spec/18 R424). -/
def K.srFwConfirm : Key := (0x9010) * 256 + (5)
/-- confirmed_image, 0x9010:06 (spec/18 R424). -/
def K.srConfirmedImage : Key := (0x9010) * 256 + (6)
/-- image_a_version, 0x9010:07 (spec/18 R424). -/
def K.srImageAVersion : Key := (0x9010) * 256 + (7)
/-- image_b_version, 0x9010:08 (spec/18 R424). -/
def K.srImageBVersion : Key := (0x9010) * 256 + (8)
/-- fs_floor, 0x9011:01 (spec/18 R424). -/
def K.srFsFloor : Key := (0x9011) * 256 + (1)
/-- fw_floor, 0x9011:02 (spec/18 R424). -/
def K.srFwFloor : Key := (0x9011) * 256 + (2)
/-- rollback_advance, 0x9011:03 (spec/18 R424). -/
def K.srRollbackAdvance : Key := (0x9011) * 256 + (3)
/-- meas_addr, 0x9020:01 (spec/18 R424). -/
def K.srMeasAddr : Key := (0x9020) * 256 + (1)
/-- meas_len, 0x9020:02 (spec/18 R424). -/
def K.srMeasLen : Key := (0x9020) * 256 + (2)
/-- meas_index, 0x9020:03 (spec/18 R424). -/
def K.srMeasIndex : Key := (0x9020) * 256 + (3)
/-- meas_component, 0x9020:04 (spec/18 R424). -/
def K.srMeasComponent : Key := (0x9020) * 256 + (4)
/-- meas_version, 0x9020:05 (spec/18 R424). -/
def K.srMeasVersion : Key := (0x9020) * 256 + (5)
/-- meas_go, 0x9020:06 (spec/18 R424). -/
def K.srMeasGo : Key := (0x9020) * 256 + (6)
/-- meas_state, 0x9020:07 (spec/18 R424). -/
def K.srMeasState : Key := (0x9020) * 256 + (7)
/-- seal_request, 0x9020:08 (spec/18 R424). -/
def K.srSealRequest : Key := (0x9020) * 256 + (8)
/-- ledger_hash, 0x9030:01 (spec/18 R424). -/
def K.srLedgerHash : Key := (0x9030) * 256 + (1)
/-- ledger_offset, 0x9030:02 (spec/18 R424). -/
def K.srLedgerOffset : Key := (0x9030) * 256 + (2)
/-- ledger_chunk, 0x9030:03 (spec/18 R424). -/
def K.srLedgerChunk : Key := (0x9030) * 256 + (3)
/-- runtime_hash, 0x9030:04 (spec/18 R424). -/
def K.srRuntimeHash : Key := (0x9030) * 256 + (4)
/-- runtime_count, 0x9030:05 (spec/18 R424). -/
def K.srRuntimeCount : Key := (0x9030) * 256 + (5)
/-- runtime_lost, 0x9030:06 (spec/18 R424). -/
def K.srRuntimeLost : Key := (0x9030) * 256 + (6)
/-- store_newest_slot, 0x9040:01 (spec/18 R424). -/
def K.srStoreNewestSlot : Key := (0x9040) * 256 + (1)
/-- store_checkpoint_slot, 0x9040:02 (spec/18 R424). -/
def K.srStoreCheckpointSlot : Key := (0x9040) * 256 + (2)
/-- store_free, 0x9040:03 (spec/18 R424). -/
def K.srStoreFree : Key := (0x9040) * 256 + (3)
/-- opal_state, 0x9050:01 (spec/18 R424). -/
def K.srOpalState : Key := (0x9050) * 256 + (1)
/-- read_locked, 0x9050:02 (spec/18 R424). -/
def K.srReadLocked : Key := (0x9050) * 256 + (2)
/-- write_locked, 0x9050:03 (spec/18 R424). -/
def K.srWriteLocked : Key := (0x9050) * 256 + (3)
/-- erase_pending, 0x9050:04 (spec/18 R424). -/
def K.srErasePending : Key := (0x9050) * 256 + (4)
/-- erase_done, 0x9050:05 (spec/18 R424). -/
def K.srEraseDone : Key := (0x9050) * 256 + (5)
/-- spdm_enable, 0x9060:01 (spec/18 R424). -/
def K.srSpdmEnable : Key := (0x9060) * 256 + (1)
/-- fallback_count, 0x9070:01 (spec/18 R424). -/
def K.srFallbackCount : Key := (0x9070) * 256 + (1)
/-- image_reject_count, 0x9070:02 (spec/18 R424). -/
def K.srImageRejectCount : Key := (0x9070) * 256 + (2)
/-- fold_count, 0x9070:03 (spec/18 R424). -/
def K.srFoldCount : Key := (0x9070) * 256 + (3)
/-- auth_fail_count, 0x9070:04 (spec/18 R424). -/
def K.srAuthFailCount : Key := (0x9070) * 256 + (4)
/-- locked_access_count, 0x9070:05 (spec/18 R424). -/
def K.srLockedAccessCount : Key := (0x9070) * 256 + (5)
/-- spdm_request_count, 0x9070:06 (spec/18 R424). -/
def K.srSpdmRequestCount : Key := (0x9070) * 256 + (6)
/-- counters_clear, 0x9070:0F (spec/18 R424). -/
def K.srCountersClear9070 : Key := (0x9070) * 256 + (15)
/-- latched_lo, 0xA020:01 (spec/19 R428). -/
def K.statLatchedLo (b : Nat) : Key := (0xA020 + 0x1 * b) * 256 + (1)
/-- latched_hi, 0xA020:02 (spec/19 R428). -/
def K.statLatchedHi (b : Nat) : Key := (0xA020 + 0x1 * b) * 256 + (2)
/-- enable_lo, 0xA020:03 (spec/19 R428). -/
def K.statEnableLo (b : Nat) : Key := (0xA020 + 0x1 * b) * 256 + (3)
/-- enable_hi, 0xA020:04 (spec/19 R428). -/
def K.statEnableHi (b : Nat) : Key := (0xA020 + 0x1 * b) * 256 + (4)
/-- pending_lo, 0xA020:05 (spec/19 R428). -/
def K.statPendingLo (b : Nat) : Key := (0xA020 + 0x1 * b) * 256 + (5)
/-- pending_hi, 0xA020:06 (spec/19 R428). -/
def K.statPendingHi (b : Nat) : Key := (0xA020 + 0x1 * b) * 256 + (6)
/-- route, 0xA020:07 (spec/19 R428). -/
def K.statRoute (b : Nat) : Key := (0xA020 + 0x1 * b) * 256 + (7)
/-- conseq_lo, 0xA020:08 (spec/19 R428). -/
def K.statConseqLo (b : Nat) : Key := (0xA020 + 0x1 * b) * 256 + (8)
/-- conseq_hi, 0xA020:09 (spec/19 R428). -/
def K.statConseqHi (b : Nat) : Key := (0xA020 + 0x1 * b) * 256 + (9)
/-- capture_release, 0xA020:0A (spec/19 R428). -/
def K.statCaptureRelease (b : Nat) : Key := (0xA020 + 0x1 * b) * 256 + (10)
/-- capture_missed, 0xA020:0B (spec/19 R428). -/
def K.statCaptureMissed (b : Nat) : Key := (0xA020 + 0x1 * b) * 256 + (11)
/-- first_source, 0xA020:0C (spec/19 R428). -/
def K.statFirstSource (b : Nat) : Key := (0xA020 + 0x1 * b) * 256 + (12)
/-- capture_overflow, 0xA020:0D (spec/19 R428). -/
def K.statCaptureOverflow (b : Nat) : Key := (0xA020 + 0x1 * b) * 256 + (13)
/-- capture, 0xA020:10 (spec/19 R428). -/
def K.statCapture (b i : Nat) : Key := (0xA020 + 0x1 * b) * 256 + (16 + i)
/-- capture_mode, 0xA000:01 (spec/19 R448). -/
def K.evtCaptureMode : Key := (0xA000) * 256 + (1)
/-- blank_active, 0xA000:02 (spec/19 R448). -/
def K.evtBlankActive : Key := (0xA000) * 256 + (2)
/-- fault_hold, 0xA010:01 (spec/19 R448). -/
def K.evtFaultHold : Key := (0xA010) * 256 + (1)
/-- fault_l_low, 0xA010:02 (spec/19 R448). -/
def K.evtFaultLLow : Key := (0xA010) * 256 + (2)
/-- fault_pulse_count, 0xA010:03 (spec/19 R448). -/
def K.evtFaultPulseCount : Key := (0xA010) * 256 + (3)
/-- unit_reset_count[0–19], 0xA011:01 (spec/19 R448). -/
def K.evtUnitResetCount (i : Nat) : Key := (0xA011) * 256 + (1 + i)
/-- unit_window_count[0–19], 0xA012:01 (spec/19 R448). -/
def K.evtUnitWindowCount (i : Nat) : Key := (0xA012) * 256 + (1 + i)
/-- window0–window3, 0xA040:01 (spec/19 R448). -/
def K.almWindow (p i : Nat) : Key := (0xA040 + 0x1 * p) * 256 + (1 + i)
/-- cursor, 0xA040:05 (spec/19 R448). -/
def K.almCursor (p : Nat) : Key := (0xA040 + 0x1 * p) * 256 + (5)
/-- oldest, 0xA040:06 (spec/19 R448). -/
def K.almOldest (p : Nat) : Key := (0xA040 + 0x1 * p) * 256 + (6)
/-- next, 0xA040:07 (spec/19 R448). -/
def K.almNext (p : Nat) : Key := (0xA040 + 0x1 * p) * 256 + (7)
/-- level, 0xA040:08 (spec/19 R448). -/
def K.almLevel (p : Nat) : Key := (0xA040 + 0x1 * p) * 256 + (8)
/-- capacity, 0xA040:09 (spec/19 R448). -/
def K.almCapacity (p : Nat) : Key := (0xA040 + 0x1 * p) * 256 + (9)
/-- release, 0xA040:0A (spec/19 R448). -/
def K.almRelease (p : Nat) : Key := (0xA040 + 0x1 * p) * 256 + (10)
/-- missed, 0xA040:0B (spec/19 R448). -/
def K.almMissed (p : Nat) : Key := (0xA040 + 0x1 * p) * 256 + (11)
/-- missed_total, 0xA040:0C (spec/19 R448). -/
def K.almMissedTotal (p : Nat) : Key := (0xA040 + 0x1 * p) * 256 + (12)
/-- full, 0xA040:0D (spec/19 R448). -/
def K.almFull (p : Nat) : Key := (0xA040 + 0x1 * p) * 256 + (13)
/-- ingress_peak, 0xA040:0E (spec/19 R448). -/
def K.almIngressPeak (p : Nat) : Key := (0xA040 + 0x1 * p) * 256 + (14)
/-- persist_go, 0xA040:0F (spec/19 R448). -/
def K.almPersistGo (p : Nat) : Key := (0xA040 + 0x1 * p) * 256 + (15)
/-- persist_state, 0xA040:10 (spec/19 R448). -/
def K.almPersistState (p : Nat) : Key := (0xA040 + 0x1 * p) * 256 + (16)
/-- persist_slot, 0xA040:11 (spec/19 R448). -/
def K.almPersistSlot (p : Nat) : Key := (0xA040 + 0x1 * p) * 256 + (17)
/-- fw_code, 0xA050:01 (spec/19 R448). -/
def K.fwrFwCode : Key := (0xA050) * 256 + (1)
/-- fw_param[0–2], 0xA050:02 (spec/19 R448). -/
def K.fwrFwParam (i : Nat) : Key := (0xA050) * 256 + (2 + i)
/-- fw_partition, 0xA050:05 (spec/19 R448). -/
def K.fwrFwPartition : Key := (0xA050) * 256 + (5)
/-- fw_write, 0xA050:06 (spec/19 R448). -/
def K.fwrFwWrite : Key := (0xA050) * 256 + (6)
/-- event_cfg[0–511], 0xA200:01 (spec/19 R448). -/
def K.evtEventCfg (e : Nat) : Key := (0xA200 + e / 128) * 256 + (1 + e % 128)
/-- mode, 0xB000:01 (spec/20 R475). -/
def K.pmMode : Key := (0xB000) * 256 + (1)
/-- mode_target, 0xB000:02 (spec/20 R475). -/
def K.pmModeTarget : Key := (0xB000) * 256 + (2)
/-- mode_source, 0xB000:03 (spec/20 R475). -/
def K.pmModeSource : Key := (0xB000) * 256 + (3)
/-- host_ps, 0xB000:04 (spec/20 R475). -/
def K.pmHostPs : Key := (0xB000) * 256 + (4)
/-- safe_cause, 0xB000:05 (spec/20 R475). -/
def K.pmSafeCause : Key := (0xB000) * 256 + (5)
/-- reset_cause, 0xB000:06 (spec/20 R475). -/
def K.pmResetCause : Key := (0xB000) * 256 + (6)
/-- safe_restart, 0xB000:07 (spec/20 R475). -/
def K.pmSafeRestart : Key := (0xB000) * 256 + (7)
/-- mgmt_request, 0xB001:01 (spec/20 R475). -/
def K.pmMgmtRequest : Key := (0xB001) * 256 + (1)
/-- unloaded_rpm, 0xB001:02 (spec/20 R475). -/
def K.pmUnloadedRpm : Key := (0xB001) * 256 + (2)
/-- ps1_envelope_mw, 0xB001:03 (spec/20 R475). -/
def K.pmPs1EnvelopeMw : Key := (0xB001) * 256 + (3)
/-- standby_idle_ms, 0xB001:04 (spec/20 R475). -/
def K.pmStandbyIdleMs : Key := (0xB001) * 256 + (4)
/-- ps_mp_cw[0–4], 0xB002:01 (spec/20 R475). -/
def K.pmPsMpCw (i : Nat) : Key := (0xB002) * 256 + (1 + i)
/-- ps_enlat_us[0–4], 0xB003:01 (spec/20 R475). -/
def K.pmPsEnlatUs (i : Nat) : Key := (0xB003) * 256 + (1 + i)
/-- ps_exlat_us[0–4], 0xB004:01 (spec/20 R475). -/
def K.pmPsExlatUs (i : Nat) : Key := (0xB004) * 256 + (1 + i)
/-- envelope_mw, 0xB010:01 (spec/20 R475). -/
def K.pmEnvelopeMw : Key := (0xB010) * 256 + (1)
/-- base_reserve_mw, 0xB010:02 (spec/20 R475). -/
def K.pmBaseReserveMw : Key := (0xB010) * 256 + (2)
/-- envelope_now_mw, 0xB010:03 (spec/20 R475). -/
def K.pmEnvelopeNowMw : Key := (0xB010) * 256 + (3)
/-- granted_mw, 0xB010:04 (spec/20 R475). -/
def K.pmGrantedMw : Key := (0xB010) * 256 + (4)
/-- holders, 0xB010:05 (spec/20 R475). -/
def K.pmHolders : Key := (0xB010) * 256 + (5)
/-- measured_mw, 0xB010:06 (spec/20 R475). -/
def K.pmMeasuredMw : Key := (0xB010) * 256 + (6)
/-- measured_peak_mw, 0xB010:07 (spec/20 R475). -/
def K.pmMeasuredPeakMw : Key := (0xB010) * 256 + (7)
/-- over_envelope, 0xB010:08 (spec/20 R475). -/
def K.pmOverEnvelope : Key := (0xB010) * 256 + (8)
/-- waiting, 0xB010:09 (spec/20 R475). -/
def K.pmWaiting : Key := (0xB010) * 256 + (9)
/-- slot_release_ms, 0xB010:0A (spec/20 R475). -/
def K.pmSlotReleaseMs : Key := (0xB010) * 256 + (10)
/-- tj, 0xB020:01 (spec/20 R475). -/
def K.pmTj : Key := (0xB020) * 256 + (1)
/-- level, 0xB020:02 (spec/20 R475). -/
def K.pmLevel : Key := (0xB020) * 256 + (2)
/-- throttle_step, 0xB020:03 (spec/20 R475). -/
def K.pmThrottleStep : Key := (0xB020) * 256 + (3)
/-- hottest, 0xB020:04 (spec/20 R475). -/
def K.pmHottest : Key := (0xB020) * 256 + (4)
/-- warn_c, 0xB020:05 (spec/20 R475). -/
def K.pmWarnC : Key := (0xB020) * 256 + (5)
/-- throttle_c, 0xB020:06 (spec/20 R475). -/
def K.pmThrottleC : Key := (0xB020) * 256 + (6)
/-- critical_c, 0xB020:07 (spec/20 R475). -/
def K.pmCriticalC : Key := (0xB020) * 256 + (7)
/-- trip_c, 0xB020:08 (spec/20 R475). -/
def K.pmTripC : Key := (0xB020) * 256 + (8)
/-- step_up_ms, 0xB020:09 (spec/20 R475). -/
def K.pmStepUpMs : Key := (0xB020) * 256 + (9)
/-- step_down_ms, 0xB020:0A (spec/20 R475). -/
def K.pmStepDownMs : Key := (0xB020) * 256 + (10)
/-- thermal_iter_cap, 0xB020:0B (spec/20 R475). -/
def K.pmThermalIterCap : Key := (0xB020) * 256 + (11)
/-- core_clock_throttle_mhz, 0xB020:0C (spec/20 R475). -/
def K.pmCoreClockThrottleMhz : Key := (0xB020) * 256 + (12)
/-- substituted, 0xB020:0D (spec/20 R475). -/
def K.pmSubstituted : Key := (0xB020) * 256 + (13)
/-- warn_cross_count, 0xB021:01 (spec/20 R475). -/
def K.pmWarnCrossCount : Key := (0xB021) * 256 + (1)
/-- throttle_cross_count, 0xB021:02 (spec/20 R475). -/
def K.pmThrottleCrossCount : Key := (0xB021) * 256 + (2)
/-- critical_cross_count, 0xB021:03 (spec/20 R475). -/
def K.pmCriticalCrossCount : Key := (0xB021) * 256 + (3)
/-- trip_count, 0xB021:04 (spec/20 R475). -/
def K.pmTripCount : Key := (0xB021) * 256 + (4)
/-- sensor_fail_count, 0xB021:05 (spec/20 R475). -/
def K.pmSensorFailCount : Key := (0xB021) * 256 + (5)
/-- substitution_count, 0xB021:06 (spec/20 R475). -/
def K.pmSubstitutionCount : Key := (0xB021) * 256 + (6)
/-- counters_clear, 0xB021:0F (spec/20 R475). -/
def K.pmCountersClearB021 : Key := (0xB021) * 256 + (15)
/-- sensor_temp[0–39], 0xB030:01 (spec/20 R475). -/
def K.pmSensorTemp (i : Nat) : Key := (0xB030) * 256 + (1 + i)
/-- sensor_failed_lo, 0xB031:01 (spec/20 R475). -/
def K.pmSensorFailedLo : Key := (0xB031) * 256 + (1)
/-- sensor_failed_hi, 0xB031:02 (spec/20 R475). -/
def K.pmSensorFailedHi : Key := (0xB031) * 256 + (2)
/-- comp_enable, 0xB040:01 (spec/20 R475). -/
def K.pmCompEnable : Key := (0xB040) * 256 + (1)
/-- xtal_ppb, 0xB040:02 (spec/20 R475). -/
def K.pmXtalPpb : Key := (0xB040) * 256 + (2)
/-- comp_status, 0xB040:03 (spec/20 R475). -/
def K.pmCompStatus : Key := (0xB040) * 256 + (3)
/-- domain_request[0–51], 0xB100:01 (spec/20 R475). -/
def K.pmDomainRequest (i : Nat) : Key := (0xB100) * 256 + (1 + i)
/-- domain_state[0–51], 0xB101:01 (spec/20 R475). -/
def K.pmDomainState (i : Nat) : Key := (0xB101) * 256 + (1 + i)
/-- gpio_out, 0x1070:01 (spec/21 R493). -/
def K.gpioGpioOut : Key := (0x1070) * 256 + (1)
/-- gpio_oe, 0x1070:02 (spec/21 R493). -/
def K.gpioGpioOe : Key := (0x1070) * 256 + (2)
/-- gpio_od, 0x1070:03 (spec/21 R493). -/
def K.gpioGpioOd : Key := (0x1070) * 256 + (3)
/-- gpio_in, 0x1070:04 (spec/21 R493). -/
def K.gpioGpioIn : Key := (0x1070) * 256 + (4)
/-- inject_event, 0xF100:01 (spec/19 R439). -/
def K.injInjectEvent : Key := (0xF100) * 256 + (1)
/-- inject_param, 0xF100:02 (spec/19 R439). -/
def K.injInjectParam (i : Nat) : Key := (0xF100) * 256 + (2 + i)
/-- inject_go, 0xF100:05 (spec/19 R439). -/
def K.injInjectGo : Key := (0xF100) * 256 + (5)

end Sys2Proof.Machine
end

