-- ==== Sys2Proof/Machine/State.lean ====
section
/-! DEFINITION. The state of the CA5240 block as plain data: the dictionary's objects (every register the spec
tables), the event framework and the Almanac, and what the spec gives each unit beside its registers; the queue of
waiting commands; and the state after power-on reset. -/

namespace Sys2Proof.Machine

/-- A sparse map in one canonical form: keys strictly rising. -/
abbrev Sp (α : Type) := List (Nat × α)

/-! ### Events and the Almanac (spec/19) -/

/-- What an occurrence brings beside its parameters (spec/19 R433): the access that caused it, and the slot or engine
it is raised for, by which R426 and R435 choose its unit. -/
structure Occ where
  master : Nat := 0xFF
  access : Nat := 0
  addr : Nat := 0
  injected : Bool := false
  slot : Option Nat := none
  engine : Option Nat := none
  /-- Raised by pd_deep (reset unit 6). -/
  deep : Bool := false
deriving DecidableEq, Repr

/-- A native capture record (spec/19 R433). -/
structure Capture where
  event : Nat
  conseq : Bool
  injected : Bool
  master : Nat
  access : Nat
  cls : Nat
  cause : Option Nat
  addr : Nat
  time : Nat
  angle : Nat
  sunState : Nat
  params : List Nat
deriving DecidableEq, Repr

/-- A status block (spec/19 R428, R434): latched, pending and conseq bits of up to 64 sources. -/
structure StatBlk where
  latched : BitVec 64 := 0
  pending : BitVec 64 := 0
  conseq : BitVec 64 := 0
  capture : Option Capture := none
  missed : Nat := 0
  first : Option Nat := none
  overflow : Bool := false
deriving DecidableEq, Repr

/-- An Almanac record (spec/19 R440); `valid` falls with an uncorrectable error (event 484). -/
structure Rec where
  code : Nat
  source : Nat
  conseq : Bool := false
  gap : Bool := false
  injected : Bool := false
  firmware : Bool := false
  time : Nat
  cause : Option Nat := none
  rev : Nat
  params : List Nat
  valid : Bool := true
deriving DecidableEq, Repr

/-- An Almanac partition (spec/19 R442-R446): the ingress queue, the records from `oldest` on, and what was missed. -/
structure Partition where
  ingress : List Rec := []
  recs : List Rec := []
  oldest : Nat := 0
  cursor : Nat := 0
  missed : Nat := 0
  missedTotal : Nat := 0
  /-- Cause of the gap awaited: 0 ingress, 1 full; and the time of its first missed arrival. -/
  gapCause : Nat := 0
  gapTime : Nat := 0
  full : Bool := false
  peak : Nat := 0
deriving DecidableEq, Repr

/-- A running blanking interval (spec/19 R436): the causing event, the interval's place in order of start, and
whether the cause's record went to Fault (R442). -/
structure Blank where
  cause : Nat
  seq : Nat
  inFault : Bool
deriving DecidableEq, Repr

/-- The event framework and the Almanac (spec/19). -/
structure EvState where
  blks : Vector StatBlk 20 := Vector.replicate 20 {}
  parts : Vector Partition 3 := Vector.replicate 3 {}
  blank : Vector (Option Blank) 20 := Vector.replicate 20 none
  blankSeq : Nat := 0
  /-- Times of each unit's block resets, newest first (R437). -/
  resets : Vector (List Nat) 20 := Vector.replicate 20 []
  /-- FAULT_L pulse running, and pulses started (R438). -/
  pulse : Bool := false
  pulseCount : Nat := 0
  /-- Standing Safe request with its causing event (R431). -/
  safeReq : Option Nat := none
  /-- The seal record has been written (R442). -/
  sealedRec : Bool := false
  /-- Persisted Almanac segments by slot, and segments written so far (R446). -/
  segs : Sp (List Byte) := []
  nextSeg : Nat := 0
deriving DecidableEq, Repr

/-! ### Sundial (spec/02) -/

/-- Sundial beside its objects: the stamp and the microsecond counter (R31, R33), the acquisition (R39), the wedge
being judged (R37), the alarms' last firing (R46) and SYNC_IN's runs (R49, R51). -/
structure Sundial where
  rev : BitVec 32 := 0
  frac : Frac := 0
  us : BitVec 48 := 0
  /-- Sundial has left INVALID since power-on reset (R32). -/
  leftInvalid : Bool := false
  /-- The internal acquisition angle, while an acquisition runs from INVALID. -/
  internal : Option Nat := none
  /-- An acquisition has had its first accepted detection; its first wedge has not been judged. -/
  acquiring : Bool := false
  first : Bool := false
  /-- Remainder of the coasting, in counts over the revolution period (R40); the observer's electrical angle of the last control cycle
  and the remainder of its division by pole_pairs (R38). -/
  rem : Nat := 0
  obsLast : Option Nat := none
  obsRem : Nat := 0
  /-- The wedge the angle expects next. -/
  expect : Option Nat := none
  /-- The filtered error f of R39 as an exact fraction of counts. -/
  fNum : Int := 0
  fDen : Nat := 1
  /-- Consecutive accepted wedges within lock_error_ps. -/
  run : Nat := 0
  /-- Consecutive missed wedges. -/
  misses : Nat := 0
  /-- The wedge not yet judged, the errors of its accepted detections, and the slots that have reported it. -/
  wedge : Option Nat := none
  errs : List Int := []
  heard : List Nat := []
  /-- Slots that contributed in the last wedge period. -/
  contributed : List Nat := []
  /-- Time of the last wrap of the fraction since Sundial last locked. -/
  lastWrap : Option Nat := none
  /-- Alarm n fired last at this revolution. -/
  fired : Sp Nat := []
  /-- Time of the last accepted SYNC_IN pulse, consecutive ignored ones, and consecutive ones beyond 0.2 %. -/
  lastPulse : Option Nat := none
  syncBad : Nat := 0
  syncBig : Nat := 0
deriving DecidableEq, Repr

/-! ### Motor engine (spec/03) -/

/-- The bridge output (spec/03 R54-R57, R60). -/
inductive Bridge where
  | highZ
  /-- Each active vector once for this many µs, limited to this current in mA (R63). -/
  | pulses (us ma : Nat)
  /-- A current vector of this many mA at this electrical angle (R63). -/
  | forcing (angle ma : Nat)
  /-- Active vector V1-V6 for d per mille of the cycle, V0 for the rest; first or last by the cycle's parity. -/
  | active (vec : Nat) (dPm : Nat) (activeFirst : Bool)
  /-- Zero vector V0 or V7 for the cycle. -/
  | zero (vec : Nat)
  /-- Zero vectors, high impedance for the rest of a cycle that reaches this current in mA (R65). -/
  | braking (ma : Nat)
  /-- Synchronous boost rectifier holding the rail at this many mV (R72). -/
  | rectifier (mv : Nat)
deriving DecidableEq, Repr

/-- The estimator of R55 and R57: stator flux in µWb, flux angle in 1/2^24 electrical revolution, torque in µN·m, the observer's
speed in 0.01 rpm, and the phase currents in mA and motor supply in mV that it used last. -/
structure Est where
  flux : Nat := 0
  angle : Nat := 0
  torque : Int := 0
  speed : Int := 0
  iu : Int := 0
  iv : Int := 0
  iw : Int := 0
  supplyMv : Nat := 0
deriving DecidableEq, Repr

/-- The motor engine beside its objects. -/
structure Motor where
  bridge : Bridge := .highZ
  est : Est := {}
  /-- Flux angle found by IPD (R63). -/
  ipdAngle : Nat := 0
  /-- START's forced speed in 10^-5 rpm, and its angle in counts over 6 × 10^11 (R63). -/
  forcedSpeed : Nat := 0
  forcedAcc : Nat := 0
  /-- comm_offset in counts over 100,000 (R69). -/
  offsetFine : Nat := 0
  /-- A condition of R68 held in the last cycle. -/
  lossHeld : Bool := false
  confirmed : Bool := false
  confirmRun : Nat := 0
  handRun : Nat := 0
  ilimRun : Nat := 0
  reconvRun : Nat := 0
  /-- Last output of the flux comparator (R55). -/
  dPsi : Int := 1
  /-- Vector applied last, for the zero-vector choice of R56. -/
  lastVec : Nat := 0
  /-- Parity of the control cycle (R57). -/
  odd : Bool := false
  /-- Duty summed over the revolution, and its cycles (R57). -/
  dSum : Nat := 0
  dCount : Nat := 0
  /-- Cycles with dT ≠ 0, and those clipped, over the present electrical period (R59). -/
  torqueCycles : Nat := 0
  clipped : Nat := 0
  /-- Revolution of modulation_pm's window; observer angle at the last cycle. -/
  modRev : Nat := 0
  /-- Speed command in force, 0.0001 rpm, and the PI controller's integrator in µN·m / (65,536 × 1,000,000) (R58). -/
  cmd : Int := 0
  integ : Int := 0
  /-- Time of entry to the present state, and of the last entry to RUN_OBSERVER from MEASURE or START (R66). -/
  since : Nat := 0
  runCatch : Option Nat := none
  /-- Start of the catch and its path: 0 rest, 1 forward, 2 backward (event 66). -/
  catchSince : Nat := 0
  catchPath : Nat := 0
  /-- Failed catches: time and cause (R66). -/
  fails : List (Nat × Nat) := []
  /-- The observer was lost in RECTIFY and the bridge is high impedance (R72). -/
  rectLost : Bool := false
  /-- Event 67 stands for the present excursion below unload_pct (R67). -/
  under : Bool := false
  /-- Torque cycles and clipped cycles of the electrical period that has ended, until the speed loop judges it (R59). -/
  period : Option (Nat × Nat) := none
  /-- Event 79 has been raised for the exhausted energy of this RECTIFY (R74). -/
  exhausted : Bool := false
  /-- Both conditions of the capture of comm_offset held in the last cycle (R69). -/
  bothHeld : Bool := false
  /-- Sector of the estimated flux angle at the last cycle, where an electrical period ends and begins. -/
  lastSector : Nat := 0
  /-- The 12 V input switch is closed (R72, R74). -/
  inputSwitch : Bool := true
deriving DecidableEq, Repr

/-! ### Servo and twin operation (spec/04, spec/05) -/

/-- What drives the VCM (spec/04 R96-R99). -/
inductive VcmOut where
  | off
  /-- Park hold: this current in mA, signed by od_polarity. -/
  | parkHold (ma : Int)
  /-- Velocity control at this bemf in mV, signed by od_polarity, with the current limited in mA. -/
  | velocity (mv : Int) (ma : Nat)
  /-- Current forced to brake (row 12 of R97). -/
  | brake
  /-- Zero current after the load move (row 5). -/
  | hold
  | firmware
  | highZ
deriving DecidableEq, Repr

/-- Why write_ok fell last (the reasons of spec/09 R212). -/
inductive OkFall where
  | pes | shock | outOfStroke | late | rroParity | decodeFault | degraded | pztFault | unlisted
deriving DecidableEq, Repr

/-- A slot's share of positioning (spec/04 R80-R91). -/
structure SlotServo where
  head : Nat := 0
  target : Int := 0
  offset : Int := 0
  /-- The last sample was a missed mark (R82). -/
  lastMissed : Bool := false
  /-- The last two valid positions, newest first. -/
  x1 : Option Int := none
  x2 : Option Int := none
  lastX : Int := 0
  readRun : Nat := 0
  writeRun : Nat := 0
  decodeRun : Nat := 0
  /-- The last sample was valid, without parity failure and within wi_threshold. -/
  sampleOk : Bool := false
  sampleValid : Bool := false
  lastPes : Int := 0
  fall : OkFall := .pes
  /-- PES of the last valid sample. -/
  lastValidPes : Option Int := none
  /-- The last valid sample met wi_threshold_pm (R213). -/
  lastGood : Bool := false
  /-- Sequence number of the last sample. -/
  seq : Nat := 0
deriving DecidableEq, Repr

/-- The state of a map capture (spec/05 R107). -/
structure MapCap where
  pair : Nat := 0
  point : Nat := 0
  /-- x_B - x_A summed by wedge over the counted revolutions, those revolutions, and all revolutions since the first wedge 0. -/
  sums : List Int := []
  good : Nat := 0
  revs : Nat := 0
  /-- The revolution under way: whether one is, its x_B - x_A from wedge 0 on, and whether a sample of it found a head moved by more
  than 100 mV; the same over the counted revolutions. -/
  inRev : Bool := false
  cur : List Int := []
  curMoved : Bool := false
  moved : Bool := false
  /-- Slot A's last valid sample: wedge and position. -/
  xa : Option (Nat × Int) := none
deriving DecidableEq, Repr

/-- One actuator beside its objects. -/
structure ActSt where
  vcm : VcmOut := .off
  /-- Sample sequence number, and position of the next sample record and twin record. -/
  seq : Nat := 0
  ringPos : Nat := 0
  twinPos : Nat := 0
  /-- Records of the sample ring not read since they were written, and the sample and seek interrupts raised (R84, R85). -/
  unread : BitVec 64 := 0
  sampleIrqs : Nat := 0
  seekIrqs : Nat := 0
  lateRun : Nat := 0
  /-- The last output latch was on time (R91). -/
  onTime : Bool := true
  shock : Bool := false
  loadFails : List (Nat × Nat) := []
  /-- An unload request held while LOADING (R97). -/
  unloadHeld : Bool := false
  /-- The head has passed servo track 0 in UNLOADING. -/
  passed0 : Bool := false
  since : Nat := 0
  pztFault : BitVec 12 := 0
  vcmSat : Nat := 0
  pztSat : Vector Nat 12 := Vector.replicate 12 0
  /-- VCM command driven, and the firmware command of the last block applied, µA. -/
  vcmDriven : Int := 0
  pztOut : Vector Int 12 := Vector.replicate 12 0
  /-- PZT commands that the outputs slew to, mV, and the drivers' codes: VCM in 4 A / 2^16, PZT in 60 V / 2^14 (R88). -/
  pztTarget : Vector Int 12 := Vector.replicate 12 0
  vcmCode : Int := 0
  pztCode : Vector Int 12 := Vector.replicate 12 0
  /-- Feed-forward filter states (u₋₁, u₋₂, y₋₁, y₋₂) of sections 1 and 2 of xff and rvff. -/
  xffState : List Int := []
  rvffState : List Int := []
  /-- Seek in progress: sequence number, slot, write, time, deadline. -/
  seekSeq : Nat := 0
  seekSlot : Nat := 0
  seekWrite : Bool := false
  seeking : Bool := false
  deadline : Nat := 0
  /-- Twin operation: pair, zone, pair shift, the descriptor's warning, out-of-stroke runs, exit awaited. -/
  twinZone : Nat := 0
  twinShift : Int := 0
  warned : Bool := false
  oosRun : Nat := 0
  clampRun : Nat := 0
  twinD : Int := 0
  /-- Twin mode ends at the next sector boundary with this cause (R112). -/
  twinLeaving : Option Nat := none
  capture : Option MapCap := none
  /-- The pair is out of stroke: the runs of R113 have been completed in this twin operation. -/
  oosHit : Bool := false
  /-- PZT outputs at the latest output latch, mV (R110). -/
  pztLatch : Vector Int 12 := Vector.replicate 12 0
  /-- Zones whose demotion awaits its commit (R114), with the pair and the pair shift they were demoted under. -/
  demoting : List (Nat × Nat × Int) := []
deriving DecidableEq, Repr

/-! ### Head-stack link (spec/06) -/

/-- Who asked for a link transaction, which says what its answer does. -/
inductive LinkWho where
  | seq            -- a head sequencer's scheduled command
  | safeStop       -- SAFE after which HS_CK stops
  | safeKeep       -- SAFE in place of an ASSIST_OFF
  | status         -- READ STATUS after HS_FLT_L
  | monitor        -- NOP of R139
  | degradedNop    -- NOP while link_degraded
  | poll           -- temperature and heater polls
  | regOp          -- firmware register access
  | init           -- initialisation of R136
deriving DecidableEq, Repr

/-- A link transaction: class (R134), command, head, address, data, and repeats made. -/
structure LinkReq where
  cls : Nat
  cmd : Nat
  head : Nat
  addr : Nat
  data : Nat
  who : LinkWho
  slot : Option Nat := none
  tries : Nat := 0
  /-- Due angle of its stop bit, of a scheduled command. -/
  due : Option Nat := none
deriving DecidableEq, Repr

/-- One head-stack link beside its objects. -/
structure Link where
  cur : Option LinkReq := none
  queue : List LinkReq := []
  clock : Bool := false
  /-- The link is occupied after a timeout, and the repeat that follows (R129, R135). -/
  hold : Bool := false
  again : Option LinkReq := none
  /-- preamp_fault waits for the READ of STATUS (R137). -/
  fltWait : Bool := false
  /-- Consecutive failed transactions. -/
  failRun : Nat := 0
  /-- A NOP has succeeded since link_degraded was set. -/
  nopSince : Bool := false
  /-- Step of a running initialisation: 0 none, 1 SAFE, 2 to 65 NOPs, 66 ID, 67 CAPS. -/
  init : Nat := 0
  /-- HS_FLT_L is low, and the gates that were open when it fell. -/
  fltLow : Bool := false
  fltGates : Nat := 0
  /-- SLOT_SEL last written. -/
  sel : Nat := 0
  /-- The preamp is in its safe state (R133). -/
  preampSafe : Bool := true
  /-- Values last written: head × 256 + register → value. -/
  written : Sp Nat := []
  /-- Heads whose head_temp stands above the limit (R145). -/
  hot : BitVec 12 := 0
  /-- The last 42-bit frame sent on HS_DO (R126). -/
  lastFrame : Nat := 0
deriving DecidableEq, Repr

/-! ### Channel slots (spec/07, spec/08) -/

/-- States of a sample buffer entry (spec/07 R168). -/
inductive BufSt where
  | free | capturing | held | abandoned | pinned
deriving DecidableEq, Repr

/-- The recovery work on a HELD entry (spec/08 R183-R189). -/
inductive Work where
  | none | live | inPlace | deepWait | deepRun
deriving DecidableEq, Repr

/-- The settings of a slot's read path (spec/07 R149, R150, R153, R157): readers (0 both, 1 reader 0, 2 reader 1), channel and ADC rates,
filter, equalisation target in 1/32, gains in 0.1 dB. -/
structure Front where
  reader : Nat := 0
  kbps : Nat := 0
  adcKsps : Nat := 0
  cutoffMhz : Nat := 0
  boostDb : Nat := 0
  target : List Int := []
  gain0 : Nat := 0
  gain1 : Nat := 0
deriving DecidableEq, Repr

/-- What a detection works on (spec/08 R179): the equalised samples by bit time, the target, the bit times of the codeword's bits, and the
erased intervals as first bit and length. -/
structure Detection where
  ys : List Int := []
  target : List Int := []
  times : List Nat := []
  erased : List (Nat × Nat) := []
deriving DecidableEq, Repr

/-- A sample buffer entry: its header (spec/07 R167), what its sector should be, and its recovery state (spec/08). -/
structure BufEntry where
  st : BufSt := .free
  stamp : Nat := 0
  tag : Nat := 0
  sector : Nat := 0
  head : Nat := 0
  readerUse : Nat := 0
  codeRate : Nat := 0
  ring : Nat := 0
  track : Nat := 0
  bits : Nat := 0
  pred : Nat := 0
  /-- First bit time after each resync field, as R156 places it. -/
  resyncs : List Nat := []
  defects : List (Nat × Nat) := []
  moreDefects : Bool := false
  acqFrozen : Bool := false
  gainRail : Bool := false
  timingRail : Bool := false
  abandoned : Bool := false
  complete : Bool := false
  gains : List Int := []
  /-- The sample area holds what a capture under way or abandoned has left in it: the free values from this number on (log 13). -/
  freeBase : Option Nat := none
  /-- Dropout intervals of the sector, none left out (spec/08 R185). -/
  drops : List (Nat × Nat) := []
  /-- Kind, LBA, namespace, locking range, zone and generation of its sector, its Cellar address, the tap and group flag of its descriptor,
  and its position in the descriptor. -/
  kind : Nat := 0
  lba : Nat := 0
  ns2 : Bool := false
  range : Nat := 0
  zone : Nat := 0
  generation : Nat := 0
  dest : Nat := 0
  tap : Nat := 0
  group : Bool := false
  pos : Nat := 0
  /-- The ring's equalisation target, and the equaliser taps at the gate's close (spec/08 R183). -/
  target : List Int := []
  taps : List Int := []
  /-- The live path: equalised samples and tentative decisions by bit time, the declared mark and the candidates (spec/08 R177). -/
  ys : List Int := []
  ds : List Bool := []
  declared : Option Nat := none
  cands : List Nat := []
  work : Work := .none
  markMissed : Bool := false
  /-- Alignments in order, as position, candidate rank and offset; how many have been tried; the best one with its unsatisfied checks. -/
  aligns : List (Nat × Nat × Int) := []
  tried : Nat := 0
  bestAlign : Option (Nat × Nat × Nat × Int) := none
  /-- Re-detection passes left, and the best one's detection with its unsatisfied checks (spec/08 R184). -/
  passes : List Nat := []
  det : Option (Nat × Detection) := none
  /-- Unsatisfied checks of the best attempt (spec/08 R190). -/
  best : Nat := 4095
  lineIters : Nat := 0
  deepIters : Nat := 0
  mismatch : Bool := false
  /-- Microseconds waited in the deep queue (spec/08 R201). -/
  waited : Nat := 0
deriving DecidableEq, Repr

/-- The channel of a slot beside its objects. -/
structure Chan where
  bufs : Vector BufEntry 16 := Vector.replicate 16 {}
  /-- Entry taken last (R168). -/
  last : Nat := 15
  /-- Entry whose read gate is open. -/
  gate : Option (Fin 16) := none
  /-- The ADC trim in force in the open gate, or the last one (spec/20 R474). -/
  adcTrim : Int := 0
  /-- Rise of each defect flag: bit time, and whether defect_long was raised. -/
  rise : List (Nat × Nat) := []
  longRaised : List Nat := []
  railRaised : List Nat := []
  /-- The data settings, and the settings of the last servo gate (R150). -/
  front : Front := {}
  servo : Front := {}
  /-- Timing offset of the head-ring state loaded last, and where the frequency of the open gate started, parts per 10⁹ (R158, R163). -/
  hrTiming : Int := 0
  timingStart : Int := 0
  /-- Intervals of the sector in which the loops were held, first and last bit; the first bit of the present one; the bit from which the loops
  adapt; the bit from which the hold-off runs (R165). -/
  freezes : List (Nat × Nat) := []
  holdFrom : Option Nat := none
  adaptFrom : Nat := 0
  downAt : Int := 0
  /-- Equaliser taps of both readers, 16 each, as U16 (R159). -/
  taps : List Nat := []
  /-- Descriptor in hand: tag, whether it reads, its ring words latched at the start (R151), profile, group flag,
  last sector, line-decoded so far. -/
  desc : Option Desc := none
  ringFmt : Nat := 0
  ringFe : Nat := 0
  /-- Ring, ring_format and ring_fe of the other surface of a twin-serial part (spec/05 R112). -/
  other : Option (Nat × Nat × Nat) := none
  profile : Nat := 0
  /-- The latest position of the descriptor with a result, and whether the line decoder decoded it without re-detection (R163). -/
  lastSec : Nat := 0
  lastLine : Bool := false
  frozenAtClose : Bool := false
  /-- Firmware area of the sector decoded last (spec/08 R174). -/
  firmware : List Byte := []
  /-- Sectors moved to the next revolution (R168), read sectors left. -/
  moved : Nat := 0
  left : Nat := 0
  /-- A result word has been formed and not yet delivered to TRL[a] (spec/10 R225). -/
  resultReady : Bool := false
  /-- The slot is in block reset or its head sequencer not in RUN (R143, R206 row 9). -/
  inReset : Bool := false
deriving DecidableEq, Repr

/-- A waiting job of the deep decoder (spec/08 R189, R193). -/
structure DeepJob where
  stamp : Nat
  q : Slot
  /-- Buffer entry, or none for a combine job. -/
  entry : Option (Fin 16)
  /-- Time it joined. -/
  since : Nat
  /-- Code rate, and the detection its first round starts from. -/
  code : Nat := 0
  det : Detection := {}
deriving DecidableEq, Repr

/-- The deep decoder, the outer-code solver and the group memory (spec/08 R189-R195). -/
structure Deep where
  queue : List DeepJob := []
  run : Option DeepJob := none
  /-- Group read: slot, positions decoded and failed. -/
  ocSlot : Nat := 0
  ocDecoded : BitVec 34 := 0
  ocFailed : BitVec 34 := 0
  ocTag : Nat := 0
  /-- The group memory: user, firmware and CRC bytes of the decoded positions, still ciphertext; and of each position its entry's number, its result word and its capture. -/
  ocMem : Sp (List Byte) := []
  ocEnts : Sp (Nat × Nat × BufEntry) := []
deriving DecidableEq, Repr

/-! ### Write path (spec/09) -/

/-- A staging entry (spec/09 R203). -/
structure StageEnt where
  /-- What it was staged from: a parity sector's contents come from the accumulator when its gate opens (spec/09 R211). -/
  src : Option StageIn := none
  tag : Nat
  sector : Nat
  kind : Nat
  lba : Nat
  complete : Bool
  bits : Nat
  /-- The bytes staged: user field, metadata and CRC; and the channel bits they make (R202). -/
  bytes : List Byte
  frame : List Bool := []
  /-- When it was staged. -/
  stamp : Nat := 0
  /-- Its plaintext could not be fetched (spec/14 R325). -/
  bad : Bool := false
deriving DecidableEq, Repr

/-- An open write gate and the sector in flight (spec/09 R205, R208). -/
structure Gate where
  tag : Nat
  sector : Nat
  head : Nat
  ring : Nat
  track : Nat
  zone : Option Nat
  trackIndex : Nat
  groupPos : Nat
  /-- Between two regions of the sector: in flight with the gate closed over a wedge. -/
  paused : Bool
  twinB : Bool
  /-- Direction field of the zone, and whether the zone has the outer code (spec/11 R245). -/
  dir : Nat
  outer : Bool
  /-- First and last track of its descriptor (R210). -/
  firstTrack : Nat := 0
  lastTrack : Nat := 0
  /-- Channel rate at its last opening, kb/s (spec/07 R157), and the transitions on HS_WD with their delays in ps (R204). -/
  kbps : Nat := 0
  delays : List (Nat × Nat) := []
deriving DecidableEq, Repr

/-- Pre-bias and write state of a slot's head (spec/06 R139-R143); `stopping` after its ASSIST_OFF was posted. -/
inductive Assist where
  | off | armed | prebias | writing | stopping
deriving DecidableEq, Repr

/-- The write pipeline of a slot beside its objects. -/
structure WriteSt where
  staging : List StageEnt := []
  gate : Option Gate := none
  tag : Nat := 0
  written : Nat := 0
  deferrals : Nat := 0
  twinB : Bool := false
  /-- Assist of the slot's head, whether the preamp's monitor has confirmed it, whether a gate of the run has opened. -/
  assist : Assist := .off
  assistHead : Nat := 0
  assistRing : Nat := 0
  confirmed : Bool := false
  runOpen : Bool := false
  /-- Sectors whose gate closed since the last confirming response started (R141). -/
  sinceConfirm : Nat := 0
  /-- Outer-code accumulator: zone, group, positions added, and the bytes added (R211). -/
  accZone : Nat := 0
  accGroup : Nat := 0
  accCount : Nat := 0
  accHeld : Bool := false
  accData : List (List Byte) := []
  /-- The encoder and staging checks hold (row 10). -/
  encoderOk : Bool := true
  /-- A descriptor is in hand. -/
  active : Bool := false
deriving DecidableEq, Repr
/-! ### Trellis engines (spec/10) -/

/-- What a context holds (spec/10 R231): next address, micro-stack, loop counters, flags. -/
structure TrlCtx where
  upc : Nat := 0
  stack : List Nat := []
  lc : List Nat := [0, 0, 0, 0]
  /-- Flags zero, negative, carry, overflow as bits 0-3. -/
  flags : Nat := 0
deriving DecidableEq, Repr

/-- A Trellis engine beside its objects. -/
structure Engine where
  cur : TrlCtx := {}
  regs : Vector (BitVec 32) 32 := Vector.replicate 32 0
  /-- Local memory by byte address; an unlisted byte is 0. -/
  mem : List (Nat × Byte) := []
  /-- Patch RAM and customer region of both stores; an unlisted word is 0 (R219). -/
  micro : Sp (BitVec 41) := []
  nano : Sp (BitVec 128) := []
  /-- Valid redirect registers: source and target (R220). -/
  redirects : List (Nat × Nat) := []
  /-- The context slot while a handler runs (R231). -/
  irq : Option TrlCtx := none
  /-- The context saved by a halt, and whether a handler was running (R230). -/
  halt : Option (TrlCtx × Option TrlCtx) := none
  haltReq : Bool := false
  /-- Outstanding fabric operation: the register a read returns to, none for a write (R227). -/
  fabric : Option (Option Nat) := none
  fabReady : Bool := false
  fabError : Bool := false
  popValid : Bool := false
  /-- Gate and strobe outputs of the last cycle, with the angle and span they name (R228). -/
  gate : Nat := 0
  strobe : Nat := 0
  angle : Nat := 0
  span : Nat := 0
  /-- Cycles an unmasked interrupt has been pending (R234). -/
  wait : Nat := 0
  /-- SHA-384 of the images loaded, and whether the engine is reloading them (R235). -/
  patchHash : List Byte := []
  custHash : List Byte := []
  reload : Bool := false
deriving DecidableEq, Repr


/-! ### Memories that no fabric address reaches (spec/01 R16, R18, R19) -/

/-- The private memories of cores, by offset; an unlisted byte is 0 (spec/14 R329). What runs on the cores fills them, and the spec gives no
access to them from outside (log 59). -/
structure LocalMem where
  /-- Level-one instruction and data caches of CTL[0] to CTL[3], 64 KiB each. -/
  l1i : Vector (Sp Byte) 4 := Vector.replicate 4 []
  l1d : Vector (Sp Byte) 4 := Vector.replicate 4 []
  /-- Strongroom's 128 KiB. -/
  srSram : Sp Byte := []
  /-- The power/thermal core's. -/
  pwrSram : Sp Byte := []
deriving DecidableEq, Repr


/-! ### Zones and the Pruner (spec/11) -/

/-- The placement of a zone (spec/13 R303). -/
structure Placement where
  firstTrack : Nat := 0
  ring : Nat := 0
  pairN : Int := 0
  layout : Nat := 0
  head : Nat := 0
  dir : Nat := 0
  generation : Nat := 0
deriving DecidableEq, Repr

/-- The running merge job (spec/11 R269). -/
structure MergeJob where
  zone : Nat
  place : Placement
  buffer : Nat
  since : Nat
deriving DecidableEq, Repr

/-- The zone hardware beside its objects; the contexts themselves are bytes of the Larder (spec/11 R244). -/
structure Zones where
  /-- The changes of R257 have been made in this Boot. -/
  resolved : Bool := false
  /-- Order of the last accepted write of a zone (R253). -/
  useSeq : Nat := 0
  lastUse : Sp Nat := []
  /-- Demoted zones whose held write has raised event 330 (R260). -/
  heldDemoted : List Nat := []
  job : Option MergeJob := none
  /-- Zones left busy by commands that a controller reset ended (spec/12 R277). -/
  orphans : List Nat := []
deriving DecidableEq, Repr

/-! ### Pantry (spec/15) -/

/-- An item of a queue (spec/15 R346). -/
structure PanItem where
  tag : Nat
  payload : List Byte
deriving DecidableEq, Repr

/-- A queue's items, oldest first, its epoch, and by epoch the cells in use that left it at a reset (spec/15 R353). -/
structure PanQueue where
  items : List PanItem := []
  epoch : Nat := 0
  sweep : Bool := false
  stale : Vector Nat 4 := Vector.replicate 4 0
  since : Nat := 0
deriving DecidableEq, Repr

/-- The Pantry beside its objects: queues by number (an unlisted one is empty), and per port the push staging buffer, the
pop buffer and the tag word of the last pop (R347). -/
structure Pantry where
  queues : Sp PanQueue := []
  staging : Sp (List Byte) := []
  popBuf : Sp (List Byte) := []
  popTag : Sp Nat := []
  /-- Cells in use, lost ones included. -/
  used : Nat := 0
deriving DecidableEq, Repr


/-! ### Host link (spec/12) -/

/-- States of a command table entry other than FREE (spec/12 R279). -/
inductive CmdSt where
  | fetched | held | active | aborting | committed
deriving DecidableEq, Repr

/-- An entry of the command table (spec/12 R279), with what its command has come to. -/
structure CmdEnt where
  sqid : Nat
  sqe : Sqe
  st : CmdSt := .fetched
  /-- Order of fetch and of commit. -/
  order : Nat := 0
  commit : Nat := 0
  /-- Its number among the commands of its queue. -/
  qpos : Nat := 0
  status : Nat := 0
  dw0 : Nat := 0
  /-- Zone, offset and count the allocation port accepted for it, and whether it is an append (spec/11 R254). -/
  alloc : Option (Nat × Nat × Nat) := none
  append : Bool := false
  /-- Served by the fast path (R262). -/
  fast : Bool := false
  /-- The zone whose busy or demotion holds it (R256, R260). -/
  heldZone : Option Nat := none
  /-- Zone actions it waits to commit: zone, 1 Reset or 2 Finish, placement; those not yet settled; the status they have come to. -/
  zoneActs : List (Nat × Nat × Option Nat) := []
  zoneOpen : Nat := 0
  zoneStatus : Nat := 0
  /-- The Abort that waits for it (R289). -/
  aborter : Option (Nat × Nat) := none
  /-- Stopped from ACTIVE by a freeze: its work has not ended (R286). -/
  stopped : Bool := false
  /-- Covered by a Restart (R287). -/
  covered : Bool := false
  /-- Its completion freezes no queue (R287). -/
  noFreeze : Bool := false
  /-- Cache slots that a Flush waits for (R278). -/
  flushSlots : List Nat := []
  /-- A violation found at its fetch, answered when it enters ACTIVE: kind, status, detail (R291). -/
  bad : Option (Nat × Nat × Nat) := none
deriving DecidableEq, Repr

/-- A submission queue (spec/12 R280, R285-R288). -/
structure SubQ where
  size : Nat
  cqid : Nat
  head : Nat := 0
  tail : Nat := 0
  ordered : Bool := false
  window : Nat := 1
  /-- Consecutive failed fetches, and fetching stopped by them (kind 6 of R291). -/
  fetchFails : Nat := 0
  fetchStopped : Bool := false
  /-- The queue is stopped for completion-queue room (R280). -/
  cqStop : Bool := false
  frozen : Bool := false
  errSeq : Nat := 0
  /-- The failing command of the last freeze: cid, opcode, status, slba, nlb, nsid, dw0; fetch pointer, stopped, time. -/
  fail : List Nat := []
  /-- A Restart in progress: its sqid and cid, whether it discards, and the tail it covers up to. -/
  restart : Option ((Nat × Nat) × Bool × Nat) := none
  covered : Nat := 0
  /-- Commands fetched from it. -/
  fetched : Nat := 0
deriving DecidableEq, Repr

/-- A completion queue. -/
structure ComplQ where
  size : Nat
  head : Nat := 0
  tail : Nat := 0
  vector : Nat := 0
deriving DecidableEq, Repr

/-- A record of log page 0xC3 (spec/12 R292). -/
structure Viol where
  count : Nat := 0
  sqid : Nat := 0xFFFF
  cid : Nat := 0xFFFF
  first : Nat := 0
  last : Nat := 0
  detail : Nat := 0
deriving DecidableEq, Repr

/-- The NVMe controller and the host links beside their objects. -/
structure HostSt where
  table : List CmdEnt := []
  sqs : Sp SubQ := []
  cqs : Sp ComplQ := []
  orderSeq : Nat := 0
  commitSeq : Nat := 0
  /-- Completions written to host memory: cqid, sqid, cid, status, DW0, newest first; and data returned by command. -/
  posted : List (Nat × Nat × Nat × Nat × Nat) := []
  data : List ((Nat × Nat) × List Byte) := []
  viols : Sp Viol := []
  /-- The table is full and its stall has been counted (R280). -/
  stalled : Bool := false
  ccEn : Bool := false
  cfs : Bool := false
  shst : Nat := 0
  /-- Asynchronous events that no outstanding request has carried yet (type, information, log page). -/
  asyncs : List (Nat × Nat × Nat) := []
  /-- Features set by the host: identifier to value. -/
  features : Sp Nat := []
  /-- Association of NVMe/TCP: host NQN, controller id, and the connections of its I/O queues (R294). -/
  assoc : Option (Nat × Nat) := none
  conns : List Nat := []
  /-- Firmware image bytes downloaded so far, by offset (spec/18 R407). -/
  download : Sp Byte := []
  /-- TCG session bytes answered by the next Security Receive (spec/18 R421). -/
  tcg : List Byte := []
  /-- Response of the last NVMe-MI or Enunile message in band. -/
  miReply : List Byte := []
  /-- Last trained speed and width (event 353). -/
  lastSpeed : Nat := 0
  lastWidth : Nat := 0
  /-- Power-loss quiesce: the controller fetches nothing and commits no completion (spec/13 R311). -/
  quiet : Bool := false
deriving DecidableEq, Repr

/-- A descriptor in a format sequencer's hands (R282). -/
structure PoolDesc where
  desc : Desc
  posted : Nat
  urgent : Bool := false
deriving DecidableEq, Repr

/-- Sectors of a descriptor returned "not started": how many, from its end, and the cause: 0 sequencer reset (spec/10 R230), 1 buffer
failed (spec/14 R343), 2 no ring, 3 group busy, 4 demoted, 5 ring invalid, 16 and the cause of a write result word (spec/09 R212) where
the slot's part was ended. -/
structure Returned where
  tag : Nat
  sectors : Nat
  cause : Nat
deriving DecidableEq, Repr

/-- A format sequencer's descriptors: the queue beyond the pick set, the pick set in post order, and what was returned not started. -/
structure PickSt where
  input : List PoolDesc := []
  pool : List PoolDesc := []
  returned : List Returned := []
  /-- Tag picked last and the angle at which its last sector ends. -/
  last : Option Nat := none
  /-- Result words of the slots with their descriptor's tag, oldest first, which its completion carries (spec/08 R190, spec/09 R212). -/
  words : List (Nat × Nat) := []
deriving DecidableEq, Repr


/-! ### Sheaf unit, journal and flush (spec/13) -/

/-- A transaction slot (spec/13 R300, R301). -/
structure Txn where
  port : Nat
  actions : List (BitVec 256) := []
deriving DecidableEq, Repr

/-- What follows a commit that the module itself requested. -/
inductive Cont where
  | none
  /-- A Reset (1) or Finish (2) of a zone by a host command: its busy action, then the action (spec/11 R256). -/
  | busySet (c : Nat × Nat) (zone : Nat) (act : Nat) (place : Option Nat)
  | zoneDone (c : Nat × Nat) (zone : Nat)
  /-- An Offline by a host command. -/
  | offline (c : Nat × Nat) (zone : Nat)
  | merge
  | demote (a : Nat) (zone : Nat)
  /-- A host command that completes with the commit; a part of its work before the last. -/
  | completes (c : Nat × Nat)
  | part (c : Nat × Nat)
  /-- Of a command that a controller reset ended (spec/12 R277): not to proceed; a zone it holds busy is let go. -/
  | dropped (zone : Option Nat)
deriving DecidableEq, Repr

/-- A commit requested and not done: its wait is 0 none yet, 1 journal space, 2 hold-up, 3 flush, 4 a
transaction slot. -/
structure CommitReq where
  port : Nat
  slot : Option Nat
  actions : List (BitVec 256)
  wait : Nat := 0
  cont : Cont := .none
deriving DecidableEq, Repr

/-- A flush slot of module flash (spec/13 R313): its header, and its image by offset, poisoned lines by offset. -/
structure FlushSlot where
  cause : Nat
  seq : Nat
  oldestSeq : Nat
  oldestOff : Nat
  commitSeq : Nat
  time : Nat
  journal : List (Nat × Byte)
  cache : List (Nat × Byte)
  poison : List Nat
deriving DecidableEq, Repr

/-- The Sheaf unit beside its objects; the journal itself is bytes of the Larder (R304). -/
structure Sheaf where
  txns : Sp Txn := []
  /-- Ports whose open waits, oldest first (R300). -/
  opens : List Nat := []
  commits : List CommitReq := []
  /-- Unreleased records, oldest first: sequence number and size; offset of the oldest and of the next record. -/
  recs : List (Nat × Nat) := []
  oldOff : Nat := 0
  nextOff : Nat := 0
  /-- A running flush: the image and header taken at its start, its slot, and its start (R313). -/
  flush : Option (FlushSlot × Nat × Nat) := none
  slots : Vector (Option FlushSlot) 2 := Vector.replicate 2 none
  /-- The journal or the directory has changed since the last completed flush (R314). -/
  changed : Bool := false
  /-- Journal offset and sequence number of the oldest record of the image loaded (R317). -/
  imageOff : Nat := 0
  imageOldest : Nat := 0
deriving DecidableEq, Repr


/-! ### Cellar, cache and trackers (spec/14) -/

/-- A line of the last-level cache (spec/14 R330). `State.mem` holds what every coherent master sees; `data` is what the Cellar
itself holds under a dirty line, which comes back when the line is discarded. -/
structure LlcLine where
  way : Nat
  dirty : Bool
  data : List Byte
deriving DecidableEq, Repr

/-- A master's access to the Cellar that waits for a fill or a write-back: master (a core's id, or the key that `State.rdata` has for
another fabric master), write, address, size, data, and the time it came (spec/01 R26). -/
structure CoreAcc where
  master : Nat
  write : Bool
  addr : Nat
  size : Nat
  data : Nat
  since : Nat := 0
deriving DecidableEq, Repr

/-- An eviction buffer entry (spec/14 R333); `data` as in `LlcLine`. -/
structure Evict where
  line : Nat
  data : List Byte
  issued : Bool := false
deriving DecidableEq, Repr

/-- Maintenance by address (spec/14 R332). -/
inductive Maint where
  | clean | flush | invalidate | zero
deriving DecidableEq, Repr

/-- A repeat tracker entry (spec/14 R338); `age` orders entries of equal count. -/
structure TrackEnt where
  addr : Nat
  count : Nat
  reported : Bool := false
  age : Nat
deriving DecidableEq, Repr

/-- What an access that stalls for the boot fill will do (spec/14 R327). -/
structure CellarAcc where
  req : CellarReq
  addr : Nat
  op : CellarOp
  ecc : Ecc
  since : Nat := 0
deriving DecidableEq, Repr

/-- The memory blocks beside their objects; bytes are in `State.mem`. -/
structure MemSt where
  /-- Poisoned Cellar lines, by line address (spec/14 R326). -/
  poison : Sp Unit := []
  /-- Cache lines by line address, fills in flight with what waits for them, the eviction buffer oldest first. -/
  lines : Sp LlcLine := []
  fills : Sp (List CoreAcc × List Maint) := []
  evict : List Evict := []
  /-- Core accesses that stall for the disable clean or for a write-back (R333, R336). -/
  stalls : List CoreAcc := []
  /-- A write of 1 to cache_enable held during the clean (R336); its start and the lines written back. -/
  enableHeld : Bool := false
  cleanSince : Nat := 0
  cleanLines : Nat := 0
  /-- Accesses that stall for the fill, its start, and whether it runs. -/
  fillWait : List CellarAcc := []
  fillSince : Nat := 0
  trackers : Vector (List TrackEnt) 8 := Vector.replicate 8 []
  trackAge : Nat := 0
  /-- A Hoe pass runs, and its start (spec/14 R340). -/
  hoeRun : Bool := false
  hoeSince : Nat := 0
  /-- Domains whose checkers have been tested in this Boot, and checkers that failed (spec/14 R343, spec/20 R462). -/
  tested : Sp Unit := []
  failedChk : Sp Unit := []
  /-- The fabric's capture record: requester, write, address, size in bytes (spec/01 R21). It holds the latest rejection (DESIGN CHOICE, log
  53). -/
  fabricCap : Option (Nat × Bool × Nat × Nat) := none
  /-- Masters whose last fabric access was answered with an error, keyed as `State.rdata` (spec/01 R21, spec/14 R325). -/
  errs : Sp Unit := []
deriving DecidableEq, Repr


/-! ### Sieve engines (spec/16) -/

/-- Who owns a run (spec/16 R370, R374). -/
inductive RunOwner where
  | host (c : Nat × Nat)
  | firmware
deriving DecidableEq, Repr

/-- A run: program slot, owner, parameters, ranges (system address, length), and the Pantry queue, 0x1FF for none. -/
structure Run where
  slot : Nat
  owner : RunOwner
  cparam1 : Nat
  cparam2 : Nat
  ranges : List (Nat × Nat)
  queue : Nat
  /-- The reservation of R375 is granted. -/
  granted : Bool := false
deriving DecidableEq, Repr

/-- An engine beside its objects; its local memory is bytes of `State.mem`. -/
structure SieveEng where
  run : Option Run := none
  /-- Start of the run's execution, how long it has been paused since (run_us, spec/16 R378), and the start of the present pause. -/
  runSince : Nat := 0
  pausedFor : Nat := 0
  pausedSince : Nat := 0
deriving DecidableEq, Repr

/-- The Sieve unit beside its objects. -/
structure Sieve where
  engs : Vector SieveEng 8 := Vector.replicate 8 {}
  /-- Host runs that wait for an engine, in order of fetch: command, slot, set, parameters (R372). -/
  waiting : List ((Nat × Nat) × Nat × Nat × Nat × Nat) := []
  /-- Memory range sets: ranges as offset and length in namespace 4. -/
  sets : Sp (List (Nat × Nat)) := []
  /-- Downloaded programs by slot, and those in the Sieve program store. -/
  progs : Sp ProgImage := []
  store : Sp ProgImage := []
  /-- Highest version accepted by program_id (R367, in module flash). -/
  versions : Sp Nat := []
deriving DecidableEq, Repr


/-! ### Strongroom (spec/18) -/

/-- A ledger entry (spec/18 R413). -/
structure LedgerEnt where
  kind : Nat
  index : Nat
  flags : Nat
  version : Nat
  component : Nat
  digest : List Byte
deriving DecidableEq, Repr

/-- A slot of the boot ledger store (spec/18 R415, R416): kind 1 ledger with its boot, 2 checkpoint with its last boot. -/
structure StoreSlot where
  kind : Nat
  boot : Nat
  bytes : List Byte
deriving DecidableEq, Repr

/-- A locking range (spec/18 R422). -/
structure LockRange where
  start : Nat := 0
  len : Nat := 0
  lockOnReset : Bool := false
deriving DecidableEq, Repr

/-- Where a pending crypto erase came from (spec/18 R423). -/
inductive EraseSource where
  | genkey | revert | format (c : Nat × Nat) | sanitize (c : Nat × Nat)
deriving DecidableEq, Repr

/-- Strongroom beside its objects. -/
structure Strong where
  /-- Entries of the ledger being assembled or sealed, and the runtime log (R410-R417). -/
  entries : List LedgerEnt := []
  runtime : List LedgerEnt := []
  rt : List Byte := []
  ledger : List Byte := []
  ledgerHash : List Byte := []
  sealed : Bool := false
  overflowed : Bool := false
  /-- A seal that waits for the Trellis loads in progress: whether it is forced, and whether the store takes it (R411). -/
  sealWait : Option (Bool × Bool) := none
  /-- The ledger store by slot, its newest slot, and the newest checkpoint's hashes. -/
  store : Sp StoreSlot := []
  newest : Option Nat := none
  foldHash : List Byte := []
  /-- Boot control record (R403): boot_select, trial_image, trial_boots, trial_left, confirmed_image. -/
  bootSelect : Nat := 1
  trialImage : Nat := 0
  trialBoots : Nat := 1
  trialLeft : Nat := 0
  confirmed : Nat := 1
  /-- The running image (1 A, 2 B, 0 none), its version and hash; the first stage's. -/
  running : Nat := 0
  runVersion : Nat := 0
  runHash : List Byte := []
  fsVersion : Nat := 0
  fsHash : List Byte := []
  aliasKey : Nat := 0
  /-- Versions of images A and B as stored by a commit of this boot (R407). -/
  staged : Sp (Nat × List Byte) := []
  /-- Opal: ranges, key generation of each, the set under erase with its source. -/
  ranges : Vector LockRange 17 := Vector.replicate 17 {}
  keys : Vector Nat 17 := Vector.ofFn fun i => i.val
  keySeq : Nat := 17
  erase : Option EraseSource := none
  /-- SPDM: last answer (request code, error code or 0, bytes). -/
  spdm : Option (Nat × Nat × List Byte) := none
  /-- Strongroom has failed (R425). -/
  failed : Bool := false
deriving DecidableEq, Repr


/-! ### Modes, power and temperature (spec/20) -/

/-- A waiting or held power reservation (spec/20 R464, R465): who, and the class of a slot B reservation. -/
structure Resv where
  who : Holder
  cls : Nat
  /-- A Sieve run that is paused costs 40 mW. -/
  paused : Bool := false
deriving DecidableEq, Repr

/-- What the mode manager, the supply detectors, the governor and the thermal control hold beside their objects. -/
structure Power where
  /-- The power-loss signal is latched (R457), and the input that raised it. -/
  loss : Bool := false
  /-- The comparators of a hardware thermal trip in force (R472), kept in pd_aon. -/
  trip : Option Nat := none
  /-- Mode row in progress (R451), its start, and whether link_enable has released Boot. -/
  row : Option Nat := none
  rowLate : Bool := false
  /-- The second part of the row in progress has begun: spin_enable is 0 (row 7), the loads are requested (row 9). -/
  rowStep : Bool := false
  released : Bool := false
  /-- Last operational power state the host set (R454). -/
  lastOp : Nat := 0
  /-- Domains in the off or retention set of the mode in force (R460). -/
  electronicsWake : Bool := false
  /-- Reservations held and waiting, oldest first (R463-R465); slots whose reservation was withdrawn stay out while
  throttle step 2 is in force. -/
  held : List Resv := []
  waiting : List Resv := []
  /-- Consecutive averages above the envelope (R466). -/
  overRun : Nat := 0
  /-- Last change of the throttle step and of the level, start of the falling conditions (R469, R470). -/
  stepAt : Nat := 0
  levelAt : Nat := 0
  fallAt : Nat := 0
  /-- Sensor readings with their time, and the one before (R473). -/
  last : Sp (Nat × Int) := []
  prev : Sp (Nat × Int) := []
  /-- When each sensor's reading last changed, and the neighbours' readings then. -/
  changed : Sp (Nat × Int × Int) := []
  /-- Sensors that have given a valid reading since Boot, and whether they supplied T_j at their last one. -/
  seen : Sp Bool := []
  cellarHot : Bool := false
  /-- The failed sensor that a substitute stands for, the substitute reading, and the end of the 1 s hold. -/
  subst : Option Nat := none
  substT : Int := 0
  substHold : Bool := false
  /-- Over-temperature threshold crossed; SMART critical warning bit 1 (R471). -/
  tempWarn : Bool := false
  /-- The host's over-temperature threshold for the composite, kelvin (R471). -/
  tempThresh : Nat := 0
  /-- Reference and ADC trims of the last good compensation (R474). -/
  refTrim : Int := 0
  adcTrim : Int := 0
  /-- The ADC trim in force in the spindle and servo converters since the last control cycle (R474). -/
  cycleTrim : Int := 0
  /-- Cause of the reset that led into the present Boot, for event 5 (R458). -/
  resetEvent : Bool := false
  tripMs : Nat := 0
  tripSince : Nat := 0
  /-- safe_restart has been asked for and waits for a flush (R456). -/
  restart : Bool := false
  tripCause : Nat := 0
  /-- What a domain in transition goes to: 0 off, 1 on, 2 retention (R460). -/
  goal : Sp Nat := []
  /-- target_rpm of the spindle while unloaded_rpm stands in its place (R451 row 6). -/
  rpmSaved : Option Nat := none
deriving DecidableEq, Repr


/-! ### Management bus (spec/17) -/

/-- The management endpoint beside its objects (spec/17 R399). -/
structure Mgmt where
  /-- The dynamic address and the endpoint identifier assigned since the last link reset. -/
  address : Option Nat := none
  eid : Option Nat := none
  /-- Values of Configuration Set by identifier. -/
  config : Sp Nat := []
  /-- The last answer of the endpoint: 0 success, 1 Management Endpoint Busy, 2 Invalid Parameter, and its bytes. -/
  status : Nat := 0
  reply : List Byte := []
deriving DecidableEq, Repr

/-! ### The whole state -/

/-- Reasons a step stops with a fault: none. The spec gives every command of this block an effect, and no command
stops the block for good (safe: no run ends in a fault). -/
inductive Fault where
deriving DecidableEq, Repr

/-- Reasons a step is refused. -/
inductive Refusal where
  /-- Raised by `exec` for a command whose meaning is not written. Safe: nothing is claimed of it. -/
  | notModelled (mnemonic : String)
deriving DecidableEq, Repr

/-- The state of the block. -/
structure State where
  /-- Commands waiting, front first. -/
  pending : List Instr := []
  /-- The fused variant (R3). -/
  variant : Variant := .xe
  /-- Values of the dictionary's objects by key (R380); an unlisted object holds `defaultOf`. -/
  dict : Sp Word := []
  /-- Values in force of EDGE objects whose accepted write has not met its boundary (R390). -/
  edge : Sp Word := []
  /-- Held low words, one per master: key and word (R387). -/
  held : Vector (Option (Nat × BitVec 32)) 17 := Vector.replicate 17 none
  /-- Contents of STR and BLOB objects by key (R381, R388). -/
  blobs : Sp (List Byte) := []
  ev : EvState := {}
  sun : Sundial := {}
  motor : Motor := {}
  acts : Vector ActSt 2 := Vector.replicate 2 {}
  links : Vector Link 2 := Vector.replicate 2 {}
  servo : Vector SlotServo 4 := Vector.replicate 4 {}
  chan : Vector Chan 4 := Vector.replicate 4 {}
  write : Vector WriteSt 4 := Vector.replicate 4 {}
  /-- Assist grants: the head a slot holds one for, and its request in mW (R116). -/
  grants : Vector (Option (Nat × Nat)) 4 := Vector.replicate 4 none
  deep : Deep := {}
  engines : Vector Engine 7 := Vector.replicate 7 {}
  pan : Pantry := {}
  zones : Zones := {}
  host : HostSt := {}
  /-- Descriptors in each format sequencer's hands (spec/12 R282). -/
  picks : Vector PickSt 2 := Vector.replicate 2 {}
  sheaf : Sheaf := {}
  memory : MemSt := {}
  sieve : Sieve := {}
  strong : Strong := {}
  power : Power := {}
  mgmt : Mgmt := {}
  /-- Bytes of the addressed memories: Cellar, scratchpad and the parts' SRAM (R20, R327, R329). -/
  mem : List Host.Cell := []
  /-- Module flash by offset, its areas in the order of R19 from offset 0, bytes written since manufacture; an unlisted byte is
  `Config.flashByte`. Areas with a structure of their own are held by it: the ledger store, the Almanac's segments, the Sieve programs, the
  flush slots (log 59). -/
  flash : Sp Byte := []
  locals : LocalMem := {}
  /-- The value delivered to each master by its last read: masters of spec/17 R383 by their ids, Sieve engine n as 17 + n, the fabric's
  hardware units as 32 + their port number. -/
  rdata : Sp Word := []
  /-- The model's own counter of free values drawn (log 4). -/
  freeCtr : Nat := 0
deriving DecidableEq, Repr

/-- The machine after power-on reset (R484): every register at its default or reset value, every domain but pd_aon
off, the mode Boot, no memory written, no command waiting. -/
def State.reset : State := {}

end Sys2Proof.Machine
end

