-- ==== Sys2Proof/Machine/Ops.lean ====
section
/-! DEFINITION. The named operations over the state: sparse maps, the dictionary's objects, fixed arrays, time and
angle, the addressed memory, free values. -/

namespace Sys2Proof.Machine

/-! ### Sparse maps -/

/-- The value at a key. -/
def Sp.get {α : Type} (m : Sp α) (k : Nat) : Option α :=
  match m with
  | [] => none
  | p :: r => if p.1 = k then some p.2 else Sp.get r k

/-- Sets the value at a key, keeping keys strictly rising. -/
def Sp.put {α : Type} (m : Sp α) (k : Nat) (v : α) : Sp α :=
  match m with
  | [] => [(k, v)]
  | p :: r => if p.1 < k then p :: Sp.put r k v else if p.1 = k then (k, v) :: r else (k, v) :: p :: r

/-- Removes a key. -/
def Sp.del {α : Type} (m : Sp α) (k : Nat) : Sp α := m.filter fun p => p.1 != k

/-! ### Fixed arrays -/

/-- The entry at an index, or the type's default entry outside the array. -/
def at' {α : Type} {n : Nat} (v : Vector α n) (i : Nat) (d : α) : α := (v.toArray[i]?).getD d

/-- Replaces an entry; an index outside the array changes nothing. -/
def upd {α : Type} {n : Nat} (v : Vector α n) (i : Nat) (x : α) : Vector α n := v.setIfInBounds i x

/-! ### Values -/

/-- Saturating U32 (every counter of the dictionary: R52 and the object rules after it). -/
def sat32 (n : Nat) : Nat := if n ≤ 0xFFFFFFFF then n else 0xFFFFFFFF

/-- Clamps an integer to a range. -/
def clamp (lo hi x : Int) : Int := if x < lo then lo else if hi < x then hi else x

/-- The integer of a two's-complement field of w bits. -/
def sgn (w n : Nat) : Int := (BitVec.ofNat w n).toInt

/-- A field of a natural number: w bits from bit lo. -/
def bitsOf (n lo w : Nat) : Nat := n / 2 ^ lo % 2 ^ w

/-- A bit of a natural number. -/
def bitAt (n i : Nat) : Bool := n.testBit i

/-- A natural number with a bit set or cleared. -/
def setBit (n i : Nat) (b : Bool) : Nat :=
  if n.testBit i = b then n else if b then n + 2 ^ i else n - 2 ^ i

/-- A number with a field of w bits from bit lo replaced. -/
def putBits (n lo w v : Nat) : Nat := n - bitsOf n lo w * 2 ^ lo + v % 2 ^ w * 2 ^ lo

/-- Absolute value. -/
def absI (x : Int) : Nat := x.natAbs

/-- A Bool as 0 or 1. -/
def b2n (b : Bool) : Nat := if b then 1 else 0

/-- An exact quotient; where it is no integer, one of the two integers around it, which the spec does not say (log 5). -/
def rnd (num : Int) (den : Nat) : Int := num / den + b2n (decide (num % den ≠ 0) && Config.roundUp num den)

/-! ### Objects -/

/-- The last accepted value of an object (R390). -/
def State.obj (s : State) (k : Key) : Word := (Sp.get s.dict k).getD (defaultOf s.variant k)
/-- The value of an object that its block acts on (R390). -/
def State.inForce (s : State) (k : Key) : Word := (Sp.get s.edge k).getD (s.obj k)
/-- Unsigned value of an object. -/
def State.nat (s : State) (k : Key) : Nat := (s.obj k).toNat
/-- Signed value of an object (types I16 and I32 are held sign-extended, R386). -/
def State.int (s : State) (k : Key) : Int := (s.obj k).toInt
/-- A BOOL object is 1. -/
def State.flag (s : State) (k : Key) : Bool := s.obj k != 0
/-- Unsigned value in force. -/
def State.cfg (s : State) (k : Key) : Nat := (s.inForce k).toNat
/-- Signed value in force. -/
def State.cfgI (s : State) (k : Key) : Int := (s.inForce k).toInt
/-- A BOOL object in force is 1. -/
def State.cfgB (s : State) (k : Key) : Bool := s.inForce k != 0

/-- The objects' map with a value set; a value equal to the object's default is not listed, so equal dictionaries are
equal data. -/
def dictPut (v : Variant) (d : Sp Word) (k : Key) (w : Word) : Sp Word :=
  if w = defaultOf v k then Sp.del d k else Sp.put d k w

/-- Sets an object's value. -/
def State.set (s : State) (k : Key) (w : Word) : State := { s with dict := dictPut s.variant s.dict k w }
/-- Sets an object to an unsigned number. -/
def State.setN (s : State) (k : Key) (n : Nat) : State := s.set k (BitVec.ofNat 64 n)
/-- Sets an object to a signed number. -/
def State.setI (s : State) (k : Key) (i : Int) : State := s.set k (BitVec.ofInt 64 i)
/-- Sets a BOOL object. -/
def State.setB (s : State) (k : Key) (b : Bool) : State := s.set k (if b then 1 else 0)
/-- Adds to a counter, saturating at 0xFFFFFFFF. -/
def State.addN (s : State) (k : Key) (n : Nat) : State := s.setN k (sat32 (s.nat k + n))
/-- Counts one. -/
def State.inc (s : State) (k : Key) : State := s.addN k 1
/-- Sets or clears a bit of an object. -/
def State.setBitOf (s : State) (k : Key) (i : Nat) (b : Bool) : State := s.setN k (setBit (s.nat k) i b)
/-- A bit of an object. -/
def State.bit (s : State) (k : Key) (i : Nat) : Bool := bitAt (s.nat k) i
/-- Sets a range of n consecutive objects to 0. -/
def State.zero (s : State) (k n : Nat) : State := n.fold (fun i _ t => t.set (k + i) 0) s

/-- The block takes the accepted values of the EDGE objects that `p` selects (R390). -/
def State.takeEdge (s : State) (p : Key → Bool) : State := { s with edge := s.edge.filter fun e => !p e.1 }

/-! ### Time and angle -/

/-- The microsecond counter. -/
def State.now (s : State) : Nat := s.sun.us.toNat
/-- Microseconds from a time to now, over the counter's 48 bits. -/
def State.elapsed (s : State) (t : Nat) : Nat := (s.now + 2 ^ 48 - t % 2 ^ 48) % 2 ^ 48
/-- The angle stamp (R31). -/
def State.stamp (s : State) : Nat := s.sun.rev.toNat * 2 ^ 24 + s.sun.frac.toNat
/-- Counts of a revolution. -/
def revCounts : Nat := 2 ^ 24
/-- Difference of two fractions in counts, in -2^23 to 2^23 - 1. -/
def fracDiff (a b : Nat) : Int := sgn 24 (a + revCounts - b % revCounts)

/-- The revolution period used where angle and time meet: measured, or the target's where none has been measured (R39). -/
def periodNs (s : State) : Nat :=
  let p := s.nat K.sunRevPeriodNs
  if p ≠ 0 then p else let t := s.cfg K.spinTargetRpm; 60000000000 / (if t = 0 then 1 else t)

/-- Nanoseconds in counts, rounded down. -/
def nsCounts (s : State) (ns : Nat) : Nat := ns * revCounts / periodNs s

/-! ### Memory -/

/-- A byte of the addressed memory; an unlisted address reads 0 (R327, R329). -/
def Memory.read (m : List Host.Cell) (a : Nat) : Byte := (Sp.get m a).getD 0
/-- Writes a byte, keeping the canonical form: addresses strictly rising, no zero listed. -/
def Memory.write (m : List Host.Cell) (a : Nat) (b : Byte) : List Host.Cell :=
  if b = 0 then Sp.del m a else Sp.put m a b
/-- Writes bytes from an address up. -/
def Memory.writeAll (m : List Host.Cell) (a : Nat) (l : List Byte) : List Host.Cell :=
  match l with
  | [] => m
  | b :: r => Memory.writeAll (Memory.write m a b) (a + 1) r
/-- n bytes from an address up. -/
def Memory.readN (m : List Host.Cell) (a n : Nat) : List Byte := (List.range n).map fun i => Memory.read m (a + i)
/-- Keys of a sparse map strictly rise. -/
def sortedKeys {α : Type} (m : Sp α) : Bool :=
  match m with
  | [] => true
  | p :: r => (match r with | [] => true | q :: _ => decide (p.1 < q.1)) && sortedKeys r
/-- The canonical form of the memory. -/
def Memory.wf (m : List Host.Cell) : Bool := sortedKeys m && m.all fun c => c.2 != 0
/-- The canonical form of the dictionary: rising keys, no default listed. -/
def dictWf (v : Variant) (d : Sp Word) : Bool := sortedKeys d && d.all fun c => c.2 != defaultOf v c.1

/-- Little-endian value of bytes (R381). -/
def leNat (l : List Byte) : Nat :=
  match l with
  | [] => 0
  | b :: r => b.toNat + 256 * leNat r
/-- n little-endian bytes of a value. -/
def leBytes (n v : Nat) : List Byte := (List.range n).map fun i => BitVec.ofNat 8 (v / 256 ^ i)

/-- Poisoned lines after a write of n bytes from an address: a line written whole gets fresh check bytes (spec/14 R326). -/
def unpoison (p : Sp Unit) (a n : Nat) : Sp Unit :=
  p.filter fun e => !(decide (a ≤ e.1) && decide (e.1 + 64 ≤ a + n))

/-- Writes bytes to the addressed memory. -/
def State.store (s : State) (a : Nat) (l : List Byte) : State :=
  { s with mem := Memory.writeAll s.mem a l, memory := { s.memory with poison := unpoison s.memory.poison a l.length } }
/-- Reads bytes of the addressed memory. -/
def State.load (s : State) (a n : Nat) : List Byte := Memory.readN s.mem a n

/-! ### Units of the part -/

/-- An actuator's own state. -/
def State.act (s : State) (a : Nat) : ActSt := at' s.acts a {}
/-- Changes an actuator's own state. -/
def State.setAct (s : State) (a : Nat) (x : ActSt) : State := { s with acts := upd s.acts a x }
/-- A head-stack link. -/
def State.link (s : State) (a : Nat) : Link := at' s.links a {}
/-- Changes a head-stack link. -/
def State.setLink (s : State) (a : Nat) (x : Link) : State := { s with links := upd s.links a x }
/-- A slot's servo share. -/
def State.srv (s : State) (q : Nat) : SlotServo := at' s.servo q {}
/-- Changes a slot's servo share. -/
def State.setSrv (s : State) (q : Nat) (x : SlotServo) : State := { s with servo := upd s.servo q x }
/-- A slot's channel. -/
def State.ch (s : State) (q : Nat) : Chan := at' s.chan q {}
/-- Changes a slot's channel. -/
def State.setCh (s : State) (q : Nat) (x : Chan) : State := { s with chan := upd s.chan q x }
/-- A slot's write pipeline. -/
def State.wr (s : State) (q : Nat) : WriteSt := at' s.write q {}
/-- Changes a slot's write pipeline. -/
def State.setWr (s : State) (q : Nat) (x : WriteSt) : State := { s with write := upd s.write q x }

/-- A Trellis engine's own state. -/
def State.eng (s : State) (n : Nat) : Engine := at' s.engines n {}
/-- Changes a Trellis engine's own state. -/
def State.setEng (s : State) (n : Nat) (x : Engine) : State := { s with engines := upd s.engines n x }
/-- The descriptors of a format sequencer. -/
def State.pick (s : State) (a : Nat) : PickSt := at' s.picks a {}
/-- Changes the descriptors of a format sequencer. -/
def State.setPick (s : State) (a : Nat) (x : PickSt) : State := { s with picks := upd s.picks a x }
/-- A Sieve engine's own state. -/
def State.sieveEng (s : State) (n : Nat) : SieveEng := at' s.sieve.engs n {}
/-- Changes a Sieve engine's own state. -/
def State.setSieveEng (s : State) (n : Nat) (x : SieveEng) : State :=
  { s with sieve := { s.sieve with engs := upd s.sieve.engs n x } }

/-! ### Free values -/

/-- The next free value (log 4). -/
def State.free (s : State) : Word := Config.freeValue s.freeCtr
/-- Marks a free value as drawn. -/
def State.drawn (s : State) : State := { s with freeCtr := s.freeCtr + 1 }

/-- Delivers a read value to a master. -/
def State.deliver (s : State) (m : Nat) (w : Word) : State := { s with rdata := Sp.put s.rdata m w }

/-! ### Conditional effects -/

/-- An effect under a condition. -/
def State.on (s : State) (c : Bool) (f : State → State) : State := if c then f s else s

/-- One bit of CRC-32C, reflected (spec/08 R175). -/
def crc32cBit (c : BitVec 32) : BitVec 32 := if c.getLsbD 0 then (c >>> 1) ^^^ 0x82F63B78 else c >>> 1

/-- CRC-32C of bytes: polynomial 0x1EDC6F41, initial value and final XOR all ones, reflected (spec/08 R175). -/
def crc32c (l : List Byte) : Nat :=
  (~~~ l.foldl (fun (c : BitVec 32) b => (List.range 8).foldl (fun d _ => crc32cBit d) (c ^^^ b.setWidth 32))
    0xFFFFFFFF).toNat

end Sys2Proof.Machine
end

