-- ==== Sys2Proof/Machine/Flags.lean ====
section
/-! DEFINITION. The event framework and the Almanac's recording side (spec/19 R426-R444): latches, captures,
consequence, records, pending bits, the FAULT_L pulse and the standing Safe request. Raising an event here changes the
event state alone; what a reaction class does beyond it is in React.lean. -/

namespace Sys2Proof.Machine

/-- What a raise reads beside the event state: nothing of it is changed by the raise. -/
structure EvCtx where
  native : Bool
  now : Nat
  rev : Nat
  stamp : Nat
  sunState : Nat
deriving DecidableEq, Repr

/-- The context of a raise in a state. -/
def State.evCtx (s : State) : EvCtx :=
  { native := s.nat K.evtCaptureMode = 0, now := s.now, rev := s.sun.rev.toNat, stamp := s.stamp,
    sunState := s.nat K.sunState }

/-- Reset unit of an occurrence (R426), none where the table shows none. -/
def unitOf (e : Nat) (o : Occ) : Option Nat :=
  if o.deep && (224 ≤ e && e < 288) then some 6
  else if 64 ≤ e ∧ e < 80 then some 7
  else if 96 ≤ e ∧ e < 160 then some 8
  else if 160 ≤ e ∧ e < 224 then some 9
  else if 224 ≤ e ∧ e < 288 then some ((e - 224) / 16)
  else if 288 ≤ e ∧ e < 316 then
    let n := (e - 288) / 4
    some (if n < 2 then 4 + n else if n < 6 then n - 2 else 7)
  else if 344 ≤ e ∧ e < 348 then o.slot
  else if 352 ≤ e ∧ e < 384 then some 10
  else if 384 ≤ e ∧ e < 400 then some 11
  else if 448 ≤ e ∧ e < 464 then o.engine.map (12 + ·)
  else none

/-- The row of R426 shows a reset unit for the source (R430). -/
def hasUnit (e : Nat) : Bool :=
  (64 ≤ e && e < 80) || (96 ≤ e && e < 316) || (344 ≤ e && e < 348) || (352 ≤ e && e < 400) || (448 ≤ e && e < 464)

/-- Sundial events that blanking names by number. -/
def inRange (e lo hi : Nat) : Bool := decide (lo ≤ e) && decide (e ≤ hi)

/-- Dependent events of the slot units 0-3 (R435). -/
def dependentSlot (q e : Nat) (o : Occ) : Bool :=
  inRange e (224 + 16 * q) (239 + 16 * q) || inRange e (296 + 4 * q) (299 + 4 * q)
    || (inRange e 344 347 && o.slot == some q)
    || (o.slot == some q && (let x := e - 64 * (q / 2); inRange x 102 104 || x == 107 || x == 119))
    || e == 80 || e == 82 || e == 84 || e == 87

/-- Dependent events of a unit (R435). -/
def dependentRaw (u e : Nat) (o : Occ) : Bool :=
  if u < 4 then dependentSlot u e o
  else if u < 6 then
    let a := u - 4
    dependentSlot (2 * a) e o || dependentSlot (2 * a + 1) e o || inRange e (288 + 4 * a) (291 + 4 * a) || e == 363
  else if u = 6 then inRange e 224 287 && (e % 16 == 7 || e % 16 == 8)
  else if u = 7 then
    e == 65 || e == 66 || inRange e 68 71 || inRange e 73 76 || inRange e 80 87
      || (inRange e 224 287 && (e % 16 == 5 || e % 16 == 8))
      || (inRange e 96 223 && (let x := 96 + (e - 96) % 64; x == 104 || x == 105 || x == 107 || x == 119))
  else if u < 10 then
    let a := u - 8
    (inRange e (96 + 64 * a) (159 + 64 * a)
        && (let x := e - 64 * a; inRange x 96 98 || inRange x 101 111 || x == 113 || x == 119))
      || ((dependentSlot (2 * a) e o || dependentSlot (2 * a + 1) e o)
        && !(inRange e 224 287 && (e % 16 == 11 || e % 16 == 14 || e % 16 == 15)))
      || e == 80 || e == 82
  else if u = 10 then inRange e 352 363 || e == 366
  else if u = 11 then inRange e 384 391
  else inRange e 450 458 && o.engine == some (u - 12)

/-- Class field of a source's configuration word (R430). -/
def State.evClass (s : State) (e : Nat) : Nat := bitsOf (s.nat (K.evtEventCfg e)) 0 3

/-- The unit's running interval in which an occurrence is consequential: event 67, events of class Safe and the events
of the unit's own cause never are (R435). -/
def dependsNow (s : State) (e : Nat) (o : Occ) (u : Nat) : Option Blank :=
  match at' s.ev.blank u none with
  | none => none
  | some b => if e = 67 ∨ s.evClass e = 4 ∨ b.cause = e then none else if dependentRaw u e o then some b else none

/-- The later started of the running intervals that make an occurrence consequential (R436). -/
def conseqOf (s : State) (e : Nat) (o : Occ) : Option Blank :=
  (List.range 20).foldl (fun m u => match dependsNow s e o u with
    | none => m
    | some b => match m with
      | none => some b
      | some c => if c.seq < b.seq then some b else m) none

/-- The class applied to an occurrence (R427, R436). -/
def State.applied (s : State) (e : Nat) (o : Occ) : Nat := if (conseqOf s e o).isSome then 0 else s.evClass e

/-- Records a partition holds (R442). -/
def partCap (p : Nat) : Nat := if p = 0 then 1536 else 256

/-- The next sequence number of a partition (R440: 24 bits). -/
def Partition.next (p : Partition) : Nat := (p.oldest + p.recs.length) % 2 ^ 24

/-- Records it holds or has queued. -/
def Partition.fill (p : Partition) : Nat := p.recs.length + p.ingress.length

/-- The gap record of a partition (R441, R444). -/
def Partition.gapRec (p : Partition) (c : EvCtx) : Rec :=
  { code := 0x201, source := 0x1FF, gap := true, time := c.now, rev := c.rev,
    params := [p.missed, p.gapCause, p.gapTime % 2 ^ 32] }

/-- An arrival that is not queued (R443, R444): cause 0 ingress, 1 full. -/
def Partition.miss (p : Partition) (c : EvCtx) (cause : Nat) : Partition :=
  { p with missed := sat32 (p.missed + 1), missedTotal := sat32 (p.missedTotal + 1),
           gapCause := if p.missed = 0 then cause else p.gapCause,
           gapTime := if p.missed = 0 then c.now else p.gapTime }

/-- Queues a record that has room. -/
def Partition.queue (p : Partition) (r : Rec) : Partition :=
  let q := p.ingress ++ [r]
  { p with ingress := q, peak := if p.peak < q.length then q.length else p.peak }

/-- An arrival of a record: the partition, whether 480 is raised (first arrival for a full partition). -/
def Partition.arrive (p : Partition) (c : EvCtx) (cap : Nat) (r : Rec) : Partition × Bool :=
  if cap ≤ p.fill then
    let x := p.miss c 1
    ({ x with full := true }, !p.full)
  else if 64 ≤ p.ingress.length ∨ p.missed ≠ 0 then (p.miss c 0, false)
  else (p.queue r, false)

/-- Changes a partition of the event state. -/
def EvState.setPart (v : EvState) (p : Nat) (x : Partition) : EvState := { v with parts := upd v.parts p x }
/-- A partition of the event state. -/
def EvState.part (v : EvState) (p : Nat) : Partition := at' v.parts p {}
/-- A status block of the event state. -/
def EvState.blk (v : EvState) (b : Nat) : StatBlk := at' v.blks b {}

/-- Free records of Boot beyond which rule 3 of R442 stops. -/
def bootFree (v : EvState) : Nat := partCap 1 - (v.part 1).fill

/-- The partition of an event record (R442). -/
def eventPart (v : EvState) (cls : Nat) (cq : Option Blank) : Nat :=
  if (cq.isNone && decide (2 ≤ cls)) || (cq.map (·.inFault)).getD false then 2
  else if !v.sealedRec && decide (64 < bootFree v) then 1
  else 0

/-- Latches an occurrence in its block (R427-R429, R434). -/
def StatBlk.latch (b : StatBlk) (c : EvCtx) (e i cls : Nat) (conseq enabled : Bool) (cap : Capture) : StatBlk :=
  let bit := (1 : BitVec 64) <<< i
  { b with
    latched := b.latched ||| bit
    conseq := if conseq then b.conseq ||| bit else b.conseq &&& ~~~bit
    pending := if !conseq && decide (1 ≤ cls) && enabled then b.pending ||| bit else b.pending
    capture := if c.native && b.capture.isNone then some cap else b.capture
    missed := if c.native && b.capture.isSome then (if b.missed < 255 then b.missed + 1 else 255) else b.missed
    first := if !c.native && b.first.isNone then some e else b.first
    overflow := b.overflow || (!c.native && b.first.isSome && b.first != some e) }

/-- The interrupt line of a block: high while any of its pending bits is 1 (R429). -/
def irqLine (s : State) (b : Nat) : Bool := (s.ev.blk b).pending != 0

/-- The line reaches the interrupt controller of a core: 0-3 CTL, 4-5 SERVO, 6 management, 7 power/thermal, 8 Strongroom. A route bit of
an absent core is ignored (R429). -/
def irqReaches (s : State) (core b : Nat) : Bool :=
  irqLine s b && decide (core < 9) && bitAt (s.nat (K.statRoute b)) core && (core != 5 || hasAct s.variant 1)

/-- A word of a status object that concerns sources the block of 32 or fewer does not have: it reads zero (R428). -/
def noHighWord (b sub : Nat) : Bool := (sub == 2 || sub == 4 || sub == 6 || sub == 9) && b != 2 && b != 3

/-- The enable bit of a source (R428). -/
def State.evEnabled (s : State) (e : Nat) : Bool :=
  let b := eventBlock e
  let i := e - blockFirst b
  if i < 32 then bitAt (s.nat (K.statEnableLo b)) i else bitAt (s.nat (K.statEnableHi b)) (i - 32)

/-- One occurrence, on the event state (R427); the fuel bounds the events that recording itself raises (480). -/
def evRaise (s : State) (fuel : Nat) (v : EvState) (e : Nat) (ps : List Nat) (o : Occ) : EvState :=
  match fuel with
  | 0 => v
  | n + 1 =>
    if eventDefined e && !eventAbsent s.variant e then
      let c := s.evCtx
      let cq := conseqOf s e o
      let conf := s.evClass e
      let cls := if cq.isSome then 0 else conf
      let b := eventBlock e
      let cap : Capture :=
        { event := e, conseq := cq.isSome, injected := o.injected, master := o.master, access := o.access, cls := cls,
          cause := cq.map (·.cause), addr := o.addr, time := c.now, angle := c.stamp, sunState := c.sunState,
          params := ps }
      let nb := (v.blk b).latch c e (e - blockFirst b) cls cq.isSome (s.evEnabled e) cap
      let v1 := { v with blks := upd v.blks b nb }
      let v2 := if 2 ≤ cls then
          { v1 with pulse := true, pulseCount := if v1.pulse then v1.pulseCount else sat32 (v1.pulseCount + 1) } else v1
      let v3 := if cls = 4 then { v2 with safeReq := some (v2.safeReq.getD e) } else v2
      if bitAt (s.nat (K.evtEventCfg e)) 3 || decide (2 ≤ conf) then
        let p := eventPart v3 cls cq
        let r : Rec := { code := e, source := e, conseq := cq.isSome, injected := o.injected, time := c.now,
                         cause := cq.map (·.cause), rev := c.rev, params := ps.take 3 }
        let (x, first) := (v3.part p).arrive c (partCap p) r
        let v4 := v3.setPart p x
        if first then evRaise s n v4 480 [p, x.recs.length] {} else v4
      else v3
    else v

/-- Raises an event as far as the framework's own state goes (R427 but for the actions of React.lean). -/
def raiseBase (s : State) (e : Nat) (ps : List Nat) (o : Occ) : State := { s with ev := evRaise s 4 s.ev e ps o }

/-- A function that raises an event. -/
abbrev Raiser := State → Nat → List Nat → Occ → State

/-- A system record of code 0x0200-0x02FF: to Boot until the seal record, to Main after it (R442). -/
def sysRecord (s : State) (code : Nat) (ps : List Nat) : State :=
  let p := if s.ev.sealedRec then 0 else 1
  let r : Rec := { code := code, source := 0x1FF, time := s.now, rev := s.sun.rev.toNat, params := ps }
  let (x, first) := (s.ev.part p).arrive s.evCtx (partCap p) r
  let t := { s with ev := s.ev.setPart p x }
  if first then raiseBase t 480 [p, x.recs.length] {} else t

/-- A firmware record (R441): its source is the writer's master id. -/
def fwRecord (s : State) (m p code : Nat) (ps : List Nat) : State :=
  let r : Rec := { code := code, source := m, firmware := true, time := s.now, rev := s.sun.rev.toNat, params := ps }
  let (x, first) := (s.ev.part p).arrive s.evCtx (partCap p) r
  let t := { s with ev := s.ev.setPart p x }
  if first then raiseBase t 480 [p, x.recs.length] {} else t

/-- A gap record is owed and can be queued (R444). -/
def gapDue (x : Partition) (cap : Nat) : Bool :=
  decide (x.missed ≠ 0) && decide (x.fill < cap) && decide (x.ingress.length < 64)

/-- Queues the gap record of a partition where it is due, and raises event 481 (R444). -/
def queueGap (s : State) (p : Nat) : State :=
  let x := s.ev.part p
  if gapDue x (partCap p) then
    let z := x.queue (x.gapRec s.evCtx)
    let y := { z with missed := 0 }
    raiseBase { s with ev := s.ev.setPart p y } 481 [p, x.missed, x.gapCause] {}
  else s

/-- Block resets of a unit within the sliding window of R437, at now. -/
def windowResets (s : State) (u : Nat) : List Nat := (at' s.ev.resets u []).filter fun t => s.elapsed t < 1000000

/-- Starts the blanking interval of a unit and counts its reset (R435-R437). A record of the cause that went to Fault
takes the consequential records with it (R442). -/
def startBlank (s : State) (u cause : Nat) (inFault : Bool) : State :=
  let v := s.ev
  let b : Blank := { cause := cause, seq := v.blankSeq, inFault := inFault }
  let t := { s with ev := { v with blank := upd v.blank u (some b), blankSeq := v.blankSeq + 1,
                                   resets := upd v.resets u (s.now :: windowResets s u) } }
  t.inc (K.evtUnitResetCount u)

end Sys2Proof.Machine
end

