-- ==== Sys2Proof/Machine/Almanac.lean ====
section
/-! DEFINITION. Almanac records and segments as bytes (spec/19 R440, R446), and CRC-32C (spec/08 R175). -/

namespace Sys2Proof.Machine

/-- Bytes 10-11 of a record and 6-7 of a capture: a causing event and its valid bit. -/
def causeWord (c : Option Nat) : Nat := match c with
  | some e => e % 512 + 2 ^ 15
  | none => 0

/-- The 32 bytes of the record with a sequence number (R440); an invalid one has no valid mark. -/
def recBytes (r : Rec) (seq : Nat) : List Byte :=
  leBytes 2 r.code
    ++ leBytes 2 (r.source % 512 + b2n r.conseq * 2 ^ 9 + b2n r.gap * 2 ^ 10 + b2n r.injected * 2 ^ 11 + b2n r.firmware * 2 ^ 12)
    ++ leBytes 6 r.time ++ leBytes 2 (causeWord r.cause) ++ leBytes 4 r.rev
    ++ (List.range 3).flatMap (fun i => leBytes 4 (r.params.getD i 0))
    ++ leBytes 4 (seq % 2 ^ 24 + (if r.valid then 0xA5000000 else 0))

/-- The records of a partition as bytes. -/
def partBytes (p : Partition) : List Byte :=
  (List.range p.recs.length).flatMap fun i => match p.recs[i]? with
    | some r => recBytes r (p.oldest + i)
    | none => []

/-- A word of the window of R445: the record at the cursor, zero at the end. -/
def windowWord (p : Partition) (i : Nat) : Nat :=
  match p.recs[(p.cursor + 2 ^ 24 - p.oldest) % 2 ^ 24]? with
  | some r => leNat (((recBytes r p.cursor).drop (8 * i)).take 8)
  | none => 0

/-- A word of a native capture (R433). -/
def captureWord (c : Option Capture) (i : Nat) : Nat := match c with
  | none => 0
  | some r =>
    if i = 0 then r.event + (b2n r.conseq + 2 * b2n r.injected) * 2 ^ 16 + r.master % 256 * 2 ^ 24 + r.access % 256 * 2 ^ 32
      + r.cls % 256 * 2 ^ 40 + causeWord r.cause * 2 ^ 48
    else if i = 1 then r.addr
    else if i = 2 then r.time
    else if i = 3 then r.angle + r.sunState % 256 * 2 ^ 56
    else r.params.getD (2 * (i - 4)) 0 % 2 ^ 32 + r.params.getD (2 * (i - 4) + 1) 0 % 2 ^ 32 * 2 ^ 32

/-- A persisted segment (R446): its header, then the records in order. -/
def segmentBytes (p : Nat) (x : Partition) (boot now seq : Nat) : List Byte :=
  let body := partBytes x
  let head := leBytes 4 0x4E4D4C41 ++ leBytes 2 1 ++ leBytes 1 p ++ leBytes 1 0 ++ leBytes 8 boot ++ leBytes 4 x.oldest
    ++ leBytes 2 x.recs.length ++ leBytes 2 0 ++ leBytes 8 now ++ leBytes 4 seq ++ leBytes 4 (crc32c body)
  head ++ leBytes 4 (crc32c head) ++ List.replicate 20 0 ++ body

end Sys2Proof.Machine
end

