-- ==== Sys2Proof/Machine/LinkOps.lean ====
section
/-! DEFINITION. The head-stack link as a resource (spec/06): frames and CRC, the request classes, assist grants and the
commands that end them, and the stop of HS_CK. -/

namespace Sys2Proof.Machine

/-- One bit of the CRC of R128: polynomial x^8 + x^2 + x + 1, no reflection. -/
def crc8Bit (crc : BitVec 8) : BitVec 8 := if crc.msb then (crc <<< 1) ^^^ 0x07 else crc <<< 1

/-- CRC-8 of bytes, initial value 0, no final XOR (R128). -/
def crc8 (l : List Byte) : BitVec 8 :=
  l.foldl (fun c b => (List.range 8).foldl (fun d _ => crc8Bit d) (c ^^^ b)) 0

/-- The 42-bit command frame in the order sent: start 0, cmd, head, addr, data, CRC, stop 1 (R126). -/
def commandFrame (cmd head addr data : Nat) : Nat :=
  let body := ((cmd % 16 * 16 + head % 16) * 256 + addr % 256) * 65536 + data % 65536
  (body * 256 + (crc8 (leBytes 4 body).reverse).toNat) * 2 + 1

/-- CRC-8 that a response of this status and data carries (R127). -/
def responseCrc (status : Byte) (data : BitVec 16) : Byte :=
  crc8 [status, BitVec.ofNat 8 (data.toNat / 256), BitVec.ofNat 8 data.toNat]

/-- The angle at which a scheduled command starts: 210 ns before its due angle (R134). -/
def dueStart (s : State) (due : Nat) : Nat := due - nsCounts s 210

/-- A request may start now (R134): a scheduled command from its start on, another only if it completes, within 470 ns, before the next
scheduled start. -/
def reqMayStart (s : State) (l : List LinkReq) (r : LinkReq) : Bool := match r.due with
  | some d => decide (dueStart s d ≤ s.stamp)
  | none => !(l.any fun x => match x.due with
      | some d => decide (s.stamp < dueStart s d) && decide (dueStart s d < s.stamp + nsCounts s 470)
      | none => false)

/-- A younger request goes before an older one (R134): lower class; in class 1 the earlier due angle, slot A first on equal ones. -/
def reqBefore (x y : LinkReq) : Bool :=
  if x.cls ≠ y.cls then decide (x.cls < y.cls)
  else decide (x.cls = 1) &&
    (decide (x.due.getD 0 < y.due.getD 0) || (x.due == y.due && decide (x.slot.getD 0 % 2 < y.slot.getD 0 % 2)))

/-- The request a free link serves next among those that may start (R134). -/
def bestReq (s : State) (l : List LinkReq) : Option LinkReq :=
  (l.filter (reqMayStart s l)).foldl (fun m r => match m with
    | none => some r
    | some b => if reqBefore r b then some r else some b) none

/-- The queue without the first occurrence of a request. -/
def dropReq (l : List LinkReq) (r : LinkReq) : List LinkReq :=
  match l with
  | [] => []
  | x :: t => if x = r then t else x :: dropReq t r

/-- Sends the frame of a request, the one outstanding transaction of the link (R129). -/
def linkSend (s : State) (a : Nat) (r : LinkReq) : State :=
  (s.setLink a { s.link a with cur := some r, lastFrame := commandFrame r.cmd r.head r.addr r.data }).inc
    (K.lnkFrameCount a)

/-- A free link with its clock running starts its next request (R134). -/
def linkPump (s : State) (a : Nat) : State :=
  let l := s.link a
  if l.cur.isSome || l.hold || !l.clock then s
  else match bestReq s l.queue with
    | none => s
    | some r => linkSend (s.setLink a { l with queue := dropReq l.queue r }) a r

/-- The link's share of a microsecond: 470 ns after the start of a command that timed out the link is free again, for the repeat if there is
one (R129, R135); a scheduled command whose time has come starts (R134). -/
def linkTick (s : State) (a : Nat) : State :=
  let l := s.link a
  if l.hold then
    let t := s.setLink a { l with hold := false, again := none }
    match l.again with
    | some r => linkSend (t.inc (K.lnkRetryCount a)) a r
    | none => linkPump t a
  else linkPump s a

/-- Hands a request to the link controller; with HS_CK standing still nothing can be sent (R125, R133). -/
def linkPost (s : State) (a : Nat) (r : LinkReq) : State :=
  let l := s.link a
  if l.clock then linkPump (s.setLink a { l with queue := l.queue ++ [r] }) a else s

/-- Sum of the assist grants held (R116). -/
def grantSum (s : State) : Nat := s.grants.toList.foldl (fun n g => n + (g.map (·.2)).getD 0) 0

/-- The arbiter's objects after a change of the grants (R119, R121). -/
def regrant (s : State) : State :=
  let sum := grantSum s
  let holders := (List.range 4).foldl (fun n q => if (at' s.grants q none).isSome then n + 2 ^ q else n) 0
  let t := ((s.setN K.asstAssistGrantedMw sum).setN K.asstAssistHolders holders).setB K.asstAssistOverBudget
    (decide (s.nat K.asstAssistBudgetMw < sum))
  if t.nat K.asstAssistPeakMw < sum then t.setN K.asstAssistPeakMw sum else t

/-- Ends a slot's grant (R116, R143). -/
def endGrant (s : State) (q : Nat) : State :=
  regrant { s with grants := upd s.grants q none }

/-- Takes the requests of a slot with certain command codes out of its link's queue. -/
def unpost (s : State) (q : Nat) (cmds : List Nat) : State :=
  let l := s.link (q / 2)
  s.setLink (q / 2) { l with queue := l.queue.filter fun r => !(r.slot == some q && cmds.contains r.cmd) }

/-- A slot's assist is off and its grant ended (R142, R143); what was still to be sent for its pre-bias is not. -/
def assistEnded (s : State) (q : Nat) : State :=
  endGrant (unpost (s.setWr q { s.wr q with assist := .off, confirmed := false, runOpen := false, sinceConfirm := 0 }) q [3, 4]) q

/-- The SAFE request that keeps the clock running (R142, R143). -/
def safeReq (q : Nat) : LinkReq :=
  { cls := 0, cmd := 5, head := 15, addr := 0, data := 0, who := .safeKeep, slot := some q }

/-- Turns assist off on the head of a slot: ASSIST_OFF, or SAFE while link_state is not up, or nothing to send where
HS_CK is already stopped (R142, R143). -/
def assistOff (s : State) (q cls : Nat) : State :=
  let a := q / 2
  if (s.wr q).assist = .off ∧ (at' s.grants q none).isNone then s
  else if !(s.link a).clock then assistEnded s q
  else if (s.wr q).assist = .stopping then
    -- an ASSIST_OFF that waits in class 1 goes on in class 0 (R143)
    let l := s.link a
    s.setLink a { l with queue := l.queue.map fun r => if r.slot = some q ∧ r.cmd = 4 ∧ cls < r.cls then { r with cls := cls } else r }
  else
  let s := unpost (s.setWr q { s.wr q with assist := .stopping, confirmed := false, runOpen := false }) q [3]
  if s.nat (K.lnkLinkState a) ≠ 2 then linkPost s a (safeReq q)
  else linkPost s a { cls := cls, cmd := 4, head := (s.wr q).assistHead, addr := 0, data := 0, who := .seq, slot := some q }

/-- Both slots of an actuator. -/
def slotsOf (a : Nat) : List Nat := [2 * a, 2 * a + 1]

/-- The module sends SAFE and stops HS_CK: link_state becomes off, link_degraded is cleared, and the preamp's safe state
ends every assist of the actuator (R133). A link whose clock stands still is left as it is. -/
def stopLink (s : State) (a : Nat) : State :=
  if !(s.link a).clock then s
  else
    let t := (s.inc (K.lnkFrameCount a)).setLink a
      { s.link a with cur := none, queue := [], clock := false, hold := false, again := none, init := 0, preampSafe := true
                      nopSince := false, failRun := 0, written := [], lastFrame := commandFrame 5 15 0 0 }
    let t := (t.setN (K.lnkLinkState a) 0).setB (K.lnkLinkDegraded a) false
    let t := t.on (decide (t.nat (K.lnkRegResult a) = 1)) fun u => u.setN (K.lnkRegResult a) 4
    (slotsOf a).foldl (fun u q => if (u.wr q).assist = .off ∧ (at' u.grants q none).isNone then u else assistEnded u q) t

end Sys2Proof.Machine
end

