-- ==== Sys2Proof/Machine/HeatOps.lean ====
section
/-! DEFINITION. Rings of tracks (spec/07 R151) and the heaters of the heads (spec/06 R144), which every end of a descriptor needs. -/

namespace Sys2Proof.Machine

/-- The ring of data track t of head h at a data pitch (R151), none without a valid entry. -/
def ringAt (s : State) (pitch a h t : Nat) : Option Nat :=
  let servo := t * pitch / 65536
  (List.range 64).foldl (fun m n =>
    let w := s.nat (K.ringRingStart a h n)
    if bitAt w 31 && decide (bitsOf w 0 22 ≤ servo) then some n else m) none

/-- The ring of data track t of head h as the format sequencer takes it at the start of a descriptor. -/
def ringOf (s : State) (a h t : Nat) : Option Nat := ringAt s (s.cfg (K.actDataPitchQ16 a)) a h t

/-- A head's heater is to be at a level: a class 1 write for a slot, due at an angle, where the level last written differs (R144). -/
def setHeater (s : State) (q h level due : Nat) : State :=
  let a := q / 2
  if (Sp.get (s.link a).written (h * 256 + 0x14)).getD 0 = level then s
  else linkPost s a { cls := 1, cmd := 2, head := h, addr := 0x14, data := level, who := .seq, slot := some q, due := some due }

/-- The heater level of a descriptor (spec/06 R144). -/
def heaterLevel (s : State) (a h n : Nat) (write : Bool) : Nat :=
  let w := s.cfg (K.lnkHeaterRing a h n)
  if write then bitsOf w 20 10 else bitsOf w 10 10

/-- Counts to the next pass of an angle. -/
def countsTo (s : State) (frac : Nat) : Nat := (frac + revCounts - s.sun.frac.toNat) % revCounts

/-- A descriptor that TRL[a] holds starts on a head within heater_lead_counts and needs a heater level (R144). -/
def levelNext (s : State) (a h level : Nat) : Bool :=
  ((s.pick a).pool ++ (s.pick a).input).any fun p =>
    let d := p.desc
    d.head.val == h && decide (countsTo s d.firstFrac.toNat ≤ s.cfg (K.lnkHeaterLeadCounts a)) &&
      match ringOf s a h d.track.toNat with
      | some n => heaterLevel s a h n d.write == level
      | none => false

/-- After a slot's descriptor the heater of its head returns to heat_idle, unless the next one needs the level it has (R144). Which
descriptor will be next is not known before its pick: any that is held and near counts (DESIGN CHOICE, log 49). -/
def heaterIdle (s : State) (q h : Nat) : State :=
  let a := q / 2
  let now := (Sp.get (s.link a).written (h * 256 + 0x14)).getD 0
  if levelNext s a h now then s
  else setHeater s q h (bitsOf (s.cfg (K.lnkHeaterRing a h (s.nat (K.slotSlotRing q)))) 0 10) s.stamp

end Sys2Proof.Machine
end

