-- ==== Sys2Proof/Machine/ChanOps.lean ====
section
/-! DEFINITION. A channel slot as every end of a read needs it: the settings of its descriptor (spec/08 R192), its buffer entries
(spec/07 R168), its adaptive loops (R160, R165), the head-ring state (R162, R163), the result words it delivers (spec/08 R190) and the
abandoning of a read (spec/02 R44). -/

namespace Sys2Proof.Machine

/-! ### Settings of the descriptor (spec/08 R192) -/

/-- The retry profile in use of a slot's descriptor, none where its valid bit is 0. -/
def profileOf (s : State) (q : Nat) : Option Nat :=
  let p := (s.ch q).profile
  if p = 0 then none
  else
    let w := s.cfg (K.slotRetryProfile q (p - 1))
    if bitAt w 31 then some w else none

/-- The profile's word, 0 where there is none. -/
def profileWord (s : State) (q : Nat) : Nat := (profileOf s q).getD 0

/-- reader_use of a slot: its profile's, or the object's. -/
def readerUse (s : State) (q : Nat) : Nat :=
  let o := bitsOf (profileWord s q) 14 2
  if o = 0 then s.cfg (K.slotReaderUse q) else o - 1

/-- loop_enable of a slot. -/
def loopEnable (s : State) (q : Nat) : Nat :=
  let w := profileWord s q
  if bitAt w 30 then bitsOf w 26 4 else s.cfg (K.slotLoopEnable q)

/-! ### Buffer entries (R168, R169) -/

/-- FREE entries of a slot's sample buffer (R169). -/
def freeEntries (c : Chan) : Nat := c.bufs.toList.foldl (fun n e => if e.st = .free then n + 1 else n) 0

/-- The readable buffer level and its low-water mark (R169). -/
def rebuf (s : State) (q : Nat) : State :=
  let n := freeEntries (s.ch q)
  let t := s.setN (K.slotBufFree q) n
  if n < t.nat (K.slotBufLowWater q) then t.setN (K.slotBufLowWater q) n else t

/-- An entry of a slot's sample buffer. -/
def bufAt (c : Chan) (e : Nat) : BufEntry := at' c.bufs e {}
/-- Changes an entry of a slot's sample buffer. -/
def Chan.setBuf (c : Chan) (e : Nat) (b : BufEntry) : Chan := { c with bufs := upd c.bufs e b }

/-- A released entry becomes FREE, or PINNED where its pin bit is 1 (R168). -/
def releaseEntry (s : State) (q e : Nat) : State :=
  let c := s.ch q
  let b := bufAt c e
  rebuf (s.setCh q (c.setBuf e { b with st := if s.bit (K.slotBufPin q) e then .pinned else .free, work := .none })) q

/-- Address of entry e of slot q (R166). -/
def entryAddr (q e : Nat) : Nat := 0x68000000 + q * 0x100000 + e * 0xE800

/-- Header bytes 0x20-0x3F of an entry: defect intervals, flags, gains and timing offset, entry and complete bit (R167). -/
def headerTail (e : Nat) (b : BufEntry) : List Byte :=
  let flags := b2n b.acqFrozen + b2n b.moreDefects * 2 + b2n b.gainRail * 4 + b2n b.timingRail * 8 + b2n b.abandoned * 16
  (List.range 4).flatMap (fun j => let p := b.defects.getD j (0, 0); leBytes 2 p.1 ++ leBytes 2 p.2)
    ++ leBytes 4 flags
    ++ leBytes 2 ((b.gains.getD 0 0) % 65536).toNat ++ leBytes 2 ((b.gains.getD 1 0) % 65536).toNat
    ++ leBytes 4 ((b.gains.getD 2 0) % 2 ^ 32).toNat ++ leBytes 4 (e + b2n b.complete * 2 ^ 31)

/-! ### The adaptive loops (R149, R158-R161, R165) -/

/-- The anchor among the 32 taps: tap 7 of the reader in use with the lower number (R159). -/
def anchorTap (reader : Nat) : Nat := if reader = 2 then 16 + 7 else 7

/-- Reader r is in use (R149). -/
def usesReader (use r : Nat) : Bool := use == 0 || use == r + 1

/-- Tap i of the 32 is adapted: it belongs to a reader in use and is not the anchor (R159). -/
def tapAdapts (reader i : Nat) : Bool := i != anchorTap reader && usesReader reader (i / 16)

/-- Gain, offset, asymmetry and timing after they have adapted: what they converge to lies in the analogue signal, so the values are free,
for the readers in use and the loops enabled; a gain stays in the amplifier's range and the frequency within timing_range_ppm of its start
(R149, R158, R160, R161; log 12). -/
def adaptLoops (s : State) (q : Nat) : State :=
  let en := loopEnable s q
  let use := (s.ch q).front.reader
  let n := s.freeCtr
  let v (i : Nat) : Nat := (Config.freeValue (n + i)).toNat
  let t := { s with freeCtr := n + 8 }
  let t := t.on (bitAt en 0 && usesReader use 0) fun u => u.setN (K.slotVgaDbR0 q) (v 0 % 301)
  let t := t.on (bitAt en 0 && usesReader use 1) fun u => u.setN (K.slotVgaDbR1 q) (v 1 % 301)
  let t := t.on (bitAt en 1 && usesReader use 0) fun u => u.setI (K.slotOffsetR0 q) (sgn 16 (v 2))
  let t := t.on (bitAt en 1 && usesReader use 1) fun u => u.setI (K.slotOffsetR1 q) (sgn 16 (v 3))
  let t := t.on (bitAt en 2 && usesReader use 0) fun u => u.setI (K.slotAsymR0 q) (sgn 16 (v 4))
  let t := t.on (bitAt en 2 && usesReader use 1) fun u => u.setI (K.slotAsymR1 q) (sgn 16 (v 5))
  let start := (s.ch q).timingStart
  let range : Int := s.cfg (K.slotTimingRangePpm q) * 1000
  t.setI (K.slotTimingOffsetPpb q) (clamp (start - range) (start + range) (sgn 32 (v 6)))

/-- The taps after the LMS has run on samples that are not known whole (R160; log 12). -/
def adaptTaps (s : State) (q : Nat) : State :=
  let c := s.ch q
  if bitAt (loopEnable s q) 3 then
    let v (i : Nat) : Nat := (Config.freeValue (s.freeCtr + i)).toNat % 65536
    { s with freeCtr := s.freeCtr + 32 }.setCh q
      { c with taps := (List.range 32).map fun i => if tapAdapts c.front.reader i then v i else c.taps.getD i 0 }
  else s

/-! ### Head-ring state (R162, R163) -/

/-- Address of the head-ring state entry of a head and ring (R162). -/
def hrAddr (s : State) (a h n : Nat) : Nat := s.cfg (K.ringHrStateBase a) + (h * 64 + n) * 128

/-- The write-back of the loop values (R162, R163). -/
def hrStore (s : State) (q h n : Nat) : State :=
  let a := q / 2
  let base := hrAddr s a h n
  let c := s.ch q
  let u16 (x : Int) : List Byte := leBytes 2 (x % 65536).toNat
  let count := leNat (s.load (base + 0x54) 4)
  let t := s.store base ((List.range 32).flatMap fun i => leBytes 2 (c.taps.getD i 0))
  let t := t.store (base + 0x40)
    (leBytes 2 (s.nat (K.slotVgaDbR0 q)) ++ leBytes 2 (s.nat (K.slotVgaDbR1 q)) ++ u16 (s.int (K.slotOffsetR0 q))
      ++ u16 (s.int (K.slotOffsetR1 q)) ++ u16 (s.int (K.slotAsymR0 q)) ++ u16 (s.int (K.slotAsymR1 q))
      ++ leBytes 4 ((s.int (K.slotTimingOffsetPpb q)) % 2 ^ 32).toNat ++ leBytes 4 3 ++ leBytes 4 (count + 1)
      ++ leBytes 8 s.stamp)
  t.inc (K.slotHrWritebackCount q)

/-- A part of a read descriptor on head h ends: write-back, or its skip where the last sector was not decoded by the line decoder without
re-detection, a loop was frozen at its close, or the profile ignores the state; `done`: its last sector has its result (R163). -/
def hrEnd (s : State) (q h : Nat) (done : Bool) : State :=
  let c := s.ch q
  if !s.cfgB (K.ringHrWriteback (q / 2)) then s
  else if done && c.lastLine && !c.frozenAtClose && !bitAt (profileWord s q) 16 then hrStore s q h (s.nat (K.slotSlotRing q))
  else s.inc (K.slotHrSkipCount q)

/-! ### Result words (spec/08 R190) -/

/-- The read result word (R190). -/
def readWordOf (b : BufEntry) (e result cand offset pass : Nat) (moved pinned : Bool) : Nat :=
  let ok := decide (result < 8)
  let cap (n m : Nat) : Nat := if n < m then n else m
  result + e * 2 ^ 4 + b2n b.markMissed * 2 ^ 8 + b2n moved * 2 ^ 9 + cand % 8 * 2 ^ 10 + offset % 8 * 2 ^ 13
    + pass % 16 * 2 ^ 16 + cap b.lineIters 255 * 2 ^ 20 + cap b.deepIters 127 * 2 ^ 28
    + (if ok then 0 else cap b.best 4095) * 2 ^ 35 + b2n b.mismatch * 2 ^ 47 + b2n (!b.defects.isEmpty) * 2 ^ 48
    + b2n b.acqFrozen * 2 ^ 49 + b2n pinned * 2 ^ 50

/-- A result word goes to the format sequencer, which keeps it for the descriptor's completion (R190; spec/09 R212). -/
def wordTo (s : State) (a tag word : Nat) : State :=
  s.setPick a { s.pick a with words := (s.pick a).words ++ [(tag, word)] }

/-- The slot delivers the result word of a read sector (R190, R199). -/
def readWordTo (s : State) (q tag word : Nat) : State :=
  let t := (wordTo s (q / 2) tag word).setN (K.slotLastResult q) word
  (t.setCh q { t.ch q with resultReady := true }).inc (K.slotSectorsCount q)

/-! ### Abandoning -/

/-- The open read gate of a slot closes and its sector is abandoned: the entry keeps its samples, its header takes flag 4 with what has
been recorded so far, the sector has result abandoned and is rescheduled (R44, R168, R190). How many bit times were stored is free. A pin
bit waiting on the entry makes it PINNED. The loops have adapted to the samples captured (R160). -/
def abandonRead (s : State) (q : Nat) : State :=
  let c := s.ch q
  match c.gate with
  | none => s
  | some e =>
    let s := if c.holdFrom = some 0 ∧ c.freezes.isEmpty = true then s else adaptTaps (if c.holdFrom.isNone then adaptLoops s q else s) q
    let c := s.ch q
    let b := bufAt c e
    let pinned := s.bit (K.slotBufPin q) e
    let b' := { b with st := if pinned then .pinned else .abandoned, abandoned := true, complete := false }
    let at0 := entryAddr q e
    let t := (s.drawn.store (at0 + 0x14) (leBytes 2 s.free.toNat)).store (at0 + 0x20) (headerTail e b')
    let t := t.setCh q { c.setBuf e b' with gate := none, moved := c.moved + 1, frozenAtClose := c.holdFrom.isSome, holdFrom := none,
                                            freezes := [] }
    rebuf (readWordTo t q b.tag (readWordOf b' e 10 0 0 0 false false)) q

end Sys2Proof.Machine
end

