-- ==== Sys2Proof/Machine/Gates.lean ====
section
/-! DEFINITION. Write gates as every block closes them: the end of a slot's part of a write descriptor with its result
word (spec/09 R206, R207, R212, R213) and deferrals. The functions take the raiser, for a
block reset raises through the event framework alone. -/

namespace Sys2Proof.Machine

/-- Event k of actuator a (R102). -/
def actEv (a k : Nat) : Nat := 64 * a + k
/-- Raises event k of actuator a: its items, then act_state, and the head and slot involved, slot A where none is named (R102,
R122; log 47). -/
def actEvent (r : Raiser) (s : State) (a k : Nat) (items : List Nat) (slot : Option Nat) : State :=
  let q := slot.getD (2 * a)
  r s (actEv a k) (items ++ [s.nat (K.actActState a), (s.srv q).head, q % 2]) { slot := slot }
/-- Event k of slot q (R147, R171). -/
def slotEv (q k : Nat) : Nat := 16 * q + k

/-- The write gate of a slot is open. -/
def gateOpen (s : State) (q : Nat) : Bool := match (s.wr q).gate with
  | some g => !g.paused
  | none => false

/-- Bit q: the write gate of slot q is open. -/
def gatesMask (s : State) : Nat := (List.range 4).foldl (fun n q => if gateOpen s q then n + 2 ^ q else n) 0

/-- |PES| per mille of the data track pitch, saturating at 4,095 (R212). -/
def pesPm (s : State) (a : Nat) (pes : Int) : Nat :=
  let p := s.cfg (K.actDataPitchQ16 a)
  let x := (rnd (pes.natAbs * 1000) (if p = 0 then 1 else p)).toNat
  if x < 4095 then x else 4095

/-- The reason field of R212 for cause 2. -/
def OkFall.code (f : OkFall) : Nat := match f with
  | .pes => 0 | .shock => 1 | .outOfStroke => 2 | .late => 3 | .rroParity => 4 | .decodeFault => 5 | .degraded => 6
  | .pztFault => 7
  | .unlisted => Config.unlistedReason % 8

/-- adjacent_check of a sector interrupted with cause 2 (R213). -/
def adjacentCheck (s : State) (q : Nat) (g : Gate) : Bool :=
  let v := s.srv q
  match v.lastValidPes with
  | none => true
  | some p => v.lastGood || (g.zone.isSome && decide (g.trackIndex ≠ 0) && (if g.dir = 0 then decide (p < 0) else decide (0 < p)))

/-- The write result word (R212). -/
def resultWord (written : Nat) (interrupted : Bool) (cause : Nat) (adj twinB : Bool) (deferrals pes reason : Nat) : Nat :=
  written % 2 ^ 16 + b2n interrupted * 2 ^ 16 + cause * 2 ^ 17 + b2n adj * 2 ^ 22 + b2n twinB * 2 ^ 23
    + deferrals % 256 * 2 ^ 24 + pes % 4096 * 2 ^ 32 + reason % 8 * 2 ^ 44

/-- Free staging entries of a slot follow the entries it holds (R203). -/
def restage (s : State) (q : Nat) : State := s.setN (K.slotStagingFree q) (8 - (s.wr q).staging.length)

/-- write_state of a slot (R215). -/
def writeState (w : WriteSt) : Nat := match w.gate with
  | some g => if g.paused then 3 else 2
  | none => if w.runOpen then 3 else if w.staging.isEmpty then 0 else 1

/-- Brings the slot's readable write state up to date. -/
def refreshWrite (s : State) (q : Nat) : State := (restage s q).setN (K.slotWriteState q) (writeState (s.wr q))

/-- Raises an event of the write path: its items, then the slot, its head and the descriptor's tag (R217). -/
def writeEvent (r : Raiser) (s : State) (q e : Nat) (items : List Nat) (tag : Nat) : State :=
  r s e (items ++ [q, (s.srv q).head, tag]) { slot := some q }

/-- Ends a slot's part of its write descriptor with a cause: the sector in flight is interrupted, the rest is not
started, the result word is returned and the descriptor's staging entries are freed; `off`: ASSIST_OFF follows (R142, R206, R212). -/
def endPartWith (r : Raiser) (s : State) (q cause : Nat) (off : Bool) : State :=
  let w := s.wr q
  if !w.active && w.gate.isNone then s
  else
    let cut := w.gate.isSome
    let adj := decide (cause = 2) && (match w.gate with | some g => adjacentCheck s q g | none => false)
    let pes := if cause = 2 ∧ (s.srv q).sampleValid then pesPm s (q / 2) (s.srv q).lastPes else 0
    let reason := if cause = 2 then (s.srv q).fall.code else 0
    let word := resultWord w.written cut cause adj w.twinB w.deferrals pes reason
    let t := wordTo (s.setN (K.slotLastWriteResult q) word) (q / 2) w.tag word
    let c := t.ch q
    let wr := match c.desc with | some d => d.write | none => false
    let t := t.setCh q { c with resultReady := true, desc := if wr then none else c.desc, left := if wr then 0 else c.left }
    let t := t.on cut fun u => u.inc (K.slotInterruptedCount q)
    let t := t.on (decide (cause ≠ 0)) fun u => u.inc (K.slotEndedEarlyCount q)
    let t := t.on adj fun u => u.inc (K.slotAdjacentCheckCount q)
    let t := t.setWr q { w with gate := none, active := false, written := 0, deferrals := 0, twinB := false, encoderOk := true,
                                staging := w.staging.filter fun e => e.tag != w.tag }
    let t := heaterIdle t q (c.desc.elim (s.srv q).head (·.head.val))
    let t := refreshWrite (if off then assistOff t q 1 else t) q
    t.on (decide (cause ≠ 0)) fun u => writeEvent r u q 345 [word] w.tag

/-- Ends a slot's part and its assist. -/
def endPart (r : Raiser) (s : State) (q cause : Nat) : State := endPartWith r s q cause true

/-- A condition of the interlock fell: an open gate of the slot closes and its descriptor ends (R206). -/
def closeGate (r : Raiser) (s : State) (q cause : Nat) : State := if gateOpen s q then endPart r s q cause else s

/-- Closes the open gates of several slots for one cause. -/
def closeGates (r : Raiser) (s : State) (qs : List Nat) (cause : Nat) : State :=
  qs.foldl (fun t q => closeGate r t q cause) s

/-- All slots. -/
def allSlots : List Nat := [0, 1, 2, 3]

/-- A sector and every later sector of the descriptor on the slot move to the next revolution (R24, R118, R140); an earlier one in flight
stays so. -/
def deferPart (s : State) (q : Nat) : State :=
  let w := s.wr q
  let d := if w.deferrals < 255 then w.deferrals + 1 else 255
  refreshWrite ((s.setWr q { w with deferrals := d }).inc (K.slotDeferralCount q)) q

/-- Trip, mode and power conditions 6-8 of R206 as one cause, 0 when none stands (R207). -/
def moduleCause (s : State) : Nat :=
  if s.power.loss then 6 else if s.power.trip.isSome then 7 else if s.nat K.pmMode = 5 then 8 else 0

end Sys2Proof.Machine
end

