-- ==== Sys2Proof/Machine/SunOps.lean ====
section
/-! DEFINITION. Sundial's transitions (spec/02 R32, R41-R44, R51), which servo, spindle and resets share. -/

namespace Sys2Proof.Machine

/-- Motor engine states of R60. -/
def motorState (s : State) : Nat := s.nat K.spinState

/-- The observer valid flag that Sundial receives (R38, R60), before observer_use. -/
def observerFlag (s : State) : Bool :=
  (motorState s == 4 && s.motor.confirmed) || (motorState s == 8 && s.nat K.spinCommSource == 2 && !s.motor.rectLost)
/-- The observer is valid as Sundial uses it: observer_use at 0 treats it as never valid. -/
def observerValid (s : State) : Bool := observerFlag s && s.cfgB K.sunObserverUse

/-- Twin mode is in force on an actuator. -/
def twinOn (s : State) (a : Nat) : Bool := s.flag (K.actTwinActive a)

/-- A slot reads servo (R82, R103): SEARCH, TRACKING, or UNLOADING before servo track 0 is passed; slot B only in twin
mode; in INVALID only in SEARCH or with servo_search_hold. -/
def readsServo (s : State) (q : Nat) : Bool :=
  let a := q / 2
  let st := s.nat (K.actActState a)
  (st == 2 || st == 3 || (st == 4 && !(s.act a).passed0)) && (q % 2 == 0 || twinOn s a)
    && (s.nat K.sunState != 0 || st == 2 || s.cfgB (K.actServoSearchHold a))

/-- The slots reading servo. -/
def servoReaders (s : State) : List Nat := allSlots.filter fun q => readsServo s q

/-- Slewing is allowed (R51). -/
def slewAllowed (s : State) : Bool := s.nat K.sunState == 3 || (s.nat K.sunState == 2 && s.flag K.sunZeroKnown)

/-- sync_state takes a value; zero_known falls when LOCKED is left outside LOCKED_WEDGE (R51). -/
def setSync (s : State) (st : Nat) : State :=
  let lost := decide (s.nat K.sunSyncState = 3) && decide (st ≠ 3) && decide (s.nat K.sunState ≠ 3)
  let t := s.setN K.sunSyncState st
  if lost then (t.setB K.sunZeroKnown false).setN K.sunZeroSource 0 else t

/-- Where slewing is not allowed the state is ACQUIRE and the trim 0 (R51). -/
def syncCheck (s : State) : State :=
  let st := s.nat K.sunSyncState
  if (st == 2 || st == 3) && !slewAllowed s then (setSync s 1).setN K.sunSpeedTrimPpm 0 else s

/-- The EDGE objects with a boundary, of the indexes that `own` selects, take effect (R390). -/
def boundaryIn (s : State) (b : Boundary) (own : Nat → Bool) : State :=
  s.takeEdge fun k => own (k / 256) && match objRow (k / 256) (k % 256) with
    | some r => decide (r.apply = .edge b)
    | none => false

/-- The EDGE objects with a boundary take effect (R390). -/
def boundary (s : State) (b : Boundary) : State := boundaryIn s b fun _ => true

/-- An index belongs to actuator a or to no one actuator. -/
def actOwns (a i : Nat) : Bool :=
  if 0x3000 ≤ i ∧ i < 0x5000 then i / 0x800 % 2 == a
  else if 0x5000 ≤ i ∧ i < 0x6000 then (i - 0x5000) / 0x800 == a || (0x5300 ≤ i && i < 0x5400)
  else true

/-- An index belongs to slot q, to its actuator, or to no one actuator. -/
def slotOwns (q i : Nat) : Bool :=
  let o := (i - 0x5000) % 0x400
  let shared := (0x80 ≤ o && o < 0x100) || 0x280 ≤ o
  actOwns (q / 2) i && (!(0x5000 ≤ i && i < 0x6000) || shared || (i - 0x5000) / 0x400 == q)

/-- Raises a Sundial event: its items, then the state before the event and after it (R53). -/
def sunEvent (r : Raiser) (s : State) (before e : Nat) (items : List Nat) (o : Occ) : State :=
  r s e (items ++ [before, s.nat K.sunState]) o

/-- Counts of one microsecond at the measured speed, with the remainder carried on (R39, R40). -/
def coast (s : State) : Nat × Nat :=
  let p := periodNs s
  let x := s.sun.rem + revCounts * 1000
  if p = 0 then (0, 0) else (x / p, x % p)

/-- The fraction so many counts on, short of the wrap, which is FRACTION_WRAP. -/
def fracOn (f : Frac) (n : Nat) : Frac := BitVec.ofNat 24 (min (f.toNat + n) (revCounts - 1))

/-- The observer's electrical angle, divided by pole_pairs, advances the fraction in LOCKED_OBSERVER (R38, R40). -/
def observerAngle (s : State) (ang : Nat) : State :=
  let u := s.sun
  match u.obsLast with
  | some old =>
    if s.nat K.sunState = 2 then
      let pp := s.cfg K.sunPolePairs
      let x := u.obsRem + (ang + revCounts - old % revCounts) % revCounts
      if pp = 0 then s
      else { s with sun := { u with frac := fracOn u.frac (x / pp), obsLast := some ang, obsRem := x % pp } }
    else { s with sun := { u with obsLast := some ang } }
  | none => { s with sun := { u with obsLast := some ang, obsRem := 0 } }

/-- Sundial takes a state; on an exit from INVALID the revolution count resumes at its last value plus 1, or stands at 0
on the first exit (R32). -/
def sunEnter (r : Raiser) (s : State) (st : Nat) : State :=
  let old := s.nat K.sunState
  let t := s.setN K.sunState st
  if old = 0 ∧ st ≠ 0 then
    if t.sun.leftInvalid then
      let wrap := decide (t.sun.rev = 0xFFFFFFFF)
      let u := { t with sun := { t.sun with rev := t.sun.rev + 1 } }
      u.on wrap fun v => sunEvent r v old 90 [] {}
    else { t with sun := { t.sun with leftInvalid := true } }
  else if st = 0 then { t with sun := { t.sun with internal := none, acquiring := false, first := false, run := 0, misses := 0, rem := 0 } }
  else t

/-- The media consequences of leaving LOCKED_WEDGE (R43, R44): gates off with cause sundial, every write descriptor in hand
ended, reads abandoned, the captured commutation offset no longer valid (R69). -/
def lockLost (r : Raiser) (s : State) (mask : Nat) : State :=
  let t := s.inc K.sunDropCount
  let t := t.on (decide (mask ≠ 0)) fun u => u.inc K.sunWriteInterruptCount
  let t := t.setBitOf K.spinCommOffset 31 false
  let t := { t with sun := { t.sun with acquiring := false, first := false, run := 0, misses := 0, errs := [], heard := [] } }
  let t := allSlots.foldl (fun u q => endPart r u q 1) t
  allSlots.foldl abandonRead t

/-- Rows 2 and 3 of R41: cause 0 misses, 1 error. -/
def sunDrop (r : Raiser) (s : State) (cause : Nat) : State :=
  if s.nat K.sunState ≠ 3 then s
  else
    let mask := gatesMask s
    let obs := observerValid s
    let keep := decide (s.nat K.sunSyncState = 3)
    let t := sunEnter r s (if obs then 2 else 1)
    let t := if obs then
        (if keep then t.setN K.sunZeroSource 2 else (t.setB K.sunZeroKnown false).setN K.sunZeroSource 0) else t
    let t := sunEvent r t 3 80 [cause, t.nat K.sunPhaseError, mask] {}
    let t := if obs then t else sunEvent r t 3 82 [3] {}
    syncCheck (lockLost r t mask)

/-- Entry to INVALID by rows 1 and 7 of R41: cause 0 disable, 1 free timeout. -/
def sunInvalid (r : Raiser) (s : State) (cause : Nat) : State :=
  if s.nat K.sunState = 0 then s
  else
    let old := s.nat K.sunState
    let locked := decide (old = 3)
    let mask := gatesMask s
    let t := sunEnter r s 0
    let t := if cause = 1 then (t.setB K.sunZeroKnown false).setN K.sunZeroSource 0 else t
    let t := sunEvent r t old 83 [cause] {}
    let t := t.on locked fun u => lockLost r u mask
    syncCheck t

/-- Rows 5, 6 and 8 of R41: the observer valid flag against Sundial's state. -/
def observerCheck (r : Raiser) (s : State) : State :=
  let obs := observerValid s
  let st := s.nat K.sunState
  let t := s.setBitOf K.sunLockSources 4 obs
  if !s.cfgB K.sunSundialEnable then t
  else if st = 2 ∧ obs = false then syncCheck (sunEvent r (sunEnter r t 1) 2 82 [2] {})
  else if st = 1 ∧ obs = true then sunEnter r t 2
  else if st = 0 ∧ obs = true then syncCheck (((sunEnter r t 2).setB K.sunZeroKnown false).setN K.sunZeroSource 0)
  else t

/-- Where no slot reads servo any more, an acquisition ends and its internal angle is discarded (R39). -/
def readersCheck (s : State) : State :=
  if (servoReaders s).isEmpty ∧ s.nat K.sunState ≠ 3 then
    { s with sun := { s.sun with internal := none, acquiring := false, first := false, run := 0, expect := none, errs := [], heard := [] } }
  else s

end Sys2Proof.Machine
end

