-- ==== Sys2Proof/Machine/Operands.lean ====
section
/-! DEFINITION. How a dictionary access is judged and carried out (spec/17 R382-R394): access code, rank mask, locks,
apply class and value, in the order of R385; the store and its apply class; held low words; the status kept per
master. Every command that writes an object goes through `dwrite`. -/

namespace Sys2Proof.Machine

/-- The number of an index among n from a base; no number of a unit where it is none of them. -/
def ixOf (i base n : Nat) : Nat := if base ≤ i ∧ i < base + n then i - base else 0xFFFF

/-- Statuses of R385. -/
inductive DStatus where
  | ok | objectAbsent | invalidValue | blockActive | accessDenied | conflict | noObject | typeMismatch | stagedOnly
deriving DecidableEq, Repr

/-- Codes of R385. -/
def DStatus.code (d : DStatus) : Nat := match d with
  | .ok => 0 | .objectAbsent => 1 | .invalidValue => 2 | .blockActive => 3 | .accessDenied => 4 | .conflict => 5
  | .noObject => 6 | .typeMismatch => 7 | .stagedOnly => 8

/-- Rank of a master (R383): 1 is highest. -/
def rankOf (m : Nat) : Nat := if m = 0 then 1 else if m = 1 then 2 else if m < 15 then 3 else if m = 15 then 4 else 5

/-- Domain states of R475. -/
def domainOn (s : State) (d : Nat) : Bool := s.nat (K.pmDomainState d) == 3

/-- pd_afe of a slot. -/
def afeDomain (q : Nat) : Nat := 36 + 8 * (q / 2) + q % 2
/-- pd_det of a slot. -/
def detDomain (q : Nat) : Nat := 38 + 8 * (q / 2) + q % 2

/-- An entry keeps a slot from being idle: capturing, or HELD in in-place recovery, the deep queue or the deep decoder
(R169). -/
def entryBusy (b : BufEntry) : Bool := b.st == .capturing || (b.st == .held && b.work != .none)

/-- TRL[a] holds a descriptor for a slot that reads or writes (R169): in the slot's hands, picked or waiting; slot B has the twin ones. -/
def trlHolds (s : State) (q : Nat) (write : Bool) : Bool :=
  (match (s.ch q).desc with | some d => d.write == write | none => false)
    || ((s.pick (q / 2)).pool ++ (s.pick (q / 2)).input).any fun p => p.desc.write == write && (q % 2 == 0 || p.desc.twin)

/-- The slot holds data work of reading. -/
def slotReads (s : State) (q : Nat) : Bool :=
  let c := s.ch q
  c.gate.isSome || (c.bufs.toList.any entryBusy) || trlHolds s q false

/-- The slot holds data work of writing. -/
def slotWrites (s : State) (q : Nat) : Bool :=
  let w := s.wr q
  w.active || w.gate.isSome || w.assist != .off || trlHolds s q true

/-- slot_state: 0 off, 1 idle, 2 servo only, 3 reading, 4 writing (R169). -/
def slotState (s : State) (q : Nat) : Nat :=
  if !domainOn s (afeDomain q) || !domainOn s (detDomain q) then 0
  else if slotWrites s q then 4 else if slotReads s q then 3 else if readsServo s q then 2 else 1

/-- Off or idle (R169). -/
def slotQuiet (s : State) (q : Nat) : Bool := slotState s q ≤ 1

/-- The actuator whose window an index lies in (R101, R146, R148). -/
def actOfIndex (i : Nat) : Nat :=
  if 0x5000 ≤ i ∧ i < 0x6000 then (i - 0x5000) / 0x800 else if i / 0x800 % 2 = 1 then 1 else 0

/-- The owner of a HALT object runs (R76, R101, R120, R146, R170, R198, R216, R241 and the object rules after them). -/
def ownerRuns (s : State) (o : Owner) (i : Nat) : Bool := match o with
  | .sundial => s.cfgB K.sunSundialEnable
  | .spindle => !(motorState s == 0 || motorState s == 9)
  | .act => let st := s.nat (K.actActState (actOfIndex i)); !(st == 0 || st == 6)
  | .link => let st := s.nat (K.lnkLinkState (actOfIndex i)); !(st == 0 || st == 4)
  | .slot => !slotQuiet s ((i - 0x5000) / 0x400)
  | .slotPair => !(slotsOf (actOfIndex i)).all (slotQuiet s)
  | .allSlots => !allSlots.all (slotQuiet s)
  | .trellis => s.nat (K.trlState ((i - 0xC000) / 0x100)) == 3
  | .zones => s.flag K.zoneZoneHwEnable
  | .hostLink => s.flag K.hostLinkUp
  | .orderedQueue => false
  | .sheaf => s.flag K.sheafPwcArmed
  | .cache => s.flag K.memCacheEnable
  | .hoe => s.nat K.memHoeState == 1
  | .queue => s.nat (K.panLevel (i - 0x7800)) != 0
  | .sieve => s.flag K.hostLinkUp || (List.range 8).any fun n => s.nat (K.engEngineState n) == 2

/-- Bytes of a type; 0 for STR and BLOB, whose local words take no write (R381, R388). -/
def ObjTy.bytes (t : ObjTy) : Nat := match t with
  | .u8 => 1 | .u16 => 2 | .u32 => 4 | .u64 => 8 | .i16 => 2 | .i32 => 4 | .bool => 1 | .enum => 1 | .bits32 => 4
  | .str => 0 | .blob => 0

/-- Type codes of R381. -/
def ObjTy.code (t : ObjTy) : Nat := match t with
  | .u8 => 1 | .u16 => 2 | .u32 => 3 | .u64 => 4 | .i16 => 5 | .i32 => 6 | .bool => 7 | .enum => 8 | .bits32 => 9
  | .str => 10 | .blob => 11

/-- The word a read of a written value returns: I16 and I32 are sign-extended (R386). -/
def ObjTy.word (t : ObjTy) (v : Word) : Word := match t with
  | .i16 => (v.setWidth 16).signExtend 64
  | .i32 => (v.setWidth 32).signExtend 64
  | _ => v

/-- A value passes the check its table row states; the bits above the type's own are zero (R386, R14). -/
def chkOk (r : ObjRow) (v : Word) : Bool :=
  let n := v.toNat
  let x : Int := match r.ty with
    | .i16 => sgn 16 n
    | .i32 => sgn 32 n
    | _ => (n : Int)
  r.ty.bytes != 0 && decide (n < 2 ^ (8 * r.ty.bytes)) && (r.ty != .bool || decide (n < 2)) && (match r.chk with
    | .any => true
    | .bool => decide (n < 2)
    | .enum l => l.contains n
    | .enum0 lo hi => n == 0 || (decide (lo ≤ n) && decide (n ≤ hi))
    | .range lo hi => decide (lo ≤ x) && decide (x ≤ hi)
    | .bits m => n &&& m == n
    | .align k => n % (if k = 0 then 1 else k) == 0)

/-- The masters an object's rank mask admits, where one object of a range differs from its row: the frame ports (R398),
the alarms of Trellis (R47), the allocation ports (R254) and the Sheaf ports (R300). -/
def objMask (r : ObjRow) (i sub : Nat) : Nat :=
  if 0x1060 ≤ i ∧ i ≤ 0x1063 then 2 ^ (2 + (i - 0x1060))
  else if 0x2840 ≤ i ∧ i ≤ 0x284F then 0x7F00
  else if i = 0x6020 ∧ 1 ≤ sub ∧ sub ≤ 4 then 2 ^ (1 + sub)
  else if 0x6110 ≤ i ∧ i ≤ 0x6113 then 2 ^ (2 + (i - 0x6110))
  else r.mask

/-- Fields of a lock entry (R393). -/
def lockFirst (w : Nat) : Nat := bitsOf w 0 16
/-- Last index of a lock entry. -/
def lockLast (w : Nat) : Nat := bitsOf w 16 16
/-- Owner of a lock entry. -/
def lockOwner (w : Nat) : Nat := bitsOf w 32 5
/-- The lock entry is held. -/
def lockHeld (w : Nat) : Bool := bitAt w 37

/-- A lock held by another master forbids a write of an index (R393). -/
def lockedOut (s : State) (m i : Nat) : Bool :=
  decide (i ≠ 0x1040) && decide (m ≠ 0) && (List.range 16).any fun e =>
    let w := s.nat (K.dictLock e)
    lockHeld w && decide (lockOwner w ≠ m) && decide (lockFirst w ≤ i) && decide (i ≤ lockLast w)

/-- A write to a lock entry held by another master is denied, Strongroom exempt (R393). -/
def lockEntryDenied (s : State) (m i sub : Nat) : Bool :=
  decide (i = 0x1040) && decide (1 ≤ sub) && decide (m ≠ 0) && (let w := s.nat (K.dictLock (sub - 1))
    lockHeld w && decide (lockOwner w ≠ m))

/-- The range of a lock write overlaps a held entry's range, or runs backward (R393). -/
def lockInvalid (s : State) (sub v : Nat) : Bool :=
  decide (2 ^ 38 ≤ v) || lockHeld v && (decide (lockLast v < lockFirst v) || (List.range 16).any fun e =>
    let w := s.nat (K.dictLock e)
    decide (e + 1 ≠ sub) && lockHeld w && decide (lockFirst v ≤ lockLast w) && decide (lockFirst w ≤ lockLast v))

/-- The domains a domain requires (R459); the Cellar group is named by its three members. -/
def domainRequires (d : Nat) : List Nat :=
  if d = 0 then []
  else if d < 4 ∨ d = 14 ∨ d = 17 ∨ d = 19 then [0]
  else if d < 10 then [14, 21, 22, 23]
  else if d < 14 ∨ d = 15 ∨ d = 16 then [14]
  else if d = 18 ∨ d = 33 then [14, 21, 22, 23]
  else if d = 20 then [18, 19]
  else if d < 24 then [14]
  else if d = 24 then [16]
  else if d < 33 then [33]
  else if d < 36 then [14]
  else
    let a := (d - 36) / 8
    match (d - 36) % 8 with
    | 0 => [38 + 8 * a]
    | 1 => [39 + 8 * a]
    | 2 => [41 + 8 * a]
    | 3 => [41 + 8 * a]
    | 4 => [14]
    | _ => [40 + 8 * a]

/-- Domains that may enter retention (R460). -/
def mayRetain (d : Nat) : Bool := (4 ≤ d && d ≤ 7) || (10 ≤ d && d ≤ 16) || (21 ≤ d && d ≤ 23)

/-- The state a mode places a domain in: 1 off, 4 retention, none where it keeps the requested state (R461). -/
def modeSet (s : State) (d : Nat) : Option Nat :=
  let mode := s.nat K.pmMode
  let k := (d - 36) % 8
  let slotB := decide (36 ≤ d) && (k == 1 || k == 3)
  let slotA := decide (36 ≤ d) && (k == 0 || k == 2)
  let medium := slotA || slotB
  if (mode = 5 ∨ s.power.trip.isSome) ∧ (medium || d == 34 || (25 ≤ d && d ≤ 33) || (s.power.trip.isSome && 5 ≤ d && d ≤ 7)) = true then some 1
  else if mode = 2 then (if slotB then some 1 else none)
  else if mode = 3 then (if medium || d == 34 || (decide (36 ≤ d) && k == 7) then some 1 else none)
  else if mode = 4 then
    if d == 4 || (10 ≤ d && d ≤ 14) || d == 16 || (21 ≤ d && d ≤ 23) then some 4
    else if d ≤ 3 || d == 18 then none
    else if s.nat K.hostHostTransport = 0 then (if d == 17 then none else some 1)
    else (if d == 19 || d == 20 then none else some 1)
  else none

/-- A domain request is refused with "invalid value" (R460). -/
def domainInvalid (s : State) (d v : Nat) : Bool :=
  domainAbsent s.variant d && decide (v ≠ 0)
    || (v == 1 && (domainRequires d).any fun x => !(s.nat (K.pmDomainState x) == 3 || s.nat (K.pmDomainState x) == 4))
    || (v == 2 && !mayRetain d)
    || (v == 0 && (21 ≤ d && d ≤ 23) && decide (s.nat K.pmMode ≠ 0))

/-- A domain request is refused with "block active" (R460). -/
def domainActive (s : State) (d v : Nat) : Bool :=
  (v == 0 && (List.range 52).any fun x => (domainRequires x).contains d && decide (1 < s.nat (K.pmDomainState x)))
    || (match modeSet s d with
      | some 1 => v == 1 || v == 2
      | some _ => v == 1
      | none => false)

/-- A submission queue exists. -/
def State.sqExists (s : State) (q : Nat) : Bool := (Sp.get s.host.sqs q).isSome
/-- A checker of R343 has failed its self-test in this Boot. -/
def State.eccFailed (s : State) (b : Nat) : Bool := (Sp.get s.memory.failedChk b).isSome

/-- "block active" by a rule of the object beyond its HALT class. -/
def ruleActive (s : State) (k : Key) (v : Word) : Bool :=
  let i := k / 256
  let sub := k % 256
  let n := v.toNat
  if i = 0x3701 ∨ i = 0x3F01 then
    -- R106: the bit of a pair in twin operation
    sub == 3 && (let a := actOfIndex i
      twinOn s a && bitAt n (s.nat (K.actTwinPair a)) != s.bit (K.actMapValid a) (s.nat (K.actTwinPair a)))
  else if (i = 0x4000 ∨ i = 0x4800) ∧ sub = 5 then
    -- R136
    let a := actOfIndex i
    n == 1 && (!(slotsOf a).all (slotQuiet s) || s.nat (K.lnkLinkState a) == 1)
  else if k = K.hostOrderedMask then
    -- R285: the bit of a queue that exists
    (List.range 16).any fun b => bitAt n b != s.bit K.hostOrderedMask b && s.sqExists (17 + b)
  else if 0x8010 ≤ i ∧ i ≤ 0x8017 ∧ sub = 8 then
    let e := i - 0x8010
    -- R378: idle and clear in host_engine_mask; R343: the Sieve checker
    n == 1 && (s.nat (K.engEngineState e) != 1 || s.bit K.sivHostEngineMask e || s.eccFailed 12)
  else if i = 0xB100 ∧ 1 ≤ sub then domainActive s (sub - 1) n
  else false

/-- A class field of an event configuration word the framework does not take (R430, R437). -/
def eventCfgInvalid (e n : Nat) : Bool :=
  decide (15 < n) || decide (4 < n % 8) || (n % 8 == 3 && !hasUnit e) || (e == 485 && decide (n % 8 ≠ 4))

/-- Data bits of a region of a ring (R154): D, with T_w and T_s held over common denominators. -/
def regionBits (w cellMhzC pre post rpm mbps : Nat) : Nat :=
  -- D = floor((60e9/(rpm W) - 27e6/cell - pre - post) * mbps / 1000)
  let den := rpm * w * cellMhzC
  let num : Int := (60000000000 * cellMhzC : Nat) - (27000000 * rpm * w : Nat) - ((pre + post) * den : Nat)
  if den = 0 ∨ num < 0 then 0 else num.toNat * mbps / (1000 * den)

/-- Codeword length of a code rate (R152). -/
def codeLength (r : Nat) : Nat := if r = 0 then 38784 else if r = 1 then 37888 else if r = 2 then 37056 else 36224

/-- D of a ring format word under the configuration in force (R154). -/
def ringD (s : State) (a word : Nat) : Nat :=
  regionBits (s.cfg K.sunWedgesPerRev) (s.cfg (K.actServoCellMhzC a)) (s.cfg (K.ringGuardPreNs a))
    (s.cfg (K.ringGuardPostNs a)) (s.cfg (K.ringFormatRpm a)) (bitsOf word 0 13)

/-- S_max of a ring format word (R155). -/
def ringSMax (s : State) (a word : Nat) : Nat :=
  s.cfg K.sunWedgesPerRev * (ringD s a word - 288) / (codeLength (bitsOf word 13 2) + 240)

/-- A ring format write is refused (R155). -/
def ringInvalid (s : State) (a n : Nat) : Bool :=
  let mbps := bitsOf n 0 13
  let adc := bitsOf n 35 13
  let spt := bitsOf n 16 10
  bitAt n 15 || decide (2 ^ 48 ≤ n) || spt == 0 || decide (ringSMax s a n < spt) || decide (ringD s a n < 10000)
    || decide (adc < mbps) || decide (4400 < adc) || decide (5 * mbps < 4 * adc)
    || decide (mbps < 1000) || decide (4400 < mbps) || decide (s.cfg K.sunWedgesPerRev ≤ bitsOf n 26 9)
    || decide (s.nat K.spinTargetRpm ≠ s.nat (K.ringFormatRpm a))

/-- A retry profile has a reserved encoding or a field outside its range (spec/08 R192; spec/00 R14). -/
def profileInvalid (n : Nat) : Bool :=
  let w := bitsOf n 17 5
  decide (20 < bitsOf n 8 5) || decide (12 < bitsOf n 22 4) || (w != 0 && (decide (w < 4) || decide (24 < w)))

/-- "invalid value" by a rule of the object beyond its row's check. -/
def ruleInvalid (s : State) (m : Nat) (k : Key) (v : Word) : Bool :=
  let i := k / 256
  let sub := k % 256
  let n := v.toNat
  let b := baseIndex i
  let a := actOfIndex i
  if i = 0x1040 then lockInvalid s sub n
  else if b = 0x1060 ∧ sub = 4 then n == 1 && s.nat (K.portFrameState (i - 0x1060)) == 1
  else if k = K.sunLockErrorPs then decide (s.nat K.sunLossErrorPs < n)
  else if k = K.sunLossErrorPs then decide (n < s.nat K.sunLockErrorPs)
  else if 0x2840 ≤ i ∧ i ≤ 0x287F then decide (2 ^ 52 ≤ n) || bitsOf n 42 3 == 7
  else if k = K.spinSpinEnable then
    n == 1 && (s.nat K.spinRsMohm == 0 || s.nat K.spinLsUh == 0 || s.nat K.spinKeMvKrpm == 0)
  else if k = K.spinHandoverMaxRpm then decide (n < s.nat K.spinHandoverRpm + 100)
  else if k = K.spinHandoverRpm then decide (s.nat K.spinHandoverMaxRpm < n + 100)
  else if b = 0x3101 ∧ sub = 3 then decide (s.nat (K.actWiThresholdPm a) < n)
  else if b = 0x3700 ∧ sub = 1 then n == 1 && !hasSlot s.variant (2 * a + 1)
  else if b = 0x3700 ∧ sub = 7 then decide (s.nat (K.actStrokeLimitNm a) < n)
  else if b = 0x4000 ∧ sub = 7 then n == 1 && s.flag (K.lnkLinkDegraded a) && !(s.link a).nopSince
  else if b = 0x4001 ∧ sub = 2 then decide (s.nat (K.lnkPrebiasLeadCounts a) < n)
  else if b = 0x4001 ∧ sub = 1 then decide (n < s.nat (K.lnkPrebiasMinCounts a))
  else if b = 0x5080 ∧ 1 ≤ sub then ringInvalid s a n
  else if b = 0x5081 ∧ 1 ≤ sub then decide (20 < bitsOf n 10 5) || decide (300 < bitsOf n 18 9)
  else if b = 0x50A0 ∧ 1 ≤ sub then decide (bitsOf n 40 3 < 3) || decide (5 < bitsOf n 40 3)
  else if b = 0x5103 ∧ 1 ≤ sub then profileInvalid n
  else ruleInvalid2 s m i sub b n
where
  /-- The rules of spec/10 to spec/20. -/
  ruleInvalid2 (s : State) (m i sub b n : Nat) : Bool :=
    let k := i * 256 + sub
    if 0x5100 ≤ i ∧ i < 0x6000 ∧ (i - 0x5100) % 0x400 = 0 then
      let q := (i - 0x5100) / 0x400
      (sub == 3 && decide (s.nat (K.slotSyncMinMatch q) < n)) || (sub == 2 && decide (n < s.nat (K.slotSyncCandMin q)))
    else if 0xC000 ≤ i ∧ i < 0xC700 then trlInvalid s i sub n
    else if 0x6000 ≤ i ∧ i < 0x7000 then linkInvalid s k n
    else if 0x7000 ≤ i ∧ i < 0x8000 then memInvalid s i sub k n
    else if 0x9000 ≤ i ∧ i < 0xA000 then strongInvalid s k n
    else if 0xA000 ≤ i ∧ i < 0xB000 then eventInvalid s i sub k n
    else if 0xB000 ≤ i ∧ i < 0xC000 then powerInvalid s i sub k n
    else k == K.injInjectGo && n == 1 && (let e := s.nat K.injInjectEvent; !eventDefined e || eventAbsent s.variant e)
  /-- spec/10 R229, R241: run in OFF, LOAD and FAULT; the customer's queues. -/
  trlInvalid (s : State) (i sub n : Nat) : Bool :=
    let at0 := i % 256
    (at0 == 0 && sub == 2 && (let st := s.nat (i * 256 + 1); st == 0 || st == 1 || st == 5))
      || (at0 == 2 && sub == 4 && decide (512 < n + s.nat (i * 256 + 5)))
      || (at0 == 2 && sub == 5 && decide (512 < n + s.nat (i * 256 + 4)))
  /-- spec/11 R251, R254, R271; spec/12 R274, R275; spec/13 R305, R315, R316. -/
  linkInvalid (s : State) (k n : Nat) : Bool :=
    (k == K.zoneZoneHwEnable && n == 1 && s.nat K.zoneFormatState != 2)
      || (k == K.zoneMaxActive && decide (n < s.nat K.zoneMaxOpen))
      || (decide (K.zoneAllocRequest 0 ≤ k) && decide (k ≤ K.zoneAllocRequest 3) && (decide (2 ^ 54 ≤ n)
        || (!bitAt n 53 && (bitsOf n 18 17 == 0 || decide (65536 < bitsOf n 18 17)))))
      || (k == K.hostHostTransport && n == 1 && !hasEth s.variant)
      || (k == K.hostLinkEnable && n == 1 && s.nat K.srSrState != 4)
      || (k == K.sheafReleaseSeq && (decide (n < s.nat K.sheafReleaseSeq) || decide (s.nat K.sheafCommitSeq < n)))
      || (k == K.sheafFlushNow && !s.flag K.sheafPwcArmed)
      || (k == K.sheafRecoverLoad && (s.nat K.sheafRecoverState == 1 || s.flag K.sheafPwcArmed))
  /-- spec/14 R343, R344; spec/15 R350, R356. -/
  memInvalid (s : State) (i sub k n : Nat) : Bool :=
    (k == K.memCacheEnable && n == 1 && s.flag K.memLlcDegraded)
      || (k == K.memScratchWays && n != 0 && s.flag K.memLlcDegraded)
      || (k == K.memTrackerSelect && (n &&& 0x73F) != n)
      || (decide (0x7800 ≤ i) && decide (i < 0x7A00) && (let q := i - 0x7800
          (sub == 2 && decide (8192 < n + (s.dict.foldl (fun t e =>
              if 0x7800 ≤ e.1 / 256 ∧ e.1 / 256 < 0x7A00 ∧ e.1 % 256 = 2 ∧ e.1 ≠ k then t + e.2.toNat else t) 0)))
            || (sub == 3 && n != 0 && (decide (n ≤ s.nat (K.panLowMark q)) || decide (s.nat (K.panDepthMax q) < n)))
            || (sub == 4 && n != 0 && decide (s.nat (K.panHighMark q) ≤ n))))
  /-- spec/18 R408, R410, R411, R424. -/
  strongInvalid (s : State) (k n : Nat) : Bool :=
    (k == K.srRollbackAdvance && s.strong.running != s.strong.confirmed)
      || (k == K.srMeasGo && s.nat K.srMeasState == 1)
      || (k == K.srSealRequest && (s.strong.sealed || s.strong.sealWait.isSome))
      || (k == K.srLedgerOffset && !([0, 1024, 2048, 3072] : List Nat).contains n)
  /-- spec/19 R430, R437, R441, R445. -/
  eventInvalid (s : State) (i sub k n : Nat) : Bool :=
    (decide (0xA200 ≤ i) && decide (i < 0xA204) && sub != 0 && eventCfgInvalid ((i - 0xA200) * 128 + (sub - 1)) n)
      || (decide (0xA040 ≤ i) && decide (i < 0xA043) && sub == 5 && (let p := s.ev.part (i - 0xA040)
          decide (p.recs.length < (n + 2 ^ 24 - p.oldest) % 2 ^ 24)))
      || (k == K.fwrFwCode && decide (n < 0x8000)) || (k == K.fwrFwPartition && n == 1)
      || (k == K.fwrFwWrite && (decide (s.nat K.fwrFwCode < 0x8000) || s.nat K.fwrFwPartition == 1))
  /-- spec/20 R456, R460, R475. -/
  powerInvalid (s : State) (i sub k n : Nat) : Bool :=
    (k == K.pmSafeRestart && s.nat K.pmMode != 5)
      || (k == K.pmUnloadedRpm && n != 0 && (decide (n < 5400) || decide (s.nat K.spinTargetRpm < n)))
      || (k == K.pmWarnC && decide (s.int K.pmThrottleC - 5 < (n : Int)))
      || (i == 0xB100 && sub != 0 && domainInvalid s (sub - 1) n)

/-- The object that an index reaches exists now (R380): 0xF000-0xFFFF only in factory test mode. -/
def objNow (s : State) (i sub : Nat) : Option ObjRow :=
  if 0xF000 ≤ i ∧ s.flag K.idnFactoryMode = false then none else objRow i sub

/-- The status of a write of v by master m, before any other write of the cycle is compared (R385, R391). `tyOk`: a
frame's type code and length are the object's. -/
def writeStatus (s : State) (m i sub : Nat) (v : Word) (tyOk : Bool) : DStatus :=
  if unitAbsent s.variant i then (if (objNow s i sub).isSome then .objectAbsent else .noObject)
  else
    let i' := aliasIndex i
    match objNow s i' sub with
    | none => .noObject
    | some r =>
      let k := i' * 256 + sub
      if r.acc = .ro ∨ bitAt (objMask r i' sub) m = false ∨ lockedOut s m i' = true ∨ lockEntryDenied s m i' sub = true then
        .accessDenied
      else if tyOk = false then .typeMismatch
      else if r.apply = .staged then .stagedOnly
      else if (match r.apply with | .halt o => ownerRuns s o i' | _ => false) || ruleActive s k v then .blockActive
      else if chkOk r v && !ruleInvalid s m k v then .ok
      else .invalidValue

/-- Records the status of a master's access in dict_last_status (R389). -/
def recordStatus (s : State) (m i sub : Nat) (d : DStatus) : State :=
  s.setN (K.dictDictLastStatus m) (d.code + (i * 256 + sub) * 256)

/-- A denied access counts as a violation of its master (R392). -/
def violation (s : State) (m : Nat) : State := s.inc (K.dictViolationCount m)

/-- An accepted value is stored in the cycle of the write; an EDGE object's value in force waits for its boundary, but for
EDGE (revolution) while Sundial is INVALID (R390). -/
def storeObj (s : State) (r : ObjRow) (k : Key) (v : Word) : State :=
  match r.apply with
  | .edge b =>
    if b = .revolution ∧ s.nat K.sunState = 0 then { s.set k (r.ty.word v) with edge := Sp.del s.edge k }
    else
      let t := s.set k (r.ty.word v)
      { t with edge := Sp.put s.edge k (s.inForce k) }
  | _ => s.set k (r.ty.word v)

/-- What an accepted write stores before its action: the value of an RW object (the high words that a status object does not use ignore
theirs, R428); a W1C object loses the bits written 1; a
write to a W1S or WO object stores nothing (R382). -/
def acceptStore (s : State) (r : ObjRow) (k : Key) (v : Word) : State := match r.acc with
  | .rw => if 0xA020 ≤ k / 256 ∧ k / 256 ≤ 0xA033 ∧ noHighWord (k / 256 - 0xA020) (k % 256) = true then s else storeObj s r k v
  | .w1c => s.set k (s.obj k &&& ~~~ v)
  | _ => s

/-- Drops the held word of a master, and every other master's held word for an object that was written (R387). -/
def dropHeld (s : State) (m : Nat) (k : Key) (written : Bool) : State :=
  { s with held := Vector.ofFn fun (j : Fin 17) => match at' s.held j none with
      | none => none
      | some h => if j.val = m ∨ (written = true ∧ h.1 = k) then none else some h }

/-- A write whose status is known: the store and the action where it is ok, the violation count where it is denied.
`eff` is the owner's action; a W1S or W1C write of 0 has none (R382). -/
def finishWrite (s : State) (m i sub : Nat) (v : Word) (d : DStatus) (eff : State → State) : State :=
  let i' := aliasIndex i
  let k := i' * 256 + sub
  let t := recordStatus (dropHeld s m k (decide (d = .ok))) m i sub d
  match d with
  | .ok => match objNow s i' sub with
    | none => t
    | some r => if (r.acc = .w1s ∨ r.acc = .w1c) ∧ v = 0 then t else eff (acceptStore t r k v)
  | .accessDenied => violation t m
  | _ => t

/-- A write of one object by one master with its owner's action (R382-R392). -/
def dwrite (s : State) (m i sub : Nat) (v : Word) (eff : State → State) : State :=
  finishWrite s m i sub v (writeStatus s m i sub v true) eff

/-- A write of the object of a key. -/
def kwrite (s : State) (m : Nat) (k : Key) (v : Word) (eff : State → State) : State :=
  dwrite s m (k / 256) (k % 256) v eff

/-- The write of the object of a key is accepted. -/
def accepts (s : State) (m : Nat) (k : Key) (v : Word) : Bool :=
  decide (writeStatus s m (k / 256) (k % 256) v true = .ok)

end Sys2Proof.Machine
end

