-- ==== Sys2Proof/Machine/Frame.lean ====
section
/-! DEFINITION. Where sectors lie and what they are made of: the regions of a track and the angles in them (spec/07 R154, R156), the
running channel rate (R157), the metadata, CRC, scrambler and codeword of a sector and its channel bits (spec/08 R172-R176). -/

namespace Sys2Proof.Machine

/-! ### Places and angles (spec/07 R154, R156) -/

/-- The nearest integer of a quotient, halves up: the round of R154, R156 and R153. -/
def nearest (num den : Nat) : Nat := (2 * num + den) / (2 * (if den = 0 then 1 else den))

/-- Where sector k of a track lies in its regions (R156): region from the track's first, and bit in the region. -/
def sectorPlace (d n : Nat) (k : Nat) : Nat × Nat :=
  match k with
  | 0 => (0, 0)
  | j + 1 =>
    let (r, pos) := sectorPlace d n j
    let (r, pos) := if d < pos + 192 then (r + 1, 0) else (r, pos)
    placeEnd d 8 r pos (n + 240)
where
  /-- The end of a sector with `left` bits to place; the fuel bounds the regions it crosses. -/
  placeEnd (d fuel r pos left : Nat) : Nat × Nat :=
    match fuel with
    | 0 => (r, pos)
    | f + 1 => if left ≤ d - pos then (r, pos + left) else placeEnd d f (r + 1) 96 (left - (d - pos))

/-- First bit times after the resync fields of a sector, at most four (R156, R167). -/
def resyncBits (d n pos : Nat) : List Nat :=
  (List.range 4).filterMap fun j =>
    let before := (d - pos) + j * (d - 96)
    if before < n + 240 then some (before + 96 * (j + 1)) else none

/-- Where sector k begins: no room for preamble and sync mark leaves the rest of a region as fill (R156). -/
def sectorStart (d n k : Nat) : Nat × Nat :=
  let (r, pos) := sectorPlace d n k
  if d < pos + 192 then (r + 1, 0) else (r, pos)

/-- The fraction at which region r of a head begins (R154). -/
def regionStart (s : State) (a h r : Nat) : Nat :=
  let cell := s.cfg (K.actServoCellMhzC a)
  let lead := nearest ((27000000 + s.cfg (K.ringGuardPostNs a) * cell) * revCounts * s.cfg (K.ringFormatRpm a)) (cell * 60000000000)
  let x : Int := (r * revCounts / s.cfg K.sunWedgesPerRev + lead : Nat) + s.cfgI (K.sunHeadSkew a h)
  (x % (revCounts : Int)).toNat

/-- Counts from a region's start to its bit i, of B_rev channel bits per revolution (R156). -/
def bitCounts (s : State) (a fmt i : Nat) : Nat :=
  nearest (i * revCounts * s.cfg (K.ringFormatRpm a)) (bitsOf fmt 0 13 * 60000000)

/-- The region, counted modulo W, and bit at which sector k of data track t begins (R156). -/
def trackPlace (s : State) (a fmt t k : Nat) : Nat × Nat :=
  let w := s.cfg K.sunWedgesPerRev
  let (r, pos) := sectorStart (ringD s a fmt) (codeLength (bitsOf fmt 13 2)) k
  ((t * bitsOf fmt 26 9 + r) % (if w = 0 then 1 else w), pos)

/-- The fraction at which sector k of data track t of a head begins: where its gate opens (R156). -/
def sectorAngle (s : State) (a h fmt t k : Nat) : Nat :=
  let (r, pos) := trackPlace s a fmt t k
  (regionStart s a h r + bitCounts s a fmt pos) % revCounts

/-- The stamp of the pass of a fraction nearest to now. -/
def stampAt (s : State) (frac : Nat) : Nat := ((s.stamp : Int) + fracDiff frac s.sun.frac.toNat).toNat

/-- A rate of the ring format in kb/s or kS/s at the running speed: scaled by format period over measured period (R157). -/
def scaledRate (s : State) (a mega : Nat) : Nat :=
  (rnd (mega * 1000 * 60000000000) (s.cfg (K.ringFormatRpm a) * periodNs s)).toNat

/-! ### Metadata (spec/08 R174) -/

/-- Derived metadata bytes 0-31 (spec/08 R174). -/
def metaBytes (tag kind head a sector track zone range generation : Nat) (crcParity : List Byte) : List Byte :=
  leBytes 8 tag ++ leBytes 1 kind ++ leBytes 1 (head + 16 * a) ++ leBytes 2 sector ++ leBytes 4 track ++ leBytes 4 zone
    ++ leBytes 1 range ++ leBytes 1 generation ++ leBytes 2 0 ++ crcParity ++ leBytes 4 0

/-! ### Bits (spec/08 R172, R173) -/

/-- Bits of bytes, every byte most significant bit first (R173). -/
def bitsOfBytes (l : List Byte) : List Bool := l.flatMap fun b => (List.range 8).map fun i => b.getLsbD (7 - i)

/-- Bytes of bits, most significant bit first; a last group of fewer than eight bits is no byte. -/
def bytesOfBits (l : List Bool) : List Byte :=
  match l with
  | b7 :: b6 :: b5 :: b4 :: b3 :: b2 :: b1 :: b0 :: r =>
    BitVec.ofNat 8 ([b7, b6, b5, b4, b3, b2, b1, b0].foldl (fun n b => 2 * n + b2n b) 0) :: bytesOfBits r
  | _ => []

/-- The 32 bits of a mark, bit 31 first (R172). -/
def markBits (w : Nat) : List Bool := (List.range 32).map fun i => bitAt w (31 - i)

/-- The 2T pattern 0b1100, n times (R172). -/
def twoT (n : Nat) : List Bool := (List.replicate n [true, true, false, false]).flatten

/-- Bits XORed with the scrambler from a state on (R173): x^31 + x^28 + 1, one step per bit; the bit put out is the state's oldest
(DEDUCED, log 39). The same function descrambles. -/
def scramble (st : BitVec 31) (l : List Bool) : List Bool :=
  match l with
  | [] => []
  | b :: r => (b ^^ st.getLsbD 30) :: scramble ((st <<< 1) ||| (if st.getLsbD 30 ^^ st.getLsbD 27 then 1 else 0)) r

/-- Information bits of a codeword: user data, metadata, CRC, scrambled from the all-ones state (R173). -/
def infoBits (bytes : List Byte) : List Bool := scramble (BitVec.allOnes 31) (bitsOfBytes bytes)

/-- The codeword of a sector's bytes at a code rate: information bits, then the parity that the code table gives them (R173, R176). -/
def codeword (rate : Nat) (bytes : List Byte) : List Bool :=
  let info := infoBits bytes
  info ++ (List.range (codeLength rate - 33312)).map fun i => Config.ldpcParity rate info i

/-- Pieces of a sector's bits, a resync field before each but the first (R156, R172). -/
def withResync (resync : List Bool) (rest fuel : Nat) (l : List Bool) : List Bool :=
  match fuel with
  | 0 => l
  | f + 1 => if l.length ≤ rest then l else l.take rest ++ resync ++ withResync resync rest f (l.drop rest)

/-- The channel bits of a sector placed at a bit of its region (R156, R172). -/
def sectorFrame (s : State) (a fmt sector : Nat) (bytes : List Byte) : List Bool :=
  let d := ringD s a fmt
  let rate := bitsOf fmt 13 2
  let pos := (sectorStart d (codeLength rate) sector).2
  let resync := twoT 16 ++ markBits (s.cfg K.detResyncPattern)
  let l := twoT 40 ++ markBits (s.cfg K.detSyncPattern) ++ codeword rate bytes ++ twoT 12
  if l.length ≤ d - pos then l
  else l.take (d - pos) ++ resync ++ withResync resync (d - 96) 4 (l.drop (d - pos))

end Sys2Proof.Machine
end

