-- ==== Sys2Proof/Machine/FrontEnd.lean ====
section
/-! DEFINITION. The channel's arithmetic: the settings of the front end (spec/07 R149-R153, R157; spec/08 R192), the samples, the joint
equaliser and its LMS (R158-R160, R166), sync and resync marks (spec/08 R177, R178), detection and decoding (R179-R184). -/

namespace Sys2Proof.Machine

/-! ### Settings -/

/-- sync_window_bits of a slot (spec/08 R192). -/
def syncWindow (s : State) (q : Nat) : Nat :=
  let w := bitsOf (profileWord s q) 17 5
  if w = 0 then s.cfg (K.slotSyncWindowBits q) else w

/-- line_iter_max of a slot (spec/08 R192). -/
def lineIterMax (s : State) (q : Nat) : Nat :=
  let w := bitsOf (profileWord s q) 22 4
  if w = 0 then s.cfg (K.slotLineIterMax q) else w

/-- A cap of the line decoder under the thermal throttle (spec/08 R180, R183, R184). -/
def lineCap (s : State) (n : Nat) : Nat := min n (s.cfg K.detIterCapThermal)

/-- The coefficients of an equalisation target in 1/32 (R153). -/
def targetOf (s : State) (a i : Nat) : List Int :=
  let w := s.cfg (K.ringEqTarget a i)
  (List.range (bitsOf w 40 3)).map fun k => sgn 8 (bitsOf w (8 * k) 8)

/-- The data settings of a slot for its ring (R153, R157; spec/08 R192): the cutoff to 10 MHz within 200 to 2,400. -/
def dataFront (s : State) (q : Nat) : Front :=
  let a := q / 2
  let c := s.ch q
  let w := profileWord s q
  let kbps := scaledRate s a (bitsOf c.ringFmt 0 13)
  let pm := ((bitsOf c.ringFe 0 10 : Nat) + sgn 8 (bitsOf w 0 8)).toNat
  { reader := readerUse s q, kbps := kbps, adcKsps := scaledRate s a (bitsOf c.ringFmt 35 13),
    cutoffMhz := min 2400 (max 200 (10 * nearest (pm * kbps) 10000000)),
    boostDb := if bitAt w 13 then bitsOf w 8 5 else bitsOf c.ringFe 10 5,
    target := targetOf s a (bitsOf c.ringFe 15 3),
    gain0 := s.nat (K.slotVgaDbR0 q), gain1 := s.nat (K.slotVgaDbR1 q) }

/-- The settings of a slot while its servo gate is open (R150): one reader, its gain, its filter with no boost. -/
def servoFront (s : State) (q : Nat) : Front :=
  let g := s.cfg (K.slotServoGainDb q)
  { (s.ch q).front with reader := s.cfg (K.slotServoReader q) + 1, cutoffMhz := s.cfg (K.slotServoCutoffMhz q), boostDb := 0, gain0 := g, gain1 := g }

/-! ### Samples (R149, R158, R166) -/

/-- The asymmetry correction of an ADC sample: x + asym × x² / 64, asym in Q1.14 (R149). -/
def asymCorrect (asym x : Int) : Int := x + rnd (asym * x * x) (64 * 16384)

/-- What the interpolator works under (R157, R158, R165): its rates, its start, the timing loop's gains and range, the offset, and the
intervals in which the frequency is held. -/
def interpParams (s : State) (q : Nat) (offset : Int) (held : List (Nat × Nat)) : List Int :=
  let f := (s.ch q).front
  [(f.kbps : Int), f.adcKsps, (s.ch q).timingStart, s.cfg (K.slotTimingAcqKp q), s.cfg (K.slotTimingAcqKi q), s.cfg (K.slotTimingTrkKp q),
   s.cfg (K.slotTimingTrkKi q), s.cfg (K.slotAcqBits q), s.cfg (K.slotTimingRangePpm q), offset] ++ held.flatMap fun w => [(w.1 : Int), w.2]

/-- The interpolated samples of both readers by bit time, on the ADC's scale; a reader not in use gives 0 (R158, R166). -/
def bitSamples (s : State) (q bits : Nat) (held : List (Nat × Nat)) (adc : List (BitVec 7 × BitVec 7)) : List (Int × Int) :=
  let use := (s.ch q).front.reader
  let x0 := adc.map fun x => asymCorrect (s.int (K.slotAsymR0 q)) x.1.toInt
  let x1 := adc.map fun x => asymCorrect (s.int (K.slotAsymR1 q)) x.2.toInt
  let p0 := interpParams s q (s.int (K.slotOffsetR0 q)) held
  let p1 := interpParams s q (s.int (K.slotOffsetR1 q)) held
  (List.range bits).map fun i =>
    (if use = 2 then 0 else clamp (-64) 63 (Config.interpolated p0 x0 i), if use = 1 then 0 else clamp (-64) 63 (Config.interpolated p1 x1 i))

/-- The sample area of an entry: 12 bits a bit time, reader 0 low, each sample halved toward zero (R166). -/
def sampleBytes (l : List (Int × Int)) : List Byte :=
  let six (x : Int) : Nat := ((x.tdiv 2) % 64).toNat
  leBytes ((12 * l.length + 7) / 8) (l.foldr (fun p n => six p.1 + six p.2 * 64 + n * 4096) 0)

/-- The samples of an entry's bit times as its sample area holds them, on the ADC's scale (R166). -/
def storedSamples (s : State) (q e bits : Nat) : List (Int × Int) :=
  let n := leNat (s.load (entryAddr q e + 64) ((12 * bits + 7) / 8))
  (List.range bits).map fun i => (2 * sgn 6 (bitsOf n (12 * i) 6), 2 * sgn 6 (bitsOf n (12 * i + 6) 6))

/-! ### The joint equaliser (R159, R160) -/

/-- The equaliser as it runs: the taps of both readers in 1/8,192, the samples of both readers, the equalised samples in 1/8,192 ADC step
and the tentative decisions, each newest first. -/
structure Equaliser where
  taps : List Int
  x0 : List Int := []
  x1 : List Int := []
  ys : List Int := []
  ds : List Bool := []
deriving DecidableEq, Repr

/-- What the equaliser works under: the target in 1/32, the target amplitude in ADC steps, the LMS shift, the readers in use, and the bit
times at which the LMS adapts. -/
structure EqSettings where
  target : List Int
  amp : Nat
  shift : Nat
  reader : Nat
  adapts : Nat → Bool

/-- The sum of a reader's 16 taps times its samples (R159). -/
def firSum (taps xs : List Int) : Int := (List.zipWith (· * ·) (taps.take 16) xs).foldl (· + ·) 0

/-- The error of the bit eight before the newest: the target convolved with the decisions less y, in 1/8,192 ADC step; a target of 1 is
agc_target (R160; the scale is DEDUCED, log 12). -/
def eqError (e : EqSettings) (z : Equaliser) : Int :=
  let conv := (List.zipWith (fun (g : Int) (d : Bool) => if d then g else -g) e.target z.ds).foldl (· + ·) 0
  conv * e.amp * 256 - (z.ys.drop 8).headD 0

/-- The LMS update of the taps: c + 2^-shift × e × x_j delayed by i bits, the anchor and an unused reader's taps kept (R159, R160). -/
def lmsStep (e : EqSettings) (z : Equaliser) : List Int :=
  let err := eqError e z
  (List.range 32).map fun i =>
    let c := z.taps.getD i 0
    let x := ((if i < 16 then z.x0 else z.x1).drop (8 + i % 16)).headD 0
    if tapAdapts e.reader i then clamp (-32768) 32767 (c + rnd (err * x) (2 ^ e.shift)) else c

/-- One bit time: the sample pair joins the delay lines, y is formed, the decision for the bit eight before it is made, and the LMS adapts by
that bit's error (R159, R160). -/
def eqBit (e : EqSettings) (z : Equaliser) (x : Int × Int) : Equaliser :=
  let n := z.ys.length
  let z := { z with x0 := x.1 :: z.x0, x1 := x.2 :: z.x1 }
  let y := (if e.reader = 2 then 0 else firSum z.taps z.x0) + (if e.reader = 1 then 0 else firSum (z.taps.drop 16) z.x1)
  let z := { z with ys := y :: z.ys }
  if n < 8 then z
  else
    let z := { z with ds := Config.slice e.target z.ys :: z.ds }
    if e.adapts (n - 8) then { z with taps := lmsStep e z } else z

/-- The equaliser over the samples of a sector. -/
def equalise (e : EqSettings) (taps : List Int) (l : List (Int × Int)) : Equaliser := l.foldl (eqBit e) { taps := taps }

/-! ### Marks (spec/08 R177, R178) -/

/-- Decisions at bit times p to p + 31 that agree with a mark (R177). -/
def markScore (ds mark : List Bool) (p : Nat) : Nat :=
  (List.range 32).foldl (fun n i => if ds[p + i]? = mark[i]? ∧ (ds[p + i]?).isSome = true then n + 1 else n) 0

/-- The positions within a window of a predicted one, in time order; none lies before the gate opening. -/
def markWindow (pred w : Nat) : List Nat := (List.range (2 * w + 1)).filterMap fun i => if w ≤ pred + i then some (pred + i - w) else none

/-- The first position of a window that scores at least a minimum (R177, R178). -/
def findMark (ds mark : List Bool) (pred w least : Nat) : Option Nat :=
  (markWindow pred w).find? fun p => decide (least ≤ markScore ds mark p)

/-- Inserts a candidate in order of score, the earlier position first on equal ones. -/
def insertCand (x : Nat × Nat) (l : List (Nat × Nat)) : List (Nat × Nat) :=
  match l with
  | [] => [x]
  | y :: r => if y.1 < x.1 then x :: y :: r else y :: insertCand x r

/-- The candidate list: positions other than the declared one that score at least sync_cand_min, ranked (R177). -/
def candidates (ds mark : List Bool) (pred w least most : Nat) (declared : Option Nat) : List Nat :=
  (((markWindow pred w).filter fun p => declared != some p && decide (least ≤ markScore ds mark p)).foldl
    (fun l p => insertCand (markScore ds mark p, p) l) []).take most |>.map (·.2)

/-- The alignments of R183 in order, each as position, candidate rank or 0, and offset from pred or 0: the live one, the candidates, the offsets
within mark_offset_range; none twice. -/
def alignments (pred range : Nat) (declared : Option Nat) (cands : List Nat) : List (Nat × Nat × Int) :=
  let live : Nat × Nat × Int := (declared.getD pred, 0, 0)
  let l := live :: (List.range cands.length).map fun i => (cands.getD i 0, i + 1, 0)
  let offs := ([0, -1, 1, -2, 2, -3, 3] : List Int).filter fun o => decide (o.natAbs ≤ range) && decide (0 ≤ (pred : Int) + o)
  offs.foldl (fun l o =>
    let p := ((pred : Int) + o).toNat
    if l.any fun x => x.1 == p then l else l ++ [(p, 0, o)]) l

/-- The bit times of the N codeword bits under an alignment at p (R177, R178): each resync mark is searched about its prediction; the part
before a resync field has the length that the placement gives it. `firsts`: first bit times after the resync fields as predicted. -/
def codewordTimes (ds resync : List Bool) (firsts : List Nat) (pred n p w least : Nat) : List Nat :=
  let shift : Int := (p : Int) - pred
  let starts := (pred + 32) :: firsts
  -- the real start of each part, and its length
  let begins := (p + 32) :: firsts.map fun f =>
    let at_ := ((f : Int) - 32 + shift).toNat
    (findMark ds resync at_ w least).getD at_ + 32
  let lens := (List.zip starts (firsts.map (· - 96))).map fun x => x.2 - x.1
  let parts := (List.range starts.length).map fun j =>
    let len := (lens[j]?).getD (n - lens.foldl (· + ·) 0)
    (List.range len).map fun i => begins.getD j 0 + i
  parts.flatten.take n

/-! ### Detection and decoding (spec/08 R179-R181) -/

/-- A bit time lies in one of some intervals, given as first bit and length. -/
def inIntervals (l : List (Nat × Nat)) (t : Nat) : Bool := l.any fun x => decide (x.1 ≤ t) && decide (t < x.1 + x.2)

/-- The LLRs of the codeword bits: 6 bits each; a bit in a defect interval is an erasure (R179). -/
def Detection.llrs (d : Detection) (prior : List Int) : List Int :=
  (List.range d.times.length).map fun i =>
    let t := d.times.getD i 0
    if inIntervals d.erased t then 0 else clamp (-32) 31 (Config.detect d.target d.ys d.times prior i)

/-- Parity checks that a word does not satisfy (R176, R180). -/
def unsatisfied (code : Nat) (bits : List Bool) : Nat :=
  (Config.parityChecks code).foldl (fun n row => if row.foldl (fun x i => x ^^ bits.getD i false) false then n + 1 else n) 0

/-- What a decoder run ends with. -/
structure DecodeRun where
  converged : Bool
  iters : Nat
  unsat : Nat
  post : List Int
deriving DecidableEq, Repr

/-- The word that posterior LLRs decide. -/
def hardBits (post : List Int) : List Bool := post.map fun x => decide (x < 0)

/-- A decoder over the channel LLRs of its rounds so far: it stops after the first iteration that satisfies every check, or at its cap (R180,
R189). -/
def decodeRun (sched code : Nat) (rounds : List (List Int)) (fuel done : Nat) : DecodeRun :=
  let post := Config.posterior sched code rounds done
  let un := unsatisfied code (hardBits post)
  if done ≠ 0 ∧ un = 0 then { converged := true, iters := done, unsat := 0, post := post }
  else match fuel with
    | 0 => { converged := false, iters := done, unsat := un, post := post }
    | f + 1 => decodeRun sched code rounds f (done + 1)

/-- A sector's fields in a decoded word: user data, metadata, CRC (R173). -/
structure Sector where
  user : List Byte
  meta_ : List Byte
  crc : List Byte
deriving DecidableEq, Repr

/-- The sector in a codeword: information bits descrambled (R173). -/
def sectorIn (bits : List Bool) : Sector :=
  let l := bytesOfBits (scramble (BitVec.allOnes 31) (bits.take 33312))
  { user := l.take 4096, meta_ := (l.drop 4096).take 64, crc := (l.drop 4160).take 4 }

/-- The CRC over user data and metadata matches (R175). -/
def Sector.crcOk (x : Sector) : Bool := leBytes 4 (crc32c (x.user ++ x.meta_)) == x.crc

/-- The derived fields equal the expected values; what a parity sector's crc_parity should hold no descriptor implies (R174, R181). -/
def Sector.fieldsOk (x : Sector) (expected : List Byte) (kind : Nat) : Bool :=
  x.meta_.take 24 == expected.take 24 && (kind == 1 || (x.meta_.drop 24).take 4 == (expected.drop 24).take 4)
    && (x.meta_.drop 28).take 4 == (expected.drop 28).take 4

end Sys2Proof.Machine
end

