-- ==== Sys2Proof/Machine/PantryOps.lean ====
section
/-! DEFINITION. Pantry queues (spec/15 R346-R356): the pool, pushes, pops, resets, watermarks, and the lines they drive at
the Trellis engines. The functions that raise take the raiser, for a block reset raises through the event framework alone. -/

namespace Sys2Proof.Machine

/-- A Pantry queue. -/
def State.queue (s : State) (q : Nat) : PanQueue := (Sp.get s.pan.queues q).getD {}

/-- Changes a Pantry queue with its readable level. -/
def State.setQueue (s : State) (q : Nat) (x : PanQueue) : State :=
  { s with pan := { s.pan with queues := if x = ({} : PanQueue) then Sp.del s.pan.queues q else Sp.put s.pan.queues q x } }.setN
    (K.panLevel q) x.items.length

/-- Cells of the pool. -/
def poolCells : Nat := 16384

/-- Number of a port in the service order of R352: fabric ports in the order of R20's masters, then the Trellis ports. -/
def portNum (p : PantryPort) : Nat := match p with
  | .fabric m => match m with
    | .core c => c.val
    | .sieve n => 16 + n.val
    | .sheafUnit => 24
    | .nvme => 25
    | .ethernet => 26
    | .channel => 27
    | .pruner => 28
    | .hoe => 29
    | .flashCtl => 30
  | .trellis n => 31 + n.val

/-- The queues with a reserve, and it: the default of reserve is 0, so an unlisted one has none. -/
def reserves (s : State) : List (Nat × Nat) :=
  s.dict.filterMap fun e =>
    let i := e.1 / 256
    if 0x7800 ≤ i ∧ i < 0x7A00 ∧ e.1 % 256 = 2 then some (i - 0x7800, e.2.toNat) else none

/-- Cells held back for unmet reserves (R350). -/
def heldBack (s : State) : Nat := (reserves s).foldl (fun n r => n + (r.2 - (s.queue r.1).items.length)) 0

/-- Free cells of the pool. -/
def poolFree (s : State) : Nat := poolCells - s.pan.used

/-- The pool has no free cell beyond those held back. -/
def poolShort (s : State) : Bool := decide (poolFree s ≤ heldBack s)

/-- The queue is full by its depth. -/
def depthFull (s : State) (q : Nat) : Bool := decide (s.nat (K.panDepthMax q) ≤ (s.queue q).items.length)

/-- The queue is full for lack of cells. -/
def poolFull (s : State) (q : Nat) : Bool :=
  decide (s.nat (K.panReserve q) ≤ (s.queue q).items.length) && poolShort s

/-- Queue q is full (R350, R355). -/
def queueFull (s : State) (q : Nat) : Bool := s.flag K.poolPantryDegraded || depthFull s q || poolFull s q

/-- The number of cells in use changes, with the pool's readable state (R351, R359). -/
def setUsed (s : State) (n : Nat) : State :=
  let t := { s with pan := { s.pan with used := n } }
  let t := t.setN K.poolPoolFree (poolFree t)
  if poolShort t then t else t.setB K.poolPoolExhausted false

/-- Sets or clears a flag bit of a queue. -/
def setFlag (s : State) (q i : Nat) (b : Bool) : State := s.setBitOf (K.panFlags q) i b

/-- Counts a crossing in U8, saturating at 255 (R356). -/
def incU8 (s : State) (k : Key) : State := s.setN k (if s.nat k < 255 then s.nat k + 1 else 255)

/-- The high crossing of a push (R356). -/
def highCross (r : Raiser) (s : State) (q : Nat) : State :=
  let mark := s.nat (K.panHighMark q)
  let level := (s.queue q).items.length
  if mark ≠ 0 ∧ level = mark then
    let t := incU8 (setFlag s q 2 true) (K.panHiCount q)
    t.on (t.flag (K.panMarkEvent q)) fun u => r u 436 [q, level, u.nat (K.panHiCount q)] {}
  else s

/-- The low crossing of a pop (R356). -/
def lowCross (r : Raiser) (s : State) (q : Nat) : State :=
  let mark := s.nat (K.panLowMark q)
  let level := (s.queue q).items.length
  if mark ≠ 0 ∧ level = mark then
    let t := incU8 (setFlag s q 3 true) (K.panLoCount q)
    t.on (t.flag (K.panMarkEvent q)) fun u => r u 437 [q, level, u.nat (K.panLoCount q)] {}
  else s

/-- "Not empty" rises on an input queue of a Trellis engine (spec/10 R231, R357). -/
def notEmptyRise (s : State) (q : Nat) : State :=
  if q < 56 ∧ (s.queue q).items.length = 1 then s.setBitOf (K.trlIrqPending (q / 8)) (24 + q % 8) true else s

/-- The queue is reset to empty with a new epoch, and a sweep starts; `lost` cells stay in use for good (R353, R354). -/
def queueEmptied (s : State) (q lost : Nat) : State :=
  let x := s.queue q
  let t := s.setQueue q { x with items := [], epoch := (x.epoch + 1) % 4, sweep := true,
                                 stale := upd x.stale (x.epoch % 4) (at' x.stale (x.epoch % 4) 0 + (x.items.length - lost)), since := s.now }
  setFlag t q 4 true

/-- A pointer mismatch (R353): what the two copies hold is not known to the model. -/
def pointerMismatch (r : Raiser) (s : State) (q lost : Nat) : State :=
  let n := s.freeCtr
  let v (i : Nat) : Nat := (Config.freeValue (n + i)).toNat % 65536
  let t := queueEmptied { s with freeCtr := n + 6 } q lost
  r (t.inc K.poolMismatchCount) 433 [q, v 0, v 1, v 2, v 3, v 4, v 5] {}

/-- An uncorrectable cell error: parts 0 payload, 1 tag and link, 2 owner (R354). -/
def cellError (r : Raiser) (s : State) (q part : Nat) : State :=
  let cell := s.free.toNat % poolCells
  r s.drawn 438 [cell, part, q] {}

/-- A cell is withheld until the next power-up of pd_fabric (R354). -/
def loseCell (s : State) : State := s.setN K.poolCellsLost (s.nat K.poolCellsLost + 1)

/-- A push that is ignored (R351): causes 0 depth, 1 pool. -/
def overrun (r : Raiser) (s : State) (q port cause : Nat) : State :=
  let was := s.bit (K.panFlags q) 1
  let t := (setFlag s q 1 true).inc K.poolOverrunCount
  let t := t.on (!was) fun u => r u 432 [q, (u.queue q).items.length, cause, port] {}
  if cause = 1 ∧ t.flag K.poolPoolExhausted = false then
    r (t.setB K.poolPoolExhausted true) 435 [poolFree t, t.nat K.poolReserveTotal, q] {}
  else t

/-- A push of an item onto a queue (R350-R354, R356). -/
def pantryPush (r : Raiser) (s : State) (port q tag : Nat) (payload : List Byte) (ecc : PantryEcc) : State :=
  if s.flag K.poolPantryDegraded then s
  else if ecc = .pointerMismatch then pointerMismatch r s q 0
  else if depthFull s q then overrun r s q port 0
  else if poolFull s q then overrun r s q port 1
  else
    let s := if ecc = .ownerBad then cellError r (setUsed (loseCell s) (s.pan.used + 1)) q 2 else s
    let x := s.queue q
    let t := s.setQueue q { x with items := x.items ++ [{ tag := tag, payload := payload }] }
    highCross r (notEmptyRise (setUsed t (t.pan.used + 1)) q) q

/-- The tag word of a pop (R349). -/
def popTagWord (tag : Nat) (poison last : Bool) : Nat := tag % 65536 + 2 ^ 16 + b2n poison * 2 ^ 17 + b2n last * 2 ^ 18

/-- A pop of a queue (R349, R353, R354): the tag word, the payload, and the state. -/
def pantryPop (r : Raiser) (s : State) (q : Nat) (ecc : PantryEcc) : Nat × List Byte × State :=
  let zeros : List Byte := List.replicate 60 0
  let x := s.queue q
  if s.flag K.poolPantryDegraded then (0, zeros, s)
  else match x.items with
  | [] => if ecc = .pointerMismatch then (0, zeros, pointerMismatch r s q 0) else (0, zeros, s)
  | it :: rest =>
    if ecc = .pointerMismatch then (0, zeros, pointerMismatch r s q 0)
    else if ecc = .tagLinkBad then
      let t := cellError r (loseCell s) q 1
      (0, zeros, pointerMismatch r t q 1)
    else
      let poison := decide (ecc = .payloadBad)
      let t := s.setQueue q { x with items := rest }
      let t := if ecc = .ownerBad then cellError r (loseCell t) q 2 else setUsed t (t.pan.used - 1)
      let t := t.on poison fun u => cellError r (u.inc K.poolPoisonCount) q 0
      (popTagWord it.tag poison rest.isEmpty, it.payload, lowCross r t q)

/-- The sum of the reserves (R359). -/
def reserveSum (s : State) : Nat := (reserves s).foldl (fun n r => n + r.2) 0

/-- Power-up of pd_fabric: every queue empty, every cell free (R354). -/
def pantryClear (s : State) : State :=
  let t := (List.range 512).foldl (fun u q => (u.set (K.panLevel q) 0).set (K.panFlags q) 0) s
  ((({ t with pan := {} }.setN K.poolPoolFree poolCells).setN K.poolCellsLost 0).setB K.poolPoolExhausted false)

end Sys2Proof.Machine
end

