-- ==== Sys2Proof/Machine/ActOps.lean ====
section
/-! DEFINITION. What servo, twin, power and resets share of an actuator (spec/04 R90-R99, spec/05 R112, R113): the fall of
write_ok, leaving TRACKING, the end of twin mode, emergency retract. -/

namespace Sys2Proof.Machine

/-- Cost of a reservation in mW (spec/20 R464). -/
def Resv.cost (x : Resv) : Nat := match x.who with
  | .slot _ => 450
  | .sieve _ => if x.paused then 40 else 400
  | .ethernet => 500

/-- Bit of a reservation in holders (spec/20 R475). -/
def Resv.bit (x : Resv) : Nat := match x.who with
  | .slot q => q.val
  | .sieve n => if x.paused then 12 + n.val else 4 + n.val
  | .ethernet => 20

/-- granted_mw as the governor accounts it (spec/20 R463). -/
def grantedMw (s : State) : Nat := s.power.held.foldl (fun n x => n + x.cost) (s.cfg K.pmBaseReserveMw)

/-- The governor's objects after a change of the reservations; over_envelope raises event 9 as it rises (spec/20 R465). -/
def regovern (r : Raiser) (s : State) : State :=
  let g := grantedMw s
  let t := (s.setN K.pmGrantedMw g).setN K.pmHolders (s.power.held.foldl (fun n x => setBit n x.bit true) 0)
  let t := t.setN K.pmWaiting s.power.waiting.length
  let high := decide (s.nat K.pmEnvelopeNowMw < g)
  let t := t.setB K.pmOverEnvelope high
  if high && !s.flag K.pmOverEnvelope then r t 9 [g, s.nat K.pmEnvelopeNowMw, s.nat K.pmMode] {} else t

/-- A holder has a reservation. -/
def holds (s : State) (h : Holder) : Bool := s.power.held.any fun x => x.who == h
/-- Adds a reservation that its holder does not have. -/
def holdRes (r : Raiser) (s : State) (h : Holder) (cls : Nat) : State :=
  if holds s h then s
  else regovern r { s with power := { s.power with held := s.power.held ++ [{ who := h, cls := cls }] } }
/-- Ends a reservation. -/
def unholdRes (r : Raiser) (s : State) (h : Holder) : State :=
  if holds s h then regovern r { s with power := { s.power with held := s.power.held.filter fun x => x.who != h } } else s
/-- The holder of slot A of an actuator. -/
def slotAHolder (a : Nat) : Holder := .slot (Fin.ofNat 4 (2 * a))
/-- The holder of slot B of an actuator. -/
def slotBHolder (a : Nat) : Holder := .slot (Fin.ofNat 4 (2 * a + 1))

/-- write_ok of a slot. -/
def writeOk (s : State) (q : Nat) : Bool := s.bit (K.actWriteOk (q / 2)) (q % 2)
/-- Read on-track flag of a slot. -/
def onRead (s : State) (q : Nat) : Bool := s.bit (K.actOnTrackRead (q / 2)) (q % 2)
/-- Write on-track flag of a slot. -/
def onWrite' (s : State) (q : Nat) : Bool := s.bit (K.actOnTrackWrite (q / 2)) (q % 2)

/-- |PES| is within a threshold given per mille of the data pitch. -/
def withinPm (s : State) (a : Nat) (pes : Int) (pm : Nat) : Bool :=
  decide (pes.natAbs * 1000 ≤ pm * s.cfg (K.actDataPitchQ16 a))

/-- Sets an on-track flag; a flag that is lost raises on_track_lost: flag 0 read, 1 write (R90, R102). -/
def setOnTrack (r : Raiser) (s : State) (q : Nat) (write val : Bool) : State :=
  let a := q / 2
  let k := if write then K.actOnTrackWrite a else K.actOnTrackRead a
  let was := s.bit k (q % 2)
  let t := s.setBitOf k (q % 2) val
  if was ∧ val = false then actEvent r t a 119 [q % 2, ((s.srv q).lastPes % 2 ^ 32).toNat, b2n write] (some q) else t

/-- write_ok of a slot falls for a reason: the write on-track flag clears with it, an open write gate closes as an
off-track fault, and write_offtrack is raised unless the shock or the twin monitor reports it (R90, R91). -/
def writeOkFall (r : Raiser) (s : State) (q : Nat) (why : OkFall) : State :=
  if !writeOk s q then s
  else
    let a := q / 2
    let v := s.srv q
    let gate := gateOpen s q
    let sector := match (s.wr q).gate with | some g => g.sector | none => 0
    let t := (s.setBitOf (K.actWriteOk a) (q % 2) false).setSrv q { v with fall := why, writeRun := 0 }
    let t := setOnTrack r t q true false
    let t := t.on (decide (why = .pes)) fun u => u.inc (K.actOfftrackInhibitCount a)
    let t := t.on (gate && why != .shock && why != .outOfStroke) fun u =>
      actEvent r u a 107 [(v.lastPes % 2 ^ 32).toNat, s.cfg (K.actWiThresholdPm a), sector] (some q)
    closeGate r t q 2

/-- write_ok of both slots of an actuator falls. -/
def writeOkFallAct (r : Raiser) (s : State) (a : Nat) (why : OkFall) : State :=
  (slotsOf a).foldl (fun t q => writeOkFall r t q why) s

/-- Sectors of a slot's descriptor that have not started: for a write those after the written ones and the one in flight, for a read
those with neither a result nor an entry being captured or decoded. -/
def unstarted (s : State) (q : Nat) : Nat :=
  let c := s.ch q
  match c.desc with
  | none => 0
  | some d =>
    if d.write then c.left - (s.wr q).written - b2n (s.wr q).gate.isSome
    else c.left - c.bufs.toList.foldl (fun n e => if e.tag = d.tag.toNat ∧ (e.st = .capturing ∨ e.st = .held) then n + 1 else n) 0

/-- Returns the sectors of a slot not yet started (R93, R112, R113, R212): its descriptor leaves the slot; a write's result word tells the
cause, a read's sectors are recorded with it. -/
def returnSlot (r : Raiser) (s : State) (q cause : Nat) : State :=
  let a := q / 2
  let c := s.ch q
  let back : List Returned := match c.desc with
    | some d => if d.write || unstarted s q == 0 then [] else [{ tag := d.tag.toNat, sectors := unstarted s q, cause := 16 + cause }]
    | none => []
  let t := s.setPick a { s.pick a with returned := (s.pick a).returned ++ back }
  let t := endPart r t q cause
  let t := match c.desc with | some d => if d.write then t else heaterIdle (hrEnd t q d.head false) q d.head | none => t
  t.setCh q { t.ch q with desc := none, left := 0 }

/-- Twin mode ends (R112): causes 0 end, 1 disabled, 2 slot B idled, 3 map invalid, 4 out of stroke, 5 microactuator
fault, 6 left tracking. The sectors of slot B not yet started continue on slot A, but after 4 (returned, writes as
demoted) and 6 (returned); slot B's part of a write ends with its word. -/
def twinExit (r : Raiser) (s : State) (a cause : Nat) : State :=
  if !twinOn s a then s
  else
    let t := (s.setB (K.actTwinActive a) false).setBitOf (K.actActiveHeads a) 8 false
    let t := t.setAct a { t.act a with twinLeaving := none, oosRun := 0, clampRun := 0 }
    let t := actEvent r t a 129 [cause] none
    if cause = 4 then (slotsOf a).foldl (fun u q => returnSlot r u q 13) t
    else if cause = 6 then (slotsOf a).foldl (fun u q => returnSlot r u q 2) t
    else
      let b := 2 * a + 1
      let left := unstarted t b
      let ring := (t.nat (K.slotSlotRing b), (t.ch b).ringFmt, (t.ch b).ringFe)
      let t := endPart r t b 0
      let t := match (t.ch b).desc with | some d => hrEnd t b d.head false | none => t
      let t := t.setCh b { t.ch b with desc := none, left := 0 }
      t.setCh (2 * a) { t.ch (2 * a) with left := (t.ch (2 * a)).left + left, other := some ring }

/-- A twin exit that waits for a sector boundary is taken where no gate of the actuator is open (R112, R113). -/
def twinBoundary (r : Raiser) (s : State) (a : Nat) : State :=
  match (s.act a).twinLeaving with
  | none => s
  | some c =>
    let busy := (slotsOf a).any fun q => (s.wr q).gate.isSome || (s.ch q).gate.isSome
    if busy then s else twinExit r s a c

/-- Twin mode is on, and no slot of the actuator has a part of a descriptor. -/
def twinIdle (s : State) (a : Nat) : Bool :=
  twinOn s a && (slotsOf a).all fun q =>
    (s.ch q).desc.isNone && (s.ch q).gate.isNone && !(s.wr q).active && (s.wr q).gate.isNone

/-- A pending exit is taken, or twin mode ends with its descriptor where faults have ended both parts of it (R112). -/
def twinSettle (r : Raiser) (s : State) (a : Nat) : State :=
  let t := twinBoundary r s a
  if twinIdle t a then twinExit r t a 0 else t

/-- No new gate opens on either slot while an exit waits for a sector boundary (DESIGN CHOICE, log 47). -/
def twinHeld (s : State) (q : Nat) : Bool := (s.act (q / 2)).twinLeaving.isSome

/-- Twin mode ends at the next sector boundary of each slot for a cause; of several the first stands, but out of stroke replaces another,
for its sectors do not go on (DESIGN CHOICE, log 47). -/
def twinLeave (r : Raiser) (s : State) (a cause : Nat) : State :=
  if !twinOn s a then s
  else
    let x := s.act a
    twinBoundary r (s.setAct a { x with twinLeaving := some (if cause = 4 then 4 else x.twinLeaving.getD cause) }) a

/-- ACT[a] leaves TRACKING: on-track flags and write_ok fall, twin mode ends at once (R90, R112). -/
def leaveTracking (r : Raiser) (s : State) (a : Nat) : State :=
  if s.nat (K.actActState a) ≠ 3 then s
  else
    let t := writeOkFallAct r s a .unlisted
    let t := (slotsOf a).foldl (fun u q => setOnTrack r (setOnTrack r u q false false) q true false) t
    let t := (slotsOf a).foldl (fun u q => u.setSrv q { u.srv q with readRun := 0, writeRun := 0, decodeRun := 0 }) t
    let t := t.setAct a { t.act a with seeking := false }
    twinExit r t a 6

/-- The PZT outputs are held at 0 V: in every state other than TRACKING, in which captures run, and SEARCH (spec/21 R490). -/
def pztHeld (st : Nat) : Bool := st != 2 && st != 3

/-- Every PZT output of an actuator at 0 V. -/
def pztZero (s : State) (a : Nat) : State :=
  let z := Vector.replicate 12 (0 : Int)
  (List.range 12).foldl (fun t h => t.setI (K.actPztOutMv a h) 0) (s.setAct a { s.act a with pztOut := z, pztTarget := z, pztCode := z })

/-- The actuator takes a state; slots that stop reading servo end an acquisition (R39), and the PZT outputs go to 0 V where the state
holds them (spec/21 R490). -/
def actEnter (s : State) (a st : Nat) (v : VcmOut) : State :=
  let t := s.on (pztHeld st) fun u => pztZero u a
  readersCheck ((t.setN (K.actActState a) st).setAct a { t.act a with vcm := v, since := t.now })

/-- A quantity toward the outer diameter, signed by od_polarity: positive where positive current moves outward (R97, R101). -/
def outward (s : State) (a x : Nat) : Int := if s.cfg (K.actOdPolarity a) = 0 then (x : Int) else -(x : Int)

/-- The driver's own velocity control at a bemf, with the current limited to retract_current_ma (R97). -/
def driverMove (s : State) (a : Nat) (mv : Int) : VcmOut := .velocity mv (s.cfg (K.actRetractCurrentMa a))

/-- Entry to RETRACT with its event: causes 0 power loss, 1 trip, 2 Safe, 3 driver reset (R97). The link's SAFE and the
stop of its clock go with it (R133). -/
def retractNow (r : Raiser) (s : State) (a cause : Nat) : State :=
  let t := leaveTracking r s a
  let t := t.setAct a { t.act a with unloadHeld := false, passed0 := false }
  let t := stopLink t a
  let t := actEnter t a 5 (driverMove s a (outward s a (s.cfg (K.actRetractBemfMv a))))
  actEvent r t a 101 [cause, (s.nat (K.actVcmBemfMv a)) % 2 ^ 32] none

/-- Row 1 of R97: RETRACT from LOADING, SEARCH, TRACKING or UNLOADING. -/
def retract (r : Raiser) (s : State) (a cause : Nat) : State :=
  let st := s.nat (K.actActState a)
  if 1 ≤ st ∧ st ≤ 4 then retractNow r s a cause else s

/-- Both preamps receive SAFE and their clocks stop (R133). -/
def stopLinks (s : State) : State := stopLink (stopLink s 0) 1

/-- A load_fail of an actuator: its count, its event, and row 11 of R97 at the third within 10 s: causes 0 permit,
1 model, 2 search timeout. -/
def loadFail (r : Raiser) (s : State) (a cause : Nat) : State :=
  let x := s.act a
  let fails := (s.now, cause) :: x.loadFails.filter fun f => s.elapsed f.1 < 10000000
  let t := (s.setAct a { x with loadFails := fails }).inc (K.actLoadFailCount a)
  actEvent r t a 98 [cause] none

/-- Row 11 of R97: PARKED with three load failures within 10 s. -/
def loadEscalate (r : Raiser) (s : State) (a : Nat) : State :=
  let fails := (s.act a).loadFails.filter fun f => s.elapsed f.1 < 10000000
  if s.nat (K.actActState a) = 0 ∧ 3 ≤ fails.length then
    actEvent r (actEnter s a 6 .off) a 99 ((fails.take 3).map (·.2)) none
  else s

/-- Row 8 of R97: the actuator goes to UNLOADING from SEARCH or TRACKING; in LOADING the request is held; elsewhere it
is ignored. -/
def unloadNow (r : Raiser) (s : State) (a : Nat) : State :=
  let st := s.nat (K.actActState a)
  if st = 2 ∨ st = 3 then
    let t := leaveTracking r s a
    let t := t.setAct a { t.act a with passed0 := false, unloadHeld := false }
    actEnter t a 4 (driverMove s a (outward s a (s.cfg (K.actUnloadBemfMv a))))
  else if st = 1 then s.setAct a { s.act a with unloadHeld := true }
  else s

/-- A microsecond of a PZT output: it moves toward its command by at most pzt_slew_v_us (R87). -/
def slewPzt (s : State) (a h : Nat) : State :=
  let x := s.act a
  let step : Int := s.cfg (K.actPztSlewVUs a) * 1000
  let old := at' x.pztOut h 0
  let out := old + clamp (-step) step (at' x.pztTarget h 0 - old)
  (s.setAct a { x with pztOut := upd x.pztOut h out,
                       pztCode := upd x.pztCode h (clamp (-8192) 8191 (rnd (out * 16384) 60000)) }).setI (K.actPztOutMv a h) out

/-- A microsecond of the PZT outputs that have not reached their commands (R87). -/
def slewTick (s : State) : State :=
  [0, 1].foldl (fun t a => (List.range 12).foldl (fun u h =>
    if at' (u.act a).pztOut h 0 = at' (u.act a).pztTarget h 0 then u else slewPzt u a h) t) s

/-- The degrade reaction of an ACT[a] event (R100): servo_degraded, which takes write_ok away. -/
def setDegraded (r : Raiser) (s : State) (a : Nat) : State :=
  writeOkFallAct r (s.setB (K.actServoDegraded a) true) a .degraded

/-- Surface offset d in Q16 at a wedge, interpolated at servo position rho (Q16), none where a point is invalid (spec/05 R105, R106). -/
def surfaceOffset (s : State) (a pair w : Nat) (rho : Int) : Option Int :=
  let step := s.cfg (K.actMapStepTracks a)
  let base := s.cfg (K.actMapBase a) + pair * 0x10100
  if step = 0 then none
  else
    let r := clamp 0 (63 * step * 65536 : Nat) rho
    let j0 := (r / (step * 65536 : Nat)).toNat
    let j := if 62 < j0 then 62 else j0
    let word (k : Nat) : Nat := leNat (s.load (base + 4 * k) 4)
    let d (k : Nat) : Int := sgn 32 (word k) + sgn 16 (leNat (s.load (base + 0x100 + (k * 512 + w) * 2) 2)) * 256
    if word j = 0x80000000 ∨ word (j + 1) = 0x80000000 then none
    else some (d j + rnd ((d (j + 1) - d j) * (r - (j * step * 65536 : Nat))) (step * 65536))

end Sys2Proof.Machine
end

