-- ==== Sys2Proof/Machine/SpinOps.lean ====
section
/-! DEFINITION. The motor engine's states (spec/03 R60, R61), which spindle commands, power loss and block reset share. -/

namespace Sys2Proof.Machine

/-- comm_offset is valid (R69). -/
def offsetValid (s : State) : Bool := s.bit K.spinCommOffset 31

/-- The forced angle of START (R63). -/
def forcedAngle (s : State) : Nat := s.motor.forcedAcc / 600000000000 % revCounts

/-- The bridge of a state as it is entered (R60, R63, R65, R72). -/
def entryBridge (s : State) (st : Nat) : Bridge :=
  if st = 2 then .pulses (s.cfg K.spinIpdPulseUs) (s.cfg K.spinIpdCurrentMa)
  else if st = 3 then .forcing ((s.motor.ipdAngle + revCounts / 4) % revCounts) (s.cfg K.spinStartCurrentMa)
  else if st = 6 then .braking (s.cfg K.spinBrakeCurrentMa)
  else if st = 8 then .rectifier (s.cfg K.spinHoldRailMv)
  else if st = 4 ∨ st = 5 then s.motor.bridge else .highZ

/-- comm_source of a state as it is entered: RECTIFY keeps the source (R60, R72). -/
def entrySource (st old : Nat) : Nat := if st = 3 then 1 else if st = 4 then 2 else if st = 5 then 3 else if st = 8 then old else 0

/-- The engine enters a state: its bridge, source, counters and validity of comm_offset (R60, R69). -/
def motorEnter (s : State) (st : Nat) : State :=
  let m := s.motor
  let runs := decide (st = 4 ∨ st = 5)
  let keeps := runs || st == 8
  let t := (s.setN K.spinState st).setN K.spinCommSource (entrySource st (s.nat K.spinCommSource))
  let t := t.on (!keeps) fun u => u.setBitOf K.spinCommOffset 31 false
  let t := t.on (!runs) fun u => (u.setB K.spinLoadPermit false).setB K.spinAtSpeed false
  let t := t.on (decide (st = 1)) fun u => u.inc K.spinCatchCount
  let t := t.on (decide (st = 5)) fun u => u.inc K.spinWedgeCommCount
  let t := t.on (decide (st = 8)) fun u => u.inc K.spinRectifyCount
  let sw := if st = 8 then false else if st = 6 ∧ motorState s = 8 then false else if st = 6 then m.inputSwitch else true
  let same := runs && (motorState s == 4 || motorState s == 5)
  let t := { t with motor := { m with bridge := entryBridge s st, since := s.now, ilimRun := 0, reconvRun := 0,
                                      confirmRun := 0, handRun := 0, inputSwitch := sw, rectLost := false,
                                      exhausted := false, bothHeld := keeps && m.bothHeld,
                                      forcedSpeed := 0, forcedAcc := (m.ipdAngle + revCounts / 4) * 600000000000,
                                      lossHeld := st == 8 && m.lossHeld,
                                      torqueCycles := if same then m.torqueCycles else 0,
                                      clipped := if same then m.clipped else 0, period := if same then m.period else none,
                                      confirmed := st == 4 && m.confirmed } }
  if st = 1 then { t with motor := { t.motor with catchSince := s.now, catchPath := 0 } } else t

/-- BRAKE with its cause: 1 catch, 2 stop. -/
def enterBrake (s : State) (cause : Nat) : State := (motorEnter s 6).setN K.spinBrakeCause cause

/-- A signed capture item as an unsigned 32-bit number. -/
def param32 (x : Int) : Nat := (x % 2 ^ 32).toNat

/-- Raises a motor event: its items, then the state before, the state after, and speed_crpm (R77). -/
def spinEvent (r : Raiser) (s : State) (before e : Nat) (items : List Nat) : State :=
  r s e (items ++ [before, motorState s, param32 (s.int K.spinSpeedCrpm)]) {}

/-- Rows 2 and 3 of R61: the power-loss signal rises (R72). -/
def motorPowerLoss (r : Raiser) (s : State) : State :=
  let st := motorState s
  if st = 4 ∨ st = 5 then
    let source := s.nat K.spinCommSource
    let confirmed := s.motor.confirmed
    let t := (motorEnter s 8).setN K.spinCommSource source
    let t := { t with motor := { t.motor with confirmed := confirmed } }
    spinEvent r t st 79 [0, t.nat K.spinHoldRailNowMv]
  else if st = 0 ∨ st = 9 then s
  else motorEnter s 7

/-- A block reset of the motor engine: high impedance, no failed catches, MEASURE where spin_enable is 1 and no power-loss
signal is latched, else OFF (R61). -/
def motorReset (r : Raiser) (s : State) : State :=
  let t := { s with motor := { s.motor with fails := [], bridge := .highZ } }
  let t := motorEnter t (if t.flag K.spinSpinEnable && !t.power.loss then 1 else 0)
  observerCheck r t

end Sys2Proof.Machine
end

