-- ==== Sys2Proof/Machine/DetOps.lean ====
section
/-! DEFINITION. How a read sector ends (spec/08 R187-R190), its item for the stream tap (spec/16 R364) and a read descriptor with it
(spec/07 R163), which the read path, shedding and the resets of a slot and of pd_deep share. -/

namespace Sys2Proof.Machine

/-- Raises a front-end or detection event of a slot: its items, then the head, the ring and the buffer entry (R201). -/
def slotEventBy (r : Raiser) (s : State) (q k : Nat) (items : List Nat) (entry : Nat) : State :=
  r s (slotEv q k) (items ++ [(s.srv q).head, s.nat (K.slotSlotRing q), entry]) { slot := some q }

/-- The readable state of the deep decoder (R200). -/
def redeep (s : State) : State :=
  (s.setN K.detDeepQueue s.deep.queue.length).setN K.detDeepBusy
    (match s.deep.run with | some j => 1 + 2 * j.q.val | none => 0)

/-- The counter of a result code (R199, R200). -/
def resultCounter (q result : Nat) : Option Key := match result with
  | 0 => some (K.slotOkLineCount q)
  | 1 => some (K.slotOkMarkCount q)
  | 2 => some (K.slotOkRedetectCount q)
  | 3 => some (K.slotOkDeepCount q)
  | 4 => some K.detOcRecoveredCount
  | 8 => some (K.slotFailedCount q)
  | 9 => some (K.slotShedCount q)
  | 11 => some (K.slotNoSignalCount q)
  | _ => none

/-! ### The stream tap -/

/-- Payload of a tap item (spec/16 R364). -/
def tapPayload (b : BufEntry) (result : Nat) : List Byte :=
  leBytes 8 b.dest ++ leBytes 8 (b.lba + b2n b.ns2 * 2 ^ 34) ++ leBytes 4 b.tag ++ leBytes 2 b.sector
    ++ leBytes 1 result ++ leBytes 1 0 ++ leBytes 8 b.stamp ++ List.replicate 28 0

/-- One item of a sector with its result for the tap of its descriptor (spec/16 R364); an item that the Pantry ignores sets lost,
counts, and raises event 457 as lost rises. -/
def tapPush (r : Raiser) (s : State) (b : BufEntry) (result : Nat) : State :=
  let n := b.tap
  let w := s.nat (K.sivTap (n - 1))
  if n = 0 || !hasSieve s.variant || !bitAt w 10 || (decide (8 ≤ result) && !bitAt w 9) then s
  else
    let p := w % 512
    let t := pantryPush r s (portNum (.fabric .channel)) p n (tapPayload b result) .ok
    if (s.queue p).items.length < (t.queue p).items.length then t
    else
      let t := (t.setBitOf (K.sivTap (n - 1)) 11 true).inc (K.sivTapDropCount (n - 1))
      if bitAt w 11 then t else r t 457 [n, p, b.lba % 2 ^ 32] {}

/-! ### The end of a descriptor -/

/-- A read descriptor ends on a slot: the head-ring write-back or its skip (spec/07 R163), and the end of twin mode when the
other slot's part has ended too (spec/05 R112). -/
def readDescEnd (r : Raiser) (s : State) (q : Nat) : State :=
  let a := q / 2
  match (s.ch q).desc with
  | none => s
  | some d =>
    let t := hrEnd s q d.head true
    let t := heaterIdle (t.setCh q { t.ch q with desc := none, left := 0, profile := 0 }) q d.head
    if d.twin ∧ (slotsOf a).all (fun p => (t.ch p).desc.isNone) = true then twinExit r t a 0 else t

/-- A sector of the slot's read descriptor has its result; with the last one the descriptor ends. -/
def sectorCounted (r : Raiser) (s : State) (q : Nat) (b : BufEntry) (result : Nat) : State :=
  let c := s.ch q
  match c.desc with
  | none => s
  | some d =>
    if d.write ∨ d.tag.toNat ≠ b.tag then s
    else
      let t := s.setCh q { c with left := c.left - 1, lastSec := max c.lastSec b.pos,
                                  lastLine := if c.lastSec ≤ b.pos then decide (result ≤ 1) else c.lastLine }
      if c.left ≤ 1 then readDescEnd r t q else t

/-- A position of the running group read is decoded or failed, and keeps its result word and its capture (R195). -/
def groupMark (s : State) (b : BufEntry) (e word : Nat) (ok : Bool) : State :=
  if b.group && decide (s.nat K.detOcState = 1) then
    let bit := (1 : BitVec 34) <<< b.pos
    let d := { s.deep with ocEnts := Sp.put s.deep.ocEnts b.pos (e, word, b) }
    let d := if ok then { d with ocDecoded := d.ocDecoded ||| bit } else { d with ocFailed := d.ocFailed ||| bit }
    let t := { s with deep := d }
    let t := t.setN K.detOcFailedMap d.ocFailed.toNat
    if d.ocDecoded ||| d.ocFailed = BitVec.allOnes 34 then t.setN K.detOcState 2 else t
  else s

/-! ### The end of a sector -/

/-- A job of the deep decoder belongs to an entry of a slot. -/
def DeepJob.of (j : DeepJob) (q e : Nat) : Bool := j.q.val == q && j.entry.map (·.val) == some e

/-- A read sector ends with a result (R187-R190): its word, its counter, its event, the release of its entry, its tap item, the progress
of its group and of its descriptor. Stages: 0 deep, 1 shed, 2 group, 3 combine. -/
def sectorEnds (r : Raiser) (s : State) (q e result cand offset pass stage : Nat) (moved : Bool) : State :=
  let b := bufAt (s.ch q) e
  let pins := (s.ch q).bufs.toList.foldl (fun n x => if x.st = .pinned then n + 1 else n) 0
  let pin := decide (result = 8) && s.cfgB (K.slotPinFailed q) && decide (pins < s.cfg (K.slotPinMax q))
  let word := readWordOf b e result cand offset pass moved pin
  let t := s.on pin fun u => u.setBitOf (K.slotBufPin q) e true
  let t := readWordTo t q b.tag word
  let t := match resultCounter q result with | some k => t.inc k | none => t
  let t := redeep { t with deep := { t.deep with queue := t.deep.queue.filter fun j => !j.of q e,
                                                 run := t.deep.run.filter fun j => !j.of q e } }
  let t := groupMark (releaseEntry t q e) b e word (decide (result < 8))
  let t := if result = 1 ∨ result = 2 then slotEventBy r t q 230 [word] e
    else if result = 3 then slotEventBy r t q 231 [word, b.waited] e
    else if result = 8 ∨ result = 9 then slotEventBy r t q 232 [word, b.tag, stage] e
    else t
  sectorCounted r (tapPush r t b result) q b result

/-- A combine job of a slot ends (R193): state 2 done ok, 3 failed. -/
def combineEnds (s : State) (q st word : Nat) : State :=
  let t := (s.setN (K.slotCombineState q) st).setN (K.slotCombineResult q) word
  redeep { t with deep := { t.deep with queue := t.deep.queue.filter fun j => !(j.q.val == q && j.entry.isNone),
                                        run := t.deep.run.filter fun j => !(j.q.val == q && j.entry.isNone) } }

/-- Positions of the group that are failed. -/
def failedPos (s : State) : List Nat := (List.range 34).filter fun i => s.deep.ocFailed.getLsbD i

/-- A position's entry number, result word and capture. -/
def groupEnt (s : State) (i : Nat) : Nat × Nat × BufEntry := (Sp.get s.deep.ocEnts i).getD (0, 0, {})

/-- The word of a position at the end of its group read goes to the format sequencer; the sector was counted with its first word (R190,
R195). -/
def groupWord (s : State) (tag word : Nat) : State :=
  let q := s.deep.ocSlot
  let t := (wordTo s (q / 2) tag word).setN (K.slotLastResult q) word
  t.setCh q { t.ch q with resultReady := true }

/-- A failed position of the group keeps result failed: its word, and its event with stage group (R195, R201). -/
def groupLost (r : Raiser) (s : State) (i : Nat) : State :=
  let (e, word, b) := groupEnt s i
  slotEventBy r (groupWord s b.tag word) s.deep.ocSlot 232 [word, b.tag, 2] e

/-- The group read fails (R195). -/
def groupFails (r : Raiser) (s : State) : State := (failedPos s).foldl (groupLost r) (s.setN K.detOcState 4)

/-- The reset of pd_deep (R201): every job in the deep queue or the group memory ends with result failed. -/
def deepReset (r : Raiser) (s : State) : State :=
  let jobs := s.deep.queue ++ s.deep.run.toList
  let t := jobs.foldl (fun u j => match j.entry with
    | some e => sectorEnds r u j.q e 8 0 0 0 0 false
    | none => combineEnds u j.q 3 (readWordOf {} 0 8 0 0 0 false true)) s
  let st := t.nat K.detOcState
  redeep { (if st = 1 ∨ st = 2 then groupFails r t else t) with deep := {} }

end Sys2Proof.Machine
end

