-- ==== Sys2Proof/Machine/TrlOps.lean ====
section
/-! DEFINITION. What resets, mode changes and writes of the object dictionary share of the Trellis engines (spec/10 R229,
R230): restart, the reset of a halted engine, what a stopped engine leaves, and the reset of a channel slot. -/

namespace Sys2Proof.Machine

/-- State of engine n (R229). -/
def trlState (s : State) (n : Nat) : Nat := s.nat (K.trlState n)

/-- The sampled address, stack depth and progress word (R241). -/
def trlShow (s : State) (n : Nat) : State :=
  let e := s.eng n
  ((s.setN (K.trlUpc n) e.cur.upc).setN (K.trlStackDepth n) e.cur.stack.length).setN (K.trlProgress n) (at' e.regs 27 0).toNat

/-- Raises event k of engine n: its items, then the engine, its state and its progress word (R243). -/
def trlEvent (r : Raiser) (s : State) (n k : Nat) (items : List Nat) : State :=
  r s (288 + 4 * n + k) (items ++ [n, trlState s n, s.nat (K.trlProgress n)]) {}

/-- An engine with its run state cleared, its stores kept. -/
def Engine.cleared (e : Engine) : Engine :=
  { e with cur := {}, regs := Vector.replicate 32 0, mem := [], irq := none, halt := none, haltReq := false, fabric := none,
           fabReady := false, fabError := false, popValid := false, gate := 0, strobe := 0, angle := 0, span := 0, wait := 0 }

/-- Rows 10 and 11 of R230: micro-address 0; stack, counters, registers and local memory cleared. -/
def trlRestart (s : State) (n : Nat) : State := trlShow ((s.setEng n (s.eng n).cleared).setN (K.trlState n) 3) n

/-- Row 13 of R230: a block reset of a halted engine. -/
def trlBlockReset (s : State) (n : Nat) : State :=
  if trlState s n ≠ 4 then s
  else
    let t := s.setN (K.trlState n) 2
    if t.nat (K.trlRun n) ≠ 0 then trlRestart t n else t

/-- Every descriptor that a format sequencer holds is returned "not started" with a cause (R230): 0 sequencer reset. -/
def returnDescs (s : State) (a cause : Nat) : State :=
  let p := s.pick a
  s.setPick a { p with input := [], pool := [],
                       returned := p.returned ++ (p.pool ++ p.input).map fun d =>
                         { tag := d.desc.tag.toNat, sectors := d.desc.count.toNat, cause := cause } }

/-- Entries of a slot that are HELD. -/
def heldEntries (c : Chan) : List Nat := (List.range 16).filter fun e => (bufAt c e).st == .held

/-- A channel slot in block reset (R206, R230, spec/19 R435): assist off, the write descriptor ends with cause 9, an open
read gate closes, HELD entries end failed, and what the slot held of its descriptor, its staging entries, its outer-code
accumulator and its defect flags is gone. -/
def slotReset (r : Raiser) (s : State) (q : Nat) : State :=
  let t := s.setCh q { s.ch q with inReset := true }
  let t := endPart r (assistOff t q 0) q 9
  let t := abandonRead t q
  let t := (heldEntries (t.ch q)).foldl (fun u e => sectorEnds r u q e 8 0 0 0 0 false) t
  let t := t.setCh q { t.ch q with desc := none, left := 0, rise := [], longRaised := [], railRaised := [],
                                   frozenAtClose := false, resultReady := false, moved := 0, freezes := [], holdFrom := none }
  let t := t.setWr q { t.wr q with staging := [], accCount := 0, accHeld := false, accData := [], encoderOk := true, active := false }
  refreshWrite (((t.setN (K.slotDefectFlags q) 0).setN (K.slotLoopsFrozen q) 0)) q

/-- The gate and strobe outputs of an engine are zero outside RUN (R230). -/
def trlQuiet (s : State) (n : Nat) : State :=
  s.setEng n { s.eng n with gate := 0, strobe := 0, angle := 0, span := 0, haltReq := false }

end Sys2Proof.Machine
end

