-- ==== Sys2Proof/Machine/HostOps.lean ====
section
/-! DEFINITION. The hardware command table and the queues (spec/12 R277-R292), which every command of the host, the Sieve runs
and the resets use: completion, freezing and restart of ordered queues, aborts, violations, controller reset. -/

namespace Sys2Proof.Machine

/-- The queue and command identifier of an entry. -/
abbrev Ref := Nat × Nat

/-- The reference of a table entry. -/
def CmdEnt.ref (e : CmdEnt) : Ref := (e.sqid, e.sqe.cid.toNat)
/-- The reference a command operand names. -/
def refOf (c : CmdRef) : Ref := (c.sqid.toNat, c.cid.toNat)

/-- A Status Field from a status code type and a status code (R288). -/
def stat (sct sc : Nat) : Nat := sct * 256 + sc

/-- An entry that a command of the host may act on: ACTIVE, of this opcode, on the admin queue or on an I/O queue. -/
def activeEnt (table : List CmdEnt) (c : Ref) (admin : Bool) (op : Nat) : Option CmdEnt :=
  table.find? fun e => e.ref == c && e.st == .active && !e.stopped && e.bad.isNone && e.sqe.opcode.toNat == op
    && (e.sqid == 0) == admin

/-- Changes the host state. -/
def State.setHost (s : State) (h : HostSt) : State := { s with host := h }

/-- The oldest entry of the table that a reference names. -/
def State.cmd (s : State) (c : Ref) : Option CmdEnt := s.host.table.find? fun e => e.ref == c

/-- The data a command returns to the host. -/
def returnData (s : State) (c : Ref) (l : List Byte) : State :=
  s.setHost { s.host with data := (c, l) :: s.host.data.filter fun d => d.1 != c }

/-- Replaces an entry of the table. -/
def State.setCmd (s : State) (e : CmdEnt) : State :=
  s.setHost { s.host with table := s.host.table.map fun x => if x.order = e.order then e else x }

/-- A submission queue. -/
def State.subQ (s : State) (q : Nat) : Option SubQ := Sp.get s.host.sqs q
/-- Changes a submission queue. -/
def State.setSubQ (s : State) (q : Nat) (x : SubQ) : State := s.setHost { s.host with sqs := Sp.put s.host.sqs q x }

/-- Entries of a queue outside FREE, in order of fetch. -/
def queueEnts (s : State) (q : Nat) : List CmdEnt := s.host.table.filter fun e => e.sqid == q

/-- HELD commands of a queue. -/
def heldEnts (s : State) (q : Nat) : List CmdEnt := (queueEnts s q).filter fun e => e.st == .held

/-- The readable state of an ordered queue (R288, R298): 0 not ordered or not created, 1 running, 2 frozen. -/
def showOq (s : State) (q : Nat) : State :=
  if 17 ≤ q ∧ q ≤ 32 then
    s.setN (K.hostOqState (q - 17)) (match s.subQ q with
      | some x => if x.ordered then (if x.frozen then 2 else 1) + (heldEnts s q).length % 65536 * 2 ^ 16 + x.errSeq % 2 ^ 32 * 2 ^ 32
                  else 0
      | none => 0)
  else s

/-- A host protocol violation (R291, R292): its record, the count and event 356. -/
def violate (r : Raiser) (s : State) (kind sqid cid detail : Nat) : State :=
  let v := (Sp.get s.host.viols kind).getD {}
  let v' : Viol := { count := sat32 (v.count + 1), sqid := sqid, cid := cid,
                     first := if v.count = 0 then s.now else v.first, last := s.now, detail := detail }
  let t := (s.setHost { s.host with viols := Sp.put s.host.viols kind v' }).inc K.hostViolationCount
  r t 356 [kind, detail % 2 ^ 32, detail / 2 ^ 32, sqid, cid] {}

/-- The freeze of an ordered queue at the commit of a failing completion (R286). -/
def freeze (r : Raiser) (s : State) (q : Nat) (x : SubQ) (e : CmdEnt) : State :=
  let later := (queueEnts s q).filter fun f => f.st == .active && decide (e.order < f.order)
  let table := s.host.table.map fun f =>
    if f.sqid ≠ q then f
    else if f.st = .fetched then { f with st := .held }
    else if f.st = .active ∧ e.order < f.order then { f with stopped := true }
    else f
  let errSeq := (x.errSeq + 1) % 2 ^ 32
  let fail := [e.sqe.cid.toNat, e.sqe.opcode.toNat, e.status, e.sqe.slba.toNat, e.sqe.nlb.toNat, e.sqe.nsid.toNat, e.dw0,
               x.head, later.length, s.now]
  let t := s.setHost { s.host with table := table }
  let t := t.setSubQ q { x with frozen := true, errSeq := errSeq, fail := fail }
  showOq (r (t.inc K.hostOqFreezeCount) 357 [q, errSeq, e.sqe.cid.toNat, e.status] {}) q

/-- The oldest entry of the admin queue that waits may run: the queue runs in submission order, but for Asynchronous Event
Requests, which stay outstanding, and Aborts, which are served as fetched (R283). -/
def adminBlocks (e : CmdEnt) : Bool :=
  e.st != .committed && e.sqe.opcode != 0x0C && e.sqe.opcode != 0x08

/-- A HELD entry of a queue may enter ACTIVE (R283, R285). -/
def mayRun (s : State) (e : CmdEnt) : Bool :=
  let earlier := (queueEnts s e.sqid).filter fun f => decide (f.order < e.order) && f.st != .committed
  if e.sqid = 0 then e.sqe.opcode == 0x0C || e.sqe.opcode == 0x08 || !(earlier.any adminBlocks)
  else match s.subQ e.sqid with
    | some x =>
      if x.ordered then
        !x.frozen && earlier.all fun f => (f.st == .active || f.st == .aborting) && decide (e.qpos < f.qpos + x.window)
      else true
    | none => false

/-- Every entry of a queue that may run enters ACTIVE, oldest first. -/
def advance (s : State) (q : Nat) : State :=
  let t := (queueEnts s q).foldl (fun u e =>
    if (e.st == .held || e.st == .fetched) && e.heldZone.isNone && mayRun u e then u.setCmd { e with st := .active } else u) s
  showOq t q

/-- The completion commit of an entry (R281, R286), without what follows it. -/
def commitBase (r : Raiser) (s : State) (e : CmdEnt) (status dw0 : Nat) : State :=
  let e' := { e with st := .committed, status := status, dw0 := dw0, commit := s.host.commitSeq, stopped := false }
  let t := (s.setCmd e').setHost { (s.setCmd e').host with commitSeq := s.host.commitSeq + 1 }
  match t.subQ e.sqid with
  | some x => if x.ordered && !x.frozen && decide (status % 2048 ≠ 0) && !e.noFreeze then freeze r t e.sqid x e' else t
  | none => t

/-- The Abort that waited for an aborted command completes with DW0 bit 0 = 0 (R289). -/
def releaseAborter (r : Raiser) (s : State) (e : CmdEnt) : State :=
  match e.aborter with
  | none => s
  | some c => match s.cmd c with
    | some a => if a.st = .committed then s else advance (commitBase r (s.inc K.hostAbortDoneCount) a 0 0) 0
    | none => s

/-- The end of a Restart whose covered commands are done (R287): a discard when none is left, a resume at the first
completion of a covered command. -/
def restartCheck (r : Raiser) (s : State) (q : Nat) : State :=
  match s.subQ q with
  | none => s
  | some x => match x.restart with
    | none => s
    | some (c, discard, tail) =>
      let open' := (queueEnts s q).filter fun f => f.covered && f.st != .committed
      let unfetched := (tail + x.size - x.head) % (if x.size = 0 then 1 else x.size)
      let done := if discard then decide (unfetched = 0) && open'.isEmpty
        else decide (open'.length + unfetched < x.covered) || decide (x.covered = 0)
      if done then
        let t := s.setSubQ q { x with restart := none, frozen := if discard then false else x.frozen }
        let t := match t.cmd c with
          | some a => if a.st = .committed then t else commitBase r t a 0 0
          | none => t
        let t := r t 358 [q, b2n discard, x.covered] {}
        advance (advance t q) 0
      else s

/-- The completion commit point of an entry and what follows it (R281, R283, R285-R289). -/
def commitEnt (r : Raiser) (s : State) (e : CmdEnt) (status dw0 : Nat) : State :=
  let t := releaseAborter r (commitBase r s e status dw0) e
  restartCheck r (advance t e.sqid) e.sqid

/-- What an answer of this kind does beside the completion: kinds 0-31 are violations (R291); 32 is none; 33 is an access to a
locked range, counted with event 474 (spec/18 R422). -/
def answerBad (r : Raiser) (s : State) (e : CmdEnt) (kind detail : Nat) : State :=
  if kind < 32 then violate r s kind e.sqid e.sqe.cid.toNat detail
  else if kind = 33 then r (s.inc K.srLockedAccessCount) 474 [detail, e.sqid, e.sqe.cid.toNat] {}
  else s

/-- Commands that a check at their fetch fails are answered as they enter ACTIVE. -/
def settleBad (r : Raiser) (s : State) (fuel : Nat) : State :=
  match fuel with
  | 0 => s
  | n + 1 => match s.host.table.find? fun e => e.st == .active && e.bad.isSome && !e.stopped with
    | none => s
    | some e =>
      let (kind, status, detail) := e.bad.getD (0, 0, 0)
      settleBad r (commitEnt r (answerBad r s e kind detail) e status 0) n

/-- Answers every such command. -/
def settle (r : Raiser) (s : State) : State := settleBad r s s.host.table.length

/-- The oldest command of a discard that is not done (R287). -/
def nextDiscard (s : State) (q : Nat) : Option CmdEnt :=
  match s.subQ q with
  | none => none
  | some x => match x.restart with
    | some (_, true, _) => (queueEnts s q).find? fun f => f.covered && f.st != .committed
    | _ => none

/-- The covered commands of a discard complete in submission order, without freezing (R287): one whose stopped work goes on, or which
an Abort ends, is waited for. The fuel bounds them. -/
def discardRun (r : Raiser) (s : State) (q fuel : Nat) : State :=
  match fuel with
  | 0 => s
  | n + 1 => match nextDiscard s q with
    | none => s
    | some e =>
      if e.st = .held ∨ e.st = .fetched then discardRun r (commitEnt r s { e with noFreeze := true } (stat 0 0x07) 0) q n else s

/-- Every covered command of a discard that may complete now. -/
def discards (r : Raiser) (s : State) (q : Nat) : State := discardRun r s q (queueEnts s q).length

/-- Firmware or the fast path ends a command's work with a completion (R281, R286, R289, spec/13 R311). -/
def completeCore (r : Raiser) (s : State) (c : Ref) (status dw0 : Nat) : State :=
  if s.host.quiet then s
  else match s.host.table.find? fun e => e.ref == c && e.st != .committed with
    | none => s
    | some e => match e.st with
      | .committed => s
      | .aborting => discards r (commitEnt r s e (stat 0 0x07) 0) e.sqid
      | _ => if e.stopped then discards r (advance (s.setCmd { e with st := .held, stopped := false }) e.sqid) e.sqid
             else commitEnt r s e status dw0

/-- A completion, with what it lets the controller answer. -/
def complete (r : Raiser) (s : State) (c : Ref) (status dw0 : Nat) : State := settle r (completeCore r s c status dw0)

/-- An asynchronous event: carried by the oldest outstanding request, or kept for the next one (R283, R291). -/
def asyncEvent (r : Raiser) (s : State) (ty info log : Nat) : State :=
  match s.host.table.find? fun e => e.sqid == 0 && e.sqe.opcode == 0x0C && e.st == .active with
  | some e => complete r s e.ref 0 (ty + info * 2 ^ 8 + log * 2 ^ 16)
  | none => s.setHost { s.host with asyncs := s.host.asyncs ++ [(ty, info, log)] }

/-- Releases every lock entry that a master holds, with event 491 (spec/17 R393): causes 0 domain off, 1 controller reset,
2 management link reset. -/
def releaseLocks (r : Raiser) (s : State) (m cause : Nat) : State :=
  (List.range 16).foldl (fun t e =>
    let w := t.nat (K.dictLock e)
    if lockHeld w && decide (lockOwner w = m) then r (t.set (K.dictLock e) 0) 491 [e, m, cause] {} else t) s

end Sys2Proof.Machine
end

