-- ==== Sys2Proof/Machine/SheafOps.lean ====
section
/-! DEFINITION. What power loss, Safe entry and recovery share of the Sheaf unit (spec/13 R304, R306, R311-R315): the
journal and cache regions, the ports' results, the quiesce, and the start of a flush. -/

namespace Sys2Proof.Machine

/-- First address of the Larder journal area, and its size (spec/01 R20). -/
def journalBase : Nat := 0x40800000
/-- Bytes of the journal area. -/
def journalSize : Nat := 262144
/-- Bytes of the cache region: the directory and the frames (R306). -/
def cacheSize : Nat := 0x40000 + 4096 * 16256

/-- Raises an event of the Sheaf unit: its items, then the port and the sequence number of the port's last commit (R320). -/
def sheafEvent (r : Raiser) (s : State) (e : Nat) (items : List Nat) (port : Nat) : State :=
  r s e (items ++ [port, s.nat (K.shfResultSeq port) % 2 ^ 32]) {}

/-- Whether a port has objects (R300). -/
def fwPort (p : Nat) : Bool := decide (p < 4)

/-- The result of a port's operation (R319). -/
def portResult (s : State) (p status slot count : Nat) : State :=
  if fwPort p then s.setN (K.shfResult p) (status + slot * 2 ^ 8 + count * 2 ^ 16 + 2 ^ 31) else s

/-- The readable count of open transactions (R319). -/
def showOpen (s : State) : State := s.setN K.sheafOpenCount s.sheaf.txns.length

/-- hold_up_ok (R314). -/
def holdUpOk (s : State) : Bool :=
  (motorState s == 4 || motorState s == 5) && decide (2 * s.cfg K.spinRectifyMinRpm * 100 ≤ (s.int K.spinSpeedCrpm).natAbs)

/-- Cells of the memory from an address on, by offset. -/
def regionCells (s : State) (base size : Nat) : List (Nat × Byte) :=
  (s.mem.filter fun c => decide (base ≤ c.1) && decide (c.1 < base + size)).map fun c => (c.1 - base, c.2)

/-- The newest valid flush slot (R313). -/
def newestSlot (s : State) : Option Nat :=
  match at' s.sheaf.slots 0 none, at' s.sheaf.slots 1 none with
  | some a, some b => some (if a.seq < b.seq then 1 else 0)
  | some _, none => some 0
  | none, some _ => some 1
  | none, none => none

/-- The image and header of a flush as they stand at its start (R313, R314). -/
def flushImage (s : State) (cause : Nat) : FlushSlot :=
  let base := s.cfg K.sheafPwcBase
  let seq := match newestSlot s with
    | some n => (match at' s.sheaf.slots n none with | some f => f.seq + 1 | none => 1)
    | none => 1
  let oldest := match s.sheaf.recs with | r :: _ => r.1 | [] => s.nat K.sheafCommitSeq + 1
  { cause := cause, seq := seq, oldestSeq := oldest, oldestOff := s.sheaf.oldOff, commitSeq := s.nat K.sheafCommitSeq,
    time := s.now, journal := regionCells s journalBase journalSize, cache := regionCells s base cacheSize,
    poison := (s.memory.poison.filter fun p => decide (base ≤ p.1) && decide (p.1 < base + cacheSize)).map fun p => p.1 - base }

/-- A running copy of a partition ends failed with the cause flush; the address is that of the segment being written, a free value within
the flash (spec/19 R446). -/
def persistAbandon (s : State) : State :=
  (List.range 3).foldl (fun t p => if t.nat (K.almPersistState p) = 1 then
      raiseBase (t.drawn.setN (K.almPersistState p) 3) 483 [p, 1, t.free.toNat % 2 ^ 32] {}
    else t) s

/-- Starts a flush (R313): causes 1 power loss, 2 planned, 3 automatic. Only while pwc_armed is 1 (R315). The slot it overwrites is no
longer valid (DEDUCED, log 60). -/
def flushStart (s : State) (cause : Nat) : State :=
  if !s.flag K.sheafPwcArmed then s
  else
    let t := persistAbandon s
    let slot := match newestSlot t with | some n => 1 - n | none => 0
    { t with sheaf := { t.sheaf with flush := some (flushImage t cause, slot, t.now), slots := upd t.sheaf.slots slot none } }.setN
      K.sheafFlushState 1

/-- A planned or automatic flush is asked for: a running one covers it (R314). -/
def flushAsk (s : State) (cause : Nat) : State :=
  if s.sheaf.flush.isSome then s else flushStart s cause

/-- The quiesce at the power-loss signal (R312): commits not begun are refused with status 6, open transactions are
discarded. -/
def sheafQuiesce (s : State) : State :=
  let t := s.sheaf.commits.foldl (fun u c => portResult u c.port 6 (c.slot.getD 0) c.actions.length) s
  showOpen ({ t with sheaf := { t.sheaf with txns := [], opens := [], commits := [] } }.setN K.sheafSheafState 1)

end Sys2Proof.Machine
end

