-- ==== Sys2Proof/Machine/SieveOps.lean ====
section
/-! DEFINITION. What commands, resets, aborts and the governor share of the Sieve engines (spec/16 R370, R374-R376, R379): the
end of a run, pauses, and the withdrawal of runs. -/

namespace Sys2Proof.Machine

/-- The holder of SIEVE[n]. -/
def sieveHolder (n : Nat) : Holder := .sieve (Fin.ofNat 8 n)

/-- engine_state of SIEVE[n] (R378): 0 off, 1 idle, 2 loading, 3 running, 4 paused. -/
def engState (s : State) (n : Nat) : Nat := s.nat (K.engEngineState n)

/-- Raises a Sieve event for an engine. -/
def sieveEvent (r : Raiser) (s : State) (n e : Nat) (items : List Nat) : State := r s e items { engine := some n }

/-- The owner code of a run (R378). -/
def RunOwner.code (o : RunOwner) : Nat := match o with
  | .host _ => 1
  | .firmware => 2

/-- Time a run has executed, its pauses left out (R378). -/
def runTime (s : State) (n : Nat) : Nat :=
  let e := s.sieveEng n
  s.elapsed e.runSince - e.pausedFor - (if engState s n = 4 then s.elapsed e.pausedSince else 0)

/-- Ends a run (R370): 1 exit, 2 timeout, 3 fault, 4 withdrawn, 5 stopped; a host command completes with a status. -/
def endRun (r : Raiser) (s : State) (n code result status : Nat) : State :=
  let e := s.sieveEng n
  match e.run with
  | none => s
  | some x =>
    let t := s.setSieveEng n { e with run := none }
    let t := t.on (decide (3 ≤ engState s n)) fun u => u.setN (K.engRunUs n) (sat32 (runTime s n))
    let t := ((t.setN (K.engEngineState n) 1).setN (K.engLastEnd n) code).setN (K.engOwner n) 0
    let t := t.on (decide (code = 1)) fun u => u.setN (K.engLastResult n) result
    let t := unholdRes r t (sieveHolder n)
    match x.owner with
    | .host c => complete r t c status (if code = 1 then result else 0)
    | .firmware => t

/-- A run is stopped (R370, R374): firmware's stop, an abort, a reset. -/
def stopRun (r : Raiser) (s : State) (n status : Nat) : State := endRun r s n 5 0 status

/-- A run is withdrawn (R376, R465): event 456. -/
def withdrawRun (r : Raiser) (s : State) (n : Nat) : State :=
  match (s.sieveEng n).run with
  | none => s
  | some x =>
    let t := endRun r (s.inc K.sivWithdrawnCount) n 4 0 (stat 1 0xC4)
    sieveEvent r t n 456 [n, x.slot, x.owner.code]

/-- Reserves change as an engine pauses or resumes: a paused one keeps 40 mW (R375). -/
def setPaused (r : Raiser) (s : State) (n : Nat) (p : Bool) : State :=
  regovern r { s with power := { s.power with
    held := s.power.held.map fun x => if x.who = sieveHolder n then { x with paused := p } else x } }

/-- Pauses a running engine (R376). -/
def pauseOne (r : Raiser) (s : State) (n : Nat) : State :=
  let t := (s.setN (K.engEngineState n) 4).inc K.sivPauseCount
  setPaused r (t.setSieveEng n { t.sieveEng n with pausedSince := t.now }) n true

/-- Resumes a paused engine. -/
def resumeOne (r : Raiser) (s : State) (n : Nat) : State :=
  let t := setPaused r (s.setN (K.engEngineState n) 3) n false
  let e := t.sieveEng n
  t.setSieveEng n { e with pausedFor := e.pausedFor + s.elapsed e.pausedSince }

/-- Pauses several engines, the first listed first, and raises event 454 once (R376, R379): cause 0 governor, 1 thermal. -/
def pauseEngines (r : Raiser) (s : State) (l : List Nat) (thermal : Bool) : State :=
  if l.isEmpty then s
  else
    let t := l.foldl (fun u n => pauseOne r u n) s
    r t 454 [l.foldl (fun m n => setBit m n true) 0, b2n thermal] {}

/-- Running engines, highest number first. -/
def runningEngines (s : State) : List Nat := [7, 6, 5, 4, 3, 2, 1, 0].filter fun n => engState s n == 3

/-- A controller reset stops every host-owned run, drops waiting runs and deletes every memory range set (R374). -/
def sieveControllerReset (r : Raiser) (s : State) : State :=
  let t := (List.range 8).foldl (fun u n => match (u.sieveEng n).run with
    | some x => (match x.owner with | .host _ => stopRun r u n 0 | .firmware => u)
    | none => u) s
  { t with sieve := { t.sieve with waiting := [], sets := [] } }

/-- What a controller reset leaves of a commit that a host command asked for: nothing commits (spec/12 R277, R290). -/
def endedCommit (c : CommitReq) : CommitReq := match c.cont with
  | .busySet _ _ _ _ | .offline _ _ | .completes _ | .part _ => { c with cont := .dropped none }
  | .zoneDone _ z => { c with cont := .dropped (some z) }
  | _ => c

/-- The zone actions of the commands that a controller reset ends are not committed (spec/12 R277, R290). -/
def endWork (s : State) : State :=
  { s with sheaf := { s.sheaf with commits := s.sheaf.commits.map endedCommit },
           zones := { s.zones with orphans := s.zones.orphans ++ (s.host.table.flatMap fun e => e.zoneActs.map fun x => x.1) } }

/-- A controller reset (spec/12 R277, spec/16 R374, spec/17 R393): causes 0 PERST_L, 1 FLR, 2 CC.EN, 3 keep-alive; that of a block
reset is not stated. -/
def controllerReset (r : Raiser) (s : State) (cause : Nat) (fatal : Bool) : State :=
  let ended := s.host.table.length
  let t := endWork s
  let t := t.setHost { t.host with table := [], sqs := [], cqs := [], stalled := false, ccEn := false, cfs := fatal, shst := 0,
                                   asyncs := [], assoc := none, conns := [] }
  let t := sieveControllerReset r t
  let t := (List.range 16).foldl (fun u i => u.set (K.hostOqState i) 0) t
  let t := (t.setN K.hostCtrlState (if fatal then 5 else 0)).setN K.hostAssocState 0
  let t := releaseLocks r t 16 1
  r t 352 [cause, ended] {}

end Sys2Proof.Machine
end

