-- ==== Sys2Proof/Machine/PowerOps.lean ====
section
/-! DEFINITION. What the mode manager, the governor, the supply detectors and the thermal chains share (spec/20 R451-R472): the
mode sets of the power domains, withdrawal and granting of reservations, and the entry to Safe. -/

namespace Sys2Proof.Machine

/-- Raises an event of R476: its items, then the mode. -/
def modeEvent (r : Raiser) (s : State) (e : Nat) (items : List Nat) : State := r s e (items ++ [s.nat K.pmMode]) {}

/-! ### Domains -/

/-- A domain is absent on the variant, or is pd_aon: no transition changes it. -/
def fixedDomain (s : State) (d : Nat) : Bool := d == 0 || domainAbsent s.variant d

/-- A domain starts toward a goal (R460): 0 off, 1 on, 2 retention. On from retention is kept as goal 3, for its SRAM keeps its
contents. -/
def domainGo (s : State) (d goal : Nat) : State :=
  let st := s.nat (K.pmDomainState d)
  let there := (goal == 0 && (st == 1 || st == 6)) || (goal == 1 && st == 3) || (goal == 2 && st == 4)
  if fixedDomain s d || there then s
  else if goal = 2 ∧ st = 1 then s
  else
    let keeps := st == 4 || (st == 5 && Sp.get s.power.goal d == some 2)
    let g := if goal = 1 ∧ keeps = true then 3 else goal
    { s with power := { s.power with goal := Sp.put s.power.goal d g } }.setN (K.pmDomainState d)
    (if goal = 1 then 2 else 5)

/-- Every domain goes to the set of the mode in force, or to the state firmware requested (R461). -/
def applySets (s : State) : State :=
  (List.range 52).foldl (fun t d => match modeSet t d with
    | some 1 => domainGo t d 0
    | some _ => domainGo t d 2
    | none => domainGo t d (t.nat (K.pmDomainRequest d))) s

/-! ### Reservations -/

/-- The descriptors that TRL[a] holds or has pending. -/
def descsOf (s : State) (a : Nat) : List Desc :=
  (((s.pick a).pool ++ (s.pick a).input).map PoolDesc.desc) ++ (slotsOf a).filterMap fun q => (s.ch q).desc

/-- The class in force of a holder's reservation (R464). -/
def classOf (s : State) (h : Holder) : Nat := match h with
  | .slot q => if q.val % 2 = 0 then 0 else if (descsOf s (q.val / 2)).any fun d => d.cls.toNat ≤ 1 then 1 else 2
  | .sieve _ => 3
  | .ethernet => 1

/-- What a new reservation costs (R464). -/
def costOf (h : Holder) : Nat := match h with
  | .slot _ => 450
  | .sieve _ => 400
  | .ethernet => 500

/-- The code of a holder in events 7 and 8: its bit in holders. -/
def holderCode (h : Holder) : Nat := match h with
  | .slot q => q.val
  | .sieve n => 4 + n.val
  | .ethernet => 20

/-- Event 8 (R465): causes 0 pre-emption, 1 envelope, 2 measurement, 3 thermal. -/
def withdrawnEvent (r : Raiser) (s : State) (h : Holder) (cls cause : Nat) : State :=
  modeEvent r s 8 [holderCode h, cls, cause]

/-- A slot B reservation is withdrawn: twin operation of the actuator goes on as twin-serial (R465, spec/05 R112). -/
def withdrawSlotB (r : Raiser) (s : State) (a cause : Nat) : State :=
  let h := slotBHolder a
  if holds s h then
    let cls := classOf s h
    withdrawnEvent r (twinLeave r (unholdRes r s h) a 2) h cls cause
  else s

/-- One withdrawal among the classes above `cls`, in the order of R465: a running Sieve engine pauses, highest number first;
then a background slot B, ACT[1] first; then a host-class slot B. -/
def withdrawOne (r : Raiser) (s : State) (cls cause : Nat) : Option State :=
  match if cls < 3 then runningEngines s else [] with
  | n :: _ => some (withdrawnEvent r (pauseEngines r s [n] false) (sieveHolder n) 3 cause)
  | [] =>
    match [1, 0].find? fun a => holds s (slotBHolder a) && decide (classOf s (slotBHolder a) = 2) && decide (cls < 2) with
    | some a => some (withdrawSlotB r s a cause)
    | none =>
      match [1, 0].find? fun a => holds s (slotBHolder a) && decide (classOf s (slotBHolder a) = 1) && decide (cls < 1) with
      | some a => some (withdrawSlotB r s a cause)
      | none => none

/-- A reservation of a cost fits the envelope in force (R463). -/
def fits (s : State) (mw : Nat) : Bool := decide (grantedMw s + mw ≤ s.nat K.pmEnvelopeNowMw)

/-- Withdraws until a cost fits or nothing is left to withdraw; the fuel bounds the holders. -/
def makeRoom (r : Raiser) (s : State) (fuel mw cls cause : Nat) : State :=
  match fuel with
  | 0 => s
  | n + 1 => if fits s mw then s else match withdrawOne r s cls cause with
    | none => s
    | some t => makeRoom r t n mw cls cause

/-- Sets the grant flag of a Sieve run whose reservation is held (R375). -/
def grantRun (s : State) (h : Holder) : State := match h with
  | .sieve n => let e := s.sieveEng n; s.setSieveEng n { e with run := e.run.map fun x => { x with granted := true } }
  | _ => s

/-- Grants waiting requests in class order and order of arrival while they fit (R465). -/
def grantWaiting (r : Raiser) (s : State) (fuel : Nat) : State :=
  match fuel with
  | 0 => s
  | n + 1 =>
    let first := s.power.waiting.foldl (fun m x => match m with
      | none => some x
      | some y => if classOf s x.who < classOf s y.who then some x else some y) (none : Option Resv)
    match first with
    | none => s
    | some x =>
      if fits s x.cost then
        let t := { s with power := { s.power with waiting := s.power.waiting.filter fun y => y.who != x.who } }
        grantWaiting r (grantRun (holdRes r t x.who (classOf s x.who)) x.who) n
      else s

/-- Sieve runs are paused by the throttle step or by the mode (R450, R470). -/
def sievePaused (s : State) : Bool :=
  decide (1 ≤ s.nat K.pmThrottleStep) || (2 ≤ s.nat K.pmMode && s.nat K.pmMode ≤ 4)

/-- Paused engines resume from the lowest number up while their 400 mW can be granted again (spec/16 R376). -/
def resumeEngines (r : Raiser) (s : State) : State :=
  if sievePaused s then s
  else
    let (t, l, d) := (List.range 8).foldl (fun (acc : State × List Nat × Nat) n =>
      let u := acc.1
      if engState u n = 4 && fits u 360 then
        (resumeOne r u n, n :: acc.2.1, max acc.2.2 (u.elapsed (u.sieveEng n).pausedSince))
      else acc) (s, ([] : List Nat), 0)
    if l.isEmpty then t else r t 455 [l.foldl (fun m n => setBit m n true) 0, d] {}

/-- The granted sum has fallen or the envelope has risen: engines resume and waiting requests are granted. -/
def regrantAll (r : Raiser) (s : State) : State := regovern r (grantWaiting r (resumeEngines r s) 32)

/-- The envelope has been lowered (R465). -/
def envelopeLowered (r : Raiser) (s : State) : State := regovern r (makeRoom r s 16 0 0 1)

/-- The envelope in force (R453, R463). -/
def envelopeOf (s : State) : Nat :=
  let op := s.power.lastOp
  if op = 1 then min (s.nat K.pmEnvelopeMw) (s.nat K.pmPs1EnvelopeMw) else s.nat K.pmEnvelopeMw

/-- Brings the envelope in force up to date with what follows (R465). -/
def reEnvelope (r : Raiser) (s : State) : State :=
  let old := s.nat K.pmEnvelopeNowMw
  let now := envelopeOf s
  let t := s.setN K.pmEnvelopeNowMw now
  if now < old then envelopeLowered r t else if old < now then regrantAll r t else t

/-! ### Safe -/

/-- Every write gate closes with a cause, both actuators enter RETRACT and both preamps receive SAFE: what a power loss, a
thermal trip and Safe have in common (R311, R456, R472). -/
def mediaOff (r : Raiser) (s : State) (gateCause retractCause : Nat) : State :=
  let t := closeGates r s allSlots gateCause
  let t := retract r (retract r t 0 retractCause) 1 retractCause
  stopLinks t

/-- Entry to Safe (R451 row 1, R456). -/
def safeEnter (r : Raiser) (s : State) (cause : Nat) (hw : Bool) : State :=
  if s.nat K.pmMode = 5 then s
  else
    let old := s.nat K.pmMode
    let t := mediaOff r s 8 2
    let t := (List.range 8).foldl (fun u n => withdrawRun r u n) t
    let t := t.sieve.waiting.foldl (fun u w => complete r u w.1 (stat 1 0xC4) 0) { t with sieve := { t.sieve with waiting := [] } }
    let t := [1, 0].foldl (fun u a => if holds u (slotBHolder a) then
      withdrawSlotB r { u with freeCtr := u.freeCtr + 1 } a (u.free.toNat % 256) else u) t
    let t := { t with power := { t.power with waiting := [], row := none, rowLate := false } }
    let t := t.on (t.flag K.sheafPwcArmed) fun u => flushAsk u 2
    let t := ((t.setN K.pmSafeCause (cause % 512 + b2n hw * 2 ^ 15)).setN K.pmMode 5).setN K.pmModeTarget 5
    let t := applySets (t.setN K.pmModeSource 4)
    let t := modeEvent r t 1 [t.nat K.pmSafeCause]
    modeEvent r t 0 [old, 5, 4]

end Sys2Proof.Machine
end

