-- ==== Sys2Proof/Machine/Reset.lean ====
section
/-! DEFINITION. Block resets (spec/19 R435-R437): what each unit's reset does, its blanking, and the escalation. Events that a
reset raises act through the event framework alone. -/

namespace Sys2Proof.Machine

/-- Reset of actuator a: the driver faults and the load-failure history are gone; RETRACT with cause driver reset from every
state (spec/04 R97, R99). -/
def actReset (r : Raiser) (s : State) (a : Nat) : State :=
  retractNow r (s.setAct a { s.act a with pztFault := 0, loadFails := [] }) a 3

/-- Reset of the Ethernet offload: its connections are gone and the association with them (spec/12 R294). -/
def ethReset (s : State) : State := (s.setHost { s.host with assoc := none, conns := [] }).setN K.hostAssocState 0

/-- What the reset of a unit does (R435); slot units reset their head sequencer under row 13 of R230 where `engine`. -/
def unitEffect (r : Raiser) (s : State) (u : Nat) (engine : Bool) : State :=
  if u < 4 then
    let t := slotReset r s u
    if engine then trlBlockReset t (2 + u) else t
  else if u < 6 then
    let a := u - 4
    (slotsOf a).foldl (slotReset r) (trlBlockReset s a)
  else if u = 6 then deepReset r s
  else if u = 7 then trlBlockReset (motorReset r s) 6
  else if u < 10 then actReset r s (u - 8)
  else if u = 10 then controllerReset r s.drawn s.free.toNat true
  else if u = 11 then ethReset s
  else stopRun r s (u - 12) (stat 1 0xC4)

/-- The fifth reset within the window raises event 485 with class Safe (R437). -/
def escalate (s : State) (u cause : Nat) : State :=
  let n := (windowResets s u).length
  if 5 ≤ n then raiseBase s 485 [u, n, cause] {} else s

/-- A block reset of a unit for a cause; `inFault`: the cause's record went to Fault (R435-R437, R442). -/
def resetUnit (s : State) (u cause : Nat) (inFault engine : Bool) : State :=
  escalate (unitEffect raiseBase (startBlank s u cause inFault) u engine) u cause

/-- A block reset as an event of class block reset asks for it. -/
def blockReset (s : State) (u cause : Nat) : State := resetUnit s u cause (decide (2 ≤ s.evClass cause)) true

end Sys2Proof.Machine
end

