-- ==== Sys2Proof/Machine/React.lean ====
section
/-! DEFINITION. The reaction classes (spec/19 R431): what raising an event does beyond the event framework's own state. -/

namespace Sys2Proof.Machine

/-- The degrade action of a source, where its chapter gives one: servo_degraded (spec/04 R100), the unload of event 67
(spec/03 R67). -/
def degradeAction (s : State) (e : Nat) : State :=
  if 96 ≤ e ∧ e < 224 then setDegraded raiseBase s ((e - 96) / 64)
  else if e = 67 then unloadNow raiseBase (unloadNow raiseBase s 0) 1
  else s

/-- Raises an event (R427) and carries out its reaction class (R431). -/
def raise (s : State) (e : Nat) (ps : List Nat) (o : Occ) : State :=
  let t := raiseBase s e ps o
  if !(eventDefined e && !eventAbsent s.variant e) then t
  else
    let cls := s.applied e o
    let t := if 2 ≤ cls then degradeAction t e else t
    if cls = 3 then (match unitOf e o with | some u => blockReset t u e | none => t) else t

/-- A hardware entry to Safe (R451 row 1). -/
def safeNow (r : Raiser) (s : State) (cause : Nat) : State := safeEnter r s cause true

end Sys2Proof.Machine
end

