-- ==== Sys2Proof/Machine/PartOps.lean ====
section
/-! DEFINITION. What a slot does at the start of its part of a descriptor and where a twin-serial part changes surface: rings
(spec/07 R151, R155), heads and heaters (spec/06 R132, R144), loop values (spec/07 R163). -/

namespace Sys2Proof.Machine

/-- The ring of a track cannot be used because its format no longer fits (spec/07 R155). -/
def ringBad (s : State) (a n : Nat) : Bool :=
  let w := s.cfg (K.ringRingFormat a n)
  decide (bitsOf w 16 10 = 0) || decide (ringSMax s a w < bitsOf w 16 10)

/-- SLOT_SEL of an actuator with a head in a slot (spec/06 R132). -/
def slotSel (sel q h : Nat) : Nat :=
  if q % 2 = 0 then sel - sel % 16 + h else putBits (setBit sel 8 true) 4 4 h

/-- A head takes a slot: the one that leaves has its heater set to 0, then SLOT_SEL names the new one (spec/06 R132, R144); a preamp in its
safe state is taken out of it (spec/06 R133). -/
def selectHead (s : State) (q h : Nat) : State :=
  let a := q / 2
  let sel := (s.link a).sel
  let want := slotSel sel q h
  if want = sel ∧ (s.link a).preampSafe = false then s
  else
    let old := if q % 2 = 0 then bitsOf sel 0 4 else bitsOf sel 4 4
    let t := if old ≠ h ∧ old < 12 then setHeater s q old 0 s.stamp else s
    linkPost t a { cls := 1, cmd := 2, head := 15, addr := 2, data := want, who := .seq, slot := some q, due := some s.stamp }

/-- The angle by which a descriptor's heater write is due: heater_lead_counts before its first gate angle, or at once (spec/06 R144). -/
def heaterDue (s : State) (a : Nat) (d : Desc) : Nat :=
  max s.stamp (s.stamp + countsTo s d.firstFrac.toNat - s.cfg (K.lnkHeaterLeadCounts a))

/-- The slot's loop values at the start of a read descriptor: the entry of its head and ring, or the defaults (spec/07 R163). -/
def loadLoops (s : State) (q h n : Nat) (ignore : Bool) : State :=
  let a := q / 2
  let base := hrAddr s a h n
  let word (off k : Nat) : Nat := leNat (s.load (base + off) k)
  let vga := bitsOf (s.ch q).ringFe 18 9
  let valid := bitAt (word 0x50 4) 0 && !ignore
  let g (off dflt : Nat) : Nat := if valid then word off 2 else dflt
  let i (off w : Nat) : Int := if valid then sgn (8 * w) (word off w) else 0
  let t := (s.setN (K.slotVgaDbR0 q) (g 0x40 vga)).setN (K.slotVgaDbR1 q) (g 0x42 vga)
  let t := (t.setI (K.slotOffsetR0 q) (i 0x44 2)).setI (K.slotOffsetR1 q) (i 0x46 2)
  let t := (t.setI (K.slotAsymR0 q) (i 0x48 2)).setI (K.slotAsymR1 q) (i 0x4A 2)
  let t := t.setI (K.slotTimingOffsetPpb q) (i 0x4C 4)
  let dflt (k : Nat) : Nat := if k % 16 = 7 ∧ usesReader (readerUse s q) (k / 16) = true then 4096 else 0
  t.setCh q { t.ch q with hrTiming := i 0x4C 4, taps := (List.range 32).map fun k => if valid then word (2 * k) 2 else dflt k }

/-- A slot starts its part of a descriptor on ring n: `cnt` sectors; a twin-serial part goes over to ring `other` later. -/
def startPart (s : State) (q n cnt : Nat) (other : Option Nat) (d : Desc) : State :=
  let a := q / 2
  let h := d.head.val
  let named := decide (d.profile.toNat ≠ 0) && !bitAt (s.cfg (K.slotRetryProfile q (d.profile.toNat - 1))) 31
  let s := if named && !d.write then s.inc (K.slotProfileInvalidCount q) else s
  let c := s.ch q
  let t := (s.setCh q { c with desc := some d, ringFmt := s.cfg (K.ringRingFormat a n), ringFe := s.cfg (K.ringRingFe a n),
                               profile := if d.write then 0 else d.profile.toNat, left := cnt, lastLine := false,
                               lastSec := 0, frozenAtClose := false, moved := 0,
                               other := other.map fun m => (m, s.cfg (K.ringRingFormat a m), s.cfg (K.ringRingFe a m)) }).setN (K.slotSlotRing q) n
  let t := selectHead t q h
  let t := setHeater t q h (heaterLevel t a h n d.write) (heaterDue t a d)
  if d.write then
    refreshWrite (t.setWr q { t.wr q with active := true, tag := d.tag.toNat, written := 0, deferrals := 0, twinB := q % 2 == 1 }) q
  else loadLoops t q h n (bitAt (profileWord t q) 16)

/-- The part of a twin descriptor that slot B serves: the other surface (spec/05 R104). -/
def otherSurface (d : Desc) : Desc :=
  { d with head := Fin.ofNat 12 (d.head.val + 1), track := BitVec.ofInt 22 (d.track.toNat + d.pairN.toInt) }

/-- The twin-serial part of slot A goes over to the other surface of its pair when a gate names that surface's head (spec/05 R112): its
ring, head and heater, and its loop values, those of the surface it leaves being written back where a descriptor's would be (spec/07 R163);
the spec says nothing of a part with two heads (DESIGN CHOICE, log 47). -/
def takeSurface (s : State) (q h track : Nat) : State :=
  let a := q / 2
  let c := s.ch q
  match c.desc, c.other with
  | some d, some (n, fmt, fe) =>
    if d.head.val = h ∨ d.head.val / 2 ≠ h / 2 then s
    else
      let t := if d.write then s else hrEnd s q d.head true
      let t := t.setCh q { t.ch q with desc := some { d with head := Fin.ofNat 12 h, track := BitVec.ofNat 22 track },
                                       other := some (t.nat (K.slotSlotRing q), c.ringFmt, c.ringFe), ringFmt := fmt, ringFe := fe,
                                       lastLine := false, lastSec := 0, frozenAtClose := false }
      let t := t.setN (K.slotSlotRing q) n
      let t := setHeater (selectHead t q h) q h (heaterLevel t a h n d.write) t.stamp
      if d.write then t else loadLoops t q h n (bitAt (profileWord t q) 16)
  | _, _ => s

/-- The ring format a sector of a surface is laid out by: the slot's, or the other surface's of a twin-serial part. -/
def surfaceFmt (s : State) (q h : Nat) : Nat :=
  let c := s.ch q
  match c.desc, c.other with
  | some d, some (_, fmt, _) => if d.head.val = h then c.ringFmt else fmt
  | _, _ => c.ringFmt

end Sys2Proof.Machine
end

