-- ==== Sys2Proof/Machine/ReadFront.lean ====
section
/-! DEFINITION. The read front end's commands (spec/07): read gates and the raw sample buffer, defects, loop rails, ring
formats and pin bits. -/

namespace Sys2Proof.Machine

/-- Raises a front-end or detection event of a slot: its items, then the head, the ring and the buffer entry (R171, spec/08 R201). -/
def slotEvent (s : State) (q k : Nat) (items : List Nat) (entry : Nat) : State := slotEventBy raise s q k items entry

/-- The 64-byte header of an entry (R167). -/
def headerBytes (e : Nat) (b : BufEntry) : List Byte :=
  leBytes 8 b.stamp ++ leBytes 4 b.tag ++ leBytes 2 b.sector ++ leBytes 1 (b.head + b.readerUse * 16 + b.codeRate * 64)
    ++ leBytes 1 b.ring ++ leBytes 4 b.track ++ leBytes 2 b.bits ++ leBytes 2 b.pred
    ++ (List.range 4).flatMap (fun j => leBytes 2 (b.resyncs.getD j 0xFFFF)) ++ headerTail e b

/-- The entry a gate request takes (R168): the next FREE one after the last taken, else the ABANDONED one captured earliest. -/
def takeEntry (c : Chan) : Option Nat :=
  let order := (List.range 16).map fun i => (c.last + 1 + i) % 16
  match order.find? fun e => (bufAt c e).st == .free with
  | some e => some e
  | none => (List.range 16).foldl (fun m e =>
      if (bufAt c e).st = .abandoned then
        match m with
        | none => some e
        | some x => if (bufAt c e).stamp < (bufAt c x).stamp then some e else m
      else m) none

/-- Entries of a slot in a state. -/
def countSt (c : Chan) (st : BufSt) : Nat := c.bufs.toList.foldl (fun n e => if e.st = st then n + 1 else n) 0

/-- The held entry that shedding releases (R188): in in-place recovery or waiting for the deep decoder, earliest stamp. -/
def shedVictim (c : Chan) : Option Nat :=
  (List.range 16).foldl (fun m e =>
    let b := bufAt c e
    if b.st == .held && (b.work == .inPlace || b.work == .deepWait) then
      match m with
      | none => some e
      | some x => if b.stamp < (bufAt c x).stamp then some e else m
    else m) none

/-- Sheds until a gate request would leave shed_free entries FREE, or none can be shed (R188; where it stops: DEDUCED, log 12). -/
def shed (s : State) (q fuel : Nat) : State :=
  match fuel with
  | 0 => s
  | f + 1 =>
    if s.cfg (K.slotShedFree q) < freeEntries (s.ch q) then s
    else match shedVictim (s.ch q) with
      | none => s
      | some e => shed (sectorEnds raise s q e 9 0 0 0 1 false) q f

/-- Position of a sector in the slot's descriptor, tracks of its ring's sectors_per_track one after the other (R194 counts so). -/
def descPos (d : Desc) (fmt track sector : Nat) : Nat :=
  ((track : Int) - d.track.toNat).natAbs * bitsOf fmt 16 10 + sector - d.firstSector.toNat

/-- The entry that a gate opening on a slot begins (R157, R158, R167): its stamp is that of the pass of the angle at which the sector's
gate opens, its kind in a group read that of its position (spec/08 R194). -/
def captureEntry (s : State) (q : Nat) (i : ReadGateIn) : BufEntry :=
  let c := s.ch q
  let a := q / 2
  let d := ringD s a c.ringFmt
  let n := codeLength (bitsOf c.ringFmt 13 2)
  let pos := (c.desc.map fun x => descPos x c.ringFmt i.track.toNat i.sector.toNat).getD 0
  let group := (c.desc.map (·.group)).getD false
  { st := .capturing, stamp := stampAt s (sectorAngle s a i.head.val c.ringFmt i.track.toNat i.sector.toNat),
    tag := i.tag.toNat, sector := i.sector.toNat, head := i.head.val, readerUse := c.front.reader, codeRate := bitsOf c.ringFmt 13 2,
    ring := i.ring.val, track := i.track.toNat, resyncs := resyncBits d n (sectorStart d n i.sector.toNat).2,
    acqFrozen := s.flag (K.slotLoopsFrozen q),
    gains := [s.nat (K.slotVgaDbR0 q), s.nat (K.slotVgaDbR1 q), s.int (K.slotTimingOffsetPpb q)],
    freeBase := some s.freeCtr, kind := if group ∧ 32 ≤ pos then 1 else (c.desc.map (·.kind.toNat)).getD 0,
    lba := i.lba.toNat, ns2 := i.ns2, dest := i.dest.toNat, range := (c.desc.map (·.range.toNat)).getD 0,
    zone := ((c.desc.bind (·.zone)).map (·.toNat)).getD 0, generation := (c.desc.map (·.generation.toNat)).getD 0,
    tap := (c.desc.map (·.tap.toNat)).getD 0, group := group, pos := pos, target := c.front.target }

/-- The front end takes its data settings, and the interpolator its start, unless the loops are frozen (R150, R157, R158, R165). -/
def frontOpens (s : State) (q : Nat) : State :=
  let frozen := s.flag (K.slotLoopsFrozen q)
  let c := s.ch q
  let t := s.setCh q { c with front := dataFront s q, timingStart := c.hrTiming, freezes := [],
                              holdFrom := if frozen then some 0 else none, adaptFrom := 0 }
  if frozen then t else t.setI (K.slotTimingOffsetPpb q) c.hrTiming

/-- READ_GATE_REQUEST (R44, R90, R157, R158, R160, R168, spec/08 R188). -/
def execReadGateRequest (q : Slot) (i : ReadGateIn) (s : State) : Host.Outcome State Fault Refusal :=
  let s := boundaryIn s .sector (slotOwns q)
  if s.nat K.sunState ≠ 3 ∨ onRead s q = false ∨ (s.ch q).gate.isSome ∨ (s.ch q).inReset = true ∨ twinHeld s q = true then .next s
  else
    let s := takeSurface s q i.head i.track.toNat
    let s := if s.nat (K.slotBufPolicy q) = 1 then shed s q 16 else s
    let c := s.ch q
    match takeEntry c with
    | none =>
      let t := s.setCh q { c with moved := c.moved + 1 }
      let t := t.inc (K.slotBufferFullCount q)
      .next (slotEvent t q 228 [i.tag.toNat, i.sector.toNat, countSt c .held, countSt c .pinned] c.last)
    | some e =>
      let s := frontOpens s q
      let b := captureEntry s q i
      let c := s.ch q
      let c := { c.setBuf e b with gate := some (Fin.ofNat 16 e), adcTrim := s.power.adcTrim, last := e, railRaised := [], rise := c.rise.map fun r => (r.1, 0) }
      let t := { s.store (entryAddr q e) (headerBytes e b) with freeCtr := s.freeCtr + 0xE7C0 }
      .next (rebuf (t.setCh q c) q)

/-- A defect interval recorded in a header: at most four (R165, R167). -/
def addDefect (b : BufEntry) (flag first len : Nat) : BufEntry :=
  let b := if 2 ≤ flag then { b with drops := b.drops ++ [(first, len)] } else b
  if b.defects.length < 4 then { b with defects := b.defects ++ [(first, len)] } else { b with moreDefects := true }

/-- Intervals of a sector of `bits` bit times in which the loops were held (R165). -/
def heldIntervals (c : Chan) (bits : Nat) : List (Nat × Nat) :=
  c.freezes ++ match c.holdFrom with | some b => [(b, bits)] | none => []

/-- The LMS adapts at a bit time: in the codeword, outside resync fields, while the loops are not held (R160, R165). -/
def lmsAdapts (resyncs : List Nat) (held : List (Nat × Nat)) (i : Nat) : Bool :=
  decide (192 ≤ i) && !(resyncs.any fun f => decide (f - 96 ≤ i) && decide (i < f)) && !(held.any fun w => decide (w.1 ≤ i) && decide (i < w.2))

/-- How the live equaliser runs over the sector of an entry (R159, R160). -/
def liveSettings (s : State) (q : Nat) (b : BufEntry) (held : List (Nat × Nat)) : EqSettings :=
  { target := b.target, amp := s.cfg (K.slotAgcTarget q), shift := s.cfg (K.slotLmsShift q), reader := (s.ch q).front.reader,
    adapts := fun i => bitAt (loopEnable s q) 3 && lmsAdapts b.resyncs held i }

/-- The live path over a sector's samples: its equalised samples and decisions, the taps at the close, the declared mark and the candidates
(R159, R160; spec/08 R177). -/
def livePath (s : State) (q : Nat) (b : BufEntry) (z : Equaliser) : BufEntry :=
  let ds := z.ds.reverse
  let mark := markBits (s.cfg K.detSyncPattern)
  let w := syncWindow s q
  let declared := findMark ds mark b.pred w (s.cfg (K.slotSyncMinMatch q))
  { b with ys := z.ys.reverse, ds := ds, taps := z.taps, declared := declared, markMissed := declared.isNone,
           cands := candidates ds mark b.pred w (s.cfg (K.slotSyncCandMin q)) (s.cfg (K.slotSyncCandMax q)) declared }

/-- Taps as the head-ring state holds them, and back (R159, R162). -/
def tapsOf (l : List Nat) : List Int := (List.range 32).map fun i => sgn 16 (l.getD i 0)
def tapsTo (l : List Int) : List Nat := l.map fun x => (x % 65536).toNat

/-- READ_GATE_CLOSE (R158-R160, R165-R167; spec/08 R177): the samples are stored, the header is complete, the loops hold what they have
adapted to, and the entry is HELD for its live decode. -/
def execReadGateClose (q : Slot) (i : ReadCloseIn) (s : State) : Host.Outcome State Fault Refusal :=
  let c := s.ch q
  match c.gate with
  | none => .next s
  | some e =>
    let flags := s.nat (K.slotDefectFlags q)
    let bits := min i.bits.toNat 39552
    let b := bufAt c e
    -- a flag still up ends its interval of this sector here and goes on into the next
    let b := (List.range 4).foldl (fun x f => if bitAt flags f then
      (match c.rise.find? fun r => r.1 == f with
        | some r => addDefect x f r.2 (bits - r.2)
        | none => x) else x) b
    let held := heldIntervals c bits
    let l := bitSamples s q bits held i.adc
    let z := equalise (liveSettings s q b held) (tapsOf c.taps) l
    let b := { b with st := .held, bits := bits, pred := i.predicted.toNat, complete := true, work := .live, freeBase := none,
                      gainRail := b.gainRail || i.gainRail, timingRail := b.timingRail || i.timingRail }
    let b := livePath s q b z
    let t := (s.store (entryAddr q e + 64) (sampleBytes l)).store (entryAddr q e) (headerBytes e b)
    let t := if c.holdFrom.isNone ∧ c.adaptFrom < bits then adaptLoops t q else t
    let t := t.setCh q { (t.ch q).setBuf e b with gate := none, frozenAtClose := s.flag (K.slotLoopsFrozen q), taps := tapsTo z.taps,
                                                  downAt := c.downAt - bits, freezes := [], adaptFrom := 0,
                                                  holdFrom := c.holdFrom.map fun _ => 0 }
    .next (twinSettle raise t (q / 2))

/-- The reader of a defect flag is in use (R149, R164). -/
def readerInUse (s : State) (q flag : Nat) : Bool :=
  usesReader (if (s.ch q).gate.isSome then (s.ch q).front.reader else readerUse s q) (flag % 2)

/-- A mean in 1/256 ADC step passes a flag's threshold (R164): an asperity's |mean| above it, or, for its fall, below half of it; a
dropout's mean below it, or above it. -/
def meanPasses (s : State) (q flag : Nat) (mean : Int) (fall : Bool) : Bool :=
  let target := s.cfg (K.slotAgcTarget q) * 256
  if flag < 2 then
    let th := s.cfg (K.slotTaThresholdPm q) * target
    if fall then decide (mean.natAbs * 2000 < th) else decide (th < mean.natAbs * 1000)
  else
    let th : Int := (s.cfg (K.slotDropoutThresholdPm q) * target : Nat)
    if fall then decide (th < mean * 1000) else decide (mean * 1000 < th)

/-- Every adaptive loop is restored to its value 32 bits before a rise, or at the gate's opening or the last resync if that is nearer, and held
(R165). What the loops held there is free where they had adapted. -/
def freezeLoops (s : State) (q bit : Nat) : State :=
  let c := s.ch q
  let resyncs := match c.gate with | some e => (bufAt c e).resyncs | none => []
  let from_ := (resyncs.filter fun r => decide (r ≤ bit)).foldl max (bit - 32)
  let t := if c.gate.isSome ∧ c.adaptFrom < from_ then adaptLoops s q else s
  (t.setCh q { t.ch q with holdFrom := some from_ }).setB (K.slotLoopsFrozen q) true

/-- The entry an event of the front end names: the one being captured, or the one taken last. -/
def eventEntry (c : Chan) : Nat := match c.gate with | some e => e.val | none => c.last

/-- DEFECT_DETECT (R164, R165): a mean past its threshold raises the flag and freezes every loop of the slot. -/
def execDefectDetect (q : Slot) (flag : Fin 4) (mean : BitVec 16) (bit : BitVec 16) (s : State) :
    Host.Outcome State Fault Refusal :=
  if !readerInUse s q flag || s.bit (K.slotDefectFlags q) flag || !meanPasses s q flag mean.toInt false then .next s
  else
    let t := (s.setBitOf (K.slotDefectFlags q) flag true).setBitOf (K.slotDefectFlags q) 4 false
    let t := if s.flag (K.slotLoopsFrozen q) then t else freezeLoops t q bit.toNat
    let early := decide (bit.toNat < s.cfg (K.slotAcqBits q))
    let c := t.ch q
    let c := match c.gate with
      | some e => c.setBuf e { bufAt c e with acqFrozen := (bufAt c e).acqFrozen || early }
      | none => c
    let rise := (flag.val, bit.toNat) :: c.rise.filter fun r => r.1 != flag.val
    let t := t.setCh q { c with rise := rise, longRaised := c.longRaised.filter fun f => f != flag.val }
    if flag.val < 2 then
      .next (slotEvent (t.inc (K.slotTaCount q)) q 224 [flag.val, mean.toNat, bit.toNat] (eventEntry c))
    else .next (slotEvent (t.inc (K.slotDropoutCount q)) q 225 [flag.val - 2, mean.toNat, bit.toNat] (eventEntry c))

/-- DEFECT_CLEAR (R164, R165): after 16 bits with the mean past the threshold of its fall, the worst of which is `mean`, the flag falls, its
interval is recorded, and the hold-off starts when every flag is down. -/
def execDefectClear (q : Slot) (flag : Fin 4) (mean : BitVec 16) (bit : BitVec 16) (s : State) : Host.Outcome State Fault Refusal :=
  if !s.bit (K.slotDefectFlags q) flag || !meanPasses s q flag mean.toInt true then .next s
  else
    let c := s.ch q
    let t := s.setBitOf (K.slotDefectFlags q) flag false
    let down := decide (bitsOf (t.nat (K.slotDefectFlags q)) 0 4 = 0)
    let t := if down then t.setBitOf (K.slotDefectFlags q) 4 true else t
    let first := ((c.rise.find? fun r => r.1 == flag.val).map (·.2)).getD 0
    let c := match c.gate with
      | some e => c.setBuf e (addDefect (bufAt c e) flag first (bit.toNat - first))
      | none => c
    .next (t.setCh q { c with rise := c.rise.filter (fun r => r.1 != flag.val), downAt := if down then (bit.toNat : Int) else c.downAt })

/-- DEFECT_HOLDOFF_EXPIRY (R165): the loops resume. -/
def execDefectHoldoffExpiry (q : Slot) (s : State) : Host.Outcome State Fault Refusal :=
  if !s.bit (K.slotDefectFlags q) 4 then .next s
  else
    let t := (s.setBitOf (K.slotDefectFlags q) 4 false).setB (K.slotLoopsFrozen q) false
    let c := t.ch q
    let at_ := (c.downAt + s.cfg (K.slotDefectHoldoffBits q)).toNat
    .next (t.setCh q { c with freezes := c.freezes ++ [(c.holdFrom.getD 0, at_)], holdFrom := none, adaptFrom := at_ })

/-- DEFECT_LONG (R165): once per rise, at defect_max_bits. -/
def execDefectLong (q : Slot) (flag : Fin 4) (s : State) : Host.Outcome State Fault Refusal :=
  let c := s.ch q
  if !s.bit (K.slotDefectFlags q) flag || c.longRaised.contains flag.val then .next s
  else
    let t := s.setCh q { c with longRaised := flag.val :: c.longRaised }
    .next (slotEvent (t.inc (K.slotDefectLongCount q)) q 226
      [flag.val / 2, flag.val % 2, s.cfg (K.slotDefectMaxBits q)] (eventEntry c))

/-- LOOP_RAIL (R158, R161): once per sector and loop. -/
def execLoopRail (q : Slot) (loop : Fin 3) (held : BitVec 32) (s : State) : Host.Outcome State Fault Refusal :=
  let c := s.ch q
  if c.railRaised.contains loop.val then .next s
  else
    let c := match c.gate with
      | some e =>
        let b := bufAt c e
        c.setBuf e (if loop.val = 2 then { b with timingRail := true } else { b with gainRail := true })
      | none => c
    let t := s.setCh q { c with railRaised := loop.val :: c.railRaised }
    let t := t.inc (if loop.val = 2 then K.slotTimingRailCount q else K.slotGainRailCount q)
    .next (slotEvent t q 227 [loop.val, held.toNat] (eventEntry c))

/-- RING_FORMAT_WRITE (R152, R155). -/
def execRingFormatWrite (m : Master) (a : Act) (n : Fin 64) (v : Word) (s : State) : Host.Outcome State Fault Refusal :=
  .next (kwrite s m (K.ringRingFormat a n) v id)

/-- A pin bit meets its entry (R168). -/
def pinEntry (s : State) (q : Nat) (c : Chan) (e : Nat) : Chan :=
  let b := bufAt c e
  if s.bit (K.slotBufPin q) e then
    (if b.st = .free ∨ b.st = .abandoned then c.setBuf e { b with st := .pinned } else c)
  else if b.st = .pinned then c.setBuf e { b with st := .free }
  else c

/-- The action of an accepted BUF_PIN_WRITE (R168). -/
def bufPinWriteAct (q : Nat) (t : State) : State :=
  rebuf (t.setCh q ((List.range 16).foldl (pinEntry t q) (t.ch q))) q

/-- BUF_PIN_WRITE (R168). -/
def execBufPinWrite (m : Master) (q : Slot) (v : Word) (s : State) : Host.Outcome State Fault Refusal :=
  .next (kwrite s m (K.slotBufPin q) v (bufPinWriteAct q))

end Sys2Proof.Machine
end

