-- ==== Sys2Proof/Machine/ZoneOps.lean ====
section
/-! DEFINITION. Zone contexts as bytes of the Larder (spec/11 R244-R246), where blocks lie (R248-R250), the format check (R251),
the limits and the allocation port (R253, R254), and the shingle guard (spec/09 R208-R210). A context is handled as the
256-bit number of its 32 little-endian bytes, so its reserved bits stay as they are. -/

namespace Sys2Proof.Machine

/-- First address of the zone-context array (spec/01 R20). -/
def ctxBase : Nat := 0x40000000
/-- Address of the context of a zone (R244). -/
def ctxAddr (z : Nat) : Nat := ctxBase + 32 * z
/-- Contexts in the array. -/
def ctxCount : Nat := 262144

/-- A context, as a number. -/
abbrev Ctx := Nat

/-- The context of a zone. -/
def State.ctx (s : State) (z : Nat) : Ctx := leNat (s.load (ctxAddr z) 32)

/-! ### Fields (R245) -/

/-- state. -/
def Ctx.st (c : Ctx) : Nat := bitsOf c 0 4
/-- type: 0 sequential write required, 1 conventional. -/
def Ctx.ty (c : Ctx) : Nat := bitsOf c 4 2
/-- layout. -/
def Ctx.layout (c : Ctx) : Nat := bitsOf c 6 2
/-- actuator. -/
def Ctx.act (c : Ctx) : Nat := bitsOf c 8 1
/-- head. -/
def Ctx.head (c : Ctx) : Nat := bitsOf c 9 4
/-- direction. -/
def Ctx.dir (c : Ctx) : Nat := bitsOf c 13 1
/-- demoted. -/
def Ctx.demoted (c : Ctx) : Bool := bitAt c 14
/-- busy. -/
def Ctx.busy (c : Ctx) : Nat := bitsOf c 15 3
/-- Host write pointer. -/
def Ctx.wp (c : Ctx) : Nat := bitsOf c 32 17
/-- Media write pointer. -/
def Ctx.mwp (c : Ctx) : Nat := bitsOf c 64 17
/-- Allocation pointer. -/
def Ctx.ap (c : Ctx) : Nat := bitsOf c 96 17
/-- data_end. -/
def Ctx.dataEnd (c : Ctx) : Nat := bitsOf c 128 17
/-- first_track. -/
def Ctx.firstTrack (c : Ctx) : Nat := bitsOf c 160 22
/-- ring. -/
def Ctx.ring (c : Ctx) : Nat := bitsOf c 182 6
/-- pair_n. -/
def Ctx.pairN (c : Ctx) : Int := sgn 16 (bitsOf c 192 16)
/-- tracks. -/
def Ctx.tracks (c : Ctx) : Nat := bitsOf c 208 16
/-- capacity. -/
def Ctx.capacity (c : Ctx) : Nat := bitsOf c 224 17
/-- A twin layout. -/
def Ctx.twin (c : Ctx) : Bool := c.layout == 1 || c.layout == 2
/-- The layout includes the outer code. -/
def Ctx.outer (c : Ctx) : Bool := c.layout == 2 || c.layout == 3
/-- The zone is open (R253). -/
def Ctx.isOpen (c : Ctx) : Bool := c.st == 2 || c.st == 3
/-- The zone is active (R253). -/
def Ctx.isActive (c : Ctx) : Bool := c.isOpen || c.st == 4

/-- state set. -/
def Ctx.setSt (c : Ctx) (v : Nat) : Ctx := putBits c 0 4 v
/-- busy set. -/
def Ctx.setBusy (c : Ctx) (v : Nat) : Ctx := putBits c 15 3 v
/-- demoted set. -/
def Ctx.setDemoted (c : Ctx) (b : Bool) : Ctx := putBits c 14 1 (b2n b)
/-- wp set. -/
def Ctx.setWp (c : Ctx) (v : Nat) : Ctx := putBits c 32 17 v
/-- mwp set. -/
def Ctx.setMwp (c : Ctx) (v : Nat) : Ctx := putBits c 64 17 v
/-- ap set. -/
def Ctx.setAp (c : Ctx) (v : Nat) : Ctx := putBits c 96 17 v
/-- data_end set. -/
def Ctx.setDataEnd (c : Ctx) (v : Nat) : Ctx := putBits c 128 17 v
/-- The four pointers set to one value. -/
def Ctx.setPtrs (c : Ctx) (v : Nat) : Ctx := (((c.setWp v).setMwp v).setAp v).setDataEnd v
/-- zfc, fzr and rzr cleared. -/
def Ctx.clearAttrs (c : Ctx) : Ctx := putBits c 18 3 0

/-- The pointers are in order (R246). -/
def Ctx.ordered (c : Ctx) : Bool :=
  decide (c.mwp ≤ c.dataEnd) && decide (c.dataEnd ≤ c.wp) && decide (c.wp ≤ c.ap) && decide (c.ap ≤ c.capacity)

/-- Writes the context of a zone, and keeps the counts of open and active zones (R253). -/
def State.putCtx (s : State) (z : Nat) (c : Ctx) : State :=
  let o := s.ctx z
  let t := s.store (ctxAddr z) (leBytes 32 c)
  (t.setN K.zoneOpenNow (t.nat K.zoneOpenNow + b2n c.isOpen - b2n o.isOpen)).setN K.zoneActiveNow
    (t.nat K.zoneActiveNow + b2n c.isActive - b2n o.isActive)

/-- Zones in use by the format (R244). -/
def zoneTotal (s : State) : Nat := s.nat K.zoneZoneCount + s.nat K.zoneConvCount

/-- Zones of which the Larder lists a byte that is not 0, in ascending order. -/
def listedZones (s : State) : List Nat :=
  (s.mem.filterMap fun c => if ctxBase ≤ c.1 ∧ c.1 < ctxBase + 32 * ctxCount then some ((c.1 - ctxBase) / 32) else none).foldr
    (fun z l => match l with
      | [] => [z]
      | y :: _ => if y = z then l else z :: l) []

/-- Raises an event of the zone hardware: the zone, then its other items (R273). -/
def zoneEvent (s : State) (e : Nat) (items : List Nat) (z : Nat) : State := raise s e (z :: items) {}

/-- Event 320 (R246, R252): the action or host command, the state, the pointers. -/
def actionRefused (s : State) (what z : Nat) : State :=
  let c := s.ctx z
  raise s 320 [what, c.st, c.wp, c.mwp, c.ap, c.dataEnd, z] {}

/-! ### Where blocks lie (R248-R250) -/

/-- sectors_per_track of a ring. -/
def sptOf (s : State) (a n : Nat) : Nat := bitsOf (s.nat (K.ringRingFormat a n)) 16 10

/-- Data sectors before a physical index of a surface with the outer code. -/
def datOf (q : Nat) : Nat := 32 * (q / 34) + (if q % 34 < 32 then q % 34 else 32)
/-- Physical index of a data ordinal with the outer code. -/
def physOf (d : Nat) : Nat := 34 * (d / 32) + d % 32
/-- Data sectors of a surface before a physical index. -/
def Ctx.cnt (c : Ctx) (q : Nat) : Nat := if c.outer then datOf q else q

/-- Data track of a track index (R248). -/
def Ctx.track (c : Ctx) (i : Nat) : Int :=
  let g : Int := if c.ty = 1 then 2 else 1
  if c.dir = 0 then (c.firstTrack : Int) + g * i else (c.firstTrack : Int) - g * i

/-- First block of a track index (R250). -/
def Ctx.firstBlock (c : Ctx) (spt i : Nat) : Nat :=
  if c.twin then 2 * min (c.cnt (spt * i)) (c.capacity / 2) else min (c.cnt (spt * i)) c.capacity

/-- The smallest n for which the first block of track index n is the capacity (R250); none where the fuel runs out. -/
def Ctx.findTracks (c : Ctx) (spt fuel n : Nat) : Option Nat :=
  match fuel with
  | 0 => none
  | f + 1 => if c.firstBlock spt n = c.capacity then some n else c.findTracks spt f (n + 1)

/-- A block's place (R249): side, data track, track index, sector. -/
structure BlockPlace where
  side : Nat
  track : Int
  index : Nat
  sector : Nat
deriving DecidableEq, Repr

/-- The pair that holds a block of a twin layout. -/
def Ctx.pairOf (c : Ctx) (spt b fuel i : Nat) : Nat :=
  match fuel with
  | 0 => i
  | f + 1 => if b < c.firstBlock spt (i + 1) then i else c.pairOf spt b f (i + 1)

/-- Maps a block offset of a zone to its place (R249). -/
def Ctx.place (c : Ctx) (spt b : Nat) : BlockPlace :=
  let (d, side) :=
    if !c.twin then (b, 0)
    else
      let i := c.pairOf spt b 65536 0
      let lo := c.cnt (spt * i)
      let u := b - 2 * lo
      let n := min (c.cnt (spt * (i + 1))) (c.capacity / 2) - lo
      if u < n then (lo + u, 0) else (lo + u - n, 1)
  let q := if c.outer then physOf d else d
  let i := q / spt
  { side := side, track := c.track i + (if side = 1 then c.pairN else 0), index := i, sector := q % spt }

/-- Surfaces of a zone: head and its lowest and highest data track (R248). -/
def Ctx.surfaces (c : Ctx) : List (Nat × Int × Int) :=
  let x := c.track 0
  let y := c.track (c.tracks - 1)
  let lo := if x < y then x else y
  let hi := if x < y then y else x
  (c.head, lo, hi) :: (if c.twin then [(c.head + 1, lo + c.pairN, hi + c.pairN)] else [])

/-- New descriptors join the input queue of a format sequencer with the time of their post (spec/12 R282). -/
def postFresh (s : State) (a : Nat) (fresh : List Desc) : State :=
  let p := s.pick a
  s.setPick a { p with input := p.input ++ fresh.map fun d => { desc := d, posted := s.now } }

/-! ### The format check (R251) -/

/-- The actuator of a zone (R247). -/
def zoneAct (s : State) (z : Nat) : Nat := if s.variant = .p120 then 0 else z / 16 % 2

/-- Cause 1 for the context of a zone. -/
def formatUse (s : State) (z : Nat) (c : Ctx) : Bool :=
  let zc := s.nat K.zoneZoneCount
  if z < zoneTotal s then
    [1, 2, 3, 4, 0xD, 0xE, 0xF].contains c.st && c.ty == (if z < zc then 0 else 1) && decide (zoneTotal s ≤ ctxCount)
  else c.st == 0

/-- Cause 2: the actuator and the heads. -/
def formatHeads (s : State) (z : Nat) (c : Ctx) : Bool :=
  let top := if c.twin then c.head + 1 else c.head
  c.act == zoneAct s z && decide (top < 12) && decide (top < Config.headsUsed c.act)

/-- A ring format is valid: its sectors_per_track is within 1 to S_max (spec/07 R155). -/
def ringValid (s : State) (a n : Nat) : Bool :=
  let w := s.nat (K.ringRingFormat a n)
  let spt := bitsOf w 16 10
  spt != 0 && decide (spt ≤ ringSMax s a w)

/-- Cause 3: every track lies in the ring, for each head used. -/
def formatRing (s : State) (c : Ctx) : Bool :=
  ringValid s c.act c.ring && (List.range c.tracks).all fun i =>
    let t := c.track i
    let one (h : Nat) (x : Int) : Bool := decide (0 ≤ x) && ringAt s (s.nat (K.actDataPitchQ16 c.act)) c.act h x.toNat == some c.ring
    one c.head t && (!c.twin || one (c.head + 1) (t + c.pairN))

/-- Cause 4: the capacity. -/
def formatCapacity (s : State) (z : Nat) (c : Ctx) : Bool :=
  let dm := decide (s.nat K.zoneZoneMode = 2)
  let last := dm && decide (z + 1 = s.nat K.zoneZoneCount)
  let want := if last then s.nat K.zoneNsBlocks - 65536 * z else 65536
  c.capacity == want && decide (0 < c.capacity) && (match c.layout with
    | 0 => true
    | 1 => c.capacity % 2 == 0
    | 2 => c.capacity % 64 == 0
    | _ => c.capacity % 32 == 0)

/-- max |r| of a track pair meets twin_budget_nm at every wedge, and the map is valid there (spec/05 R108). -/
def pairMeets (s : State) (c : Ctx) (i : Nat) : Bool :=
  let a := c.act
  let pitch : Int := s.nat (K.actDataPitchQ16 a)
  let shift := c.pairN * pitch
  let rho := c.track i * pitch
  (List.range 512).all fun w => match surfaceOffset s a (c.head / 2) w rho with
    | none => false
    | some d => decide ((shift - d).natAbs * s.cfg (K.actServoPitchPm a) ≤ s.cfg (K.actTwinBudgetNm a) * 1000 * 65536)

/-- The map is valid at every radial point from the first to the last track (spec/05 R108). -/
def spanValid (s : State) (c : Ctx) : Bool :=
  (List.range c.tracks).all fun i => (surfaceOffset s c.act (c.head / 2) 0 (c.track i * s.nat (K.actDataPitchQ16 c.act))).isSome

/-- Cause 5: what twin layouts need. -/
def formatTwin (s : State) (c : Ctx) : Bool :=
  if c.ty = 1 then !c.twin && !c.outer
  else if c.twin then
    c.head % 2 == 0 && hasSlot s.variant (2 * c.act + 1) && s.bit (K.actMapValid c.act) (c.head / 2) && spanValid s c
      && pairMeets s c 0 && pairMeets s c (c.tracks - 1)
  else true

/-- Cause 6: every track lies within 0 to 2^22 - 1. -/
def formatTracks (c : Ctx) : Bool :=
  c.surfaces.all fun x => decide (0 ≤ x.2.1) && decide (x.2.2 < 2 ^ 22)

/-- Two track intervals are more than guard_tracks apart. -/
def apart (g : Nat) (x y : Int × Int) : Bool := decide (x.2 + g < y.1) || decide (y.2 + g < x.1)

/-- Valid unshingled ranges of a head (spec/09 R210). -/
def unshingled (s : State) (a h : Nat) : List (Int × Int) :=
  (List.range 16).filterMap fun i =>
    let w := s.nat (K.ringUnshingled a h i)
    if bitAt w 63 then some ((bitsOf w 0 22 : Nat), (bitsOf w 22 22 : Nat)) else none

/-- A context with the tracks field its capacity gives (R250); none where no track count gives it. -/
def withTracks (s : State) (c : Ctx) : Option Ctx :=
  let spt := sptOf s c.act c.ring
  (c.findTracks spt 65537 0).map fun n => putBits c 208 16 n

/-- Cause 7: distance from every other zone but one, and from the unshingled ranges. -/
def formatApart (s : State) (z : Nat) (c : Ctx) : Bool :=
  let g := s.nat K.zoneGuardTracks
  c.surfaces.all fun x =>
    (unshingled s c.act x.1).all (fun r => apart g x.2 r)
      && (listedZones s).all fun y =>
        let o := s.ctx y
        y == z || o.st == 0 || o.act != c.act || match withTracks s o with
          | none => true
          | some o => o.surfaces.all fun w => w.1 != x.1 || apart g x.2 w.2

/-- Cause 8: the pointers. -/
def formatPointers (c : Ctx) : Bool :=
  c.ordered && c.busy == 0 && (c.st != 1 || c.ap == 0) && (c.st != 0xE || (c.wp == c.capacity && c.ap == c.capacity))

/-- Cause 9: drive-managed mode. -/
def formatDrive (s : State) (c : Ctx) : Bool :=
  s.nat K.zoneZoneMode != 2
    || (s.nat K.zoneConvCount == 0 && s.nat K.zoneZoneCount == (s.nat K.zoneNsBlocks + 65535) / 65536 && (c.st == 1 || c.st == 0xE))

/-- Causes 2 to 6 of a context with a placement, with its tracks; none where it meets them, else the cause. -/
def placementCause (s : State) (z : Nat) (c : Ctx) : Option Nat :=
  if !formatHeads s z c then some 2
  else match withTracks s c with
    | none => some (if ringValid s c.act c.ring then 4 else 3)
    | some d =>
      if !formatRing s d then some 3
      else if !formatCapacity s z d then some 4
      else if !formatTwin s d then some 5
      else if !formatTracks d then some 6
      else none

/-- The first rule of R251 that the context of a zone fails. -/
def formatCause (s : State) (z : Nat) (c : Ctx) : Option Nat :=
  if !formatUse s z c then some 1
  else if c.st = 0 then none
  else match placementCause s z c with
    | some n => some n
    | none =>
      let d := (withTracks s c).getD c
      if !formatApart s z d then some 7
      else if !formatPointers d then some 8
      else if !formatDrive s d then some 9
      else none

/-- The first failing zone with its cause: zones in ascending order, those between listed ones reading 0. -/
def formatScan (s : State) (l : List Nat) (next : Nat) : Option (Nat × Nat) :=
  match l with
  | [] => if next < zoneTotal s then some (next, 1) else none
  | z :: r =>
    if next < z ∧ next < zoneTotal s then some (next, 1)
    else match formatCause s z (s.ctx z) with
      | some n => some (z, n)
      | none => formatScan s r (z + 1)

/-! ### Limits and allocation (R252-R255) -/

/-- The Implicitly Opened zone with ap = wp whose last accepted write is oldest (R253). -/
def closable (s : State) : Option Nat :=
  (listedZones s).foldl (fun m z =>
    let c := s.ctx z
    if c.st == 2 && c.ap == c.wp then
      let at_ (x : Nat) : Nat := (Sp.get s.zones.lastUse x).getD 0
      match m with
      | none => some z
      | some y => if at_ z < at_ y then some z else m
    else m) none

/-- A close, or an implicit close (rows 3 and 4 of R252). -/
def closeZone (s : State) (z : Nat) : State :=
  let c := s.ctx z
  s.putCtx z (c.setSt (if c.wp = 0 then 1 else 4))

/-- The limits at a transition of a zone to an open state (R253): 0, 6 or 7, with what an implicit close did. -/
def openLimits (s : State) (z : Nat) : Nat × State :=
  let c := s.ctx z
  if c.st ≠ 1 ∧ c.st ≠ 4 then (0, s)
  else if c.st = 1 ∧ s.nat K.zoneMaxActive ≤ s.nat K.zoneActiveNow then (6, zoneEvent s 323 [s.nat K.zoneActiveNow] z)
  else if s.nat K.zoneOpenNow < s.nat K.zoneMaxOpen then (0, s)
  else match closable s with
    | some y => (0, raise ((closeZone s y).inc K.zoneImplicitCloseCount) 321 [y, z] {})
    | none => (7, zoneEvent s 322 [s.nat K.zoneOpenNow] z)

/-- The checks 0 to 8 of R254: the status of the first that fails, 0 where none does. -/
def allocCheck (s : State) (z count : Nat) (offset : Option Nat) : Nat :=
  let c := s.ctx z
  if zoneTotal s ≤ z ∨ s.flag K.zoneZoneHwEnable = false then 10
  else if c.st = 0xF then 5
  else if c.st = 0xD then 4
  else if c.ty ≠ 0 then 10
  else if c.st = 0xE then 3
  else if c.demoted then 9
  else if c.busy ≠ 0 then 8
  else if (match offset with | some o => decide (o ≠ c.ap) | none => false) then 1
  else if c.capacity < c.ap + count then 2
  else 0

/-- A refused allocation is counted and reported (R254, R260). -/
def allocRefused (s : State) (z status : Nat) (offset : Option Nat) : State :=
  if status = 1 then zoneEvent (s.inc K.zoneInvalidWriteCount) 324 [offset.getD 0, (s.ctx z).ap] z
  else
    let t := s.inc K.zoneAllocRefusedCount
    if status = 9 ∧ t.zones.heldDemoted.contains z = false then
      let held := (t.host.table.filter fun e => e.heldZone == some z).length
      zoneEvent { t with zones := { t.zones with heldDemoted := z :: t.zones.heldDemoted } } 330 [held + 1] z
    else t

/-- An allocation: status, offset and state (R254). A write names its offset; an append does not. -/
def allocate (s : State) (z count : Nat) (offset : Option Nat) : Nat × Nat × State :=
  let st := allocCheck s z count offset
  if st ≠ 0 then (st, 0, allocRefused s z st offset)
  else
    let (lim, t) := openLimits s z
    if lim ≠ 0 then (lim, 0, t.inc K.zoneAllocRefusedCount)
    else
      let c := t.ctx z
      let c' := if c.st = 1 ∨ c.st = 4 then c.setSt 2 else c
      let t := t.putCtx z (c'.setAp (c.ap + count))
      let n := t.zones.useSeq + 1
      (0, c.ap, { t with zones := { t.zones with useSeq := n, lastUse := Sp.put t.zones.lastUse z n } })

/-- NVMe status of an allocation status (R254). -/
def allocStatus (n : Nat) : Nat := match n with
  | 1 => stat 1 0xBC | 2 => stat 1 0xB8 | 3 => stat 1 0xB9 | 4 => stat 1 0xBA | 5 => stat 1 0xBB | 6 => stat 1 0xBD
  | 7 => stat 1 0xBE | _ => 0

/-- A request with rewind set (R254): check 0, then ap takes wp. -/
def rewindZone (s : State) (z : Nat) : Nat × State :=
  if zoneTotal s ≤ z ∨ s.flag K.zoneZoneHwEnable = false then (10, s.inc K.zoneAllocRefusedCount)
  else let c := s.ctx z; (0, s.putCtx z (c.setAp c.wp))

/-! ### The shingle guard (spec/09 R208-R210) -/

/-- The first block of the track after a gate's track. -/
def nextTrackBlock (s : State) (z i : Nat) : Nat := let c := s.ctx z; c.firstBlock (sptOf s c.act c.ring) (i + 1)

/-- The guard passes for a sector of a zone at a track index (R208, R210). -/
def guardZone (s : State) (z i : Nat) : Bool :=
  let c := s.ctx z
  c.ty == 1
    || (([2, 3, 4, 0xE].contains c.st) && !c.demoted && (decide (i + 1 = c.tracks) || decide (c.mwp ≤ nextTrackBlock s z i)))

/-- The guard passes for a descriptor with no zone on tracks lo to hi (R210): one valid range holds every one of its sectors. -/
def guardArea (s : State) (a h lo hi : Nat) : Bool :=
  (unshingled s a h).any fun r => decide (r.1 ≤ (lo : Int)) && decide ((hi : Int) ≤ r.2)

/-- The guard of R208-R210 for a gate of an actuator. -/
def guardPasses (s : State) (a h lo hi : Nat) (zone : Option Nat) (i : Nat) : Bool := match zone with
  | some z => guardZone s z i
  | none => guardArea s a h lo hi

/-- After a commit: an open gate whose guard no longer passes closes (R209). -/
def guardSweep (s : State) : State :=
  allSlots.foldl (fun t q => match (t.wr q).gate with
    | some g => if guardPasses t (q / 2) g.head g.firstTrack g.lastTrack g.zone g.trackIndex then t else closeGate raise t q 11
    | none => t) s

/-! ### Groups of the outer code (R249) -/

/-- Track index of a data track in a zone (spec/11 R248). -/
def trackIndexOf (c : Ctx) (side : Nat) (track : Nat) : Nat :=
  let d := ((track : Int) - (if side = 1 then c.pairN else 0) - c.firstTrack).natAbs
  if c.ty = 1 then d / 2 else d

/-- Group of a sector of a zone with the outer code, and its position in it (spec/11 R249). -/
def groupOf (s : State) (c : Ctx) (index sector : Nat) : Nat × Nat :=
  let q := sptOf s c.act c.ring * index + sector
  (q / 34, q % 34)

/-- Tag of a parity sector: its group index (spec/11 R249). -/
def parityTag (s : State) (c : Ctx) (head track sector : Nat) : Nat :=
  let side := head - c.head
  let g := (groupOf s c (trackIndexOf c side track) sector).1
  if c.twin then 2 * g + side else g

end Sys2Proof.Machine
end

