-- ==== Sys2Proof/Machine/CommitOps.lean ====
section
/-! DEFINITION. Sheaf actions and commits (spec/13 R301-R307): the form of an action, its check, its effect, the Attic lists and
the cache directory it acts on, the record of a commit, and the order in which commits are served. Commits that the module asks
for by itself go on to what they were asked for. -/

namespace Sys2Proof.Machine

/-- A 32-byte action as the number of its little-endian bytes. -/
abbrev Action := Nat

/-- kind of an action. -/
def Action.kind (a : Action) : Nat := bitsOf a 0 4
/-- sub-op of an action. -/
def Action.sub (a : Action) : Nat := bitsOf a 8 8
/-- Zone number, bytes 4-7. -/
def Action.zone (a : Action) : Nat := bitsOf a 32 18
/-- Bytes 8-11 and 12-15. -/
def Action.w2 (a : Action) : Nat := bitsOf a 64 32
/-- Bytes 12-15. -/
def Action.w3 (a : Action) : Nat := bitsOf a 96 32
/-- Placement, bytes 8-15. -/
def Action.placement (a : Action) : Nat := bitsOf a 64 64

/-- A zone action of kind 2. -/
def zoneAction (sub z : Nat) : Action := 2 + sub * 2 ^ 8 + z * 2 ^ 32
/-- The busy action (R303). -/
def busyAction (z v : Nat) : Action := zoneAction 6 z + v * 2 ^ 64
/-- A reset action, with a placement where one is set. -/
def resetAction (z : Nat) (p : Option Nat) : Action := match p with
  | none => zoneAction 1 z
  | some x => zoneAction 1 z + x % 2 ^ 64 * 2 ^ 64 + 2 ^ 128
/-- A place action. -/
def placeAction (z p : Nat) : Action := zoneAction 7 z + p % 2 ^ 64 * 2 ^ 64

/-! ### Form (R301) -/

/-- Fields of an action's kind and sub-op as (bit, width), kind and sub-op apart; none for no such action (R303). -/
def actionFields (kind sub : Nat) : Option (List (Nat × Nat)) :=
  match kind, sub with
  | 1, 0 => some [(32, 16), (48, 8), (64, 64)]
  | 2, 1 => some [(32, 18), (64, 28), (96, 23), (120, 8), (128, 1)]
  | 2, 2 => some [(32, 18)]
  | 2, 3 => some [(32, 18)]
  | 2, 4 => some [(32, 18)]
  | 2, 5 => some [(32, 18)]
  | 2, 6 => some [(32, 18), (64, 3)]
  | 2, 7 => some [(32, 18), (64, 28), (96, 23), (120, 8)]
  | 3, 0 => some [(32, 18), (64, 17), (96, 17)]
  | 4, 1 => some [(32, 26), (63, 1), (64, 18)]
  | 4, 2 => some [(32, 26), (64, 32)]
  | 4, 3 => some [(32, 26)]
  | 4, 4 => some [(64, 30), (96, 30)]
  | 4, 5 => some [(64, 30), (96, 30)]
  | 4, 6 => some [(64, 14), (96, 10)]
  | 5, 0 => some [(32, 18), (63, 1), (64, 17), (96, 14), (128, 10)]
  | _, _ => none

/-- The bits of an action that its fields do not name are zero. -/
def fieldsOnly (a : Action) (l : List (Nat × Nat)) : Bool :=
  a % 2 ^ 256 == l.foldl (fun n f => n + bitsOf a f.1 f.2 * 2 ^ f.1) (a.kind + a.sub * 2 ^ 8)

/-- The master whose rank a port's object writes have: CTL[p]; the internal ports write no object. -/
def portMaster (p : Nat) : Nat := 2 + p

/-- The object of a kind 1 action: its index and subindex. -/
def actionObj (a : Action) : Nat × Nat := (bitsOf a 32 16, bitsOf a 48 8)

/-- Object and rank of a kind 1 action (R301, R303). -/
def objectForm (s : State) (p : Nat) (a : Action) : Bool :=
  let (i, sub) := actionObj a
  let i' := aliasIndex i
  fwPort p && !unitAbsent s.variant i && (match objNow s i' sub with
    | none => false
    | some r => r.apply == .staged && bitAt (objMask r i' sub) (portMaster p))

/-- Fields that the table gives a range hold a value of it: a busy value, a count of slots (R303). -/
def fieldRanges (a : Action) : Bool :=
  match a.kind, a.sub with
  | 2, 6 => ([0, 1, 2, 4] : List Nat).contains (bitsOf a 64 3)
  | 4, 6 => decide (1 ≤ bitsOf a 96 10) && decide (bitsOf a 96 10 ≤ 512)
  | 5, _ => decide (bitsOf a 128 10 ≤ 512)
  | _, _ => true

/-- The form of an action (R301). -/
def formOk (s : State) (p : Nat) (a : Action) : Bool :=
  match actionFields a.kind a.sub with
  | none => false
  | some l => fieldsOnly a l && fieldRanges a && (a.kind != 1 || objectForm s p a)

/-! ### Attic lists (spec/11 R266, R267) -/

/-- The empty list. -/
def atticEnd : Nat := 0x3FFFFFF
/-- Address of an entry. -/
def entryAt (s : State) (e : Nat) : Nat := s.cfg K.zoneAtticIndexBase + 16 * e
/-- Address of the head word of a zone's list (0) or during-merge list (1). -/
def headAt (s : State) (z l : Nat) : Nat := s.cfg K.zoneAtticHeadBase + 8 * z + 4 * l
/-- The entry that the pointer word at an address names. -/
def ptrAt (s : State) (addr : Nat) : Nat := bitsOf (leNat (s.load addr 4)) 0 26
/-- Makes the pointer word at an address name an entry; its other bits stay. -/
def setPtr (s : State) (addr e : Nat) : State :=
  s.store addr (leBytes 4 (putBits (leNat (s.load addr 4)) 0 26 e))
/-- First zone offset of an entry. -/
def entryFirst (s : State) (e : Nat) : Nat := leNat (s.load (entryAt s e + 4) 2)
/-- Last zone offset of an entry. -/
def entryLast (s : State) (e : Nat) : Nat := entryFirst s e + leNat (s.load (entryAt s e + 6) 2)

/-- Walks a list from the pointer word at an address, in ascending first order, to the first pointer word for which `p` holds of
the entry it names (or that ends the list, where `p` never holds): its address. A list has at most 65,536 entries, for they never
overlap. -/
def walkList (s : State) (p : Nat → Bool) (fuel addr : Nat) : Nat :=
  match fuel with
  | 0 => addr
  | n + 1 =>
    let e := ptrAt s addr
    if e = atticEnd ∨ p e = true then addr else walkList s p n (entryAt s e)

/-- The pointer word of a list that names an entry. -/
def findIn (s : State) (z l e : Nat) : Option Nat :=
  let a := walkList s (fun x => x == e || decide (entryFirst s e < entryFirst s x)) 65536 (headAt s z l)
  if ptrAt s a = e then some a else none

/-- The pointer word that names an entry in any list. -/
def findLink (s : State) (e : Nat) : Option Nat :=
  (List.range (s.nat K.zoneZoneCount)).findSome? fun z => match findIn s z 0 e with
    | some a => some a
    | none => findIn s z 1 e

/-- The place of an entry in a list by ascending first. -/
def slotFor (s : State) (z l e : Nat) : Nat :=
  walkList s (fun x => decide (entryFirst s e ≤ entryFirst s x)) 65536 (headAt s z l)

/-- The entry of a list before a pointer word ends before `f`: the word's own entry, where it is no head. -/
def beforeOk (s : State) (z l addr f : Nat) : Bool :=
  addr == headAt s z l || decide (leNat (s.load (addr + 4) 2) + leNat (s.load (addr + 6) 2) < f)

/-- An insertion overlaps no entry of the list. -/
def insertFits (s : State) (z l e : Nat) : Bool :=
  let a := slotFor s z l e
  let x := ptrAt s a
  beforeOk s z l a (entryFirst s e) && (x == atticEnd || decide (entryLast s e < entryFirst s x))

/-- Links an entry in a list. -/
def insertEntry (s : State) (z l e : Nat) : State :=
  let a := slotFor s z l e
  setPtr (setPtr s (entryAt s e) (ptrAt s a)) a e

/-- Trims an entry: its blocks stay where they are, so its first sector moves with its first block. -/
def trimEntry (s : State) (e first countM1 : Nat) : State :=
  let w := leNat (s.load (entryAt s e + 8) 8)
  let w' := putBits w 27 10 (bitsOf w 27 10 + (first - entryFirst s e))
  s.store (entryAt s e + 4) (leBytes 2 first ++ leBytes 2 countM1 ++ leBytes 8 w')

/-- Granules of the bitmap (R267). -/
def granules (s : State) : Nat := (s.nat K.zoneNsBlocks + 15) / 16

/-- Sets or clears a run of granule bits. -/
def setGranules (s : State) (first count : Nat) (b : Bool) : State :=
  (List.range count).foldl (fun t i =>
    let g := first + i
    let addr := t.cfg K.zoneBitmapBase + g / 8
    t.store addr [BitVec.ofNat 8 (setBit (leNat (t.load addr 1)) (g % 8) b)]) s

/-- A run of granule bits all have a value. -/
def granulesAre (s : State) (first count : Nat) (b : Bool) : Bool :=
  (List.range count).all fun i =>
    let g := first + i
    bitAt (leNat (s.load (s.cfg K.zoneBitmapBase + g / 8) 1)) (g % 8) == b

/-! ### Cache directory (R306) -/

/-- Slots in use. -/
def cacheSlots : Nat := 16256
/-- Slots of a run: consecutive, wrapping from 16,255 to 0. -/
def slotRun (first count : Nat) : List Nat := (List.range count).map fun i => (first + i) % cacheSlots
/-- Address of the directory entry of a slot. -/
def dirAt (s : State) (d : Nat) : Nat := s.cfg K.sheafPwcBase + 16 * d
/-- A slot is valid. -/
def slotValid (s : State) (d : Nat) : Bool := (Memory.read s.mem (dirAt s d)).getLsbD 0
/-- Sets the valid bit of a slot, and the count of valid entries. -/
def setSlot (s : State) (d : Nat) (b : Bool) : State :=
  let o := slotValid s d
  let t := s.store (dirAt s d) [BitVec.ofNat 8 (setBit (Memory.read s.mem (dirAt s d)).toNat 0 b)]
  t.setN K.sheafPwcValid (t.nat K.sheafPwcValid + b2n b - b2n o)

/-! ### Checks and effects (R303) -/

/-- A context with a placement written. -/
def Ctx.placed (c : Ctx) (p : Nat) : Ctx :=
  let c := putBits (putBits c 160 22 (bitsOf p 0 22)) 182 6 (bitsOf p 22 6)
  let c := putBits (putBits c 192 16 (bitsOf p 32 16)) 6 2 (bitsOf p 48 2)
  putBits (putBits (putBits c 9 4 (bitsOf p 50 4)) 13 1 (bitsOf p 54 1)) 24 8 (bitsOf p 56 8)

/-- A context with a placement written and its tracks. -/
def placedCtx (s : State) (z p : Nat) : Ctx :=
  let c := (s.ctx z).placed p
  (withTracks s c).getD c

/-- A placement meets causes 2 to 6 of R251. -/
def placementOk (s : State) (z p : Nat) : Bool := (placementCause s z ((s.ctx z).placed p)).isNone

/-- The check of a zone state action. -/
def zoneCheck (s : State) (a : Action) : Bool :=
  let z := a.zone
  let c := s.ctx z
  decide (z < zoneTotal s) && (match a.sub with
    | 1 => [2, 3, 4, 0xE].contains c.st && (!c.demoted || bitAt a 128) && (!bitAt a 128 || placementOk s z a.placement)
    | 2 => [1, 2, 3, 4].contains c.st && c.mwp == c.wp
    | 3 => c.st != 0xF
    | 4 => true
    | 5 => c.twin
    | 6 => let v := a.w2; if v = 0 then [1, 2, 4].contains c.busy else (v == 1 || v == 2 || v == 4) && c.busy == 0
    | _ => c.busy == 3 && placementOk s z a.placement)

/-- The check of a media-write descriptor completion. -/
def mediaCheck (s : State) (a : Action) : Bool :=
  let c := s.ctx a.zone
  let count := bitsOf a 128 10
  let noZone := bitAt a 63
  decide (count ≤ 512) && decide (bitsOf a 96 14 < cacheSlots) && ((slotRun (bitsOf a 96 14) count).all (slotValid s))
    && (noZone || (decide (a.zone < zoneTotal s) && (c.ty == 1 || (decide (c.mwp < a.w2) && decide (a.w2 ≤ c.dataEnd)))))

/-- The check of an action at commit (R303). -/
def actionOk (s : State) (p : Nat) (a : Action) : Bool :=
  let z := a.zone
  let c := s.ctx z
  let e := bitsOf a 32 26
  match a.kind, a.sub with
  | 1, _ =>
    let (i, sub) := actionObj a
    let v := BitVec.ofNat 64 (a / 2 ^ 64)
    let i' := aliasIndex i
    objectForm s p a && (match objNow s i' sub with | some r => chkOk r v && !ruleInvalid s (portMaster p) (i' * 256 + sub) v
                                                    | none => false)
  | 2, _ => zoneCheck s a
  | 3, _ => decide (z < zoneTotal s) && c.ty == 0 && [2, 3, 4].contains c.st && a.w2 == c.wp && c.wp == c.dataEnd
      && decide (a.w2 < a.w3) && decide (a.w3 ≤ c.ap)
  | 4, 1 => decide (e < s.cfg K.zoneAtticIndexEntries) && decide (bitsOf a 64 18 < s.nat K.zoneZoneCount)
      && (findLink s e).isNone && insertFits s (bitsOf a 64 18) (bitsOf a 63 1) e
  | 4, 2 => decide (e < s.cfg K.zoneAtticIndexEntries) && decide (entryFirst s e ≤ bitsOf a 64 16)
      && decide (bitsOf a 64 16 + bitsOf a 80 16 ≤ entryLast s e)
  | 4, 3 => (findLink s e).isSome
  | 4, 6 => decide (1 ≤ a.w3) && decide (a.w3 ≤ 512) && decide (a.w2 < cacheSlots)
      && (slotRun a.w2 a.w3).all fun d => !slotValid s d
  | 4, _ => decide (a.w2 + a.w3 ≤ granules s)
  | _, _ => mediaCheck s a

/-- The effect of a zone state action. -/
def zoneApply (s : State) (a : Action) : State :=
  let z := a.zone
  let c := s.ctx z
  match a.sub with
  | 1 =>
    let d := if bitAt a 128 then (placedCtx s z a.placement).setDemoted false else c
    s.putCtx z ((((d.setPtrs 0).setSt 1).clearAttrs).setBusy 0)
  | 2 => s.putCtx z (((((c.setDataEnd c.wp).setWp c.capacity).setAp c.capacity).setSt 0xE).setBusy 0)
  | 3 => s.putCtx z (c.setSt 0xD)
  | 4 => s.putCtx z (c.setSt 0xF)
  | 5 => s.putCtx z (c.setDemoted true)
  | 6 => s.putCtx z (c.setBusy a.w2)
  | _ => let d := placedCtx s z a.placement; s.putCtx z (((d.setPtrs d.capacity).setSt 0xE).setBusy 0)

/-- Whether an action moves its zone's pointers: a sequential zone. -/
def movesZone (s : State) (a : Action) : Bool := !bitAt a 63 && (s.ctx a.zone).ty == 0

/-- The effect of an action; `seq`: the sequence number of its record (R303). -/
def applyAction (seq : Nat) (s : State) (a : Action) : State :=
  let z := a.zone
  let c := s.ctx z
  let e := bitsOf a 32 26
  match a.kind, a.sub with
  | 1, _ =>
    let (i, sub) := actionObj a
    let i' := aliasIndex i
    match objNow s i' sub with
    | some r => s.set (i' * 256 + sub) (r.ty.word (BitVec.ofNat 64 (a / 2 ^ 64)))
    | none => s
  | 2, _ => zoneApply s a
  | 3, _ =>
    let d := (c.setWp a.w3).setDataEnd a.w3
    s.putCtx z (if a.w3 = c.capacity then d.setSt 0xE else d)
  | 4, 1 => insertEntry s (bitsOf a 64 18) (bitsOf a 63 1) e
  | 4, 2 => trimEntry s e (bitsOf a 64 16) (bitsOf a 80 16)
  | 4, 3 => match findLink s e with
    | some addr => setPtr s addr (ptrAt s (entryAt s e))
    | none => s
  | 4, 4 => setGranules s a.w2 a.w3 true
  | 4, 5 => setGranules s a.w2 a.w3 false
  | 4, _ => (slotRun a.w2 a.w3).foldl (fun t d => (setSlot t d true).store (dirAt t d + 12) (leBytes 4 seq)) s
  | _, _ =>
    let t := if movesZone s a then s.putCtx z (c.setMwp a.w2) else s
    (slotRun (bitsOf a 96 14) (bitsOf a 128 10)).foldl (fun u d => setSlot u d false) t

/-- The state already holds an action's result (R317). -/
def resultHeld (s : State) (a : Action) : Bool :=
  let z := a.zone
  let c := s.ctx z
  let e := bitsOf a 32 26
  match a.kind, a.sub with
  | 1, _ => let (i, sub) := actionObj a; s.obj (aliasIndex i * 256 + sub) == BitVec.ofNat 64 (a / 2 ^ 64)
  | 2, 1 => c.st == 1 && c.ap == 0 && c.wp == 0 && c.dataEnd == 0 && c.mwp == 0 && c.busy == 0
      && (!bitAt a 128 || (!c.demoted && c.placed a.placement == c))
  | 2, 2 => c.st == 0xE && c.wp == c.capacity && c.ap == c.capacity && c.busy == 0
  | 2, 3 => c.st == 0xD
  | 2, 4 => c.st == 0xF
  | 2, 5 => c.demoted
  | 2, 6 => c.busy == a.w2
  | 2, _ => c.st == 0xE && c.mwp == c.capacity && c.busy == 0 && c.placed a.placement == c
  | 3, _ => c.wp == a.w3 && c.dataEnd == a.w3
  | 4, 1 => (findIn s (bitsOf a 64 18) (bitsOf a 63 1) e).isSome
  | 4, 2 => entryFirst s e == bitsOf a 64 16 && entryLast s e == bitsOf a 64 16 + bitsOf a 80 16
  | 4, 3 => (findLink s e).isNone
  | 4, 4 => granulesAre s a.w2 a.w3 true
  | 4, 5 => granulesAre s a.w2 a.w3 false
  | 4, _ => (slotRun a.w2 a.w3).all (slotValid s)
  | _, _ => ((slotRun (bitsOf a 96 14) (bitsOf a 128 10)).all fun d => !slotValid s d) && (!movesZone s a || c.mwp == a.w2)

/-! ### Records (R304) -/

/-- Size of the record of n actions. -/
def recordSize (n : Nat) : Nat := 64 + 32 * n
/-- Writes bytes in the journal area from an offset, wrapping at its end. -/
def journalPut (s : State) (off : Nat) (l : List Byte) : State :=
  match l with
  | [] => s
  | b :: r => journalPut (s.store (journalBase + off % journalSize) [b]) (off + 1) r
/-- Reads bytes of the journal area from an offset, wrapping at its end. -/
def journalGet (s : State) (off n : Nat) : List Byte :=
  (List.range n).map fun i => Memory.read s.mem (journalBase + (off + i) % journalSize)

/-- The bytes of a record (R304). -/
def recordBytes (seq port now stamp : Nat) (l : List Action) : List Byte :=
  let body := l.flatMap fun a => leBytes 32 a
  let head := leBytes 8 seq ++ leBytes 1 l.length ++ leBytes 1 port ++ leBytes 2 0
  head ++ leBytes 4 (crc32c (head ++ body)) ++ leBytes 8 now ++ leBytes 8 stamp ++ List.replicate 24 0
    ++ leBytes 8 (2 ^ 64 - 1 - seq % 2 ^ 64) ++ body

/-- Bytes free in the journal. -/
def journalFree (s : State) : Nat := journalSize - s.sheaf.recs.foldl (fun n r => n + r.2) 0

/-- Writes the record of a commit (R302 step 3, R305). -/
def writeRecord (s : State) (seq port : Nat) (l : List Action) : State :=
  let t := journalPut s s.sheaf.nextOff (recordBytes seq port s.now s.stamp l)
  let n := recordSize l.length
  let t := { t with sheaf := { t.sheaf with recs := t.sheaf.recs ++ [(seq, n)], nextOff := (t.sheaf.nextOff + n) % journalSize,
                                            changed := true } }
  t.setN K.sheafJournalFree (journalFree t)

/-! ### Commits (R302, R314) -/

/-- Transaction slots held by open transactions and by commits not done. -/
def heldSlots (s : State) : List Nat := s.sheaf.txns.map (·.1) ++ s.sheaf.commits.filterMap (·.slot)
/-- The lowest free transaction slot. -/
def freeSlot (s : State) : Option Nat := (List.range 32).find? fun n => !(heldSlots s).contains n

/-- A wait begins (R300, R302, R314): counted, with its event. -/
def waitBegins (s : State) (e : Nat) (items : List Nat) (port : Nat) : State :=
  sheafEvent raise (s.inc K.sheafWaitCount) e items port

/-- Asks for a commit of the module's own (ports 4 and 5): a transaction of these actions. With every slot held it waits for one
(R300). -/
def askCommit (s : State) (port : Nat) (l : List Action) (cont : Cont) : State :=
  let acts := l.map (BitVec.ofNat 256)
  match freeSlot s with
  | some n => { s with sheaf := { s.sheaf with
      commits := s.sheaf.commits ++ [{ port := port, slot := some n, actions := acts, cont := cont }] } }
  | none =>
    let t := { s with sheaf := { s.sheaf with
      opens := s.sheaf.opens ++ [port],
      commits := s.sheaf.commits ++ [{ port := port, slot := none, actions := acts, wait := 4, cont := cont }] } }
    waitBegins t 333 [port, s.sheaf.txns.length] port

/-- Why a commit waits under R314: 3 for a flush, 2 for hold-up, 0 for nothing. -/
def holdReason (s : State) (c : CommitReq) : Nat :=
  let flushing := match s.sheaf.flush with | some f => f.1.cause != 1 | none => false
  if flushing then 3
  else if !holdUpOk s && c.actions.any (fun a => Action.kind a.toNat != 1) then 2
  else 0

/-- The kinds of a commit as a bit mask. -/
def kindsOf (c : CommitReq) : Nat := c.actions.foldl (fun n a => setBit n (Action.kind a.toNat) true) 0

/-- Looks for the commit to serve: those held step aside, one that waits for space holds the later ones back. `done`: those passed
over. -/
def scanCommits (s : State) (l done : List CommitReq) : State × Option CommitReq × List CommitReq :=
  match l with
  | [] => (s, none, done)
  | c :: r =>
    if c.wait = 4 then scanCommits s r (done ++ [c])
    else
      let h := holdReason s c
      if h ≠ 0 then
        let t := if c.wait = 2 ∨ c.wait = 3 then s else waitBegins s 343 [c.port, kindsOf c] c.port
        scanCommits t r (done ++ [{ c with wait := h }])
      else if journalFree s < recordSize c.actions.length then
        let t := if c.wait = 1 then s else waitBegins s 334 [recordSize c.actions.length, journalFree s] c.port
        (t, none, done ++ [{ c with wait := 1 }] ++ r)
      else (s, some c, done ++ r)

/-- Checks the actions in order, each against the state left by those before it: none, or the index of the first that fails. -/
def firstBad (s : State) (seq port : Nat) (l : List Action) (i : Nat) : Option Nat :=
  match l with
  | [] => none
  | a :: r => if actionOk s port a then firstBad (applyAction seq s a) seq port r (i + 1) else some i

/-- What a committed zone action does beside its effect: events 325 and 326, the end of a demotion (spec/05 R114), and of the
reports of a demotion (spec/11 R260). The cause in 325 and 326 is not stated: a free value. -/
def actionDone (s : State) (a : Action) : State :=
  let z := a.zone
  if a.kind ≠ 2 then s
  else if a.sub = 3 ∨ a.sub = 4 then zoneEvent s.drawn (322 + a.sub) [s.free.toNat % 2 ^ 32] z
  else if a.sub = 1 then { s with zones := { s.zones with heldDemoted := s.zones.heldDemoted.filter fun y => y != z } }
  else s

/-- Feed-forward terms of an actuator that the object writes of a commit update (spec/04 R95, R102): bit 0 xff, bit 1 rvff. -/
def ffTerms (a : Nat) (l : List Action) : Nat :=
  let hits (objs : List (Nat × Nat)) : Bool := l.any fun x => x.kind == 1 && (let o := actionObj x
    objs.any fun p => o.1 == p.1 + 0x800 * a && (p.2 == 0 || o.2 == p.2))
  b2n (hits [(0x3300, 2), (0x3301, 0)]) + 2 * b2n (hits [(0x3300, 4), (0x3302, 0)])

/-- Event 117 of each actuator whose terms a commit updates (spec/04 R102). -/
def ffCommitted (s : State) (l : List Action) : State :=
  [0, 1].foldl (fun t a => if ffTerms a l = 0 then t else actEvent raise t a 117 [ffTerms a l] none) s

/-- A demotion of a zone is settled (spec/05 R114). -/
def demoteSettled (s : State) (a z : Nat) : State :=
  s.setAct a { s.act a with demoting := (s.act a).demoting.filter fun y => y.1 != z }

/-- The job's target as event 327 gives it: bytes 4-7 of the job (spec/11 R269). -/
def targetWord (p : Placement) : Nat := p.layout + p.head * 4 + p.dir * 64 + p.ring * 128

/-- A hold on a command by a zone is over: the zone is not busy, and, where the command writes, it is not demoted or has become Read Only or
Offline (spec/11 R256, R260). -/
def holdOver (s : State) (e : CmdEnt) (z : Nat) : Bool :=
  let c := s.ctx z
  c.busy == 0 && (!([0x01, 0x08, 0x7D] : List Nat).contains e.sqe.opcode.toNat || !c.demoted || c.st == 0xD || c.st == 0xF)

/-- The commands whose holds are over run (spec/11 R256, R260). -/
def releaseHolds (s : State) : State :=
  let freed := s.host.table.filter fun e => e.st == .held && e.heldZone.any (holdOver s e)
  if freed.isEmpty then s
  else
    let t := freed.foldl (fun u e => u.setCmd { e with heldZone := none }) s
    settle raise (freed.foldl (fun u e => advance u e.sqid) t)

/-- A merge job stops without its commit (spec/11 R269): causes 1 check, 4 read, 5 write, 6 commit refused; busy is cleared. -/
def mergeStops (s : State) (st cause : Nat) : State :=
  match s.zones.job with
  | none => s
  | some j =>
    let c := s.ctx j.zone
    let t := if c.busy = 3 then s.putCtx j.zone (c.setBusy 0) else s
    let t := ({ t with zones := { t.zones with job := none } }.setN K.zoneMergeState st).setN K.zoneMergeCause cause
    releaseHolds (if st = 5 then zoneEvent (t.inc K.zoneMergeFailCount) 328 [cause, t.nat K.zoneMergeProgress] j.zone else t)

/-- The merge's commit is done (spec/11 R269 steps 5 and 6): the during-merge list becomes the zone's list. -/
def mergeDone (s : State) : State :=
  match s.zones.job with
  | none => s
  | some j =>
    let t := setPtr (setPtr s (headAt s j.zone 0) (ptrAt s (headAt s j.zone 1))) (headAt s j.zone 1) atticEnd
    let t := { t with zones := { t.zones with job := none } }
    let t := ((t.setN K.zoneMergeState 4).setN K.zoneMergeProgress (t.ctx j.zone).capacity).inc K.zoneMergeCount
    zoneEvent t 327 [targetWord j.place, t.elapsed j.since] j.zone

/-- One of a command's zone actions is settled with a status; with the last one the command completes, with the first status that
is no success. -/
def zoneSettled (s : State) (e : CmdEnt) (status : Nat) : State :=
  let st := if e.zoneStatus = 0 then status else e.zoneStatus
  let t := s.setCmd { e with zoneOpen := e.zoneOpen - 1, zoneStatus := st }
  if e.zoneOpen ≤ 1 then complete raise t e.ref st 0 else t

/-- What the module does once a commit of its own is done or refused (spec/11 R256, R269; spec/05 R114). -/
def continued (s : State) (c : CommitReq) (ok : Bool) : State :=
  match c.cont with
  | .none => s
  | .busySet r z act place =>
    match s.cmd r with
    | none => s
    | some e =>
      if ok ∧ (e.st = .aborting ∨ e.stopped = true) then zoneSettled (askCommit s 4 [busyAction z 0] .none) e 0
      else if ok then s.setCmd { e with zoneActs := e.zoneActs ++ [(z, act, place)] }
      else zoneSettled s e (stat 1 0xBF)
  | .zoneDone r z =>
    let t := if ok then s else askCommit s 4 [busyAction z 0] .none
    match t.cmd r with
      | some e => zoneSettled t e (if ok then 0 else stat 1 0xBF)
      | none => t
  | .offline r _ => match s.cmd r with
    | some e => zoneSettled s e (if ok then 0 else stat 1 0xBF)
    | none => s
  | .merge => if ok then mergeDone s else mergeStops s 5 6
  | .demote a z =>
    let t := demoteSettled s a z
    match ok, (s.act a).demoting.find? fun y => y.1 == z with
    | true, some (_, pair, shift) => actEvent raise (t.inc (K.actDemoteCount a)) a 133 [z, pair, (shift % 2 ^ 32).toNat] none
    | _, _ => t
  | .completes r => complete raise s r (if ok then 0 else stat 0 0x06) 0
  | .part _ => s
  | .dropped _ => s

/-- Slots that a commit's actions release. -/
def releasedSlots (l : List Action) : List Nat :=
  l.flatMap fun (a : Action) => if a.kind = 5 then slotRun (bitsOf a 96 14) (bitsOf a 128 10) else []

/-- Flushes whose writes are all on the media complete (spec/12 R278). -/
def settleFlushes (s : State) (l : List Action) : State :=
  let gone := releasedSlots l
  s.host.table.foldl (fun t e =>
    if e.flushSlots.isEmpty || e.st == .committed then t
    else
      let left := e.flushSlots.filter fun d => !gone.contains d
      let t := t.setCmd { e with flushSlots := left }
      if left.isEmpty then complete raise t e.ref 0 0 else t) s

/-- A refused commit (R302 step 2). -/
def refuseCommit (s : State) (c : CommitReq) (i : Nat) : State :=
  let a : Action := ((c.actions.map BitVec.toNat).getD i 0)
  let t := portResult (s.inc K.sheafRefusedCount) c.port 5 (c.slot.getD 0) c.actions.length
  let t := sheafEvent raise t 332 [c.port, i, a.kind, a.sub] c.port
  let t := if a.kind = 2 ∨ a.kind = 3 ∨ (a.kind = 5 ∧ movesZone s a) then actionRefused t (a.kind + a.sub * 2 ^ 8) a.zone else t
  continued t c false

/-- Serves one commit: steps 2 to 5 of R302. -/
def serveCommit (s : State) (c : CommitReq) : State :=
  let l : List Action := c.actions.map BitVec.toNat
  let seq := s.nat K.sheafCommitSeq + 1
  match if l.isEmpty then some 0 else firstBad s seq c.port l 0 with
  | some i => refuseCommit s c i
  | none =>
    let t := l.foldl (applyAction seq) (writeRecord s seq c.port l)
    let t := (t.setN K.sheafCommitSeq seq).inc K.sheafCommitCount
    let t := portResult (if fwPort c.port then t.setN (K.shfResultSeq c.port) seq else t) c.port 0 (c.slot.getD 0) l.length
    continued (settleFlushes (guardSweep (ffCommitted (l.foldl actionDone t) l)) l) c true

/-- Accepted writes and appends of a zone that were fetched before a command and have not completed. -/
def zoneBusyWork (s : State) (z order : Nat) : Bool :=
  s.host.table.any fun e => e.st != .committed && decide (e.order < order) && (match e.alloc with | some a => a.1 == z | none => false)

/-- A command's work was stopped by a freeze or by an Abort: nothing of it commits (spec/12 R286, R290). -/
def CmdEnt.halted (e : CmdEnt) : Bool := e.st == .aborting || e.stopped

/-- The Resets and Finishes of a halted command are dropped, and the busy values they set are cleared. -/
def dropActs (s : State) (e : CmdEnt) : State :=
  e.zoneActs.foldl (fun t x => match t.cmd e.ref with
    | some y => zoneSettled (askCommit t 4 [busyAction x.1 0] .none) { y with zoneActs := [] } 0
    | none => t) s

/-- The host command that a module-made commit serves. -/
def Cont.host (k : Cont) : Option Ref := match k with
  | .busySet r _ _ _ => some r
  | .zoneDone r _ => some r
  | .offline r _ => some r
  | .completes r => some r
  | .part r => some r
  | _ => Option.none

/-- The command of a commit that is not to proceed. -/
def haltedFor (s : State) (c : CommitReq) : Option CmdEnt := match c.cont.host with
  | some r => (s.cmd r).filter CmdEnt.halted
  | none => none

/-- Drops the commit of a halted command: what waited for it is settled, and a zone it had made busy is released. -/
def dropCommit (s : State) (c : CommitReq) (e : CmdEnt) : State := match c.cont with
  | .zoneDone _ z => zoneSettled (askCommit s 4 [busyAction z 0] .none) e 0
  | .completes _ => complete raise s e.ref 0 0
  | .part _ => s
  | _ => zoneSettled s e 0

/-- Asks for the commits of a command's Resets and Finishes whose conditions have come to hold (spec/11 R256). -/
def settleActs (s : State) (e : CmdEnt) : State :=
  if e.st = .committed then s
  else if e.halted then dropActs s e
  else e.zoneActs.foldl (fun t (z, act, place) =>
    let c := t.ctx z
    if !zoneBusyWork t z e.order && (act == 1 || c.mwp == c.wp) then
      let t := match t.cmd e.ref with
        | some x => t.setCmd { x with zoneActs := x.zoneActs.filter fun y => y.1 != z }
        | none => t
      askCommit t 4 [if act = 1 then resetAction z place else zoneAction 2 z] (.zoneDone e.ref z)
    else t) s

/-- The zones left busy by commands that a controller reset ended are let go (spec/12 R277, R290). -/
def settleOrphans (s : State) : State :=
  s.zones.orphans.foldl (fun t z => askCommit t 4 [busyAction z 0] .none) { s with zones := { s.zones with orphans := [] } }

/-- What the commits wait for is looked at again, and what waits for them (spec/11 R256, R260). -/
def settleZones (s : State) : State := releaseHolds (s.host.table.foldl settleActs (settleOrphans s))

/-- Serves every commit that may proceed, in their order (R302, R314). The fuel bounds the commits. -/
def serveCommits (fuel : Nat) (s : State) : State :=
  match fuel with
  | 0 => s
  | n + 1 =>
    if s.nat K.sheafSheafState = 1 then s
    else
      let t := settleZones s
      match scanCommits t t.sheaf.commits [] with
      | (u, none, rest) => { u with sheaf := { u.sheaf with commits := rest } }
      | (u, some c, rest) =>
        let u := { u with sheaf := { u.sheaf with commits := rest } }
        serveCommits n (match c.cont with
          | .dropped (some z) => askCommit u 4 [busyAction z 0] .none
          | .dropped none => u
          | _ => match haltedFor u c with
            | some e => dropCommit u c e
            | none => serveCommit u c)

/-- Commits a serving may come to: those asked for, and those they lead to. -/
def commitFuel (s : State) : Nat := 4 * (s.sheaf.commits.length + s.host.table.length) + 8

/-- Serves the commits. -/
def runCommits (s : State) : State := serveCommits (commitFuel s) s

/-- A commit of the module's own, served at once where it may proceed; after the quiesce it is refused (R312). -/
def moduleCommit (s : State) (port : Nat) (l : List Action) (cont : Cont) : State :=
  if s.nat K.sheafSheafState = 1 then s else runCommits (askCommit s port l cont)

end Sys2Proof.Machine
end

