-- ==== Sys2Proof/Machine/MemOps.lean ====
section
/-! DEFINITION. What the memory blocks share with power, recovery and the fabric (spec/14): addresses, repeat trackers, corrections
and poison, the cache's lines and its eviction buffer, the end of a Hoe pass. `State.mem` holds what a coherent master
reads; a dirty line keeps beside it what the Cellar itself holds. -/

namespace Sys2Proof.Machine

/-! ### Addresses (spec/01 R20, R321) -/

/-- First address of the Cellar. -/
def cellarBase : Nat := 0x100000000
/-- End of the Cellar. -/
def cellarEnd : Nat := 0x2E0000000
/-- An address is in the Cellar. -/
def inCellar (a : Nat) : Bool := decide (cellarBase ≤ a) && decide (a < cellarEnd)
/-- The line of an address. -/
def lineOf (a : Nat) : Nat := a - a % 64
/-- Bytes of the addressed memory at n bytes from an address are gone: they read 0 again. -/
def clearBytes (s : State) (a n : Nat) : State :=
  { s with mem := s.mem.filter fun c => decide (c.1 < a) || decide (a + n ≤ c.1) }
/-- fill_pointer (R327): during the fill it advances by whole blocks, as long as the fill has run at its rate. -/
def fillPointer (s : State) : Nat :=
  if s.nat K.memCellarState = 2 then
    cellarBase + 960 * min 8388608 (s.elapsed s.memory.fillSince * (32000 + Config.fillSurplus) / 1024)
  else s.nat K.memFillPointer
/-- A Cellar access waits for the boot fill to pass its block (R327). -/
def fillStalls (s : State) (a : Nat) : Bool := decide (fillPointer s ≤ lineOf a)
/-- The Cellar serves accesses: ready, or filling. -/
def cellarServes (s : State) : Bool := s.nat K.memCellarState == 2 || s.nat K.memCellarState == 3

/-- Raises an event of R345: its items, then the memory id and the address. -/
def memEvent (s : State) (e : Nat) (items : List Nat) (id addr : Nat) : State := raise s e (items ++ [id, addr]) {}
/-- Raises an event of R345 that concerns no one address: what its capture shows there is not stated, a free value. -/
def memEventFree (s : State) (e : Nat) (items : List Nat) (id : Nat) : State :=
  memEvent s.drawn e items id (s.free.toNat % 2 ^ 40)

/-! ### Repeat trackers (R338) -/

/-- A repeat tracker. A free entry has count 0. -/
def trackerOf (s : State) (id : Nat) : List TrackEnt := at' s.memory.trackers id []
/-- Replaces a tracker's entries; tracker_reported follows (R344). -/
def putTracker (s : State) (id : Nat) (l : List TrackEnt) : State :=
  { s with memory := { s.memory with trackers := upd s.memory.trackers id l } }.setBitOf K.memTrackerReported id
    (l.any fun (e : TrackEnt) => decide (0 < e.count) && e.reported)
/-- The position an address has in a tracker. -/
def trackFind (l : List TrackEnt) (addr : Nat) : Option Nat :=
  l.findIdx? fun (e : TrackEnt) => decide (0 < e.count) && e.addr == addr
/-- The entry that a full tracker gives up: of lowest count, the oldest on equal counts. -/
def trackVictim (l : List TrackEnt) : Nat :=
  (List.range l.length).foldl (fun m i =>
    match l[i]?, l[m]? with
    | some x, some y => if x.count < y.count ∨ (x.count = y.count ∧ x.age < y.age) then i else m
    | _, _ => m) 0

/-- An entry's count has come to the threshold: reported once, with event 404 (R338). -/
def trackReport (s : State) (id pos : Nat) : State :=
  match (trackerOf s id)[pos]? with
  | none => s
  | some e =>
    if e.reported || decide (e.count < s.nat K.memTrackerThreshold) then s
    else
      let t := putTracker s id ((trackerOf s id).set pos { e with reported := true })
      raise t 404 [id, e.addr, e.count] {}

/-- Takes a new entry for an address: a free one, a further one, or the victim's, whose count is lost. -/
def trackNew (s : State) (id addr : Nat) : State :=
  let l := trackerOf s id
  let e : TrackEnt := { addr := addr, count := 1, age := s.memory.trackAge }
  let s := { s with memory := { s.memory with trackAge := s.memory.trackAge + 1 } }
  match l.findIdx? fun (x : TrackEnt) => x.count == 0 with
  | some i => putTracker s id (l.set i e)
  | none =>
    if l.length < 64 then putTracker s id (l ++ [e])
    else
      let i := trackVictim l
      let (oa, oc) := match l[i]? with | some o => (o.addr, o.count) | none => (0, 0)
      raise ((putTracker s id (l.set i e)).inc K.memTrackerEvictCount) 405 [id, oa, oc] {}

/-- A correction at an address unit of a memory (R338). -/
def track (s : State) (id addr : Nat) : State :=
  let l := trackerOf s id
  match trackFind l addr with
  | some i =>
    match l[i]? with
    | some e => trackReport (putTracker s id (l.set i { e with count := if e.count < 255 then e.count + 1 else 255 })) id i
    | none => s
  | none => trackNew s id addr

/-- Frees the entry of an address. -/
def untrack (s : State) (id addr : Nat) : State :=
  let l := trackerOf s id
  match trackFind l addr with
  | some i => putTracker s id (l.set i { addr := 0, count := 0, age := 0 })
  | none => s

/-- tracker_entry for tracker_select (R339). -/
def trackerEntry (s : State) : Nat :=
  let sel := s.nat K.memTrackerSelect
  match (trackerOf s (bitsOf sel 8 3))[bitsOf sel 0 6]? with
  | none => 0
  | some e => if e.count = 0 then 0 else e.addr % 2 ^ 40 + e.count * 2 ^ 40 + 2 ^ 48 + b2n e.reported * 2 ^ 49

/-! ### Corrections and poison (R324-R326) -/

/-- A Cellar line is poisoned. -/
def poisoned (s : State) (a : Nat) : Bool := (Sp.get s.memory.poison (lineOf a)).isSome
/-- A line is poisoned. -/
def poisonLine (s : State) (a : Nat) : State :=
  { s with memory := { s.memory with poison := Sp.put s.memory.poison (lineOf a) () } }
/-- A line's poison is cleared. -/
def curePoison (s : State) (a : Nat) : State :=
  { s with memory := { s.memory with poison := Sp.del s.memory.poison (lineOf a) } }

/-- Code of a requester in events 400 to 402: the masters' ids, then the units in the order of R325. -/
def reqCode (q : CellarReq) : Nat := match q with
  | .core m => m.val
  | .nvmeToHost _ => 16
  | .writeFetch q => 17 + q.val
  | .pruner => 21
  | .flashFlush => 22
  | .sieve n => 23 + n.val
  | .hoe => 31
  | .other m => 32 + portNum (.fabric m)

/-- A correction in the Cellar (R324). -/
def corrected (s : State) (a syn req : Nat) : State :=
  let t := (s.inc K.memCeCount).setN K.memLastCeAddr (lineOf a)
  track (memEvent t 400 [lineOf a, syn, req] 0 (lineOf a)) 0 (lineOf a)

/-- A read that meets an uncorrectable or poisoned line: its counts and event 401; causes 0 detected, 1 address, 2 poisoned
(R325, R344). -/
def lineBad (s : State) (a cause req : Nat) : State :=
  let t := if cause = 2 then s.inc K.memPoisonReadCount
    else (s.inc K.memUeCount).setN K.memLastUeAddr (lineOf a)
  memEvent t 401 [lineOf a, cause, req] 0 (lineOf a)

/-- The cause of R325 that a line's read meets, none where its data can be delivered. -/
def badCause (s : State) (a : Nat) (ecc : Ecc) : Option Nat :=
  if poisoned s a then some 2
  else match ecc with
    | .uncorrectable => some 0
    | .addressTag => some 1
    | _ => none

/-- A partial write that meets a bad line: merged, written poisoned, with event 402 (R326). -/
def poisonWrite (s : State) (a writer : Nat) : State :=
  memEvent ((poisonLine s a).inc K.memPoisonWriteCount) 402 [lineOf a, writer] 0 (lineOf a)

/-- The key of a fabric master in `State.rdata`. -/
def fabricKey (fm : FabricMaster) : Nat := match fm with
  | .core m => m.val
  | .sieve n => 17 + n.val
  | m => 32 + portNum (.fabric m)
/-- A master's access is answered with an error (spec/01 R21, R325): no value is delivered. -/
def errorTo (s : State) (m : Nat) : State :=
  { s with rdata := Sp.del s.rdata m, memory := { s.memory with errs := Sp.put s.memory.errs m () } }
/-- A master's access is answered normally. -/
def okTo (s : State) (m : Nat) : State := { s with memory := { s.memory with errs := Sp.del s.memory.errs m } }

/-! ### Cache lines (R330-R336) -/

/-- Ways that the cache has left beside the scratchpad (R335). -/
def cacheWays (s : State) : Nat := 16 - s.nat K.memScratchWays
/-- The set of a line: which address bits above bit 6 select it is not stated; the line number modulo the 4,096 sets keeps bit 6 as
the half (R330; log 40). -/
def setOf (a : Nat) : Nat := a / 64 % 4096

/-- A dirty line is written back: the Cellar holds the line as the masters see it, with fresh check bytes (R326). -/
def lineWritten (s : State) (a : Nat) : State := curePoison s a
/-- A dirty line is lost: the Cellar's own copy comes back (R333, R337). -/
def lineLost (s : State) (a : Nat) (old : List Byte) : State := { s with mem := Memory.writeAll s.mem a old }

/-- Removes a line from the cache; a dirty one's newer data are lost. -/
def discardLine (s : State) (a : Nat) : State :=
  match Sp.get s.memory.lines a with
  | none => s
  | some l =>
    let t := { s with memory := { s.memory with lines := Sp.del s.memory.lines a } }
    if l.dirty then lineLost t a l.data else t

/-- Every line of a half is lost, as its domain's arrays are cleared (R329). -/
def loseHalf (s : State) (half : Nat) : State :=
  let hit := (s.memory.lines.filter fun p => p.1 / 64 % 2 == half).map (·.1)
  hit.foldl discardLine s

/-- The oldest write-back of the eviction buffer completes. -/
def evictDone (s : State) : State :=
  match s.memory.evict with
  | [] => s
  | e :: r => lineWritten { s with memory := { s.memory with evict := r } } e.line

/-- A dirty line leaves through the eviction buffer; with all 16 entries occupied the fill stalls, until the oldest is written
back (R333). -/
def evictLine (s : State) (a : Nat) (l : LlcLine) : State :=
  let t := { s with memory := { s.memory with lines := Sp.del s.memory.lines a } }
  if !l.dirty then t
  else
    let t := if 16 ≤ t.memory.evict.length then evictDone (t.inc K.memEvictStallCount) else t
    { t with memory := { t.memory with evict := t.memory.evict ++ [{ line := a, data := l.data }] } }

/-- A correction in the cache's arrays: counted, tracked and reported, the array unchanged (R337, R338). -/
def llcCorrected (s : State) (set way word a : Nat) : State :=
  track (memEvent (s.inc K.memLlcCeCount) 406 [set, way, word] 2 (lineOf a)) 2 (set + way * 4096 + word * 65536)

/-- Event 407 with its count (R337): causes 0 clean, 1 dirty, 2 tag. -/
def llcBad (s : State) (set way cause lost a : Nat) : State :=
  memEvent (s.inc K.memLlcUeCount) 407 [set, way, cause, lost] 2 (lineOf a)

/-- An uncorrectable error in a line of the cache (R337): a clean one goes, a dirty one is written back poisoned. -/
def llcLineBad (s : State) (a : Nat) (l : LlcLine) (req : Nat) : State :=
  let t := { s with memory := { s.memory with lines := Sp.del s.memory.lines a } }
  if l.dirty then llcBad (poisonWrite t a req) (setOf a) l.way 1 1 a else llcBad t (setOf a) l.way 0 0 a

/-- An uncorrectable tag error in a set (R337): every line of it goes, the dirty data under an untrusted tag lost and other dirty data
written back. The event names the lowest way with an untrusted tag. -/
def llcTagBad (s : State) (a : Nat) (ways : Nat) : State :=
  let here := s.memory.lines.filter fun p => setOf p.1 == setOf a
  let lost := (here.filter fun p => p.2.dirty && bitAt ways p.2.way).length
  let t := here.foldl (fun u p =>
    if p.2.dirty && !bitAt ways p.2.way then lineWritten { u with memory := { u.memory with lines := Sp.del u.memory.lines p.1 } } p.1
    else discardLine u p.1) s
  llcBad t (setOf a) (((List.range 16).find? fun w => bitAt ways w).getD 0) 2 lost a

/-- What the cache's arrays bring to an access at address a (R337): the state, and whether the requester gets a fault. A clean line is
asked for again. -/
def arrayMeets (s : State) (a : Nat) (arr : ArrayEcc) (req : Nat) : State × Bool :=
  if !s.flag K.memCacheEnable && !s.flag K.memCleanInProgress then (s, false)
  else match arr, Sp.get s.memory.lines (lineOf a) with
    | .correctable, some l => (llcCorrected s (setOf a) l.way (a % 64 / 8) a, false)
    | .uncorrectable, some l =>
      let t := llcLineBad s (lineOf a) l req
      if l.dirty then (t, true)
      else ({ t with memory := { t.memory with fills := Sp.put t.memory.fills (lineOf a) ([], []) } }.inc K.memMissCount, false)
    | .tag ways, _ => (llcTagBad s (lineOf a) ways.toNat, false)
    | _, _ => (s, false)

/-- The line that a new one takes the place of leaves: its arrays may hold an error too (R337). -/
def victimLeaves (s : State) (b : Nat) (old : LlcLine) (arr : ArrayEcc) : State :=
  match arr with
  | .correctable => evictLine (llcCorrected s (setOf b) old.way 0 b) b old
  | .uncorrectable => llcLineBad s b old 2
  | _ => evictLine s b old

/-- The way a new line takes: an invalid one of its set, else any cache way. Which is not stated: a free value. -/
def allocLine (s : State) (a : Nat) (l : LlcLine) (arr : ArrayEcc) : State :=
  let s := match arr with | .tag ways => llcTagBad s a ways.toNat | _ => s
  let here := s.memory.lines.filter fun p => setOf p.1 == setOf a
  let used := here.map fun p => p.2.way
  let inv := (List.range (cacheWays s)).filter fun w => !used.contains w
  let pickOf (c : List Nat) : Nat := c.getD (s.free.toNat % (if c.length = 0 then 1 else c.length)) 0
  let way := if inv.isEmpty then pickOf (List.range (cacheWays s)) else pickOf inv
  let t := s.drawn
  let t := match here.find? fun p => p.2.way == way with
    | some (b, old) => victimLeaves t b old arr
    | none => t
  { t with memory := { t.memory with lines := Sp.put t.memory.lines a { l with way := way } } }

/-- A line becomes dirty before it is written: the Cellar's copy is kept. -/
def dirtyLine (s : State) (a : Nat) : State :=
  match Sp.get s.memory.lines a with
  | some l => if l.dirty then s
    else { s with memory := { s.memory with lines := Sp.put s.memory.lines a { l with dirty := true, data := s.load a 64 } } }
  | none => s

/-- Bytes are written into a line in the cache or in its eviction buffer entry, not to the Cellar. -/
def writeCached (s : State) (a : Nat) (l : List Byte) : State := { s with mem := Memory.writeAll s.mem a l }

/-- A zero-line: the line is allocated without a fetch, zeroed and dirty (R332). -/
def zeroCached (s : State) (a : Nat) : State :=
  let t := if (Sp.get s.memory.lines a).isSome then dirtyLine s a
    else allocLine s a { way := 0, dirty := true, data := s.load a 64 } .clean
  writeCached t a (List.replicate 64 0)

/-- Maintenance by address on a line that is not in flight (R332, R333). -/
def maintain (s : State) (a : Nat) (m : Maint) : State :=
  match m with
  | .zero => zeroCached s a
  | .invalidate => discardLine s a
  | .clean => match Sp.get s.memory.lines a with
    | some l => if l.dirty then
        lineWritten { s with memory := { s.memory with lines := Sp.put s.memory.lines a { l with dirty := false, data := [] } } } a else s
    | none => s
  | .flush => match Sp.get s.memory.lines a with
    | some l =>
      let t := { s with memory := { s.memory with lines := Sp.del s.memory.lines a } }
      if l.dirty then lineWritten t a else t
    | none => s

/-- Bytes of an access size. -/
def sizeBytes (z : AccessSize) : Nat := match z with | .b1 => 1 | .b2 => 2 | .b4 => 4 | .b8 => 8

/-- A core's access to a line it finds in the cache. -/
def coreHit (s : State) (x : CoreAcc) : State :=
  if x.size = 64 then zeroCached s (lineOf x.addr)
  else if x.write then okTo (writeCached (dirtyLine s (lineOf x.addr)) x.addr (leBytes x.size x.data)) x.master
  else okTo (s.deliver x.master (BitVec.ofNat 64 (leNat (s.load x.addr x.size)))) x.master

/-- A core's access to the Cellar with the cache bypassed (R336). -/
def coreBypass (s : State) (x : CoreAcc) : State :=
  let whole := decide (x.size = 64)
  if x.write then
    let t := s.store x.addr (leBytes x.size x.data)
    let t := if !whole && poisoned s x.addr then poisonWrite t x.addr x.master else t
    okTo t x.master
  else if poisoned s x.addr then errorTo (lineBad s x.addr 2 x.master) x.master
  else okTo (s.deliver x.master (BitVec.ofNat 64 (leNat (s.load x.addr x.size)))) x.master

/-- What the cache does with an access of a coherent master that is no control core (R330, R333, R336). -/
inductive Snoop where
  /-- The cache or its eviction buffer serves it. -/
  | served (s : State)
  /-- A write waits for a write-back that is issued. -/
  | waits
  /-- It is the Cellar's. -/
  | cellar (s : State)

/-- Such an access looks into the cache. During the disable clean a dirty line it hits is written back; a write finds a dirty line and
merges into it, and takes a clean one out (which of the cache's copies a write changes is not stated: DESIGN CHOICE, log 40). -/
def snoop (s : State) (write : Bool) (a : Nat) : Snoop :=
  match Sp.get s.memory.lines a with
  | some l =>
    if l.dirty && s.flag K.memCleanInProgress then
      .served (lineWritten { s with memory := { s.memory with lines := Sp.put s.memory.lines a { l with dirty := false, data := [] } } } a)
    else if !write || l.dirty then .served s
    else .cellar (discardLine s a)
  | none => match s.memory.evict.find? fun (e : Evict) => e.line == a with
    | some e => if write && e.issued then .waits else .served (s.inc K.memEvictHitCount)
    | none => .cellar s

/-- A master's access is answered from the memory as coherent masters see it. -/
def answered (s : State) (x : CoreAcc) : State :=
  if x.write then okTo (writeCached s x.addr (leBytes x.size x.data)) x.master
  else okTo (s.deliver x.master (BitVec.ofNat 64 (leNat (s.load x.addr x.size)))) x.master

/-- A core waits. -/
def coreStalls (s : State) (x : CoreAcc) : State :=
  { s with memory := { s.memory with stalls := s.memory.stalls ++ [x] } }

/-- A master's access to the Cellar: the control cores go through the cache (R330-R336), the others are coherent with it. A zero-line is
an access of 64 bytes. -/
def coreAccess (s : State) (x : CoreAcc) : State :=
  let a := lineOf x.addr
  if x.master < 2 ∨ 5 < x.master then
    match snoop s x.write a with
    | .served t => answered t x
    | .waits => coreStalls s x
    | .cellar t => if fillStalls t a then coreStalls t x else coreBypass t x
  else if s.flag K.memCleanInProgress then coreStalls s x
  else if !s.flag K.memCacheEnable then (if fillStalls s a then coreStalls s x else coreBypass s x)
  else if (Sp.get s.memory.lines a).isSome then coreHit s x
  else match s.memory.evict.find? fun (e : Evict) => e.line == a with
    | some e =>
      if x.write && e.issued then coreStalls s x
      else
        answered (s.inc K.memEvictHitCount) x
    | none => match Sp.get s.memory.fills a with
      | some (l, m) =>
        if x.size = 64 then
          { s with memory := { s.memory with fills := Sp.put s.memory.fills a (l, m ++ [Maint.zero]) } }.inc K.memMaintWaitCount
        else { s with memory := { s.memory with fills := Sp.put s.memory.fills a (l ++ [x], m) } }
      | none =>
        if x.size = 64 then zeroCached s a
        else { s with memory := { s.memory with fills := Sp.put s.memory.fills a ([x], []) } }.inc K.memMissCount

/-! ### Hoe (R340-R342) -/

/-- Bytes a running pass has done: it keeps to hoe_rate_mbps, in lines (R340; log 42). -/
def hoeDone (s : State) : Nat :=
  let n := s.elapsed s.memory.hoeSince * s.nat K.memHoeRateMbps
  let n := n - n % 64
  if n < s.nat K.memHoeLength then n else s.nat K.memHoeLength

/-- A running pass ends before its last byte: causes 0 request, 1 power loss, 2 domain off. What it had found by then lies in
the Cellar's check bytes: free values (R340, R342). -/
def hoeStop (s : State) (cause : Nat) : State :=
  if !s.memory.hoeRun then s
  else
    let v (k : Nat) : Nat := (Config.freeValue (s.freeCtr + k)).toNat
    let done := hoeDone s
    let t := { s with freeCtr := s.freeCtr + 6, memory := { s.memory with hoeRun := false } }
    let t := (t.setN K.memHoeState 3).setN K.memHoeProgress done
    let t := ((t.setN K.memCeFound (v 0 % 2 ^ 32)).setN K.memUeFound (v 1 % 2 ^ 32)).setN K.memFirstFailAddr (v 2)
    let t := ((t.setN K.memLastFailAddr (v 3)).setN K.memTrackerHits (v 4 % 2 ^ 32)).setN K.memRewritten (v 5 % 2 ^ 32)
    let t := t.setN K.memPassUs (sat32 (s.elapsed s.memory.hoeSince))
    memEvent t 410 [cause, done] 0 (s.nat K.memHoeBase + done)

end Sys2Proof.Machine
end

