-- ==== Sys2Proof/Machine/Memory.lean ====
section
/-! DEFINITION. The commands of the Cellar, the last-level cache, the repeat trackers and Hoe (spec/14). -/

namespace Sys2Proof.Machine

/-! ### Cellar (R325-R327) -/

/-- What a requester gets in place of a bad line (R325). A sector's fetch and a Hoe read carry their own outcome in their own commands. -/
def badOutcome (s : State) (a : Nat) (q : CellarReq) : State :=
  match q with
  | .core m => errorTo s m.val
  | .other m => errorTo s (fabricKey m)
  | .sieve n => errorTo s (17 + n.val)
  | .nvmeToHost c => complete raise s (c.sqid.toNat, c.cid.toNat) (stat 2 0x81) 0
  | .pruner => mergeStops s 5 4
  | .flashFlush => match s.sheaf.flush with
    | some (img, slot, since) =>
      let base := s.cfg K.sheafPwcBase
      if base ≤ lineOf a then
        { s with sheaf := { s.sheaf with flush := some ({ img with poison := img.poison ++ [lineOf a - base] }, slot, since) } }
      else s
    | none => s
  | _ => s

/-- A line access that is served (R324-R326). -/
def cellarServe (s : State) (q : CellarReq) (a : Nat) (op : CellarOp) (ecc : Ecc) : State :=
  match op with
  | .read => match badCause s a ecc with
    | some c => badOutcome (lineBad s a c (reqCode q)) a q
    | none => match ecc with
      | .correctable syn => corrected s a syn.toNat (reqCode q)
      | _ => s
  | .writeLine data => s.store (lineOf a) ((data ++ List.replicate 64 0).take 64)
  | .writePart off data =>
    let bytes := data.take (64 - off.val)
    let t := s.store (lineOf a + off.val) bytes
    match badCause s a ecc with
    | some _ => poisonWrite t a (reqCode q)
    | none => match ecc with
      | .correctable syn => corrected t a syn.toNat (reqCode q)
      | _ => t

/-- A requester whose accesses look into the cache: all but a control core's own line accesses and Hoe's reads (R330, R340). -/
def snoops (q : CellarReq) : Bool := match q with
  | .core m => decide (m.val < 2) || decide (5 < m.val)
  | .hoe => false
  | _ => true

/-- The bytes that an access writes, and where. -/
def opBytes (op : CellarOp) (a : Nat) : Option (Nat × List Byte) := match op with
  | .read => none
  | .writeLine data => some (lineOf a, (data ++ List.replicate 64 0).take 64)
  | .writePart off data => some (lineOf a + off.val, data.take (64 - off.val))

/-- An access of the Cellar that is not the cache's: above the fill pointer it stalls. -/
def cellarDirect (s : State) (x : CellarAcc) : State :=
  if fillStalls s x.addr then { s with memory := { s.memory with fillWait := s.memory.fillWait ++ [x] } }
  else cellarServe s x.req x.addr x.op x.ecc

/-- A line access by a requester (R325-R327, R330, R333). -/
def cellarLine (s : State) (x : CellarAcc) : State :=
  if snoops x.req then match snoop s (x.op != .read) (lineOf x.addr) with
    | .served t => (match opBytes x.op x.addr with
      | some (b, l) => writeCached t b l
      | none => t)
    | .waits => { s with memory := { s.memory with fillWait := s.memory.fillWait ++ [x] } }
    | .cellar t => cellarDirect t x
  else cellarDirect s x

/-- A line access by a requester, with what the cache's arrays bring to it (R337). -/
def cellarAccess (s : State) (req : CellarReq) (a : Nat) (op : CellarOp) (ecc : Ecc) (arr : ArrayEcc) : State :=
  if !inCellar a || !cellarServes s then s
  else
    let (t, bad) := if snoops req then arrayMeets s a arr (reqCode req) else (s, false)
    if bad then badOutcome t a req else cellarLine t { req := req, addr := a, op := op, ecc := ecc, since := s.now }

/-- CELLAR_ACCESS (R325-R327, R337). -/
def execCellarAccess (req : CellarReq) (addr : Addr) (op : CellarOp) (ecc : Ecc) (arr : ArrayEcc) (s : State) :
    Host.Outcome State Fault Refusal :=
  .next (cellarAccess s req addr.toNat op ecc arr)

/-! ### The order of waiting accesses (spec/01 R26) -/

/-- An access that waits: a requester's, or a master's. -/
inductive Waiter where
  | line (x : CellarAcc)
  | core (x : CoreAcc)

/-- Class of a fabric master (spec/01 R26). -/
def masterClass (m : FabricMaster) : Nat := match m with
  | .channel => 0
  | .nvme => 1
  | .ethernet => 1
  | .core _ => 2
  | .sheafUnit => 2
  | .sieve _ => 3
  | _ => 4

/-- Class of the master with a key of `State.rdata`. -/
def keyClass (k : Nat) : Nat :=
  if k < 17 then 2 else if k < 32 then 3
  else match k - 32 with
    | 24 => 2
    | 25 => 1
    | 26 => 1
    | 27 => 0
    | _ => 4

/-- Class of a requester (spec/01 R26). -/
def reqClass (q : CellarReq) : Nat := match q with
  | .core _ => 2
  | .nvmeToHost _ => 1
  | .writeFetch _ => 0
  | .sieve _ => 3
  | .other m => masterClass m
  | _ => 4

/-- Class of an access that waits. -/
def Waiter.cls (w : Waiter) : Nat := match w with | .line x => reqClass x.req | .core x => keyClass x.master
/-- When it came. -/
def Waiter.since (w : Waiter) : Nat := match w with | .line x => x.since | .core x => x.since

/-- Puts an access after those that have waited as long or longer. -/
def Waiter.insert (s : State) (w : Waiter) (l : List Waiter) : List Waiter :=
  match l with
  | [] => [w]
  | x :: r => if s.elapsed x.since < s.elapsed w.since then w :: x :: r else x :: Waiter.insert s w r

/-- Accesses that can be served now, in the order of service: class 0; then once each lower class, lowest first, whose oldest access has
waited more than 2 µs; then the rest by class, in arrival order within a class. -/
def serviceOrder (s : State) (l : List Waiter) : List Waiter :=
  let l := l.foldl (fun m w => Waiter.insert s w m) []
  let of (c : Nat) : List Waiter := l.filter fun w => w.cls == c
  let aged (c : Nat) : Nat := match of c with
    | w :: _ => if 2 < s.elapsed w.since then 1 else 0
    | [] => 0
  of 0 ++ ([4, 3, 2].flatMap fun c => (of c).take (aged c)) ++ of 1 ++ [2, 3, 4].flatMap fun c => (of c).drop (aged c)

/-- The accesses that stall are tried again in the order of service (spec/01 R26); those that cannot be served yet stall again. -/
def serveWaits (s : State) : State :=
  let t := { s with memory := { s.memory with fillWait := [], stalls := [] } }
  (serviceOrder s (s.memory.fillWait.map .line ++ s.memory.stalls.map .core)).foldl (fun u w => match w with
    | .line x => cellarLine u x
    | .core x => coreAccess u x) t

/-- The fill between commands (R327): what it has passed is served. -/
def fillTick (s : State) : State :=
  if s.nat K.memCellarState = 2 ∧ !(s.memory.fillWait.isEmpty && s.memory.stalls.isEmpty) then serveWaits s else s

/-- The eviction buffer between commands (R333; the write-backs' timing is not stated, log 41): the oldest write-back is issued,
then done, and what waited for it is tried again. -/
def evictTick (s : State) : State :=
  match s.memory.evict with
  | [] => s
  | e :: r =>
    if e.issued then serveWaits (evictDone s)
    else { s with memory := { s.memory with evict := { e with issued := true } :: r } }

/-- CELLAR_FILL_DONE (R327): the Cellar is ready, and what stalled is served in its order. -/
def execCellarFillDone (s : State) : Host.Outcome State Fault Refusal :=
  if s.nat K.memCellarState ≠ 2 then .next s
  else
    let t := (s.setN K.memCellarState 3).setN K.memFillPointer cellarEnd
    let t := memEventFree t 403 [s.elapsed s.memory.fillSince] 0
    .next (serveWaits t)

/-! ### Cache (R331-R336) -/

/-- Dirty lines of the cache. -/
def dirtyCount (s : State) : Nat := (s.memory.lines.filter fun p => p.2.dirty).length

/-- The action of a write of cache_enable that was `was` before (R336). -/
def cacheSwitch (was : Bool) (t : State) : State :=
  if t.flag K.memCleanInProgress then
    let up := t.flag K.memCacheEnable
    { t.setB K.memCacheEnable false with memory := { t.memory with enableHeld := up } }
  else if was && !t.flag K.memCacheEnable then
    let u := t.setB K.memCleanInProgress true
    { u with memory := { u.memory with cleanSince := t.now, cleanLines := dirtyCount t, enableHeld := false } }
  else t

/-- The action of an accepted CACHE_ENABLE_WRITE (R336). -/
def cacheEnableWriteAct (s : State) (t : State) : State :=
  (cacheSwitch (s.flag K.memCacheEnable)) t

/-- CACHE_ENABLE_WRITE (R336). -/
def execCacheEnableWrite (m : Master) (v : Word) (s : State) : Host.Outcome State Fault Refusal :=
  .next (kwrite s m K.memCacheEnable v (cacheEnableWriteAct s))

/-- LLC_CLEAN_DONE (R336): every line is written back and invalid; a held enable takes effect, and the stalled accesses go on. -/
def execLlcCleanDone (s : State) : Host.Outcome State Fault Refusal :=
  if !s.flag K.memCleanInProgress then .next s
  else
    let held := s.memory.enableHeld
    let dirty := (s.memory.lines.filter fun p => p.2.dirty).map (·.1) ++ s.memory.evict.map fun (e : Evict) => e.line
    let t := dirty.foldl lineWritten s
    let t := { t with memory := { t.memory with lines := [], evict := [], enableHeld := false } }
    let t := (t.setB K.memCleanInProgress false).setB K.memCacheEnable held
    let t := memEventFree t 408 [s.memory.cleanLines, s.elapsed s.memory.cleanSince] 2
    .next (serveWaits t)

/-- The action of an accepted SCRATCH_WAYS_WRITE (R335): the windows of ways that change hands hold zeros afterwards. -/
def scratchWaysWriteAct (s : State) (t : State) : State :=
    let old := s.nat K.memScratchWays
    let new := t.nat K.memScratchWays
    let lo := min old new
    (clearBytes t (0x50000000 + lo * 0x40000) ((max old new - lo) * 0x40000)).setN K.memScratchBytes (new * 262144)

/-- SCRATCH_WAYS_WRITE (R335). -/
def execScratchWaysWrite (m : Master) (v : Word) (s : State) : Host.Outcome State Fault Refusal :=
  .next (kwrite s m K.memScratchWays v (scratchWaysWriteAct s))

/-- Maintenance by address (R332-R334, R336): ignored outside the Cellar, without effect during the disable clean and with the cache
off (but for zero-line), waiting for a fill in flight. -/
def maintenance (s : State) (addr : Nat) (k : Maint) : State :=
  let a := lineOf addr
  if !inCellar a || s.flag K.memCleanInProgress || !s.flag K.memCacheEnable then s
  else match Sp.get s.memory.fills a with
    | some (l, ms) => { s with memory := { s.memory with fills := Sp.put s.memory.fills a (l, ms ++ [k]) } }.inc K.memMaintWaitCount
    | none => maintain s a k

/-- CACHE_CLEAN (R332). -/
def execCacheClean (addr : Addr) (s : State) : Host.Outcome State Fault Refusal := .next (maintenance s addr.toNat .clean)
/-- CACHE_FLUSH (R332). -/
def execCacheFlush (addr : Addr) (s : State) : Host.Outcome State Fault Refusal := .next (maintenance s addr.toNat .flush)
/-- CACHE_INVALIDATE (R332, R333). -/
def execCacheInvalidate (addr : Addr) (s : State) : Host.Outcome State Fault Refusal :=
  .next (maintenance s addr.toNat .invalidate)

/-- ZERO_LINE (R332): a write of 64 zero bytes; with the cache off it goes to the Cellar. Which core issues it is not part of
the command: CTL[0]'s id stands for the core in a stalled access. -/
def execZeroLine (addr : Addr) (s : State) : Host.Outcome State Fault Refusal :=
  let a := lineOf addr.toNat
  if !inCellar a then .next s
  else .next (coreAccess s { master := 2, write := true, addr := a, size := 64, data := 0, since := s.now })

/-- LINE_FILL (R325, R331, R334, R337): the line of a miss comes back; a bad one is not allocated and faults the accesses that wait. The
arrays' error is that of the line it takes the place of. -/
def execLineFill (addr : Addr) (ecc : Ecc) (arr : ArrayEcc) (s : State) : Host.Outcome State Fault Refusal :=
  let a := lineOf addr.toNat
  match Sp.get s.memory.fills a with
  | none => .next s
  | some (l, ms) =>
    if fillStalls s a || !cellarServes s then .next s
    else
      let t := { s with memory := { s.memory with fills := Sp.del s.memory.fills a } }
      let who := match l with | x :: _ => x.master | [] => 2
      let t := match badCause s a ecc with
        | some c => l.foldl (fun u (x : CoreAcc) => errorTo u x.master) (lineBad t a c who)
        | none =>
          let t := match ecc with | .correctable syn => corrected t a syn.toNat who | _ => t
          l.foldl coreHit (allocLine t a { way := 0, dirty := false, data := [] } arr)
      .next (ms.foldl (fun u k => maintain u a k) t)

/-! ### Repeat trackers -/

/-- The action of an accepted TRACKER_CLEAR (R338, R344). -/
def trackerClearAct (v : Word) (t : State) : State :=
    (List.range 8).foldl (fun u id => if bitAt v.toNat id then putTracker u id [] else u) t

/-- TRACKER_CLEAR (R338, R344). -/
def execTrackerClear (m : Master) (v : Word) (s : State) : Host.Outcome State Fault Refusal :=
  .next (kwrite s m K.memTrackerClear v (trackerClearAct v))

/-! ### Hoe -/

/-- The range of a pass lies wholly within one memory that Hoe covers (R340). -/
def hoeRangeOk (s : State) (b n : Nat) : Bool :=
  b % 64 == 0 && n % 64 == 0 && (
    (decide (cellarBase ≤ b) && decide (b + n ≤ cellarEnd))
    || (decide (ctxBase ≤ b) && decide (b + n ≤ 0x40840000))
    || (decide (0x50000000 ≤ b) && decide (b + n ≤ 0x50000000 + s.nat K.memScratchWays * 0x40000)))

/-- The action of an accepted HOE_START (R340, spec/20 R450): no new pass in the idle modes. -/
def hoeStartAct (t : State) : State :=
    let mode := t.nat K.pmMode
    if !hoeRangeOk t (t.nat K.memHoeBase) (t.nat K.memHoeLength) || t.nat K.memCellarState == 2 || t.memory.hoeRun
        || mode == 2 || mode == 3 then t.setN K.memHoeState 4
    else
      let u := (t.setN K.memHoeState 1).setN K.memHoeProgress 0
      { u.zero K.memCeFound 7 with memory := { u.memory with hoeRun := true, hoeSince := t.now } }

/-- HOE_START (R340, spec/20 R450). -/
def execHoeStart (m : Master) (v : Word) (s : State) : Host.Outcome State Fault Refusal :=
  .next (kwrite s m K.memHoeStart v hoeStartAct)

/-- The action of an accepted HOE_CANCEL (R340). -/
def hoeCancelAct (t : State) : State :=
  hoeStop t 0

/-- HOE_CANCEL (R340). -/
def execHoeCancel (m : Master) (v : Word) (s : State) : Host.Outcome State Fault Refusal :=
  .next (kwrite s m K.memHoeCancel v hoeCancelAct)

/-- The memory id of an address a pass covers (R338). -/
def hoeMemory (a : Nat) : Nat := if inCellar a then 0 else if a < 0x50000000 then 1 else 2

/-- The tracker units of a line (R338): the Cellar's line, the words of the Larder, the words of a scratchpad way. -/
def lineUnits (a : Nat) : List Nat :=
  match hoeMemory a with
  | 0 => [a]
  | 1 => (List.range 8).map fun i => a + 8 * i
  | _ =>
    let o := a - 0x50000000
    (List.range 8).map fun i => o % 0x40000 / 64 + (15 - o / 0x40000) * 4096 + i * 65536

/-- A failing line of a pass already has a tracker entry. -/
def tracked (s : State) (a : Nat) : Bool := (lineUnits a).any fun u => (trackFind (trackerOf s (hoeMemory a)) u).isSome

/-- Lines without repeats, of a range. -/
def linesOf (l : List Nat) (b n : Nat) : List Nat :=
  ((l.map lineOf).filter fun a => decide (b ≤ a) && decide (a < b + n)).eraseDups

/-- The least and the greatest of a list. -/
def listMin (l : List Nat) : Nat := match l with | [] => 0 | x :: r => r.foldl min x
/-- The greatest of a list. -/
def listMax (l : List Nat) : Nat := l.foldl max 0

/-- HOE_PASS_END (R341, R342): corrections count and feed the trackers as R324 says of every correction; in rewrite mode each
corrected line is rewritten and its tracker entry freed. -/
def execHoePassEnd (correctable uncorrectable : List Addr) (s : State) : Host.Outcome State Fault Refusal :=
  if !s.memory.hoeRun then .next s
  else
    let b := s.nat K.memHoeBase
    let n := s.nat K.memHoeLength
    let bad := linesOf (uncorrectable.map (·.toNat) ++ s.memory.poison.map (·.1)) b n
    let good := (linesOf (correctable.map (·.toNat)) b n).filter fun a => !bad.contains a
    let fails := good ++ bad
    let hits := (fails.filter (tracked s)).length
    let rewrite := decide (s.nat K.memHoeMode = 1)
    let t := good.foldl (fun u a => if inCellar a then corrected u.drawn a (u.free.toNat % 2 ^ 32) (reqCode .hoe) else u) s
    let t := if rewrite then good.foldl (fun u a => (lineUnits a).foldl (fun x k => untrack x (hoeMemory a) k) u) t else t
    let re := if rewrite then good.length else 0
    let t := ((t.setN K.memHoeState 2).setN K.memHoeProgress n).setN K.memCeFound good.length
    let t := ((t.setN K.memUeFound bad.length).setN K.memFirstFailAddr (listMin fails)).setN K.memLastFailAddr (listMax fails)
    let t := ((t.setN K.memTrackerHits hits).setN K.memRewritten re).setN K.memPassUs (sat32 (s.elapsed s.memory.hoeSince))
    let t := { t with memory := { t.memory with hoeRun := false } }
    .next (memEvent t 409 [good.length, bad.length, re] (hoeMemory b) (listMin fails))

end Sys2Proof.Machine
end

