-- ==== Sys2Proof/Machine/Governor.lean ====
section
/-! DEFINITION. The governor's commands (spec/20 R463-R466): reservations asked for and given back, the envelope, the power
measurement. -/

namespace Sys2Proof.Machine

/-- A holder is of a unit the variant has (R3, R464). -/
def holderPresent (s : State) (h : Holder) : Bool := match h with
  | .slot q => hasSlot s.variant q
  | .sieve _ => hasSieve s.variant
  | .ethernet => hasEth s.variant

/-- A slot B reservation is refused outright: in the modes that keep slot B off, in Safe, and from throttle step 2 on
(R461, R470). -/
def refusedNow (s : State) (h : Holder) : Bool := match h with
  | .slot q => q.val % 2 == 1 && (decide (2 ≤ s.nat K.pmThrottleStep) || decide (2 ≤ s.nat K.pmMode))
  | _ => false

/-- A reservation is asked for (R464, R465): class 0 is granted at once; another is granted while it fits, after the
withdrawal of lower classes; else it waits. -/
def requestRes (r : Raiser) (s : State) (h : Holder) : State :=
  if holds s h || s.power.waiting.any (fun x => x.who == h) || !holderPresent s h || refusedNow s h then s
  else
    let cls := classOf s h
    let mw := costOf h
    if cls = 0 then holdRes r s h 0
    else
      let t := if fits s mw then s else makeRoom r s 16 mw cls 0
      if fits t mw then grantRun (holdRes r t h cls) h
      else
        let t := regovern r { t with power := { t.power with waiting := t.power.waiting ++ [{ who := h, cls := cls }] } }
        modeEvent r t 7 [holderCode h, cls, grantedMw t]

/-- A reservation is given back, held or waiting; what waits is granted while it fits (R465). Without slot B's, twin mode ends (spec/05
R112). -/
def releaseRes (r : Raiser) (s : State) (h : Holder) : State :=
  let t := { s with power := { s.power with waiting := s.power.waiting.filter fun x => x.who != h } }
  let t := if holds t h then regrantAll r (unholdRes r t h) else regovern r t
  match h with
  | .slot q => if q.val % 2 = 1 then twinLeave r t (q.val / 2) 2 else t
  | .sieve _ | .ethernet => t

/-- RESERVATION_REQUEST (R464, R465). A Sieve engine asks only for a run that is loading (spec/16 R375). -/
def execReservationRequest (h : Holder) (s : State) : Host.Outcome State Fault Refusal :=
  match h with
  | .sieve n => .next (if engState s n = 2 ∧ (s.sieveEng n).run.isSome = true then requestRes raise s h else s)
  | _ => .next (requestRes raise s h)

/-- RESERVATION_RELEASE (R465). -/
def execReservationRelease (h : Holder) (s : State) : Host.Outcome State Fault Refusal := .next (releaseRes raise s h)

/-- SLOT_RELEASE_EXPIRY (R464): slot B of an actuator has been idle for slot_release_ms. -/
def execSlotReleaseExpiry (a : Act) (s : State) : Host.Outcome State Fault Refusal :=
  .next (if slotState s (2 * a.val + 1) ≤ 1 then releaseRes raise s (slotBHolder a) else s)

/-- The action of an accepted ENVELOPE_WRITE (R463, R465). -/
def envelopeWriteAct (t : State) : State :=
  (reEnvelope raise) t

/-- ENVELOPE_WRITE (R463, R465). -/
def execEnvelopeWrite (m : Master) (v : Word) (s : State) : Host.Outcome State Fault Refusal :=
  .next (kwrite s m K.pmEnvelopeMw v envelopeWriteAct)

/-- POWER_MEASUREMENT (R466): a 10 ms average; the event comes with the tenth consecutive one above the envelope, one
withdrawal with each further. -/
def execPowerMeasurement (mw : BitVec 16) (s : State) : Host.Outcome State Fault Refusal :=
  let t := s.setN K.pmMeasuredMw mw.toNat
  let t := if t.nat K.pmMeasuredPeakMw < mw.toNat then t.setN K.pmMeasuredPeakMw mw.toNat else t
  let env := t.nat K.pmEnvelopeNowMw
  if mw.toNat ≤ env then .next { t with power := { t.power with overRun := 0 } }
  else
    let n := t.power.overRun + 1
    let t := { t with power := { t.power with overRun := if n < 11 then n else 11 } }
    if n = 10 then .next (modeEvent raise t 6 [mw.toNat, env])
    else if 10 < n then .next ((withdrawOne raise t 0 2).getD t)
    else .next t

end Sys2Proof.Machine
end

