-- ==== Sys2Proof/Machine/Detect.lean ====
section
/-! DEFINITION. The commands of sector detection (spec/08 R177-R201): the live decode, mark trials, re-detection passes, the deep
decoder, combine jobs, the outer-code solver and decoder faults. -/

namespace Sys2Proof.Machine

/-- Raises a detection event of a slot for an entry. -/
def detEvent (s : State) (q k : Nat) (items : List Nat) (e : Nat) : State := slotEventBy raise s q k items e

/-- Changes an entry of a slot. -/
def putEntry (s : State) (q e : Nat) (b : BufEntry) : State := s.setCh q ((s.ch q).setBuf e b)

/-! ### Delivery -/

/-- A decoded sector passes the XTS unit into the Cellar (spec/01 R22): kinds 0 and 2 are decrypted under the key of their
locking range with the LBA as tweak; kind 1 never passes it, kind 3 is no ciphertext. -/
def deliverSector (s : State) (dest lba range kind : Nat) (data : List Byte) : State :=
  if kind = 1 then s
  else if kind = 3 then s.store dest data
  else s.store dest (Config.xts false (at' s.strong.keys range 0) lba data)

/-- The firmware area of a sector that has been decoded, unchanged (R174). -/
def returnFirmware (s : State) (q : Nat) (l : List Byte) : State := s.setCh q { s.ch q with firmware := l }

/-- What a position holds in the group memory: user field, firmware area, and the CRC or, of a parity sector, crc_parity (R194, R195). -/
def groupBytes (kind : Nat) (x : Sector) : List Byte :=
  x.user ++ x.meta_.drop 32 ++ (if kind = 1 then (x.meta_.drop 24).take 4 else x.crc)

/-- A decoded sector of a group read is kept in the group memory, still ciphertext (R195). -/
def groupKeep (s : State) (b : BufEntry) (x : Sector) : State :=
  if b.group && decide (s.nat K.detOcState = 1) then
    { s with deep := { s.deep with ocMem := Sp.put s.deep.ocMem b.pos (groupBytes b.kind x) } }
  else s

/-! ### Judging an attempt (R181) -/

/-- The derived metadata that the descriptor implies for an entry's sector (R174). -/
def expectedMeta (s : State) (q : Nat) (b : BufEntry) : List Byte :=
  let tag := if b.kind = 0 then b.lba else if b.kind = 1 then parityTag s (s.ctx b.zone) b.head b.track b.sector else b.tag
  metaBytes tag b.kind b.head (q / 2) b.sector b.track b.zone b.range b.generation (leBytes 4 0)

/-- The decoded word of a run passes R181: converged, CRC and derived fields. -/
def passes (s : State) (q : Nat) (b : BufEntry) (r : DecodeRun) : Bool :=
  let x := sectorIn (hardBits r.post)
  r.converged && x.crcOk && x.fieldsOk (expectedMeta s q b) b.kind

/-- A converged codeword that fails a check (R181): counted, and event 233 with the alignment or pass, the CRC match bit, the expected and the
decoded tag. -/
def mismatch (s : State) (q e at_ : Nat) (b : BufEntry) (r : DecodeRun) : State :=
  if r.converged && !passes s q b r then
    let x := sectorIn (hardBits r.post)
    let tag (l : List Byte) : Nat := leNat (l.take 8) % 2 ^ 32
    detEvent (s.inc (K.slotCheckMismatchCount q)) q 233 [at_, b2n x.crcOk, tag (expectedMeta s q b), tag x.meta_] e
  else s

/-- An entry after an attempt of the line decoder (R190). -/
def BufEntry.after (b : BufEntry) (r : DecodeRun) (ok : Bool) : BufEntry :=
  { b with lineIters := b.lineIters + r.iters, mismatch := b.mismatch || (r.converged && !ok), best := min b.best r.unsat }

/-- The decoding alignment is not the declared mark (R183, R190). -/
def markMoved (b : BufEntry) (p : Nat) : Bool := match b.declared with | some d => d != p | none => false

/-- Event 229 where the mark was missed or moved: the kind (0 missed, 1 moved), the alignments tried, the decoding offset or candidate (R183,
R201; when it is raised: DEDUCED, log 12). A declared mark that was superseded is counted. -/
def syncRetry (s : State) (q e : Nat) (b : BufEntry) (moved : Bool) (place : Nat) : State :=
  let t := s.on moved fun u => u.inc (K.slotSyncFalseCount q)
  t.on (moved || b.markMissed) fun u => detEvent u q 229 [b2n moved, b.tried, place] e

/-- A sector is decoded with a result at an alignment (R181, R187). -/
def decoded (s : State) (q e result pass : Nat) (al : Nat × Nat × Int) (r : DecodeRun) : State :=
  let b := bufAt (s.ch q) e
  let x := sectorIn (hardBits r.post)
  let moved := markMoved b al.1
  let off := (al.2.2 % 8).toNat
  let t := s.on (decide (result ≠ 0)) fun u => syncRetry u q e b moved (if al.2.1 = 0 then off else al.2.1)
  let t := groupKeep (deliverSector (returnFirmware t q (x.meta_.drop 32)) b.dest b.lba b.range b.kind x.user) b x
  sectorEnds raise t q e result al.2.1 off pass 0 moved

/-! ### Detections (R178, R179, R183, R184) -/

/-- The resync mark, its window and its least score, as an alignment uses them (R178). -/
def partTimes (s : State) (q : Nat) (b : BufEntry) (ds : List Bool) (p : Nat) : List Nat :=
  codewordTimes ds (markBits (s.cfg K.detResyncPattern)) b.resyncs b.pred (codeLength b.codeRate) p (s.cfg (K.slotResyncWindowBits q))
    (s.cfg (K.slotResyncMinMatch q))

/-- The detection of the live path at an alignment (R179). -/
def liveDetection (s : State) (q : Nat) (b : BufEntry) (p : Nat) : Detection :=
  { ys := b.ys, target := b.target, times := partTimes s q b b.ds p, erased := b.defects }

/-- A filter that does not adapt, over samples (R183). -/
def fixedEq (b : BufEntry) (taps : List Int) (l : List (Int × Int)) : Equaliser :=
  equalise { target := b.target, amp := 0, shift := 0, reader := b.readerUse, adapts := fun _ => false } taps l

/-- The detection of samples by the replay detector at an alignment with given taps (R178, R183). -/
def replayOf (s : State) (q : Nat) (b : BufEntry) (taps : List Int) (l : List (Int × Int)) (p : Nat) (erased : List (Nat × Nat)) : Detection :=
  let z := fixedEq b taps l
  { ys := z.ys.reverse, target := b.target, times := partTimes s q b z.ds.reverse p, erased := erased }

/-- A replay of an entry's stored samples. -/
def replay (s : State) (q e : Nat) (b : BufEntry) (taps : List Int) (p : Nat) (erased : List (Nat × Nat)) : Detection :=
  replayOf s q b taps (storedSamples s q e b.bits) p erased

/-- Intervals widened on both sides (R184). -/
def widened (l : List (Nat × Nat)) (n : Nat) : List (Nat × Nat) := l.map fun x => (x.1 - n, x.1 + x.2 + n - (x.1 - n))

/-- Taps of one reader doubled, the other's 0 (R184). -/
def oneReader (taps : List Int) (r : Nat) : List Int :=
  (List.range 32).map fun i => if i / 16 = r then 2 * taps.getD i 0 else 0

/-- The taps that the LMS ends with over a whole entry, from the held ones on (R184). -/
def retrained (s : State) (q e : Nat) (b : BufEntry) : List Int :=
  (equalise { target := b.target, amp := s.cfg (K.slotAgcTarget q), shift := s.cfg (K.slotLmsShift q), reader := b.readerUse,
              adapts := fun _ => true } b.taps (storedSamples s q e b.bits)).taps

/-- The detection of a re-detection pass at an alignment (R184). -/
def passDetection (s : State) (q e : Nat) (b : BufEntry) (pass p : Nat) : Detection :=
  match pass with
  | 0 => replay s q e b (retrained s q e b) p b.defects
  | 1 => replay s q e b (oneReader b.taps 0) p b.defects
  | 2 => replay s q e b (oneReader b.taps 1) p b.defects
  | _ => replay s q e b b.taps p (widened b.defects (s.cfg (K.slotErasureWidenBits q)))

/-- A decode by the slot's line decoder under a cap (R180). -/
def lineDecode (s : State) (b : BufEntry) (d : Detection) (cap : Nat) : DecodeRun :=
  decodeRun 3 b.codeRate [d.llrs []] (lineCap s cap) 0

/-! ### The live decode -/

/-- Bit times of an entry under a dropout flag (R185). -/
def dropoutBits (b : BufEntry) : Nat := (List.range b.bits).foldl (fun n i => if inIntervals b.drops i then n + 1 else n) 0

/-- An entry shows a dropout flag over at least no_signal_pm per mille of its bit times, and its mark was missed (R185). -/
def noSignal (s : State) (q : Nat) (b : BufEntry) : Bool :=
  b.markMissed && decide (s.cfg (K.slotNoSignalPm q) * b.bits ≤ 1000 * dropoutBits b)

/-- A re-detection pass is run for an entry (R184): enabled, and no single-reader pass on a single-reader capture. -/
def passRuns (s : State) (q : Nat) (b : BufEntry) (pass : Nat) : Bool :=
  bitAt (s.cfg (K.slotRedetectMask q)) pass && !((pass == 1 || pass == 2) && b.readerUse != 0)

/-- The best alignment of an entry (R183). -/
def bestOf (b : BufEntry) : Nat × Nat × Int := (b.bestAlign.map (·.2)).getD (b.declared.getD b.pred, 0, 0)

/-- In-place recovery has failed: the deep queue with the LLRs of the best pass, or those of the best alignment where no pass ran (DESIGN CHOICE,
log 12); or the final failure where deep_enable is 0 (R184, R187, R189). -/
def toDeep (s : State) (q : Slot) (e : Fin 16) : State :=
  let b := bufAt (s.ch q) e
  let t := syncRetry s q e b false 0
  if s.cfgB K.detDeepEnable then
    let d := match b.det with | some x => x.2 | none => replay s q e b b.taps (bestOf b).1 b.defects
    let job : DeepJob := { stamp := b.stamp, q := q, entry := some e, since := s.now, code := b.codeRate, det := d }
    let t := putEntry t q e { b with work := .deepWait }
    redeep { t with deep := { t.deep with queue := t.deep.queue ++ [job] } }
  else sectorEnds raise t q e 8 0 0 0 0 false

/-- An entry that is not decoded goes on: to its next alignment or pass, or out of in-place recovery where none is left (R183, R184). -/
def goesOn (s : State) (q : Slot) (e : Fin 16) : State :=
  let b := bufAt (s.ch q) e
  if b.aligns.length ≤ b.tried ∧ b.passes.isEmpty = true then toDeep s q e else putEntry s q e { b with work := .inPlace }

/-- LIVE_DECODE (R179-R181, R183, R185): the live decode of a HELD entry. -/
def execLiveDecode (q : Slot) (e : Fin 16) (s : State) : Host.Outcome State Fault Refusal :=
  let b := bufAt (s.ch q) e
  if b.st ≠ .held ∨ b.work ≠ .live then .next s
  else
    let l := alignments b.pred (s.cfg (K.slotMarkOffsetRange q)) b.declared b.cands
    let al := l.headD (b.pred, 0, 0)
    let r := lineDecode s b (liveDetection s q b al.1) (lineIterMax s q)
    let ok := passes s q b r
    let b1 := { b.after r ok with aligns := l, tried := 1, bestAlign := some (r.unsat, al),
                                  passes := (List.range 4).filter (passRuns s q b) }
    let t := (putEntry s q e b1).on b.markMissed fun u => u.inc (K.slotSyncMissedCount q)
    let t := mismatch t q e 0 b r
    if ok then .next (decoded t q e 0 0 al r)
    else if noSignal s q b then .next (sectorEnds raise t q e 11 0 0 0 0 false)
    else .next (goesOn t q e)

/-! ### In-place recovery -/

/-- In-place work may be done on an entry (R186): no live decode of the slot waits, and of the entries in in-place recovery its gate-opening
stamp is the oldest, the lower entry on equal ones. -/
def itsTurn (s : State) (q e : Nat) : Bool :=
  let c := s.ch q
  let b := bufAt c e
  b.st == .held && b.work == .inPlace && (List.range 16).all fun i =>
    let x := bufAt c i
    !(x.st == .held && x.work == .live)
      && !(x.st == .held && x.work == .inPlace && (decide (x.stamp < b.stamp) || (x.stamp == b.stamp && decide (i < e))))

/-- MARK_TRIAL (R183, R186): the next alignment of in-place recovery; without one, or out of turn, nothing is tried. -/
def execMarkTrial (q : Slot) (e : Fin 16) (s : State) : Host.Outcome State Fault Refusal :=
  let b := bufAt (s.ch q) e
  match b.aligns[b.tried]? with
  | none => .next s
  | some al =>
    if !itsTurn s q e then .next s
    else
      let r := lineDecode s b (replay s q e b b.taps al.1 b.defects) (s.cfg (K.slotMarkTrialIters q))
      let ok := passes s q b r
      let better := match b.bestAlign with | some x => decide (r.unsat < x.1) | none => true
      let b1 := { b.after r ok with tried := b.tried + 1, bestAlign := if better then some (r.unsat, al) else b.bestAlign }
      let t := mismatch (putEntry s q e b1) q e b.tried b r
      if ok then .next (decoded t q e 1 0 al r) else .next (goesOn t q e)

/-- REDETECT_PASS (R184, R186): the next pass at the best alignment, after every alignment has failed; out of turn nothing is run. -/
def execRedetectPass (q : Slot) (e : Fin 16) (pass : Fin 4) (s : State) : Host.Outcome State Fault Refusal :=
  let b := bufAt (s.ch q) e
  if !itsTurn s q e ∨ b.tried < b.aligns.length ∨ b.passes.head? ≠ some pass.val then .next s
  else
    let al := bestOf b
    let d := passDetection s q e b pass al.1
    let r := lineDecode s b d (s.cfg (K.slotRedetectIters q))
    let ok := passes s q b r
    let better := match b.det with | some x => decide (r.unsat < x.1) | none => true
    let b1 := { b.after r ok with passes := b.passes.tail, det := if better then some (r.unsat, d) else b.det }
    let t := mismatch (putEntry s q e b1) q e (pass.val + 1) b r
    if ok then .next (decoded t q e 2 (pass.val + 1) al r) else .next (goesOn t q e)

/-! ### The deep decoder (R189) -/

/-- The waiting job of earliest stamp, the lower slot on equal stamps (R189). -/
def firstJob (l : List DeepJob) : Option DeepJob :=
  l.foldl (fun m j => match m with
    | none => some j
    | some k => if j.stamp < k.stamp ∨ (j.stamp = k.stamp ∧ j.q.val < k.q.val) then some j else some k) none

/-- An idle deep decoder takes the first waiting job (R189). -/
def takeDeep (s : State) : State :=
  match s.deep.run, firstJob s.deep.queue with
  | none, some j =>
    let t := redeep { s with deep := { s.deep with run := some j, queue := s.deep.queue.erase j } }
    (match j.entry with
    | some e => putEntry t j.q e { bufAt (t.ch j.q) e with work := .deepRun, waited := s.elapsed j.since }
    | none => t)
  | _, _ => s

/-- Iterations of the rounds of a deep job: equal ones, the last with the remainder (R189). -/
def deepCaps (s : State) : List Nat :=
  let most := s.cfg K.detDeepIterMax
  let g := s.cfg K.detDeepGlobal
  let len := most / (if g = 0 then 1 else g)
  List.replicate (g - 1) len ++ [most - len * (g - 1)]

/-- The rounds of a deep job, the detection done again before every later one with the decoder's extrinsic LLRs as prior (R189). -/
def deepRounds (sched code : Nat) (d : Detection) (caps : List Nat) (rounds : List (List Int)) (done : Nat) : DecodeRun :=
  match caps with
  | [] => { converged := false, iters := done, unsat := unsatisfied code (hardBits (rounds.getLastD [])), post := rounds.getLastD [] }
  | c :: rest =>
    let r := decodeRun sched code rounds c 0
    if r.converged ∨ rest.isEmpty = true then { r with iters := done + r.iters }
    else
      let ext := List.zipWith (· - ·) r.post (rounds.getLastD [])
      deepRounds sched code d rest (rounds ++ [d.llrs ext]) (done + r.iters)

/-- A deep job to its end (R189). -/
def deepRun (s : State) (j : DeepJob) : DecodeRun :=
  deepRounds (s.cfg K.detDeepSchedule) j.code j.det (deepCaps s) [j.det.llrs []] 0

/-- The newest of the entries of a slot's combine job (R193). -/
def newestEntry (s : State) (q : Nat) : Nat :=
  let mask := s.nat (K.slotCombineEntries q)
  ((List.range 16).filter (bitAt mask)).foldl (fun m e =>
    if (bufAt (s.ch q) m).stamp < (bufAt (s.ch q) e).stamp || !bitAt mask m then e else m) 0

/-- DEEP_JOB (R189, R193): the deep decoder runs its job, or the one it takes, to its end. -/
def execDeepJob (s : State) : Host.Outcome State Fault Refusal :=
  let s := takeDeep s
  match s.deep.run with
  | none => .next s
  | some j =>
    let q := j.q
    let r := deepRun s j
    let e : Nat := match j.entry with | some e => e.val | none => newestEntry s q
    let b := bufAt (s.ch q) e
    let ok := passes s q b r
    let t := (s.inc K.detDeepJobCount).on (!ok) fun u => u.inc K.detDeepFailCount
    let t := mismatch t q e 0 b r
    match j.entry with
    | some _ =>
      let t := putEntry t q e { b with deepIters := b.deepIters + r.iters, mismatch := b.mismatch || (r.converged && !ok),
                                       best := min b.best r.unsat }
      if ok then .next (decoded t q e 3 0 (bestOf b) r) else .next (sectorEnds raise t q e 8 0 0 0 0 false)
    | none =>
      let b1 := { b with deepIters := r.iters, mismatch := r.converged && !ok, best := r.unsat }
      let al := bestOf b
      if ok then
        let word := readWordOf b1 e 5 al.2.1 (al.2.2 % 8).toNat 0 (markMoved b al.1) true
        let x := sectorIn (hardBits r.post)
        .next (combineEnds (deliverSector (returnFirmware t q (x.meta_.drop 32)) (t.nat (K.slotCombineDest q)) b.lba b.range b.kind x.user)
          q 2 word)
      else
        let word := readWordOf b1 e 8 0 0 0 false true
        .next (detEvent (combineEnds t q 3 word) q 232 [word, b.tag, 3] e)

/-! ### Combine jobs (R193) -/

/-- The entries that a slot's combine_entries names. -/
def combineList (s : State) (q : Nat) : List Nat := (List.range 16).filter (bitAt (s.nat (K.slotCombineEntries q)))

/-- The entries of a combine job qualify (R193). -/
def combineOk (s : State) (q : Nat) : Bool :=
  let l := combineList s q
  let b (e : Nat) := bufAt (s.ch q) e
  match l with
  | [] => false
  | f :: _ => decide (2 ≤ l.length) && decide (l.length ≤ 4) && s.cfgB K.detDeepEnable
      && l.all fun e => (b e).st == .pinned && (b e).head == (b f).head && (b e).track == (b f).track && (b e).sector == (b f).sector

/-- An entry's sample pair at a bit time of the newest one, both aligned at their best alignments; none outside the capture or in a defect
interval of the entry (R193). -/
def combineSample (s : State) (q e at_ i : Nat) : Option (Int × Int) :=
  let b := bufAt (s.ch q) e
  let p := (bestOf b).1 + i
  if p < at_ ∨ b.bits ≤ p - at_ ∨ inIntervals b.defects (p - at_) = true then none
  else (storedSamples s q e b.bits)[p - at_]?

/-- The mean of some values, 0 of none. -/
def meanOf (l : List Int) : Int := if l.isEmpty then 0 else rnd (l.foldl (· + ·) 0) l.length

/-- The detection of the average of the entries of a combine job, with the taps of the newest one; a bit time that no entry has outside a defect
is an erasure (R193; the latter DEDUCED, log 12). -/
def combineDetection (s : State) (q : Nat) : Detection :=
  let n := newestEntry s q
  let b := bufAt (s.ch q) n
  let at_ := (bestOf b).1
  let l := (List.range b.bits).map fun i => (combineList s q).filterMap fun e => combineSample s q e at_ i
  let mean := l.map fun x => (meanOf (x.map (·.1)), meanOf (x.map (·.2)))
  let gone := ((List.range b.bits).filter fun i => (l.getD i []).isEmpty).map fun i => (i, 1)
  replayOf s q b b.taps mean at_ gone

/-- The action of an accepted COMBINE_START (R193). -/
def combineStartAct (q : Slot) (t : State) : State :=
    if t.nat (K.slotCombineState q) = 1 then t
    else if combineOk t q then
      let b := bufAt (t.ch q) (newestEntry t q)
      let job : DeepJob := { stamp := b.stamp, q := q, entry := none, since := t.now, code := b.codeRate, det := combineDetection t q }
      redeep ({ t with deep := { t.deep with queue := t.deep.queue ++ [job] } }.setN (K.slotCombineState q) 1 |>.inc K.detCombineCount)
    else t.setN (K.slotCombineState q) 4

/-- COMBINE_START (R193). -/
def execCombineStart (m : Master) (q : Slot) (v : Word) (s : State) : Host.Outcome State Fault Refusal :=
  .next (kwrite s m (K.slotCombineStart q) v (combineStartAct q))

/-! ### The outer code (R194, R195) -/

/-- Product in GF(2^8) with x^8 + x^4 + x^3 + x^2 + 1 (R194). -/
def gfMul (a b : Byte) : Byte :=
  ((List.range 8).foldl (fun (p : Byte × Byte) i =>
    let x := p.2
    (if b.getLsbD i then p.1 ^^^ x else p.1, if x.msb then (x <<< 1) ^^^ 0x1D else x <<< 1)) (0, a)).1

/-- α to a power. -/
def gfPow (n : Nat) : Byte := n.fold (fun _ _ p => gfMul p 2) 1

/-- Inverse in the field: the 254th power. -/
def gfInv (a : Byte) : Byte := (List.range 254).foldl (fun p _ => gfMul p a) 1

/-- Byte k of the positions other than the failed ones: the sum, and the sum weighted by α^i (R194). -/
def syndromes (m : Sp (List Byte)) (bad : List Nat) (k : Nat) : Byte × Byte :=
  ((List.range 34).filter fun i => !bad.contains i).foldl (fun (p : Byte × Byte) i =>
    let c := ((Sp.get m i).getD []).getD k 0
    (p.1 ^^^ c, p.2 ^^^ gfMul (gfPow i) c)) (0, 0)

/-- The bytes of a failed position, from the other positions of its group (R194, R195). -/
def recoverPos (m : Sp (List Byte)) (bad : List Nat) (i : Nat) : List Byte :=
  (List.range 4132).map fun k =>
    let (s0, s1) := syndromes m bad k
    match bad with
    | [x, y] =>
      let cy := gfMul (s1 ^^^ gfMul (gfPow x) s0) (gfInv (gfPow x ^^^ gfPow y))
      if i = y then cy else s0 ^^^ cy
    | _ => s0

/-- The sector that the recovered bytes of a data position make, its derived fields taken from the position (R195). -/
def recovered (s : State) (bad : List Nat) (i : Nat) : Sector :=
  let l := recoverPos s.deep.ocMem bad i
  let (_, _, b) := groupEnt s i
  { user := l.take 4096, meta_ := (expectedMeta s s.deep.ocSlot b).take 32 ++ (l.drop 4096).take 32, crc := l.drop 4128 }

/-- A recovered data sector is delivered with result ok_outer and counts so; a parity sector is delivered nowhere (R194, R195). -/
def deliverOuter (s : State) (bad : List Nat) (i : Nat) : State :=
  if 32 ≤ i then s
  else
    let (e, word, b) := groupEnt s i
    let x := recovered s bad i
    let t := deliverSector (returnFirmware s s.deep.ocSlot (x.meta_.drop 32)) b.dest b.lba b.range b.kind x.user
    tapPush raise (groupWord (t.inc K.detOcRecoveredCount) b.tag (readWordOf b e 4 0 0 0 false (bitAt word 50))) b 4

/-- OUTER_CODE_SOLVE (R195): a recovered data sector is checked under R181, where only its CRC can fail. -/
def execOuterCodeSolve (s : State) : Host.Outcome State Fault Refusal :=
  if s.nat K.detOcState ≠ 2 then .next s
  else
    let bad := failedPos s
    if bad.length ≤ 2 ∧ (bad.all fun i => decide (32 ≤ i) || (recovered s bad i).crcOk) = true then
      .next ((bad.foldl (fun t i => deliverOuter t bad i) s).setN K.detOcState 3)
    else .next (groupFails raise s)

/-- The action of an accepted OC_RELEASE (R195): the group memory is free. -/
def ocReleaseAct (t : State) : State :=
    ({ t with deep := { t.deep with ocDecoded := 0, ocFailed := 0, ocMem := [], ocEnts := [] } }.setN K.detOcState 0).setN
      K.detOcFailedMap 0

/-- OC_RELEASE (R195). -/
def execOcRelease (m : Master) (v : Word) (s : State) : Host.Outcome State Fault Refusal :=
  .next (kwrite s m K.detOcRelease v ocReleaseAct)

/-- Codes of the units of R201. -/
def decoderUnitCode (u : DecoderUnit) : Nat := match u with
  | .line => 0 | .replay => 1 | .deep => 2 | .solver => 3

/-- DECODER_FAULT (R201): of the line decoder or replay detector the slot's, of the deep decoder or the solver that of pd_deep. -/
def execDecoderFault (q : Slot) (unit : DecoderUnit) (cause : CheckCause) (s : State) : Host.Outcome State Fault Refusal :=
  let items := [decoderUnitCode unit, if cause = .memory then 0 else 1, (s.srv q).head, s.nat (K.slotSlotRing q), (s.ch q).last]
  .next (raise s (slotEv q 234) items { slot := some q.val, deep := unit == .deep || unit == .solver })

end Sys2Proof.Machine
end

