-- ==== Sys2Proof/Machine/WritePath.lean ====
section
/-! DEFINITION. The commands of the write path (spec/09): staging of sectors, the write-gate requests and closings of the gate
interlock, encoder faults. -/

namespace Sys2Proof.Machine

/-! ### The pipeline (R202) -/

/-- Byte k of the two parity sectors over the data positions of a group (spec/08 R194): c_32 + c_33 = Σ c_i and
α^32 c_32 + α^33 c_33 = Σ α^i c_i. -/
def parityByte (l : List (List Byte)) (k : Nat) : Byte × Byte :=
  let (s0, s1) := (List.range l.length).foldl (fun (p : Byte × Byte) i =>
    let c := (l.getD i []).getD k 0
    (p.1 ^^^ c, p.2 ^^^ gfMul (gfPow i) c)) (0, 0)
  let c33 := gfMul (s1 ^^^ gfMul (gfPow 32) s0) (gfInv (gfPow 32 ^^^ gfPow 33))
  (s0 ^^^ c33, c33)

/-- The 4,132 parity bytes of a position 32 or 33. -/
def parityBytes (l : List (List Byte)) (pos : Nat) : List Byte :=
  (List.range 4132).map fun k => let p := parityByte l k; if pos = 32 then p.1 else p.2

/-- The user field, metadata and CRC of a sector (R202, R211; spec/08 R174, R175). -/
def sectorBytes (s : State) (q : Nat) (i : StageIn) : List Byte :=
  let head := i.head.val
  let kind := i.kind.toNat
  let zone := (i.zone.map (·.toNat)).getD 0
  let meta_ (tag : Nat) (crcParity : List Byte) : List Byte :=
    metaBytes tag kind head (q / 2) i.sector.toNat i.track.toNat zone i.range.toNat i.generation.toNat crcParity
  let finish (user m : List Byte) : List Byte := user ++ m ++ leBytes 4 (crc32c (user ++ m))
  let fw := match i.firmware with
    | some l => (l ++ List.replicate 32 0).take 32
    | none => List.replicate 32 0
  if kind = 1 then
    let c := s.ctx zone
    let pos := (groupOf s c (trackIndexOf c (head - c.head) i.track.toNat) i.sector.toNat).2
    let p := parityBytes (s.wr q).accData pos
    finish (p.take 4096) (meta_ (parityTag s c head i.track.toNat i.sector.toNat) (p.drop 4128) ++ (p.drop 4096).take 32)
  else
    let plain := s.load i.source.toNat 4096
    let user := if kind = 3 then plain else Config.xts true (at' s.strong.keys i.range.toNat 0) i.lba.toNat plain
    finish user (meta_ (if kind = 0 then i.lba.toNat else i.tag.toNat) (leBytes 4 0) ++ fw)

/-- Channel bits of a staged sector, resync fields included (R203; spec/07 R152, R156). -/
def stagedBits (s : State) (q head sector : Nat) : Nat :=
  let fmt := surfaceFmt s q head
  let d := ringD s (q / 2) fmt
  let n := codeLength (bitsOf fmt 13 2)
  n + 240 + 96 * (resyncBits d n (sectorStart d n sector).2).length

/-- SECTOR_STAGE (R202, R203; spec/14 R325): a staging entry is filled while one is free. -/
def execSectorStage (q : Slot) (i : StageIn) (s : State) : Host.Outcome State Fault Refusal :=
  let w := s.wr q
  if 8 ≤ w.staging.length then .next s
  else
    let bytes := if i.fetchFault then [] else sectorBytes s q i
    let e : StageEnt :=
      { tag := i.tag.toNat, sector := i.sector.toNat, kind := i.kind.toNat, lba := i.lba.toNat, complete := !i.fetchFault,
        src := some i, bits := stagedBits s q i.head i.sector.toNat, bytes := bytes, bad := i.fetchFault, stamp := s.stamp,
        frame := if i.fetchFault then [] else sectorFrame s (q / 2) (surfaceFmt s q i.head) i.sector.toNat bytes }
    .next (refreshWrite (s.setWr q { w with staging := w.staging ++ [e], active := true, tag := i.tag.toNat }) q)

/-! ### Deferrals -/

/-- A staging miss (R24, R203): the sector and every later one move, counted and reported. -/
def stageMissed (s : State) (q tag sector short : Nat) : State :=
  writeEvent raise ((deferPart s q).inc (K.slotStagingMissCount q)) q 346 [sector, short] tag

/-- STAGING_MISS (spec/01 R24, R203). -/
def execStagingMiss (q : Slot) (tag : BitVec 32) (sector : BitVec 10) (short : BitVec 24) (s : State) :
    Host.Outcome State Fault Refusal :=
  .next (stageMissed s q tag.toNat sector.toNat short.toNat)

/-- A late pre-bias at the gate angle (spec/06 R140): causes 0 late arm, 1 not confirmed. -/
def armLate (s : State) (q cause lateness : Nat) : State :=
  let t := (deferPart s q).inc (K.lnkPrebiasLateCount (q / 2))
  let t := raise t (slotEv q 236) [cause, lateness, (t.srv q).head, t.nat (K.slotSlotRing q)] { slot := some q }
  assistOff t q 1

/-! ### The gate interlock (R206) -/

/-- Condition c of R206 holds for a slot, as far as no particular request is needed (interlock_now, R215). -/
def interlock (s : State) (q c : Nat) : Bool :=
  let a := q / 2
  let w := s.wr q
  match c with
  | 1 => s.nat K.sunState == 3
  | 2 => writeOk s q
  | 3 => s.cfg (K.lnkAssistKind a) == 0 || w.confirmed
  | 4 => !(s.link a).fltLow
  | 5 => !s.flag (K.lnkLinkDegraded a)
  | 6 => !s.power.loss
  | 7 => s.power.trip.isNone
  | 8 => s.nat K.pmMode != 5
  | 9 => !(s.ch q).inReset
  | 10 => w.encoderOk
  | _ => match w.gate with
    | some g => guardPasses s a g.head g.firstTrack g.lastTrack g.zone g.trackIndex
    | none => true

/-- interlock_now (R215). -/
def interlockNow (s : State) (q : Nat) : Nat :=
  (List.range 11).foldl (fun n c => if interlock s q (c + 1) then n + 2 ^ c else n) 0

/-- The order of R207, condition 5 last: it closes no gate, so R207 does not place it. -/
def causeOrder : List Nat := [6, 7, 8, 1, 4, 3, 2, 11, 10, 9, 5]

/-- A slot's staged sector. -/
def stagedEnt (w : WriteSt) (tag sector : Nat) : Option StageEnt :=
  w.staging.find? fun e => e.tag == tag && e.sector == sector

/-- Group state of a request (R211): the accumulator holds exactly the positions before the sector's. -/
def groupReady (w : WriteSt) (zone group pos : Nat) : Bool :=
  pos == 0 || (w.accHeld && w.accZone == zone && w.accGroup == group && w.accCount == (if pos < 32 then pos else 32))

/-- The group and position of a request in a zone with the outer code. -/
def requestGroup (s : State) (i : GateIn) : Option (Nat × Nat × Nat) :=
  match i.zone with
  | none => none
  | some z =>
    let c := s.ctx z.toNat
    if c.outer then let g := groupOf s c i.trackIndex.toNat i.sector.toNat; some (z.toNat, g.1 * 2 + (i.head.val - c.head), g.2)
    else none

/-- A request refused by the guard (R209): counted, and event 344. What stands for the zone's items where the descriptor has no
zone is not stated: free values. -/
def guardRefused (s : State) (q : Nat) (zone : Option Nat) (index tag : Nat) : State :=
  let t := endPart raise s q 11
  let t := t.inc (K.slotShingleRefusedCount q)
  match zone with
  | some z => writeEvent raise t q 344 [z, index, (s.ctx z).mwp, nextTrackBlock s z index] tag
  | none =>
    let v (k : Nat) : Nat := (Config.freeValue (t.freeCtr + k)).toNat % 2 ^ 32
    writeEvent raise { t with freeCtr := t.freeCtr + 4 } q 344 [v 0, v 1, v 2, v 3] tag

/-- First and last track of the descriptor of a request (R210): of the one in hand, or of the sectors from this one on. -/
def requestTracks (s : State) (q : Nat) (i : GateIn) : Nat × Nat :=
  let c := s.ch q
  let spt := bitsOf (surfaceFmt s q i.head) 16 10
  let last (track sector count : Nat) : Nat := track + (sector + count - 1) / (if spt = 0 then 1 else spt)
  match c.desc with
  | some d => if d.write ∧ d.tag = i.tag then (d.track.toNat, last d.track.toNat d.firstSector.toNat d.count.toNat)
      else (i.track.toNat, last i.track.toNat i.sector.toNat i.left.toNat)
  | none => (i.track.toNat, last i.track.toNat i.sector.toNat i.left.toNat)

/-! ### Precompensation (R204) -/

/-- The bit times before which the level on HS_WD changes; the channel bits are its levels (DEDUCED, log 39). -/
def transitions (l : List Bool) : List Nat :=
  (List.range (l.length - 1)).filterMap fun i => if l[i]? = l[i + 1]? then none else some (i + 1)

/-- The delay in ps of a transition: the sum of the fields of write_ring whose pattern conditions hold, clamped to 126 (R204). -/
def transitionDelay (w : Nat) (ts : List Nat) (t : Nat) : Nat :=
  let prev := (ts.filter fun x => decide (x < t)).foldl max 0
  let p1 := if 0 < prev ∧ prev + 1 = t then bitsOf w 0 6 else 0
  let p2 := if 0 < prev ∧ prev + 2 = t then bitsOf w 6 6 else 0
  min 126 (p1 + p2 + (if ts.contains (t + 1) then bitsOf w 12 6 else 0))

/-- The transitions of a sector's channel bits with their delays. -/
def writeDelays (w : Nat) (l : List Bool) : List (Nat × Nat) :=
  let ts := transitions l
  ts.map fun t => (t, transitionDelay w ts t)

/-- A parity sector's entry takes the accumulator as it stands when its gate opens: the last data sector of the group is written only just
before (R211; DEDUCED, log 39). -/
def freshParity (s : State) (q : Nat) (e : StageEnt) : StageEnt := match e.src with
  | some i => if i.kind = 1 then
      { e with bytes := sectorBytes s q i, frame := sectorFrame s (q / 2) (surfaceFmt s q i.head) e.sector (sectorBytes s q i) }
    else e
  | none => e

/-- Opens the gate of a sector whose conditions hold: the channel runs at the rate of the present speed (spec/07 R157), and the staged bits
leave with their delays (R204). -/
def gateOpens (s : State) (q : Nat) (i : GateIn) : State :=
  let w := s.wr q
  let w := { w with staging := w.staging.map fun e => if e.tag = i.tag.toNat ∧ e.sector = i.sector.toNat then freshParity s q e else e }
  let frame := match stagedEnt w i.tag.toNat i.sector.toNat with | some e => e.frame | none => []
  let span := requestTracks s q i
  let c : Ctx := match i.zone with | some z => s.ctx z.toNat | none => 0
  let pos := ((requestGroup s i).map (·.2.2)).getD 0
  let g : Gate :=
    { tag := i.tag.toNat, sector := i.sector.toNat, head := i.head.val, ring := i.ring.val, track := i.track.toNat,
      zone := i.zone.map (·.toNat), trackIndex := i.trackIndex.toNat, groupPos := pos, paused := false, twinB := i.twinB,
      dir := c.dir, outer := i.zone.isSome && c.outer, firstTrack := span.1, lastTrack := span.2,
      kbps := scaledRate s (q / 2) (bitsOf (surfaceFmt s q i.head) 0 13),
      delays := writeDelays (s.cfg (K.ringWriteRing (q / 2) i.ring)) frame }
  refreshWrite (s.setWr q { w with gate := some g, runOpen := true, active := true, tag := i.tag.toNat, twinB := i.twinB }) q

/-- A request for a sector in flight after a wedge (R205): conditions but 5, 12 and 13. -/
def reopen (s : State) (q : Nat) : State :=
  match (s.wr q).gate with
  | none => s
  | some g =>
    if !g.paused then s
    else match causeOrder.find? fun c => c != 5 && !interlock s q c with
      | some 11 => guardRefused s q g.zone g.trackIndex g.tag
      | some c => endPart raise s q c
      | none =>
        let kbps := scaledRate s (q / 2) (bitsOf (surfaceFmt s q g.head) 0 13)
        refreshWrite (s.setWr q { s.wr q with gate := some { g with paused := false, kbps := kbps } }) q

/-- The guard for a request. -/
def requestGuard (s : State) (q : Nat) (i : GateIn) : Bool :=
  let span := requestTracks s q i
  guardPasses s (q / 2) i.head span.1 span.2 (i.zone.map (·.toNat)) i.trackIndex.toNat

/-- Counts by which a sector's staging missed the point one wedge period before its gate angle (spec/01 R24). -/
def stageShort (s : State) (e : StageEnt) (i : GateIn) : Nat :=
  let w := s.cfg K.sunWedgesPerRev
  e.stamp + revCounts / (if w = 0 then 1 else w) - i.stamp.toNat

/-- The first failing condition of a request that begins a sector, in the order of R207; an unconfirmed assist before the
first gate of a run is no condition but a deferral (spec/06 R140, R141). -/
def requestCause (s : State) (q : Nat) (i : GateIn) : Option Nat :=
  causeOrder.find? fun c =>
    if c = 11 then !requestGuard s q i
    else if c = 3 then (s.wr q).runOpen && !interlock s q 3
    else !interlock s q c

/-- Before a gate is requested the link takes the preamp out of its safe state: SLOT_SEL with the present selection (spec/06 R133). -/
def reselect (s : State) (a : Nat) : State :=
  let l := s.link a
  if (l.cur.toList ++ l.again.toList ++ l.queue).any fun r => r.cmd == 2 && r.head == 15 && r.addr == 2 then s
  else linkPost s a { cls := 1, cmd := 2, head := 15, addr := 2, data := l.sel, who := .seq }

/-- A request that begins a sector (R206-R211; spec/06 R140). While the preamp is in its safe state no gate is requested: the sector moves
(spec/06 R133; DEDUCED, log 49). -/
def request (s : State) (q : Nat) (i : GateIn) : State :=
  let s := takeSurface s q i.head i.track.toNat
  let w := s.wr q
  if (s.link (q / 2)).preampSafe then deferPart (reselect (s.setWr q { w with active := true, tag := i.tag.toNat, twinB := i.twinB }) (q / 2)) q
  else
  let kind := s.cfg (K.lnkAssistKind (q / 2))
  let t := s.setWr q { w with active := true, tag := i.tag.toNat, twinB := i.twinB }
  match stagedEnt w i.tag.toNat i.sector.toNat with
  | some e =>
    if e.bad then endPart raise t q 10
    else match requestCause t q i with
      | some 11 => guardRefused t q (i.zone.map (·.toNat)) i.trackIndex.toNat i.tag.toNat
      | some c => endPart raise t q c
      | none =>
        if 0 < stageShort s e i then stageMissed t q i.tag.toNat i.sector.toNat (stageShort s e i)
        else if (match requestGroup s i with | some (z, g, p) => !groupReady w z g p | none => false) then endPart raise t q 17
        else if kind ≠ 0 ∧ (at' s.grants q none).isNone then deferPart t q
        else if kind ≠ 0 ∧ w.runOpen = false ∧ i.lead.toNat < s.cfg (K.lnkPrebiasMinCounts (q / 2)) then
          armLate t q 0 (s.cfg (K.lnkPrebiasMinCounts (q / 2)) - i.lead.toNat)
        else if kind ≠ 0 ∧ w.confirmed = false then armLate t q 1 0
        else gateOpens t q i
  | none => match requestCause t q i with
    | some 11 => guardRefused t q (i.zone.map (·.toNat)) i.trackIndex.toNat i.tag.toNat
    | some c => endPart raise t q c
    | none => stageMissed t.drawn q i.tag.toNat i.sector.toNat (t.free.toNat % 2 ^ 24)

/-- WRITE_GATE_REQUEST (R205-R211). -/
def execWriteGateRequest (q : Slot) (i : GateIn) (s : State) : Host.Outcome State Fault Refusal :=
  let s := boundaryIn s .sector (slotOwns q)
  .next (twinSettle raise (if i.reopening then reopen s q
    else if (s.wr q).gate.isSome || twinHeld s q then s
    else request s q i) (q / 2))

/-- A data sector written whole adds its bytes to the accumulator (R211). -/
def accumulate (w : WriteSt) (g : Gate) (group : Nat) (bytes : List Byte) : WriteSt :=
  if 32 ≤ g.groupPos then w
  else
    let body := bytes.take 4096 ++ (bytes.drop 4128).take 36
    let old := if g.groupPos = 0 then [] else w.accData
    { w with accHeld := true, accZone := g.zone.getD 0, accGroup := group, accCount := g.groupPos + 1, accData := old ++ [body] }

/-- The sector in flight is written whole: its entry is freed. -/
def sectorWritten (s : State) (q : Nat) (g : Gate) : State :=
  let w := s.wr q
  let bytes := match stagedEnt w g.tag g.sector with | some e => e.bytes | none => []
  let group := match g.zone with
    | some z => let c := s.ctx z; (groupOf s c g.trackIndex g.sector).1 * 2 + (g.head - c.head)
    | none => 0
  let w := if g.outer then accumulate w g group bytes else w
  let w := { w with gate := none, written := w.written + 1, sinceConfirm := w.sinceConfirm + 1,
                    staging := w.staging.filter fun e => !(e.tag == g.tag && e.sector == g.sector) }
  refreshWrite ((s.setWr q w).inc (K.slotSectorsWrittenCount q)) q

/-- WRITE_GATE_CLOSE (R205, R212; spec/05 R112, spec/06 R142): over a wedge the sector stays in flight; at the end of its pad
it is written whole. -/
def execWriteGateClose (q : Slot) (last descEnd runEnd : Bool) (s : State) : Host.Outcome State Fault Refusal :=
  match (s.wr q).gate with
  | none => .next s
  | some g =>
    if g.paused then .next s
    else if !last then .next (refreshWrite (s.setWr q { s.wr q with gate := some { g with paused := true } }) q)
    else
      let t := sectorWritten s q g
      let t := if descEnd then endPartWith raise t q 0 runEnd else if runEnd then assistOff t q 1 else t
      .next (twinSettle raise t (q / 2))

/-- Codes of the units of R217. -/
def encoderUnitCode (u : EncoderUnit) : Nat := match u with
  | .encoder => 0 | .staging => 1 | .accumulator => 2

/-- ENCODER_FAULT (R206 row 10, R211): the open gate closes, the accumulator is cleared. -/
def execEncoderFault (q : Slot) (unit : EncoderUnit) (cause : CheckCause) (s : State) : Host.Outcome State Fault Refusal :=
  let t := closeGate raise s q 10
  let w := t.wr q
  let t := t.setWr q { w with encoderOk := !w.active, accHeld := false, accCount := 0, accData := [] }
  .next (writeEvent raise t q 347 [encoderUnitCode unit, if cause = .memory then 0 else 1] (t.wr q).tag)

end Sys2Proof.Machine
end

