-- ==== Sys2Proof/Machine/HostCtl.lean ====
section
/-! DEFINITION. The commands of the host link (spec/12): transports, controller resets, doorbells, fetch, completion and posting,
queues, aborts, restarts of ordered queues, link and association events. NVMe opcodes and the positions of a command's fields
are those of the NVM Express specifications that R278 names (PRESUMED, log 20). -/

namespace Sys2Proof.Machine

/-! ### Transport, resets, shutdown (R274-R277) -/

/-- The action of an accepted LINK_ENABLE (R275): training may start, and Boot may be left (spec/20 R451). -/
def linkEnableAct (v : Word) (t : State) : State :=
  t.on (decide (v ≠ 0)) fun u => { u with power := { u.power with released := true } }

/-- LINK_ENABLE (R275). -/
def execLinkEnable (m : Master) (v : Word) (s : State) : Host.Outcome State Fault Refusal :=
  .next (kwrite s m K.hostLinkEnable v (linkEnableAct v))

/-- PERST_ASSERT (R277). -/
def execPerstAssert (s : State) : Host.Outcome State Fault Refusal := .next (controllerReset raise s 0 false)

/-- FUNCTION_LEVEL_RESET (R277). -/
def execFunctionLevelReset (s : State) : Host.Outcome State Fault Refusal := .next (controllerReset raise s 1 false)

/-- CC_EN_CLEAR (R277): only from 1 to 0. -/
def execCcEnClear (s : State) : Host.Outcome State Fault Refusal :=
  .next (s.on s.host.ccEn fun t => controllerReset raise t 2 false)

/-- Entries of the admin queues that CC.EN brings up. -/
def adminSize : Nat := 4096

/-- CC_EN_SET (R278): the controller becomes ready with its admin queue pair. -/
def execCcEnSet (s : State) : Host.Outcome State Fault Refusal :=
  if s.host.ccEn ∨ s.flag K.hostLinkUp = false then .next s
  else .next ((s.setHost { s.host with ccEn := true, shst := 0, sqs := Sp.put s.host.sqs 0 { size := adminSize, cqid := 0 },
                                       cqs := Sp.put s.host.cqs 0 { size := adminSize } }).setN K.hostCtrlState 2)

/-- SHUTDOWN_NOTIFICATION (R277). -/
def execShutdownNotification (s : State) : Host.Outcome State Fault Refusal :=
  .next (s.on s.host.ccEn fun t => (t.setHost { t.host with shst := 1 }).setN K.hostCtrlState 3)

/-- SHUTDOWN_COMPLETE (R277): the protected write cache is on the media and the journal has nothing left to commit. -/
def execShutdownComplete (s : State) : Host.Outcome State Fault Refusal :=
  .next (s.on (s.nat K.hostCtrlState == 3 && s.nat K.sheafPwcValid == 0 && s.sheaf.commits.isEmpty) fun t =>
    (t.setHost { t.host with shst := 2 }).setN K.hostCtrlState 4)

/-! ### Doorbells (R291 kinds 4 and 5) -/

/-- A doorbell that is ignored: the violation and the Error asynchronous event, which points to the error log page. -/
def badDoorbell (s : State) (kind qid v info : Nat) : State := asyncEvent raise (violate raise s kind qid 0xFFFF v) 0 info 1

/-- SQ_TAIL_DOORBELL. -/
def execSqTailDoorbell (qid : BitVec 16) (v : BitVec 32) (s : State) : Host.Outcome State Fault Refusal :=
  .next (match s.subQ qid.toNat with
    | none => badDoorbell s 4 qid.toNat v.toNat 0
    | some x => if x.size ≤ v.toNat then badDoorbell s 5 qid.toNat v.toNat 1 else s.setSubQ qid.toNat { x with tail := v.toNat })

/-- Posted entries of a completion queue that the host has not consumed. -/
def ComplQ.used (x : ComplQ) : Nat := (x.tail + x.size - x.head) % (if x.size = 0 then 1 else x.size)

/-- CQ_HEAD_DOORBELL. -/
def execCqHeadDoorbell (qid : BitVec 16) (v : BitVec 32) (s : State) : Host.Outcome State Fault Refusal :=
  .next (match Sp.get s.host.cqs qid.toNat with
    | none => badDoorbell s 4 qid.toNat v.toNat 0
    | some x =>
      let n := if x.size = 0 then 1 else x.size
      if x.size ≤ v.toNat ∨ x.used < (v.toNat + n - x.head) % n then badDoorbell s 5 qid.toNat v.toNat 1
      else s.setHost { s.host with cqs := Sp.put s.host.cqs qid.toNat { x with head := v.toNat } })

/-! ### Fetch (R279, R280, R283, R291) -/

/-- Blocks of a namespace, none where it is inactive or absent (spec/11 R258, R263, R264). -/
def nsBlocks (s : State) (ns : Nat) : Option Nat :=
  let zm := s.nat K.zoneZoneMode
  if ns = 1 then (if zm = 1 then some (s.nat K.zoneZoneCount * 65536) else if zm = 2 then some (s.nat K.zoneNsBlocks) else none)
  else if ns = 2 ∧ zm = 1 ∧ s.nat K.zoneConvCount ≠ 0 then some (s.nat K.zoneConvCount * 65536)
  else none

/-- Namespaces 3 and 4 exist (spec/16 R371). -/
def sieveNs (s : State) (ns : Nat) : Bool := (ns == 3 || ns == 4) && s.flag K.sivSieveHostEnable

/-- Admin opcodes of R278 and R296, and those of the Computational Programs command set while it is exposed (spec/16 R371, R372). -/
def adminOps (s : State) : List Nat :=
  [0x00, 0x01, 0x02, 0x04, 0x05, 0x06, 0x08, 0x09, 0x0A, 0x0C, 0x10, 0x11, 0x14, 0x18, 0x1D, 0x1E, 0x80, 0x81, 0x82, 0x84,
   0xC1, 0xC2, 0xC4] ++ (if s.flag K.sivSieveHostEnable then [0x21, 0x22, 0x23] else [])

/-- I/O opcodes of R278. -/
def ioOps : List Nat := [0x00, 0x01, 0x02, 0x08, 0x09, 0x79, 0x7A, 0x7D]
/-- I/O commands that transfer their blocks. -/
def dataOps : List Nat := [0x01, 0x02, 0x7D]
/-- I/O commands of a range of blocks. -/
def lbaOps : List Nat := [0x01, 0x02, 0x08, 0x79, 0x7A, 0x7D]

/-- An opcode is unsupported (kind 9): on the admin queue, or on an I/O queue for the namespace named. -/
def badOpcode (s : State) (q : Nat) (e : Sqe) : Bool :=
  let op := e.opcode.toNat
  if q = 0 then !(adminOps s).contains op
  else if sieveNs s e.nsid.toNat then false
  else
    let zm := s.nat K.zoneZoneMode
    !ioOps.contains op || ([0x79, 0x7A, 0x7D].contains op && (zm != 1 || e.nsid.toNat == 2)) || (op == 0x09 && zm != 2)

/-- Another command of the queue holds the identifier (kind 10). -/
def cidTaken (s : State) (q : Nat) (e : Sqe) : Bool := (queueEnts s q).any fun f => f.sqe.cid == e.cid

/-- Commands of an opcode outstanding on the admin queue. -/
def outstanding (s : State) (op : Nat) : Nat :=
  ((queueEnts s 0).filter fun f => f.sqe.opcode.toNat == op && f.st != .committed && f.bad.isNone).length

/-- Blocks of a command. -/
def sqeBlocks (e : Sqe) : Nat := if e.opcode.toNat = 0x79 ∨ e.opcode.toNat = 0x7A then 1 else e.nlb.toNat + 1

/-- Bytes that a command whose length its double words give transfers, and the word that says so (MDTS of R278): its blocks, a zone
report's double words, a log page's. -/
def transferOf (io : Bool) (e : Sqe) : Nat × Nat :=
  let op := e.opcode.toNat
  if io && dataOps.contains op then (4096 * sqeBlocks e, e.cdw12.toNat)
  else if io && op == 0x7A then (4 * (e.cdw12.toNat + 1), e.cdw12.toNat)
  else if !io && op == 0x02 then (4 * (bitsOf e.cdw10.toNat 16 16 + bitsOf e.cdw11.toNat 0 16 * 2 ^ 16 + 1), e.cdw10.toNat)
  else (0, 0)

/-- The range that a block of namespace 1 lies in: 0 is the Global range (spec/18 R422). -/
def rangeOf (s : State) (lba : Nat) : Nat :=
  match (List.range 16).find? fun i => let x := at' s.strong.ranges (i + 1) {}; decide (x.start ≤ lba) && decide (lba < x.start + x.len) with
  | some i => i + 1
  | none => 0

/-- A range of blocks of a namespace meets a range that is locked in a direction (spec/18 R422): the lowest such range. Range 0
is the Global range. -/
def lockedRange (s : State) (write : Bool) (ns first count : Nat) : Option Nat :=
  let w := s.nat (if write then K.srWriteLocked else K.srReadLocked)
  let ext (r : Nat) : Nat × Nat := let x := at' s.strong.ranges r {}; (x.start, x.len)
  let meets (r : Nat) : Nat :=
    let (a, l) := ext r
    if ns ≠ 1 then 0 else min (first + count) (a + l) - max first a
  let covered := (List.range 16).foldl (fun n i => n + meets (i + 1)) 0
  (List.range 17).find? fun r => bitAt w r && (if r = 0 then decide (covered < count) else decide (0 < meets r))

/-- An I/O command is subject to locks, and whether it writes: Read, Write, Write Zeroes, Append and Zone Management Send. -/
def lockSide (op : Nat) : Option Bool :=
  if op = 0x02 then some false else if [0x01, 0x08, 0x7D, 0x79].contains op then some true else none

/-- Double word 0 of an entry; its fuse and data pointer bits are not among the operands: free. -/
def dword0 (s : State) (e : Sqe) : Nat := e.opcode.toNat + s.free.toNat % 2 ^ 8 * 2 ^ 8 + e.cid.toNat * 2 ^ 16

/-- The checks of a fetched command, in the order of their kinds (R291; spec/20 R456; spec/18 R422): kind, status, detail. -/
def fetchCheck (s : State) (q : Nat) (e : Sqe) : Option (Nat × Nat × Nat) :=
  let op := e.opcode.toNat
  let ns := e.nsid.toNat
  let io := decide (q ≠ 0)
  let own := sieveNs s ns
  if e.reservedSet && op != 0xC4 then some (8, stat 0 0x02, s.free.toNat % 2 ^ 32)
  else if badOpcode s q e then some (9, stat 0 0x01, dword0 s e)
  else if cidTaken s q e then some (10, stat 0 0x03, dword0 s e)
  else if io && !own && (nsBlocks s ns).isNone && !(op == 0x00 && ns == 0xFFFFFFFF) then some (11, stat 0 0x0B, ns)
  else if io && !own && lbaOps.contains op && decide ((nsBlocks s ns).getD 0 < e.slba.toNat + sqeBlocks e) then
    some (12, stat 0 0x80, e.slba.toNat % 2 ^ 32)
  else if e.prpBad then some (13, stat 0 0x13, s.free.toNat % 2 ^ 32)
  else if e.sglBad ≠ 0 then some (14, stat 0 (if e.sglBad = 1 then 0x11 else 0x0E), s.free.toNat % 2 ^ 32)
  else if !own && decide (2 ^ 21 < (transferOf io e).1) then some (15, stat 0 0x02, (transferOf io e).2)
  else if !io && op == 0x08 && decide (s.nat K.hostAbortLimit < outstanding s 0x08) then some (18, stat 1 0x03, e.cdw10.toNat)
  else if !io && op == 0x0C && decide (3 < outstanding s 0x0C) then some (19, stat 1 0x05, e.cdw10.toNat)
  else if io && s.nat K.pmMode == 5 then some (32, stat 0 0x82, 0)
  else if io && !own then match lockSide op with
    | some w => (lockedRange s w ns e.slba.toNat (sqeBlocks e)).map fun r => (33, stat 2 0x86, r)
    | none => none
  else none

/-- Entries of the table per state, FETCHED to COMMITTED (event 362). -/
def tableCounts (s : State) : List Nat :=
  [CmdSt.fetched, .held, .active, .aborting, .committed].map fun st => (s.host.table.filter fun e => e.st == st).length

/-- A queue has a command that the controller may fetch now: up to the tail, and while frozen only what a Restart covers
(R280, R286, R287). -/
def fetchWanted (s : State) (x : SubQ) : Bool :=
  s.host.ccEn && !s.host.quiet && !x.fetchStopped && x.head != x.tail && (!x.frozen || (match x.restart with
    | some (_, _, tail) => x.head != tail
    | none => false))

/-- Room in the completion queue for every entry of a queue outside FREE and one more (R280). -/
def cqRoom (s : State) (q : Nat) (x : SubQ) : Bool := match Sp.get s.host.cqs x.cqid with
  | some c => decide (c.used + (queueEnts s q).length + 1 < c.size)
  | none => false

/-- A fetched I/O command ends a non-operational request of the host (spec/20 R454). -/
def hostWakes (s : State) : State := s.on (decide (2 ≤ s.nat K.pmHostPs)) fun t => t.setN K.pmHostPs t.power.lastOp

/-- The restart that covers a command fetched from a frozen queue: discard is true, resume false. -/
def SubQ.covering (x : SubQ) : Option Bool := if x.frozen then x.restart.map fun r => r.2.1 else none

/-- COMMAND_FETCH (R280): a queue's next command enters the table where the limits allow; else the stall or stop is counted once. -/
def execCommandFetch (qid : BitVec 16) (e : Sqe) (s : State) : Host.Outcome State Fault Refusal :=
  let q := qid.toNat
  match s.subQ q with
  | none => .next s
  | some x =>
    if !fetchWanted s x then .next s
    else if 1024 ≤ s.host.table.length then
      if s.host.stalled then .next s
      else .next (raise ((s.setHost { s.host with stalled := true }).inc K.hostFetchStallCount) 362 (tableCounts s) {})
    else if s.nat K.hostSqInflightMax ≤ (queueEnts s q).length then .next s
    else if !cqRoom s q x then
      if x.cqStop then .next s
      else .next (raise ((s.setSubQ q { x with cqStop := true }).inc K.hostCqFullCount) 360 [x.cqid] {})
    else
      let bad := fetchCheck s q e
      let ent : CmdEnt := { sqid := q, sqe := e, order := s.host.orderSeq, qpos := x.fetched, covered := x.covering.isSome,
                            bad := if x.covering = some true then none else bad }
      let t := (s.drawn.setHost { s.host with table := s.host.table ++ [ent], orderSeq := s.host.orderSeq + 1,
                                              stalled := false }).inc K.hostCommandsCount
      let t := t.setSubQ q { x with head := (x.head + 1) % (if x.size = 0 then 1 else x.size), fetched := x.fetched + 1,
                                    fetchFails := 0, cqStop := false }
      let t := t.on (decide (q ≠ 0)) hostWakes
      let t := if x.covering = some true then discards raise t q else t
      -- what may not enter ACTIVE yet is HELD on an ordered queue
      let t := advance t q
      let t := match t.host.table.find? fun f => f.order == ent.order with
        | some f => if f.st = .fetched ∧ x.ordered = true then t.setCmd { f with st := .held } else t
        | none => t
      let t := restartCheck raise t q
      .next (settle raise (showOq t q))

/-- Cause codes of a failed transfer (events 361 and 356). -/
def xferCode (c : XferCause) : Nat := match c with
  | .poisoned => 0 | .unsupported => 1 | .timeout => 2

/-- SQ_FETCH_ERROR (R291 kind 6): a second failure in a row stops the queue's fetching. -/
def execSqFetchError (qid : BitVec 16) (cause : XferCause) (s : State) : Host.Outcome State Fault Refusal :=
  let q := qid.toNat
  match s.subQ q with
  | none => .next s
  | some x =>
    let t := violate raise s 6 q 0xFFFF (xferCode cause)
    if x.fetchFails = 0 then .next (t.setSubQ q { x with fetchFails := 1 })
    else
      let t := asyncEvent raise (t.setSubQ q { x with fetchFails := 2, fetchStopped := true }) 7 0xC3 0xC3
      .next (raise t 361 [q, xferCode cause] {})

/-- Event 355 for a packet that AER reports; its AER status word is not stated: free. -/
def aerEvent (s : State) (dw0 : Nat) : State := raise s.drawn 355 [s.drawn.free.toNat % 2 ^ 32, dw0] {}

/-- A violating packet (R291 kinds 0-3): its detail is double word 0 and the address. -/
def badTlp (s : State) (kind dw0 addr : Nat) : State := violate raise s kind 0xFFFF 0xFFFF (dw0 + addr * 2 ^ 32)

/-- TLP_RECEIVE (R291 kinds 0-3). -/
def execTlpReceive (x : Tlp) (s : State) : Host.Outcome State Fault Refusal :=
  .next (match x with
    | .malformed d => aerEvent (badTlp s 0 d.toNat 0) d.toNat
    | .poisonedWrite d a => aerEvent (badTlp s 1 d.toNat a.toNat) d.toNat
    | .readMisaligned d a => aerEvent (badTlp s 2 d.toNat a.toNat) d.toNat
    | .writeReserved d a => badTlp s 3 d.toNat a.toNat
    | .good _ _ => s)

/-- DATA_TRANSFER_ERROR (R291 kind 7): the command completes with Data Transfer Error. -/
def execDataTransferError (c : CmdRef) (cause : XferCause) (s : State) : Host.Outcome State Fault Refusal :=
  match s.host.table.find? fun e => e.ref == refOf c && (e.st == .active || e.st == .aborting) with
  | none => .next s
  | some e =>
    let t := violate raise s 7 e.sqid e.sqe.cid.toNat (xferCode cause)
    .next (runCommits (complete raise t e.ref (stat 0 0x04) 0))

/-! ### Completion and posting (R281) -/

/-- COMPLETION_WRITE (R281, R286, R289): firmware or the fast path writes the completion of an ACTIVE or ABORTING entry. -/
def execCompletionWrite (c : CmdRef) (status : BitVec 15) (dw0 : BitVec 32) (s : State) : Host.Outcome State Fault Refusal :=
  match s.host.table.find? fun e => e.ref == refOf c && (e.st == .active || e.st == .aborting) with
  | none => .next s
  | some e => .next (runCommits (complete raise s e.ref status.toNat dw0.toNat))

/-- The COMMITTED entry of a completion queue that was committed first. I/O SQ n uses CQ n (R278). -/
def oldestCommit (s : State) (q : Nat) : Option CmdEnt :=
  s.host.table.foldl (fun m e => if e.st = .committed ∧ e.sqid = q then
      (match m with
        | none => some e
        | some f => if e.commit < f.commit then some e else m)
    else m) none

/-- The command that an Abort or a Delete names: queue [15:0], identifier [31:16]. -/
def namedRef (e : CmdEnt) : Ref := (bitsOf e.sqe.cdw10.toNat 0 16, bitsOf e.sqe.cdw10.toNat 16 16)

/-- An Abort that aborted is posted after the completion of the command it aborted (R289). -/
def postWaits (s : State) (e : CmdEnt) : Bool :=
  e.sqid == 0 && e.sqe.opcode == 0x08 && e.dw0 == 0 && e.status == 0
    && s.host.table.any fun f => f.ref == namedRef e && f.st == .committed && decide (f.commit < e.commit)

/-- CQE_POST (R281): the oldest committed completion of a completion queue reaches host memory and its entry is FREE. -/
def execCqePost (cqid : BitVec 16) (s : State) : Host.Outcome State Fault Refusal :=
  match oldestCommit s cqid.toNat, Sp.get s.host.cqs cqid.toNat with
  | some e, some x =>
    if postWaits s e ∨ x.size ≤ x.used + 1 then .next s
    else .next (s.setHost { s.host with
      table := s.host.table.filter fun f => f.order != e.order,
      cqs := Sp.put s.host.cqs cqid.toNat { x with tail := (x.tail + 1) % x.size },
      posted := (cqid.toNat, e.sqid, e.sqe.cid.toNat, e.status, e.dw0) :: s.host.posted })
  | _, _ => .next s

/-! ### Queues (R278, R285, R286, R291 kinds 16 and 17) -/

/-- A create command refused: kind 16, its detail the offending word. -/
def badCreate (s : State) (e : CmdEnt) (sc word : Nat) : State :=
  complete raise (violate raise s 16 0 e.sqe.cid.toNat word) e.ref (stat 1 sc) 0

/-- CREATE_IO_CQ. -/
def execCreateIoCq (c : CmdRef) (s : State) : Host.Outcome State Fault Refusal :=
  match activeEnt s.host.table (refOf c) true 0x05 with
  | none => .next s
  | some e =>
    let w := e.sqe.cdw10.toNat
    let q := bitsOf w 0 16
    let size := bitsOf w 16 16 + 1
    let iv := bitsOf e.sqe.cdw11.toNat 16 16
    .next (if q = 0 ∨ 32 < q ∨ (Sp.get s.host.cqs q).isSome = true then badCreate s e 0x01 w
      else if size < 2 ∨ 4096 < size then badCreate s e 0x02 w
      else if 32 < iv then badCreate s e 0x08 e.sqe.cdw11.toNat
      else complete raise (s.setHost { s.host with cqs := Sp.put s.host.cqs q { size := size, vector := iv } }) e.ref 0 0)

/-- A submission queue as it is created: whether it is ordered, and its window (R285). -/
def newSubQ (s : State) (q size : Nat) : SubQ :=
  { size := size, cqid := q, ordered := decide (17 ≤ q) && s.bit K.hostOrderedMask (q - 17), window := s.nat K.hostOrderedWindow }

/-- CREATE_IO_SQ: ordered_window is in force from the creation of a queue. -/
def execCreateIoSq (c : CmdRef) (s : State) : Host.Outcome State Fault Refusal :=
  match activeEnt s.host.table (refOf c) true 0x01 with
  | none => .next s
  | some e =>
    let w := e.sqe.cdw10.toNat
    let q := bitsOf w 0 16
    let size := bitsOf w 16 16 + 1
    let cq := bitsOf e.sqe.cdw11.toNat 16 16
    .next (if q = 0 ∨ 32 < q ∨ (s.subQ q).isSome = true then badCreate s e 0x01 w
      else if size < 2 ∨ 4096 < size then badCreate s e 0x02 w
      else if cq ≠ q ∨ (Sp.get s.host.cqs q).isNone = true then badCreate s e 0x00 e.sqe.cdw11.toNat
      else
        let t := boundary s .queueCreation
        complete raise (showOq (t.setSubQ q (newSubQ t q size)) q) e.ref 0 0)

/-- Every command of a queue that has not committed completes with Command Aborted due to SQ Deletion. -/
def endQueue (s : State) (q : Nat) : State :=
  (queueEnts s q).foldl (fun t e => if e.st = .committed then t else
    releaseAborter raise (commitBase raise t { e with noFreeze := true } (stat 0 0x08) 0) e) s

/-- DELETE_IO_SQ (R286). -/
def execDeleteIoSq (c : CmdRef) (s : State) : Host.Outcome State Fault Refusal :=
  match activeEnt s.host.table (refOf c) true 0x00 with
  | none => .next s
  | some e =>
    let q := bitsOf e.sqe.cdw10.toNat 0 16
    .next (if q = 0 ∨ (s.subQ q).isNone = true then complete raise s e.ref (stat 1 0x01) 0
      else
        let t := endQueue s q
        let t := showOq (t.setHost { t.host with sqs := Sp.del t.host.sqs q }) q
        runCommits (complete raise t e.ref 0 0))

/-- DELETE_IO_CQ (R291 kind 17). What a deleted submission queue had left to post is not posted. -/
def execDeleteIoCq (c : CmdRef) (s : State) : Host.Outcome State Fault Refusal :=
  match activeEnt s.host.table (refOf c) true 0x04 with
  | none => .next s
  | some e =>
    let q := bitsOf e.sqe.cdw10.toNat 0 16
    .next (if q = 0 ∨ (Sp.get s.host.cqs q).isNone = true then complete raise s e.ref (stat 1 0x01) 0
      else if (s.subQ q).isSome then
        complete raise (violate raise s 17 0 e.sqe.cid.toNat e.sqe.cdw10.toNat) e.ref (stat 1 0x0C) 0
      else complete raise (s.setHost { s.host with cqs := Sp.del s.host.cqs q, table := s.host.table.filter fun f => f.sqid != q })
        e.ref 0 0)

/-- ORDERED_MASK_WRITE (R285). -/
def execOrderedMaskWrite (m : Master) (v : Word) (s : State) : Host.Outcome State Fault Refusal :=
  .next (kwrite s m K.hostOrderedMask v id)

/-! ### Abort (R289, R290) -/

/-- An engine's run or a waiting run of an aborted command ends: that is the end of its work (spec/16 R372). -/
def abortRuns (s : State) (c : Ref) : State :=
  let t := (List.range 8).foldl (fun u n => match (u.sieveEng n).run with
    | some x => if x.owner = .host c then stopRun raise u n 0 else u
    | none => u) s
  if t.sieve.waiting.any fun w => w.1 == c then
    complete raise { t with sieve := { t.sieve with waiting := t.sieve.waiting.filter fun w => w.1 != c } } c 0 0
  else t

/-- The Abort's own answer "not aborted". -/
def notAborted (s : State) (e : CmdEnt) : State := complete raise s e.ref 0 1

/-- An entry whose command has no work in progress: not handed on, held, or an Asynchronous Event Request. -/
def CmdEnt.workless (f : CmdEnt) : Bool :=
  f.st == .fetched || f.st == .held || f.heldZone.isSome || (f.sqid == 0 && f.sqe.opcode == 0x0C)

/-- An Abort reaches the entry it names: FETCHED, HELD or ACTIVE (R289). -/
def abortEnt (s : State) (e f : CmdEnt) : State :=
  let frozen := match s.subQ f.sqid with | some x => x.frozen | none => false
  let g := { f with st := .aborting, aborter := some e.ref, heldZone := none, stopped := false,
                    noFreeze := f.noFreeze || f.stopped || (frozen && f.st == .held) }
  let t := s.setCmd g
  if f.workless then settle raise (commitEnt raise t g (stat 0 0x07) 0)
  else runCommits (abortRuns t f.ref)

/-- ABORT (R289): it acts on the entry that its SQID and CID name. -/
def execAbort (c : CmdRef) (s : State) : Host.Outcome State Fault Refusal :=
  match activeEnt s.host.table (refOf c) true 0x08 with
  | none => .next s
  | some e =>
    if s.host.table.any fun f => f.aborter == some e.ref && f.st != .committed then .next s
    else
      let l := s.host.table.filter fun f => f.ref == namedRef e && f.order != e.order
      .next (match l.find? fun f => f.st != .committed with
        | some f => if f.st = .aborting then notAborted s e else abortEnt s e f
        | none =>
          let t := s.inc K.hostAbortMissedCount
          let t := if l.isEmpty then t else raise t 359 [(namedRef e).1, (namedRef e).2] {}
          notAborted t e)

/-- ABORT_BUDGET_EXPIRY (R290): event 364, cause 1 abort overdue. The number of the table entry is not kept: free. -/
def execAbortBudgetExpiry (c : CmdRef) (s : State) : Host.Outcome State Fault Refusal :=
  match s.cmd (refOf c) with
  | some e => if e.st = .aborting then .next (raise s.drawn 364 [1, s.free.toNat % 1024] {}) else .next s
  | none => .next s

/-! ### Ordered queues (R287, R296, R297) -/

/-- The checks of R297 in order: the status of the first that fails, 0 where none does. -/
def restartStatus (s : State) (e : CmdEnt) : Nat :=
  let w := e.sqe.cdw10.toNat
  match s.subQ (bitsOf w 0 16) with
  | none => stat 1 0x01
  | some x =>
    if !x.ordered then stat 1 0x01
    else if !x.frozen then stat 1 0xC0
    else if e.sqe.cdw11.toNat ≠ x.errSeq then stat 1 0xC1
    else if bitsOf w 17 15 ≠ 0 then stat 0 0x02
    else 0

/-- The covered commands of a queue are marked, and the restart stands until they are done (R287). -/
def beginRestart (s : State) (e : CmdEnt) (q : Nat) (x : SubQ) (discard : Bool) : State :=
  let cov := (queueEnts s q).filter fun f => f.st == .held || (f.st == .active && f.stopped)
  let waiting := (x.tail + x.size - x.head) % (if x.size = 0 then 1 else x.size)
  let t := s.setHost { s.host with table := s.host.table.map fun f =>
    if f.sqid = q ∧ (f.st = .held ∨ (f.st = .active ∧ f.stopped = true)) then { f with covered := true, noFreeze := discard } else f }
  t.setSubQ q { x with restart := some (e.ref, discard, x.tail), covered := cov.length + waiting, frozen := discard }

/-- ORDERED_QUEUE_RESTART (R287, R297): a resume lets the covered commands run in order; a discard completes them. -/
def execOrderedQueueRestart (c : CmdRef) (s : State) : Host.Outcome State Fault Refusal :=
  match activeEnt s.host.table (refOf c) true 0xC4 with
  | none => .next s
  | some e =>
    let w := e.sqe.cdw10.toNat
    let q := bitsOf w 0 16
    let st := restartStatus s e
    match s.subQ q with
    | none => .next (complete raise s e.ref st 0)
    | some x =>
      if x.restart.isSome then .next s
      else if st ≠ 0 then .next (complete raise s e.ref st 0)
      else
        let discard := bitAt w 16
        let t := beginRestart s e q x discard
        let t := if discard then discards raise t q else advance t q
        .next (settle raise (restartCheck raise (showOq t q) q))

/-! ### NVMe/TCP and the links (R293-R295, R299) -/

/-- A refused Connect (R294): counted, with event 387. -/
def connectRefused (s : State) (source status : Nat) (count : Bool) : State :=
  let t := s.on count fun u => u.inc K.hostTcpRejectCount
  t.on count fun u => raise u 387 [source, status] {}

/-- FABRICS_CONNECT (R294). Event 386 carries a hash of the host NQN that is not stated: free. -/
def execFabricsConnect (qid : BitVec 16) (hostNqn : BitVec 64) (cntlid : BitVec 16) (source : BitVec 32) (s : State) :
    Host.Outcome State Fault Refusal :=
  let q := qid.toNat
  if s.nat K.hostHostTransport ≠ 1 ∨ s.flag K.hostLinkUp = false then .next s
  else if q = 0 then
    if s.host.assoc.isSome then .next (connectRefused s source.toNat (stat 1 0x81) true)
    else
      let t := s.setHost { s.host with assoc := some (hostNqn.toNat, cntlid.toNat), conns := [0],
                                       sqs := Sp.put s.host.sqs 0 { size := adminSize, cqid := 0 },
                                       cqs := Sp.put s.host.cqs 0 { size := adminSize } }
      .next (raise (t.drawn.setN K.hostAssocState 1) 386 [t.free.toNat % 2 ^ 32, 1] {})
  else match s.host.assoc with
    | none => .next s
    | some (h, n) =>
      if h ≠ hostNqn.toNat ∨ n ≠ cntlid.toNat then .next (connectRefused s source.toNat (stat 1 0x82) false)
      else if 32 < q ∨ (s.subQ q).isSome = true ∨ s.host.ccEn = false then .next s
      else
        let t := boundary s .queueCreation
        let t := t.setHost { t.host with conns := q :: t.host.conns, cqs := Sp.put t.host.cqs q { size := 4096 } }
        .next (showOq ((t.setSubQ q (newSubQ t q 4096)).setN K.hostAssocState 2) q)

/-- The association ends: its queues and what they hold are gone, without completions, as at a controller reset (R294). -/
def endAssociation (s : State) : State :=
  let s := endWork s
  let h := { s.host with assoc := none, conns := [], table := [], sqs := [], cqs := [] }
  let t := sieveControllerReset raise (s.setHost { h with ccEn := false, asyncs := [], stalled := false })
  (List.range 16).foldl (fun u i => u.set (K.hostOqState i) 0) (t.setN K.hostAssocState 0)

/-- A connection closes: the admin connection ends the association. -/
def connectionClosed (s : State) (q : Nat) : State :=
  if q = 0 then endAssociation s else s.setHost { s.host with conns := s.host.conns.filter fun c => c != q }

/-- TCP_CONNECTION_CLOSE (R294). -/
def execTcpConnectionClose (conn : BitVec 16) (s : State) : Host.Outcome State Fault Refusal :=
  .next (s.on (s.host.conns.contains conn.toNat) fun t => connectionClosed t conn.toNat)

/-- TCP_PDU_ERROR (R295, R291 kind 21): the connection is terminated and the association ends. -/
def execTcpPduError (conn : BitVec 16) (pduType : Byte) (code : BitVec 16) (what : BitVec 2) (s : State) :
    Host.Outcome State Fault Refusal :=
  if !s.host.conns.contains conn.toNat then .next s
  else
    -- the detail of kind 21 is not stated; event 389 tells a header digest from a data digest by a bit that is not an operand
    let t := violate raise s.drawn 21 conn.toNat 0xFFFF s.free.toNat
    let t := if what = 1 then raise t.drawn 389 [conn.toNat, t.free.toNat % 2] {} else t
    .next (endAssociation (raise t 390 [conn.toNat, pduType.toNat, code.toNat] {}))

/-- KEEP_ALIVE_TIMEOUT (R293): the association ends as a controller reset. The timeout is the Keep Alive Timer feature's value. -/
def execKeepAliveTimeout (s : State) : Host.Outcome State Fault Refusal :=
  if s.host.assoc.isNone then .next s
  else
    let kato := match Sp.get s.host.features 0x0F with | some v => v | none => s.free.toNat % 2 ^ 32
    .next (controllerReset raise (raise s.drawn 388 [kato] {}) 3 false)

/-- PCIE_LINK_TRAINED (R275, R299): below ×2 at 32 GT/s event 354 reports it. -/
def execPcieLinkTrained (speed : BitVec 3) (width : BitVec 2) (s : State) : Host.Outcome State Fault Refusal :=
  if s.nat K.hostHostTransport ≠ 0 ∨ s.flag K.hostLinkEnable = false ∨ speed = 0 ∨ 5 < speed.toNat ∨ width = 0 ∨ 2 < width.toNat then
    .next s
  else
    let t := ((s.setN K.hostLinkSpeed speed.toNat).setN K.hostLinkWidth width.toNat).setB K.hostLinkUp true
    let t := t.setHost { t.host with lastSpeed := speed.toNat, lastWidth := width.toNat }
    .next (if speed.toNat < 5 ∨ width.toNat < 2 then raise t 354 [speed.toNat, width.toNat] {} else t)

/-- The objects of a link that is down. -/
def linkDown (s : State) : State := ((s.setN K.hostLinkSpeed 0).setN K.hostLinkWidth 0).setB K.hostLinkUp false

/-- PCIE_LINK_DOWN (R299). -/
def execPcieLinkDown (ltssm : Byte) (s : State) : Host.Outcome State Fault Refusal :=
  if s.nat K.hostHostTransport ≠ 0 ∨ s.flag K.hostLinkUp = false then .next s
  else .next (raise (linkDown s) 353 [s.host.lastSpeed, s.host.lastWidth, ltssm.toNat] {})

/-- ETH_LINK_CHANGE (R299): up with its FEC mode, or down with its cause. -/
def execEthLinkChange (up : Bool) (detail : BitVec 32) (s : State) : Host.Outcome State Fault Refusal :=
  if s.nat K.hostHostTransport ≠ 1 ∨ s.flag K.hostLinkEnable = false then .next s
  else if up then
    let t := ((s.setN K.hostLinkSpeed 6).setN K.hostLinkWidth 1).setB K.hostLinkUp true
    .next (raise t 384 [6, detail.toNat] {})
  else .next (raise (linkDown s) 385 [detail.toNat] {})

end Sys2Proof.Machine
end

