-- ==== Sys2Proof/Machine/StrongOps.lean ====
section
/-! DEFINITION. Ledger entries, measurement, the ledger store and the runtime chain (spec/18 R410-R417), which the commands of
Strongroom, the Sieve and Trellis loads and the dictionary's writes share; log page 0xC4. -/

namespace Sys2Proof.Machine

/-- Raises an event of Strongroom: its items, then boot_counter (R425). -/
def srEvent (s : State) (e : Nat) (items : List Nat) : State := raise s e (items ++ [s.nat K.srBootCounter]) {}

/-- Takes n bytes of a list, zeros beyond its end. -/
def padTo (n : Nat) (l : List Byte) : List Byte := (l ++ List.replicate (n - l.length) 0).take n

/-- The 64 bytes of an entry (R413). -/
def LedgerEnt.bytes (e : LedgerEnt) : List Byte :=
  leBytes 1 e.kind ++ leBytes 1 e.index ++ leBytes 2 e.flags ++ leBytes 4 e.version ++ leBytes 8 e.component ++ padTo 48 e.digest

/-- Extends the runtime register with an entry (R417): the first 64 are logged, later ones counted, and event 471 is raised once. -/
def extendRt (s : State) (e : LedgerEnt) : State :=
  let e := { e with flags := setBit e.flags 3 true }
  let x := s.strong
  let x := { x with rt := Config.sha384 (x.rt ++ e.bytes) }
  if x.runtime.length < 64 then
    let t := { s with strong := { x with runtime := x.runtime ++ [e] } }
    t.setN K.srRuntimeCount (x.runtime.length + 1)
  else
    let t := ({ s with strong := { x with overflowed := true } }).inc K.srRuntimeLost
    if x.overflowed then t else srEvent t 471 [t.nat K.srRuntimeLost]

/-- Measures an entry: into the ledger being assembled, or after the seal into the runtime chain. A ledger has at most 57
entries (R410, R412, R417). -/
def measure (s : State) (e : LedgerEnt) : State :=
  if s.strong.sealed then extendRt s e
  else if s.strong.entries.length < 57 then { s with strong := { s.strong with entries := s.strong.entries ++ [e] } }
  else s

/-- Extends the runtime chain where the ledger is sealed (R417). -/
def measureRuntime (s : State) (e : LedgerEnt) : State := s.on s.strong.sealed fun t => extendRt t e

/-! ### objects_hash (R414) -/

/-- Bytes of an object's value, little-endian and by its type; a STR or BLOB gives its contents. -/
def objBytes (s : State) (r : ObjRow) (k : Key) : List Byte :=
  if r.ty.bytes = 0 then (Sp.get s.blobs k).getD (if r.ty = .blob then List.replicate 48 0 else [])
  else leBytes r.ty.bytes (s.nat k)

/-- The padding of a value to a multiple of 4 bytes. -/
def pad4 (l : List Byte) : List Byte := l ++ List.replicate ((4 - l.length % 4) % 4) 0

/-- An object as an Enunile write entry (spec/17 R395). -/
def writeEntry (s : State) (i sub : Nat) : List Byte := match objNow s (aliasIndex i) sub with
  | none => []
  | some r =>
    let v := objBytes s r (aliasIndex i * 256 + sub)
    leBytes 2 i ++ leBytes 1 sub ++ leBytes 1 r.ty.code ++ leBytes 2 v.length ++ leBytes 2 0 ++ pad4 v

/-- The objects of R414 in order, absent ones left out. -/
def measuredObjs (s : State) : List (Nat × Nat) :=
  ([(0x9010, 1), (0x9010, 3), (0x9010, 6), (0x9050, 1), (0x6800, 1), (0x8000, 1), (0x8000, 2), (0x8000, 3), (0x8001, 1), (0x8001, 2),
    (0x8001, 3), (0x8001, 4)] ++ (List.range 7).flatMap fun n => (List.range 5).map fun j => (0xC002 + 0x100 * n, j + 1)).filter
    fun o => !unitAbsent s.variant o.1

/-- objects_hash. -/
def objectsHash (s : State) : List Byte := Config.sha384 ((measuredObjs s).flatMap fun o => writeEntry s o.1 o.2)

/-- A write has changed an object: one of R414 extends the runtime chain with kind 6 (R417). -/
def objectChanged (s : State) (i sub : Nat) : State :=
  if (measuredObjs s).contains (i, sub) then
    measureRuntime s { kind := 6, index := 0, flags := 0, version := 0, component := i * 256 + sub,
                       digest := Config.sha384 (writeEntry s i sub) }
  else s

/-! ### The ledger store (R415, R416) -/

/-- Slots of the store. -/
def storeSlots : Nat := 16384
/-- The number of the DeviceID key pair among the keys of `Config.signature`; alias keys follow it. -/
def deviceKey : Nat := 0

/-- Free slots. -/
def storeFree (s : State) : Nat := storeSlots - s.strong.store.length
/-- The first free slot after the newest ledger's, counting upward and wrapping. -/
def nextStoreSlot (s : State) : Nat :=
  let start := match s.strong.newest with | some n => n + 1 | none => 0
  (((List.range storeSlots).map fun i => (start + i) % storeSlots).find? fun n => (Sp.get s.strong.store n).isNone).getD 0

/-- The checkpoint in the store, with its slot. -/
def checkpoint (s : State) : Option (Nat × StoreSlot) := s.strong.store.find? fun x => x.2.kind == 2

/-- Inserts a ledger by its boot. -/
def insertBoot (x : Nat × StoreSlot) (l : List (Nat × StoreSlot)) : List (Nat × StoreSlot) := match l with
  | [] => [x]
  | y :: r => if y.2.boot < x.2.boot then y :: insertBoot x r else x :: l

/-- Ledgers of the store with their slots, oldest boot first. -/
def ledgersByBoot (s : State) : List (Nat × StoreSlot) :=
  (s.strong.store.filter fun x => x.2.kind == 1).foldl (fun l x => insertBoot x l) []

/-- The readable state of the store (R424). -/
def showStore (s : State) : State :=
  ((s.setN K.srStoreNewestSlot (s.strong.newest.getD 0)).setN K.srStoreCheckpointSlot
    (match checkpoint s with | some x => x.1 | none => 0xFFFF)).setN K.srStoreFree (storeFree s)

/-- A fold (R416): the oldest 1,024 ledgers and the previous checkpoint give way to a checkpoint in the free slot. -/
def foldStore (s : State) : State :=
  let old := (ledgersByBoot s).take 1024
  let slot := nextStoreSlot s
  let first := match old with | x :: _ => x.2.boot | [] => 0
  let last := match old.reverse with | x :: _ => x | [] => (0, { kind := 1, boot := 0, bytes := [] })
  let prev := checkpoint s
  let hash (x : Nat × StoreSlot) : List Byte := Config.sha384 x.2.bytes
  let fold := old.foldl (fun f x => Config.sha384 (f ++ hash x)) (padTo 48 s.strong.foldHash)
  let head := leBytes 4 0x5247444C ++ leBytes 2 1 ++ leBytes 2 2 ++ leBytes 8 last.2.boot ++ leBytes 2 0 ++ leBytes 2 560
    ++ leBytes 1 s.strong.running ++ leBytes 1 (s.nat K.srBootFlags) ++ leBytes 2 0 ++ leBytes 4 s.strong.runVersion
    ++ leBytes 4 s.strong.fsVersion ++ leBytes 8 s.now ++ leBytes 8 0
    ++ (match prev with | some p => padTo 48 (hash p) | none => List.replicate 48 0) ++ List.replicate 256 0
  let body := head ++ leBytes 8 first ++ leBytes 8 last.2.boot ++ padTo 48 (hash last) ++ padTo 48 fold
  let bytes := body ++ padTo 96 (Config.signature deviceKey body)
  let gone := old.map (·.1) ++ prev.toList.map (·.1)
  let store := Sp.put (s.strong.store.filter fun x => !gone.contains x.1) slot { kind := 2, boot := last.2.boot, bytes := bytes }
  let t := { s with strong := { s.strong with store := store, foldHash := fold } }
  let t := sysRecord (t.inc K.srFoldCount) 0x212 [first % 2 ^ 32, last.2.boot % 2 ^ 32, slot]
  srEvent t 468 [first, last.2.boot, slot]

/-! ### The seal (R411, R412) -/

/-- The ledger's bytes. -/
def ledgerBytes (s : State) (flags : Nat) (prev : List Byte) : List Byte :=
  let x := s.strong
  let n := x.entries.length
  let pub := padTo 97 (Config.publicKey x.aliasKey)
  let boot := leBytes 8 (s.nat K.srBootCounter)
  let body := leBytes 4 0x5247444C ++ leBytes 2 1 ++ leBytes 2 1 ++ boot ++ leBytes 2 n ++ leBytes 2 (448 + 64 * n)
    ++ leBytes 1 x.running ++ leBytes 1 flags ++ leBytes 2 0 ++ leBytes 4 x.runVersion ++ leBytes 4 x.fsVersion
    ++ leBytes 8 s.now ++ leBytes 8 0 ++ padTo 48 prev ++ padTo 48 (objectsHash s) ++ pub ++ List.replicate 15 0
    ++ padTo 96 (Config.signature deviceKey (boot ++ pub)) ++ x.entries.flatMap LedgerEnt.bytes
  body ++ padTo 96 (Config.signature x.aliasKey body)

/-- The Almanac records of a seal: one per entry, then the seal record (R411, spec/19 R441). -/
def sealRecords (s : State) (slot : Nat) (hash : List Byte) : State :=
  let t := s.strong.entries.foldl (fun u e =>
    sysRecord u 0x210 [e.kind + e.index * 2 ^ 8 + e.flags * 2 ^ 16, e.version, leNat (e.digest.take 4)]) s
  let t := sysRecord t 0x211 [s.nat K.srBootCounter % 2 ^ 32, s.strong.entries.length + slot * 2 ^ 16, leNat (hash.take 4)]
  { t with ev := { t.ev with sealedRec := true } }

/-- Seals the ledger (R411). `stored`: programming and reading back the store slot succeed; where they do not, event 469 reports
it and sr_state does not become 4. -/
def sealLedger (s : State) (forced stored : Bool) : State :=
  let flags := if forced then setBit (s.nat K.srBootFlags) 2 true else s.nat K.srBootFlags
  let prev := match s.strong.newest with
    | some n => (match Sp.get s.strong.store n with | some x => Config.sha384 x.bytes | none => [])
    | none => []
  let bytes := ledgerBytes s flags prev
  let hash := Config.sha384 bytes
  let s := if storeFree s ≤ 1 then foldStore s else s
  let slot := nextStoreSlot s
  let t := sealRecords (s.setN K.srBootFlags flags) slot hash
  let x := { t.strong with sealed := true, ledger := bytes, ledgerHash := hash, rt := hash, runtime := [], overflowed := false }
  let t := ({ t with strong := x }.setN K.srRuntimeCount 0).setN K.srRuntimeLost 0
  if stored then
    let led : StoreSlot := { kind := 1, boot := t.nat K.srBootCounter, bytes := bytes }
    let t := { t with strong := { x with newest := some slot, store := Sp.put x.store slot led } }
    srEvent (showStore (t.setN K.srSrState 4)) 467 [t.strong.entries.length, slot, b2n forced]
  else srEvent (showStore t).drawn 469 [slot, s.free.toNat % 2]

/-- A Trellis load is in progress. -/
def trlLoading (s : State) : Bool := (List.range 7).any fun n => trlState s n == 1

/-- A seal is asked for: it waits for the loads in progress (R411). -/
def sealAsk (s : State) (forced stored : Bool) : State :=
  if trlLoading s then { s with strong := { s.strong with sealWait := some (forced, stored) } } else sealLedger s forced stored

/-- A seal that waited goes on once no load is in progress (R411). -/
def sealDue (s : State) : State :=
  match s.strong.sealWait with
  | some (forced, stored) =>
    if trlLoading s then s else sealLedger { s with strong := { s.strong with sealWait := none } } forced stored
  | none => s

/-! ### Log page 0xC4 (R420) -/

/-- The page's header. -/
def ledgerHeader (s : State) (boot slot kind len : Nat) : List Byte :=
  let newest := match s.strong.newest with | some n => (Sp.get s.strong.store n).map StoreSlot.boot | none => none
  leBytes 8 boot ++ leBytes 2 slot ++ leBytes 1 kind ++ leBytes 1 0 ++ leBytes 4 len ++ leBytes 8 (newest.getD 0)
    ++ leBytes 2 (s.strong.newest.getD 0) ++ leBytes 2 (match checkpoint s with | some x => x.1 | none => 0xFFFF)
    ++ leBytes 4 s.strong.runtime.length ++ List.replicate 32 0

/-- The page by its LSP and LSI; none for any other LSP. -/
def ledgerPage (s : State) (lsp lsi : Nat) : Option (List Byte) :=
  let x := s.strong
  if lsp = 0 then
    some (ledgerHeader s (if x.sealed then s.nat K.srBootCounter else 0) (x.newest.getD 0) (b2n x.sealed) x.ledger.length
      ++ padTo 4096 x.ledger ++ padTo 4096 (x.runtime.flatMap LedgerEnt.bytes) ++ padTo 64 x.rt)
  else if lsp = 1 then
    some (match Sp.get x.store lsi with
      | some y => ledgerHeader s y.boot lsi y.kind y.bytes.length ++ padTo 4096 y.bytes
      | none => ledgerHeader s 0 lsi 0 0 ++ List.replicate 4096 0)
  else none

end Sys2Proof.Machine
end

