-- ==== Sys2Proof/Machine/Zones.lean ====
section
/-! DEFINITION. The commands of the zones and the Pruner (spec/11): format, the allocation ports, the host's zone actions, zone
reports, merges and context errors. -/

namespace Sys2Proof.Machine

/-! ### Format (R251, R257) -/

/-- The action of an accepted FORMAT_COMMIT (R251). -/
def formatCommitAct (t : State) : State :=
  t.setN K.zoneFormatState 1

/-- FORMAT_COMMIT (R251). -/
def execFormatCommit (m : Master) (v : Word) (s : State) : Host.Outcome State Fault Refusal :=
  .next (kwrite s m K.zoneFormatCommit v formatCommitAct)

/-- A Larder bank failed its self-test: no format passes (spec/14 R343). -/
def larderFailed (s : State) : Bool := (List.range 4).any fun b => s.eccFailed (3 + b)

/-- FORMAT_CHECK_DONE (R251): the first failure, or each zone's tracks and format_state valid. -/
def execFormatCheckDone (s : State) : Host.Outcome State Fault Refusal :=
  if s.nat K.zoneFormatState ≠ 1 then .next s
  else match if larderFailed s then some (0, 1) else formatScan s (listedZones s) 0 with
    | some (z, n) =>
      let t := ((s.setN K.zoneFormatState 3).setN K.zoneFormatErrorZone z).setN K.zoneFormatErrorCause n
      .next (zoneEvent t 331 [n] z)
    | none =>
      let t := (List.range (zoneTotal s)).foldl (fun t z =>
        match withTracks t (t.ctx z) with
        | some c => t.store (ctxAddr z) (leBytes 32 c)
        | none => t) s
      .next (t.setN K.zoneFormatState 2)

/-- The change of R257 to a context. -/
def Ctx.resolved (c : Ctx) : Ctx :=
  let d := if c.isOpen then c.setSt (if 0 < c.wp then 4 else 1) else c
  (d.setAp d.wp).setBusy 0

/-- open_now and active_now counted from the contexts (R253). -/
def recountZones (s : State) : State :=
  let l := (listedZones s).map s.ctx
  (s.setN K.zoneOpenNow (l.filter Ctx.isOpen).length).setN K.zoneActiveNow (l.filter Ctx.isActive).length

/-- The action of an accepted ZONE_HW_ENABLE (R244, R251, R257): the first change to 1 in a Boot resolves every context. -/
def zoneHwEnableAct (v : Word) (s : State) (t : State) : State :=
    if s.flag K.zoneZoneHwEnable ∨ v = 0 then t
    else
      let t := if t.zones.resolved then t
        else (listedZones t).foldl (fun u z => u.store (ctxAddr z) (leBytes 32 (u.ctx z).resolved)) t
      recountZones { t with zones := { t.zones with resolved := true } }

/-- ZONE_HW_ENABLE (R244, R251, R257). -/
def execZoneHwEnable (m : Master) (v : Word) (s : State) : Host.Outcome State Fault Refusal :=
  .next (kwrite s m K.zoneZoneHwEnable v (zoneHwEnableAct v s))

/-! ### The allocation ports (R254, R255) -/

/-- alloc_result of a port. The offset of a request that does not succeed is not stated: a free value. -/
def allocResult (s : State) (port status : Nat) (offset : Option Nat) : State :=
  let o := match offset with | some x => x | none => s.free.toNat
  (if offset.isSome then s else s.drawn).setN (K.zoneAllocResult port) (o % 2 ^ 17 + status % 16 * 2 ^ 17 + 2 ^ 31)

/-- Inserts an entry by the offset it was allocated. -/
def insertAlloc (e : CmdEnt) (l : List CmdEnt) : List CmdEnt :=
  match l with
  | [] => [e]
  | f :: r => if (f.alloc.getD (0, 0, 0)).2.1 ≤ (e.alloc.getD (0, 0, 0)).2.1 then f :: insertAlloc e r else e :: l

/-- Accepted, uncompleted commands of a zone with a block at or above ap, in their order of acceptance. -/
def cascadeEnts (s : State) (z : Nat) : List CmdEnt :=
  let ap := (s.ctx z).ap
  (s.host.table.filter fun e => e.st != .committed && (match e.alloc with
    | some a => a.1 == z && decide (ap < a.2.1 + a.2.2)
    | none => false)).foldl (fun l e => insertAlloc e l) []

/-- An allocation for a host command: accepted, answered with its status, or held (R254, R256, R260). -/
def allocFor (s : State) (e : CmdEnt) (z count : Nat) (offset : Option Nat) : State :=
  match allocate s z count offset with
  | (0, o, t) => t.setCmd { e with alloc := some (z, o, count), append := offset.isNone, heldZone := none }
  | (st, _, t) =>
    if allocStatus st = 0 then t.setCmd { e with st := .held, heldZone := some z, alloc := none, append := offset.isNone }
    else complete raise t e.ref (allocStatus st) 0

/-- The error cascade after a rewind (R255): writes complete with Zone Invalid Write, appends are allocated again. -/
def cascade (s : State) (z : Nat) : State :=
  (cascadeEnts s z).foldl (fun t e =>
    if e.append then allocFor t e z ((e.alloc.getD (0, 0, 0)).2.2) none else complete raise t e.ref (stat 1 0xBC) 0) s

/-- What a write of an alloc_request object asks for in its bits (R254). -/
def allocRequestAct (port : Nat) (v : Word) (t : State) : State :=
  let n := v.toNat
  let z := bitsOf n 0 18
  if bitAt n 53 then
    let (st, u) := rewindZone t z
    let u := allocResult u port st (if st = 0 then some (u.ctx z).ap else none)
    if st = 0 then runCommits (cascade u z) else u
  else
    let (st, o, u) := allocate t z (bitsOf n 18 17) (if bitAt n 52 then none else some (bitsOf n 35 17))
    allocResult u port st (if st = 0 then some o else none)

/-- A write of an alloc_request object (R254). -/
def allocRequest (s : State) (m : Master) (port : Fin 4) (v : Word) : State :=
  kwrite s m (K.zoneAllocRequest port) v (allocRequestAct port v)

/-- ALLOC_WRITE (R254). -/
def execAllocWrite (m : Master) (port : Fin 4) (v : Word) (s : State) : Host.Outcome State Fault Refusal :=
  .next (allocRequest s m port v)
/-- ALLOC_APPEND (R254). -/
def execAllocAppend (m : Master) (port : Fin 4) (v : Word) (s : State) : Host.Outcome State Fault Refusal :=
  .next (allocRequest s m port v)
/-- ALLOC_REWIND (R254, R255). -/
def execAllocRewind (m : Master) (port : Fin 4) (v : Word) (s : State) : Host.Outcome State Fault Refusal :=
  .next (allocRequest s m port v)

/-! ### The host's zone actions (R252, R256, R258) -/

/-- Zone Management Send actions: 1 Close, 2 Finish, 3 Open, 4 Reset, 5 Offline. A Zone Management Send entry with an action. -/
def sendEnt (s : State) (c : CmdRef) (act : Nat) : Option CmdEnt :=
  match activeEnt s.host.table (refOf c) false 0x79 with
  | some e => if bitsOf e.sqe.cdw13.toNat 0 8 = act then some e else none
  | none => none

/-- States from which Select All takes zones. -/
def selectStates (act : Nat) : List Nat := match act with
  | 1 => [2, 3] | 2 => [2, 3, 4] | 3 => [4] | 4 => [2, 3, 4, 0xE] | _ => [0xD]

/-- Zones a Zone Management Send acts on: its zone, or with Select All those in the states of its action (R258). -/
def sendZones (s : State) (e : CmdEnt) (act z : Nat) : List Nat :=
  if bitAt e.sqe.cdw13.toNat 8 then (listedZones s).filter fun y => decide (y < s.nat K.zoneZoneCount) && (selectStates act).contains (s.ctx y).st
  else [z]

/-- Row 12 of R252. -/
def badTransition (s : State) (e : CmdEnt) (act z : Nat) : State := zoneSettled (actionRefused s act z) e (stat 1 0xBF)

/-- The entry as the table holds it now. -/
def freshEnt (s : State) (e : CmdEnt) : CmdEnt := (s.host.table.find? fun x => x.order == e.order).getD e

/-- One zone's part of a Zone Management Send (R252). -/
def sendOne (s : State) (e : CmdEnt) (act z : Nat) (place : Option Nat) : State :=
  let e := freshEnt s e
  let c := s.ctx z
  if act = 1 then
    if c.isOpen then zoneSettled (closeZone s z) e 0
    else if c.st = 4 then zoneSettled s e 0
    else badTransition s e act z
  else if act = 3 then
    if c.st = 3 then zoneSettled s e 0
    else if [1, 2, 4].contains c.st then
      match openLimits s z with
      | (0, t) => zoneSettled (t.putCtx z ((t.ctx z).setSt 3)) e 0
      | (n, t) => zoneSettled t e (allocStatus n)
    else badTransition s e act z
  else if act = 2 then
    if c.st = 0xE then zoneSettled s e 0
    else if [1, 2, 3, 4].contains c.st then askCommit s 4 [busyAction z 2] (.busySet e.ref z 2 none)
    else badTransition s e act z
  else if act = 4 then
    if c.st = 1 then zoneSettled s e 0
    else if [2, 3, 4, 0xE].contains c.st then askCommit s 4 [busyAction z 1] (.busySet e.ref z 1 place)
    else badTransition s e act z
  else if c.st = 0xD then askCommit s 4 [zoneAction 4 z] (.offline e.ref z)
  else badTransition s e act z

/-- A Zone Management Send: held while one of its zones is busy (R256), else carried out zone by zone. -/
def zoneSend (s : State) (c : CmdRef) (act : Nat) (zone : ZoneNo) (place : Option Nat) : State :=
  match sendEnt s c act with
  | none => s
  | some e =>
    let l := sendZones s e act zone.toNat
    if s.nat K.pmMode = 5 then complete raise s e.ref (stat 0 0x82) 0
    else if e.zoneOpen ≠ 0 then s
    else if l.isEmpty then complete raise s e.ref 0 0
    else if l.any fun z => decide (s.nat K.zoneZoneCount ≤ z) then complete raise s e.ref (stat 0 0x80) 0
    else match l.find? fun z => (s.ctx z).busy != 0 with
      | some z => s.setCmd { e with st := .held, heldZone := some z }
      | none =>
        let t := s.setCmd { e with zoneOpen := l.length, zoneStatus := 0, heldZone := none }
        runCommits (l.foldl (fun u z => sendOne u e act z place) t)

/-- ZONE_OPEN (R252). -/
def execZoneOpen (c : CmdRef) (zone : ZoneNo) (s : State) : Host.Outcome State Fault Refusal := .next (zoneSend s c 3 zone none)
/-- ZONE_CLOSE (R252). -/
def execZoneClose (c : CmdRef) (zone : ZoneNo) (s : State) : Host.Outcome State Fault Refusal := .next (zoneSend s c 1 zone none)
/-- ZONE_FINISH (R256). -/
def execZoneFinish (c : CmdRef) (zone : ZoneNo) (s : State) : Host.Outcome State Fault Refusal := .next (zoneSend s c 2 zone none)
/-- ZONE_RESET (R256, R260). -/
def execZoneReset (c : CmdRef) (zone : ZoneNo) (placement : Option (BitVec 64)) (s : State) : Host.Outcome State Fault Refusal :=
  .next (zoneSend s c 4 zone (placement.map (·.toNat)))
/-- ZONE_OFFLINE (R252). -/
def execZoneOffline (c : CmdRef) (zone : ZoneNo) (s : State) : Host.Outcome State Fault Refusal := .next (zoneSend s c 5 zone none)

/-- ZONE_SET_DESCRIPTOR_EXTENSION (R258): Invalid Field in Command. -/
def execZoneSetDescriptorExtension (c : CmdRef) (_zone : ZoneNo) (s : State) : Host.Outcome State Fault Refusal :=
  match sendEnt s c 0x10 with
  | some e => .next (complete raise s e.ref (stat 0 0x02) 0)
  | none => .next s

/-! ### Reports (R258, R259) -/

/-- The descriptor extension of a zone (R259). -/
def zoneExtension (s : State) (z : Nat) : List Byte :=
  let c := s.ctx z
  let spt := sptOf s c.act c.ring
  let rate := spt * 4096 * s.nat K.spinTargetRpm / 60 / 1000
  leBytes 1 c.layout ++ leBytes 1 c.act ++ leBytes 1 c.head ++ leBytes 1 (if c.twin then c.head + 1 else 0xFF) ++ leBytes 1 c.ring
    ++ leBytes 1 (b2n c.demoted + 2 * b2n c.outer) ++ leBytes 2 spt ++ leBytes 4 c.firstTrack ++ leBytes 2 (c.pairN % 65536).toNat
    ++ leBytes 2 c.tracks ++ leBytes 4 rate ++ leBytes 1 (if c.twin && !c.demoted then 2 else 1) ++ List.replicate 43 0

/-- A zone descriptor of a report, by the Zoned Namespace command set; the pointer of a Full, Read Only or Offline zone is all ones. -/
def zoneDescriptor (s : State) (z : Nat) : List Byte :=
  let c := s.ctx z
  let wp := if [0xD, 0xE, 0xF].contains c.st then 2 ^ 64 - 1 else z * 65536 + c.wp
  leBytes 1 2 ++ leBytes 1 (c.st * 16) ++ leBytes 1 (bitsOf c 18 3 + 0x80) ++ List.replicate 5 0
    ++ leBytes 8 c.capacity ++ leBytes 8 (z * 65536) ++ leBytes 8 wp ++ List.replicate 32 0

/-- States a reporting option selects; none for every state. -/
def reportState (opt : Nat) : Option Nat := match opt with
  | 1 => some 1 | 2 => some 2 | 3 => some 3 | 4 => some 4 | 5 => some 0xE | 6 => some 0xD | 7 => some 0xF | _ => none

/-- The bytes of a report (R258). -/
def zoneReport (s : State) (e : CmdEnt) : List Byte :=
  let w := e.sqe.cdw13.toNat
  let ext := decide (bitsOf w 0 8 = 1)
  let size := 4 * (e.sqe.cdw12.toNat + 1)
  let first := e.sqe.slba.toNat / 65536
  let zs := (List.range (s.nat K.zoneZoneCount - first)).map (first + ·)
  let zs := match reportState (bitsOf w 8 8) with | some st => zs.filter fun z => (s.ctx z).st == st | none => zs
  let room := (size - 64) / (if ext then 128 else 64)
  let count := if bitAt w 16 then min zs.length room else zs.length
  (leBytes 8 count ++ List.replicate 56 0
    ++ (zs.take room).flatMap fun z => zoneDescriptor s z ++ (if ext then zoneExtension s z else [])).take size

/-- ZONE_MANAGEMENT_RECEIVE (R258). -/
def execZoneManagementReceive (c : CmdRef) (s : State) : Host.Outcome State Fault Refusal :=
  match activeEnt s.host.table (refOf c) false 0x7A with
  | none => .next s
  | some e =>
    if 1 < bitsOf e.sqe.cdw13.toNat 0 8 ∨ 7 < bitsOf e.sqe.cdw13.toNat 8 8 then .next (complete raise s e.ref (stat 0 0x02) 0)
    else .next (complete raise (returnData s e.ref (zoneReport s e)) e.ref 0 0)

/-! ### The Pruner (R269) -/

/-- The placement of a job in the layout of R303. -/
def jobPlacement (l : List Byte) : Nat :=
  let w (o n : Nat) : Nat := leNat ((l.drop o).take n)
  let t := w 4 4
  bitsOf (w 8 4) 0 22 + bitsOf t 7 6 * 2 ^ 22 + w 12 2 * 2 ^ 32 + bitsOf t 0 2 * 2 ^ 48 + bitsOf t 2 4 * 2 ^ 50
    + bitsOf t 6 1 * 2 ^ 54 + w 14 1 * 2 ^ 56

/-- The fields of a placement. -/
def placementOf (p : Nat) : Placement :=
  { firstTrack := bitsOf p 0 22, ring := bitsOf p 22 6, pairN := sgn 16 (bitsOf p 32 16), layout := bitsOf p 48 2,
    head := bitsOf p 50 4, dir := bitsOf p 54 1, generation := bitsOf p 56 8 }

/-- A placement as the number of R303. -/
def placementWord (p : Placement) : Nat :=
  p.firstTrack + p.ring * 2 ^ 22 + (p.pairN % 65536).toNat * 2 ^ 32 + p.layout * 2 ^ 48 + p.head * 2 ^ 50 + p.dir * 2 ^ 54
    + p.generation * 2 ^ 56

/-- Step 1 of R269. -/
def mergeCheck (s : State) (z p : Nat) : Bool :=
  let c := (s.ctx z).placed p
  decide (s.nat K.zoneZoneMode = 2) && decide (z < s.nat K.zoneZoneCount) && (s.ctx z).busy == 0 && (placementCause s z c).isNone
    && formatApart s z ((withTracks s c).getD c)

/-- The action of an accepted MERGE_START (R269 steps 1 and 2): one job at a time, and none starts in the idle modes (spec/20 R450; how the
refusal shows is the model's choice, log 44). -/
def mergeStartAct (t : State) : State :=
    if t.zones.job.isSome then t
    else
      let l := t.load (t.nat K.zoneMergeJob) 64
      let z := bitsOf (leNat (l.take 4)) 0 18
      let p := jobPlacement l
      let job : MergeJob := { zone := z, place := placementOf p, buffer := leNat ((l.drop 16).take 8), since := t.now }
      let t := (({ t with zones := { t.zones with job := some job } }.setN K.zoneMergeState 1).setN K.zoneMergeCause 0).setN
        K.zoneMergeProgress 0
      if mergeCheck t z p && !(t.nat K.pmMode == 2 || t.nat K.pmMode == 3) then
        (t.putCtx z ((t.ctx z).setBusy 3)).setN K.zoneMergeConsumed (ptrAt t (headAt t z 0))
      else mergeStops t 5 1

/-- MERGE_START (R269 steps 1 and 2). -/
def execMergeStart (m : Master) (v : Word) (s : State) : Host.Outcome State Fault Refusal :=
  .next (kwrite s m K.zoneMergeStart v mergeStartAct)

/-- A job that stops: how far it had come is not known to the model, a free value within the capacity. -/
def mergeBroken (s : State) (st cause : Nat) : State :=
  match s.zones.job with
  | none => s
  | some j => mergeStops (s.drawn.setN K.zoneMergeProgress (s.free.toNat % ((s.ctx j.zone).capacity + 1))) st cause

/-- MERGE_END (R269 steps 3 to 6). -/
def execMergeEnd (r : MergeResult) (s : State) : Host.Outcome State Fault Refusal :=
  match s.zones.job with
  | none => .next s
  | some j => match r with
    | .committed => .next (moduleCommit (s.setN K.zoneMergeState 3) 5 [placeAction j.zone (placementWord j.place)] .merge)
    | .readFailed => .next (mergeBroken s 5 4)
    | .writeFailed => .next (mergeBroken s 5 5)
    | .refused => .next (mergeBroken s 5 6)

/-- The action of an accepted MERGE_CANCEL (R269): a job whose commit has been asked for is past it. -/
def mergeCancelAct (t : State) : State :=
  if t.nat K.zoneMergeState = 3 then t else mergeBroken t 6 0

/-- MERGE_CANCEL (R269). -/
def execMergeCancel (m : Master) (v : Word) (s : State) : Host.Outcome State Fault Refusal :=
  .next (kwrite s m K.zoneMergeCancel v mergeCancelAct)

/-- A context that cannot be corrected refuses its zone (R271). -/
def contextLost (s : State) (z : Nat) : State := zoneEvent (s.putCtx z ((s.ctx z).setBusy 5)) 329 [ctxAddr z] z

/-- CONTEXT_UNCORRECTABLE (R271). -/
def execContextUncorrectable (zone : ZoneNo) (s : State) : Host.Outcome State Fault Refusal :=
  .next (contextLost s zone.toNat)

end Sys2Proof.Machine
end

