-- ==== Sys2Proof/Machine/HostIo.lean ====
section
/-! DEFINITION. The host's I/O commands as firmware and the fast path carry them out (spec/11 R254, R261, R262, R268; spec/12
R278), and the admin commands that report or set: log pages, Identify, features. A command whose work lies on the media stays
ACTIVE until its COMPLETION_WRITE. -/

namespace Sys2Proof.Machine

/-- An I/O command's ACTIVE entry: in Safe it completes with Namespace Not Ready (spec/20 R456); else its work. -/
def ioWork (s : State) (c : CmdRef) (op : Nat) (f : CmdEnt → State) : State :=
  match activeEnt s.host.table (refOf c) false op with
  | none => s
  | some e => if s.nat K.pmMode = 5 then complete raise s e.ref (stat 0 0x82) 0 else f e

/-! ### Read (spec/11 R256, R261, R262, R268; spec/13 R307) -/

/-- Where the data of a block comes from. -/
inductive BlockSrc where
  | media
  | cache (slot : Nat)
  | zeros
  /-- Never written, or deallocated: zeros or status 0x87. -/
  | unwritten
deriving DecidableEq, Repr

/-- Valid cache slots. -/
def validSlots (s : State) : List Nat :=
  let base := s.cfg K.sheafPwcBase
  s.mem.filterMap fun c =>
    if base ≤ c.1 ∧ c.1 < base + 16 * cacheSlots ∧ (c.1 - base) % 16 = 0 ∧ c.2.getLsbD 0 = true then some ((c.1 - base) / 16) else none

/-- The valid cache slot of a block of a namespace. -/
def cacheSlotOf (s : State) (ns lba : Nat) : Option Nat :=
  (validSlots s).find? fun d =>
    let w := leNat (s.load (dirAt s d) 8)
    b2n (bitAt w 1) + 1 == ns && bitsOf w 2 34 == lba

/-- An entry of a zone's list covers an offset. -/
def listCovers (s : State) (z l o : Nat) : Bool :=
  let e := ptrAt s (walkList s (fun x => decide (o ≤ entryLast s x)) 65536 (headAt s z l))
  e != atticEnd && decide (entryFirst s e ≤ o)

/-- Resolves a block of a sequential zone (R261). -/
def resolveSeq (s : State) (lba : Nat) : BlockSrc :=
  let c := s.ctx (lba / 65536)
  let o := lba % 65536
  if o < c.mwp then .media
  else if o < c.dataEnd then (match cacheSlotOf s 1 lba with | some d => .cache d | none => .media)
  else .unwritten

/-- Resolves a drive-managed block (R268): the first match decides. -/
def resolveDrive (s : State) (lba : Nat) : BlockSrc :=
  match cacheSlotOf s 1 lba with
  | some d => .cache d
  | none =>
    let z := lba / 65536
    let o := lba % 65536
    if granulesAre s (lba / 16) 1 false then .unwritten
    else if listCovers s z 1 o || listCovers s z 0 o then .media
    else if (s.ctx z).st = 1 then .zeros
    else .media

/-- Resolves a block of a namespace. -/
def resolveBlock (s : State) (ns lba : Nat) : BlockSrc :=
  if ns = 2 then (match cacheSlotOf s 2 lba with | some d => .cache d | none => .media)
  else if s.nat K.zoneZoneMode = 1 then resolveSeq s lba
  else resolveDrive s lba

/-- The data of a block that needs no media. -/
def blockData (s : State) (b : BlockSrc) : List Byte := match b with
  | .cache d => s.load (s.cfg K.sheafPwcBase + 0x40000 + 4096 * d) 4096
  | _ => List.replicate 4096 0

/-- Zones of a command of namespace 1. -/
def zonesOf (e : CmdEnt) : List Nat :=
  let first := e.sqe.slba.toNat / 65536
  let last := (e.sqe.slba.toNat + e.sqe.nlb.toNat) / 65536
  (List.range (last + 1 - first)).map (first + ·)

/-- A zone holds a command: a Reset or Finish that was fetched before it is pending there (R256). -/
def zoneHolds (s : State) (e : CmdEnt) (z : Nat) : Bool :=
  let b := (s.ctx z).busy
  (b == 1 || b == 2) && s.host.table.any fun f => f.zoneOpen != 0 && f.st != .committed && decide (f.order < e.order)

/-- The hardware fast path serves a read (R262; spec/12 R285). -/
def fastRead (s : State) (e : CmdEnt) : Bool :=
  let z := e.sqe.slba.toNat / 65536
  let c := s.ctx z
  let first := e.sqe.slba.toNat % 65536
  let last := first + e.sqe.nlb.toNat
  let ordered := match s.subQ e.sqid with | some x => x.ordered | none => false
  s.flag K.zoneFastPathEnable && s.nat K.zoneZoneMode == 1 && e.sqe.nsid == 1 && !ordered && decide (last < 65536)
    && c.busy == 0 && c.st != 0xF && (decide (last < c.mwp) || decide (c.dataEnd ≤ first))

/-- A run of a read's blocks that lie one after the other on one track, with their key range: side, track and its index, first sector, count,
first LBA. -/
structure ReadRun where
  side : Nat
  track : Int
  index : Nat
  sector : Nat
  count : Nat
  range : Nat
  lba : Nat
deriving DecidableEq, Repr

/-- The next block of a read joins the last run, or begins one; the runs are kept latest first. -/
def joinRun (l : List ReadRun) (r : ReadRun) : List ReadRun :=
  match l with
  | x :: t =>
    if x.side = r.side ∧ x.track = r.track ∧ x.sector + x.count = r.sector ∧ x.range = r.range then { x with count := x.count + 1 } :: t
    else r :: x :: t
  | [] => [r]

/-- The runs of n blocks of a zone from an LBA, in order (spec/11 R249). -/
def readRuns (s : State) (c : Ctx) (lba n : Nat) : List ReadRun :=
  ((List.range n).foldl (fun l j =>
    let p := c.place (sptOf s c.act c.ring) ((lba + j) % 65536)
    joinRun l { side := p.side, track := p.track, index := p.index, sector := p.sector, count := 1, range := rangeOf s (lba + j),
                lba := lba + j }) []).reverse

/-- The two surfaces of a track pair are read in the same sectors. -/
def sameSectors (x y : ReadRun) : Bool :=
  x.side == 0 && y.side == 1 && x.index == y.index && x.sector == y.sector && x.count == y.count && x.range == y.range

/-- The descriptor of a run (spec/01 R23): one for both surfaces where both are read in the same sectors. Its tag is not stated, a free
value; one descriptor to a run is the model's choice (log 58). -/
def runDesc (s : State) (z : Nat) (c : Ctx) (twin : Bool) (n : Nat) (r : ReadRun) : Desc :=
  let a := c.act
  let h := c.head + r.side
  let fmt := s.cfg (K.ringRingFormat a c.ring)
  let t := BitVec.ofInt 22 r.track
  let first := sectorAngle s a h fmt t.toNat r.sector
  let last := sectorAngle s a h fmt t.toNat (r.sector + r.count)
  { tag := (Config.freeValue (s.freeCtr + n)).setWidth 32, cls := 0, write := false, head := Fin.ofNat 12 h, track := t,
    firstSector := BitVec.ofNat 10 r.sector, count := BitVec.ofNat 16 r.count, zone := some (BitVec.ofNat 18 z), twin := twin,
    pairN := BitVec.ofInt 16 c.pairN, firstFrac := BitVec.ofNat 24 first,
    length := BitVec.ofNat 24 (last + revCounts - first), lba := BitVec.ofNat 34 r.lba, kind := 0,
    generation := BitVec.ofNat 8 (bitsOf c 24 8), range := BitVec.ofNat 5 r.range, profile := 0, tap := 0, group := false, hookArrival := 0 }

/-- The fast path posts the descriptors of a read to the format sequencer of the zone's actuator (spec/01 R23). -/
def fastPost (s : State) (lba n : Nat) : State :=
  let z := lba / 65536
  let c := s.ctx z
  let l := readRuns s c lba n
  let runs := (List.range l.length).filterMap fun i => match l[i]? with
    | none => none
    | some r =>
      if l.any fun x => sameSectors x r then none else some (runDesc s z c (l.any fun x => sameSectors r x) i r)
  postFresh { s with freeCtr := s.freeCtr + l.length } c.act runs

/-- A read whose blocks are resolved: it stays ACTIVE while a block lies on the media, its descriptors posted
where the fast path serves it; else it is answered. -/
def readBlocks (s : State) (e : CmdEnt) (post : Bool) (bs : List BlockSrc) : State :=
  if s.flag K.zoneDulbe && bs.contains .unwritten then
    complete raise (s.inc K.zoneZeroReadCount) e.ref (stat 2 0x87) 0
  else if bs.contains .media then s.on post fun u => fastPost u e.sqe.slba.toNat (e.sqe.nlb.toNat + 1)
  else
    let t := s.on (bs.all fun b => b == .zeros || b == .unwritten) fun u => u.inc K.zoneZeroReadCount
    complete raise (returnData t e.ref (bs.flatMap (blockData s))) e.ref 0 0

/-- READ. -/
def execRead (c : CmdRef) (s : State) : Host.Outcome State Fault Refusal :=
  .next (ioWork s c 0x02 fun e =>
    let ns := e.sqe.nsid.toNat
    let seq := ns == 1 && s.nat K.zoneZoneMode == 1
    let zs := if seq then zonesOf e else []
    match zs.find? fun z => zoneHolds s e z with
    | some z => s.setCmd { e with st := .held, heldZone := some z }
    | none =>
      if zs.any fun z => (s.ctx z).st == 0xF then complete raise s e.ref (stat 1 0xBB) 0
      else
        let fast := seq && fastRead s e
        let t := s.setCmd { e with heldZone := none, fast := fast }
        let t := t.on (fast && !e.fast) fun u => u.inc K.zoneFastPathCount
        readBlocks t e (fast && !e.fast) ((List.range (e.sqe.nlb.toNat + 1)).map fun i => resolveBlock s ns (e.sqe.slba.toNat + i)))

/-! ### Writes (R254, R255) -/

/-- A command that writes blocks of a namespace: in a sequential zone it is allocated first; elsewhere its work begins at once. -/
def writeWork (s : State) (e : CmdEnt) (append : Bool) : State :=
  let z := e.sqe.slba.toNat / 65536
  let o := e.sqe.slba.toNat % 65536
  if e.sqe.nsid ≠ 1 ∨ s.nat K.zoneZoneMode ≠ 1 ∨ e.alloc.isSome = true then s
  else if append ∧ o ≠ 0 then complete raise s e.ref (stat 0 0x02) 0
  else allocFor s e z (e.sqe.nlb.toNat + 1) (if append then none else some o)

/-- WRITE. -/
def execWrite (c : CmdRef) (s : State) : Host.Outcome State Fault Refusal := .next (ioWork s c 0x01 fun e => writeWork s e false)
/-- ZONE_APPEND: its LBA is the start of the zone. -/
def execZoneAppend (c : CmdRef) (s : State) : Host.Outcome State Fault Refusal :=
  .next (ioWork s c 0x7D fun e => writeWork s e true)
/-- WRITE_ZEROES. -/
def execWriteZeroes (c : CmdRef) (s : State) : Host.Outcome State Fault Refusal :=
  .next (ioWork s c 0x08 fun e => writeWork s e false)

/-- FLUSH (R278): completes once every slot that is valid now has been released. -/
def execFlush (c : CmdRef) (s : State) : Host.Outcome State Fault Refusal :=
  .next (ioWork s c 0x00 fun e =>
    let l := validSlots s
    if !e.flushSlots.isEmpty then s
    else if l.isEmpty then complete raise s e.ref 0 0
    else s.setCmd { e with flushSlots := l })

/-! ### Deallocation (R267, R268) -/

/-- Entries of a list that meet a run of offsets; the fuel bounds the list. -/
def entriesIn (s : State) (lo hi fuel addr : Nat) : List Nat :=
  match fuel with
  | 0 => []
  | n + 1 =>
    let e := ptrAt s addr
    if e = atticEnd ∨ hi ≤ entryFirst s e then []
    else if entryLast s e < lo then entriesIn s lo hi n (entryAt s e)
    else e :: entriesIn s lo hi n (entryAt s e)

/-- An action on an Attic entry. -/
def atticAction (sub e w2 : Nat) : Action := 4 + sub * 2 ^ 8 + e * 2 ^ 32 + w2 * 2 ^ 64

/-- The lowest entry in no list, above one already taken. -/
def freeEntry (s : State) (above : Nat) : Option Nat :=
  ((List.range (s.cfg K.zoneAtticIndexEntries)).drop above).find? fun e => (findLink s e).isNone

/-- What happens to an entry of which the offsets lo to hi - 1 go: removed, trimmed, or trimmed with its rest as a new entry. -/
def cutEntry (acc : State × List Action × Nat) (z l lo hi e : Nat) : State × List Action × Nat :=
  let (s, acts, next) := acc
  let f := entryFirst s e
  let n := entryLast s e
  if lo ≤ f ∧ n < hi then (s, acts ++ [atticAction 3 e 0], next)
  else if lo ≤ f then (s, acts ++ [atticAction 2 e (hi + (n - hi) * 2 ^ 16)], next)
  else
    let keep := atticAction 2 e (f + (lo - 1 - f) * 2 ^ 16)
    if n < hi then (s, acts ++ [keep], next)
    else match freeEntry s next with
      | none => (s, acts ++ [keep], next)
      | some x =>
        let w := leNat (s.load (entryAt s e + 8) 8)
        let t := s.store (entryAt s x) (s.load (entryAt s x) 4 ++ leBytes 2 hi ++ leBytes 2 (n - hi)
          ++ leBytes 8 (putBits w 27 10 (bitsOf w 27 10 + (hi - f))))
        (t, acts ++ [keep, atticAction 1 x (z) + l * 2 ^ 63], x + 1)

/-- The actions that deallocate the granules wholly inside a range. -/
def deallocActions (s : State) (first count next : Nat) : State × List Action × Nat :=
  let g0 := (first + 15) / 16
  let g1 := (first + count) / 16
  if g1 ≤ g0 then (s, [], next)
  else
    let lo := 16 * g0
    let hi := 16 * g1
    let clear : Action := 4 + 5 * 2 ^ 8 + g0 * 2 ^ 64 + (g1 - g0) * 2 ^ 96
    let zs := (List.range ((hi - 1) / 65536 + 1 - lo / 65536)).map (lo / 65536 + ·)
    let (t, l, n) := zs.foldl (fun acc z =>
      let a := max lo (65536 * z) - 65536 * z
      let b := min hi (65536 * (z + 1)) - 65536 * z
      -- the consumed list of a running merge is never altered (R269)
      let lists := if (s.ctx z).busy = 3 then [1] else [0, 1]
      lists.foldl (fun acc l => (entriesIn acc.1 a b 65536 (headAt acc.1 z l)).foldl (fun x e => cutEntry x z l a b e) acc) acc)
      (s, ([] : List Action), next)
    (t, clear :: l, n)

/-- Asks for the commits of a list of actions, at most 64 to a transaction; the last completes the command. -/
def askAll (s : State) (e : CmdEnt) (fuel : Nat) (l : List Action) : State :=
  match fuel with
  | 0 => s
  | n + 1 =>
    if l.length ≤ 64 then askCommit s 4 l (.completes e.ref)
    else askAll (askCommit s 4 (l.take 64) (.part e.ref)) e n (l.drop 64)

/-- DATASET_MANAGEMENT (R268): without the deallocate attribute (bit 2 of CDW11) it has no effect; locks and the namespace's end
are checked first. -/
def execDatasetManagement (c : CmdRef) (ranges : List (BitVec 64 × BitVec 32)) (s : State) : Host.Outcome State Fault Refusal :=
  .next (ioWork s c 0x09 fun e =>
    let rs := ranges.map fun r => (r.1.toNat, r.2.toNat)
    let size := (nsBlocks s 1).getD 0
    if s.sheaf.commits.any fun q => q.cont == .completes e.ref then s
    else if !bitAt e.sqe.cdw11.toNat 2 then complete raise s e.ref 0 0
    else if rs.any fun r => decide (size < r.1 + r.2) then
      complete raise (violate raise s 12 e.sqid e.sqe.cid.toNat e.sqe.cdw10.toNat) e.ref (stat 0 0x80) 0
    else match rs.findSome? fun r => lockedRange s true 1 r.1 r.2 with
      | some g => complete raise (answerBad raise s e 33 g) e.ref (stat 2 0x86) 0
      | none =>
        let (t, acts, _) := rs.foldl (fun (acc : State × List Action × Nat) r =>
          let (u, l, n) := deallocActions acc.1 r.1 r.2 acc.2.2
          (u, acc.2.1 ++ l, n)) (s, ([] : List Action), 0)
        if acts.isEmpty then complete raise t e.ref 0 0
        else runCommits (askAll t e (acts.length + 1) acts))

/-! ### Log pages (R259, R288, R292; spec/18 R420; spec/19 R447) -/

/-- A page of a free value's bytes, where the page is not printed. -/
def freePage (s : State) (n : Nat) : List Byte := (List.range n).map fun i => (Config.freeValue (s.freeCtr + i)).setWidth 8

/-- Bytes laid over a page at an offset. -/
def overlay (page : List Byte) (off : Nat) (l : List Byte) : List Byte := page.take off ++ l ++ page.drop (off + l.length)

/-- A record of log page 0xC2 (R288). -/
def queueRecord (s : State) (q : Nat) : List Byte :=
  match s.subQ q with
  | none => leBytes 2 q ++ List.replicate 62 0
  | some x =>
    if !x.ordered then leBytes 2 q ++ List.replicate 62 0
    else
      let f (i : Nat) : Nat := x.fail.getD i 0
      let held := heldEnts s q
      leBytes 2 q ++ leBytes 1 (if x.frozen then 2 else 1) ++ leBytes 1 x.window ++ leBytes 4 x.errSeq ++ leBytes 2 (f 0)
        ++ leBytes 1 (f 1) ++ leBytes 1 0 ++ leBytes 2 (f 2) ++ leBytes 2 (f 7) ++ leBytes 8 (f 3) ++ leBytes 4 (f 4)
        ++ leBytes 4 (f 5) ++ leBytes 2 held.length
        ++ leBytes 2 (match held with | h :: _ => h.sqe.cid.toNat | [] => 0xFFFF) ++ leBytes 2 (f 8) ++ leBytes 2 0
        ++ leBytes 8 (f 9) ++ leBytes 8 (f 6) ++ leBytes 8 0

/-- Log page 0xC2. -/
def pageC2 (s : State) : List Byte :=
  let qs := (List.range 16).map (17 + ·)
  let frozen := (qs.filter fun q => match s.subQ q with | some x => x.ordered && x.frozen | none => false).length
  padTo 64 (leBytes 4 (s.nat K.hostOrderedMask) ++ leBytes 4 frozen ++ leBytes 4 64) ++ qs.flatMap (queueRecord s)

/-- Log page 0xC3. -/
def pageC3 (s : State) : List Byte :=
  let v (k : Nat) : Viol := (Sp.get s.host.viols k).getD {}
  let total := (List.range 32).foldl (fun n k => n + (v k).count) 0
  padTo 64 (leBytes 4 (sat32 total) ++ leBytes 4 32 ++ leBytes 4 32) ++ (List.range 32).flatMap fun k =>
    let x := v k
    leBytes 4 x.count ++ leBytes 2 x.sqid ++ leBytes 2 x.cid ++ leBytes 8 x.first ++ leBytes 8 x.last ++ leBytes 8 x.detail

/-- Log page 0xC5, from a record on: n records (R259). -/
def pageC5 (s : State) (off len : Nat) : List Byte :=
  let head := padTo 64 (leBytes 4 (s.nat K.zoneZoneCount) ++ leBytes 4 (s.nat K.zoneConvCount) ++ leBytes 4 64)
  let z0 := (off - 64) / 64
  let n := len / 64 + 2
  let recs := ((List.range n).map (z0 + ·)).flatMap fun z => if z < zoneTotal s then zoneExtension s z else []
  if off < 64 then (head.drop off ++ recs).take len else (recs.drop ((off - 64) % 64)).take len

/-- Log page 0xC6 (spec/19 R447); none for any other LSP. -/
def pageC6 (s : State) (lsp lsi : Nat) : Option (List Byte) :=
  if lsp < 3 then
    let x := s.ev.part lsp
    let newest := (s.ev.segs.filter fun g => decide (bitsOf (leNat (g.2.take 7)) 48 8 = lsp)).foldl (fun (m : Option (Nat × Nat)) g =>
      let seq := leNat ((g.2.drop 0x20).take 4)
      match m with
      | some y => if y.2 < seq then some (g.1, seq) else m
      | none => some (g.1, seq)) none
    let head := leBytes 4 lsp ++ leBytes 4 x.oldest ++ leBytes 4 x.next ++ leBytes 2 x.recs.length ++ leBytes 2 (partCap lsp)
      ++ leBytes 4 x.missedTotal ++ leBytes 2 (match newest with | some y => y.1 | none => 0xFFFF)
    some (padTo (64 + 32 * partCap lsp) (padTo 64 head ++ partBytes x))
  else if lsp = 3 then some (padTo 65536 ((Sp.get s.ev.segs lsi).getD []))
  else none

/-- Composite Temperature in kelvin (spec/20 R471): T_j in 1/16 °C, rounded up. -/
def compositeK (s : State) : Nat := (-((-(s.int K.pmTj)) / 16) + 273).toNat

/-- A page, n bytes from an offset; none where its LSP is refused. -/
def logPage (s : State) (lid lsp lsi off n : Nat) : Option (List Byte) :=
  if lid = 0xC2 then some (((pageC2 s).drop off).take n)
  else if lid = 0xC3 then some (((pageC3 s).drop off).take n)
  else if lid = 0xC4 then (ledgerPage s lsp lsi).map fun l => (l.drop off).take n
  else if lid = 0xC5 then some (pageC5 s off n)
  else if lid = 0xC6 then (pageC6 s lsp lsi).map fun l => (l.drop off).take n
  else
    let page := freePage s (off + n)
    let page := if lid = 0x02 then
        let w := setBit ((page.getD 0 0).toNat) 1 s.power.tempWarn
        overlay page 0 (leBytes 1 w ++ leBytes 2 (compositeK s))
      else page
    some ((page.drop off).take n)

/-- GET_LOG_PAGE (R288, R292): 0xC3's counts clear on a read of the whole page with bit 15 of CDW10 clear. -/
def execGetLogPage (c : CmdRef) (s : State) : Host.Outcome State Fault Refusal :=
  match activeEnt s.host.table (refOf c) true 0x02 with
  | none => .next s
  | some e =>
    let w := e.sqe.cdw10.toNat
    let n := 4 * (bitsOf w 16 16 + bitsOf e.sqe.cdw11.toNat 0 16 * 2 ^ 16 + 1)
    let off := e.sqe.cdw12.toNat + e.sqe.cdw13.toNat * 2 ^ 32
    .next (match logPage s (bitsOf w 0 8) (bitsOf w 8 7) (bitsOf e.sqe.cdw11.toNat 16 16) off n with
      | none => complete raise s e.ref (stat 0 0x02) 0
      | some l =>
        let t := returnData { s with freeCtr := s.freeCtr + off + n } e.ref l
        let t := t.on (decide (bitsOf w 0 8 = 0xC3) && !bitAt w 15 && off == 0 && decide (1088 ≤ n)) fun u =>
          u.setHost { u.host with viols := [] }
        complete raise t e.ref 0 0)

/-! ### Identify (R258, R278; spec/13 R308; spec/16 R371; spec/20 R453, R471) -/

/-- A power state descriptor (spec/20 R453): MP in 0.01 W, NOPS, ENLAT and EXLAT. -/
def powerState (s : State) (i : Nat) : List Byte :=
  leBytes 2 (s.nat (K.pmPsMpCw i)) ++ leBytes 1 0 ++ leBytes 1 (if 2 ≤ i then 2 else 0) ++ leBytes 4 (s.nat (K.pmPsEnlatUs i))
    ++ leBytes 4 (s.nat (K.pmPsExlatUs i))

/-- Identify Controller. -/
def identController (s : State) : List Byte :=
  let p := freePage s 4096
  let p := overlay p 77 (leBytes 1 9)
  let p := overlay p 258 (leBytes 1 (s.nat K.hostAbortLimit) ++ leBytes 1 3)
  let p := overlay p 256 (leBytes 2 0x0057)
  let p := overlay p 262 (leBytes 1 63 ++ leBytes 1 4)
  let p := overlay p 265 (leBytes 1 0 ++ leBytes 2 (s.int K.pmWarnC + 273).toNat ++ leBytes 2 388)
  let p := overlay p 322 (leBytes 2 0)
  let p := overlay p 512 (leBytes 1 0x66 ++ leBytes 1 0x44)
  let p := overlay p 516 (leBytes 4 (if s.flag K.sivSieveHostEnable then 4 else 2))
  -- Compare, Write Uncorrectable and reservations are not supported, Write Zeroes is, Dataset Management where the drive manages the zones
  let p := overlay p 520 (leBytes 1 ((p.getD 520 0).toNat % 256 / 64 * 64 + bitsOf ((p.getD 520 0).toNat) 4 1 * 16 + 8
    + (if s.nat K.zoneZoneMode = 2 then 4 else 0)))
  let p := overlay p 525 (leBytes 1 (setBit ((p.getD 525 0).toNat) 0 true) ++ leBytes 2 511 ++ leBytes 2 511)
  let p := overlay p 532 (leBytes 2 0)
  (List.range 5).foldl (fun q i => overlay q (2048 + 32 * i) (powerState s i)) p

/-- Identify Namespace. -/
def identNamespace (s : State) (ns : Nat) : List Byte :=
  let size := (nsBlocks s ns).getD 0
  let p := overlay (freePage s 4096) 0 (leBytes 8 size ++ leBytes 8 size)
  let p := overlay p 24 (leBytes 1 (setBit ((p.getD 24 0).toNat) 1 true))
  overlay p 34 (leBytes 2 511 ++ leBytes 2 511 ++ leBytes 2 0 ++ leBytes 2 511 ++ leBytes 2 0 ++ leBytes 2 511)

/-- Identify Namespace of the Zoned Namespace command set. -/
def identZoned (s : State) : List Byte :=
  let p := overlay (freePage s 4096) 0 (leBytes 2 0 ++ leBytes 2 1 ++ leBytes 4 (s.nat K.zoneMaxActive - 1)
    ++ leBytes 4 (s.nat K.zoneMaxOpen - 1))
  overlay p 2816 (leBytes 8 65536 ++ leBytes 1 1)

/-- Active namespaces, above one. -/
def activeNs (s : State) (above : Nat) : List Nat :=
  [1, 2, 3, 4].filter fun n => decide (above < n) && ((nsBlocks s n).isSome || sieveNs s n)

/-- IDENTIFY: values the spec gives, at their NVMe offsets; every other byte is free. -/
def execIdentify (c : CmdRef) (s : State) : Host.Outcome State Fault Refusal :=
  match activeEnt s.host.table (refOf c) true 0x06 with
  | none => .next s
  | some e =>
    let cns := bitsOf e.sqe.cdw10.toNat 0 8
    let csi := bitsOf e.sqe.cdw11.toNat 24 8
    let ns := e.sqe.nsid.toNat
    let page :=
      if cns = 0 then (if (nsBlocks s ns).isSome then identNamespace s ns else List.replicate 4096 0)
      else if cns = 1 then identController s
      else if cns = 2 then padTo 4096 ((activeNs s ns).flatMap (leBytes 4))
      else if cns = 5 ∧ csi = 2 then identZoned s
      else if cns = 6 ∧ csi = 2 then overlay (freePage s 4096) 0 (leBytes 1 9)
      else freePage s 4096
    .next (complete raise (returnData { s with freeCtr := s.freeCtr + 4096 } e.ref page) e.ref 0 0)

/-! ### Features, events, self-test, keep alive -/

/-- The host's power state (spec/20 R454). -/
def setPowerState (s : State) (n : Nat) : State :=
  let t := s.setN K.pmHostPs n
  if n ≤ 1 then reEnvelope raise { t with power := { t.power with lastOp := n } } else t

/-- A feature is set: power management acts on its state, the composite's over-temperature threshold and the unwritten-block error
enable have homes of their own, others are kept for Get Features. -/
def setFeature (s : State) (fid v : Nat) : State :=
  if fid = 0x04 then s.on (decide (bitsOf v 16 6 = 0)) fun t => { t with power := { t.power with tempThresh := bitsOf v 0 16 } }
  else if fid = 0x05 then s.setB K.zoneDulbe (bitAt v 16)
  else
    let t := s.setHost { s.host with features := Sp.put s.host.features fid v }
    if fid = 0x02 then setPowerState t (bitsOf v 0 5) else t

/-- SET_FEATURES: a power state above 4 is an invalid field. -/
def execSetFeatures (c : CmdRef) (s : State) : Host.Outcome State Fault Refusal :=
  match activeEnt s.host.table (refOf c) true 0x09 with
  | none => .next s
  | some e =>
    let fid := bitsOf e.sqe.cdw10.toNat 0 8
    let v := e.sqe.cdw11.toNat
    .next (if fid = 0x02 ∧ 4 < bitsOf v 0 5 then complete raise s e.ref (stat 0 0x02) 0
      else complete raise (setFeature s fid v) e.ref 0 (if fid = 0x07 then 31 + 31 * 2 ^ 16 else 0))

/-- GET_FEATURES: a feature that no Set Features has set is not stated: free. -/
def execGetFeatures (c : CmdRef) (s : State) : Host.Outcome State Fault Refusal :=
  match activeEnt s.host.table (refOf c) true 0x0A with
  | none => .next s
  | some e =>
    let fid := bitsOf e.sqe.cdw10.toNat 0 8
    let kept := match Sp.get s.host.features fid with | some v => v | none => s.free.toNat % 2 ^ 32
    let v := if fid = 0x02 then s.nat K.pmHostPs else if fid = 0x04 then s.power.tempThresh
      else if fid = 0x05 then b2n (s.flag K.zoneDulbe) * 2 ^ 16 else if fid = 0x07 then 31 + 31 * 2 ^ 16 else kept
    .next (complete raise s.drawn e.ref 0 v)

/-- ASYNCHRONOUS_EVENT_REQUEST (R283): it carries the oldest event that waits, or stays outstanding. -/
def execAsynchronousEventRequest (c : CmdRef) (s : State) : Host.Outcome State Fault Refusal :=
  match activeEnt s.host.table (refOf c) true 0x0C with
  | none => .next s
  | some e => match s.host.asyncs with
    | [] => .next s
    | (ty, info, log) :: r =>
      .next (complete raise (s.setHost { s.host with asyncs := r }) e.ref 0 (ty + info * 2 ^ 8 + log * 2 ^ 16))

/-- DEVICE_SELF_TEST (R278): the command is accepted; the spec gives the test no effect on the module's state. -/
def execDeviceSelfTest (c : CmdRef) (s : State) : Host.Outcome State Fault Refusal :=
  match activeEnt s.host.table (refOf c) true 0x14 with
  | none => .next s
  | some e => .next (complete raise s e.ref 0 0)

/-- KEEP_ALIVE (R278). -/
def execKeepAlive (c : CmdRef) (s : State) : Host.Outcome State Fault Refusal :=
  match activeEnt s.host.table (refOf c) true 0x18 with
  | none => .next s
  | some e => .next (complete raise s e.ref 0 0)

end Sys2Proof.Machine
end

