-- ==== Sys2Proof/Machine/Pantry.lean ====
section
/-! DEFINITION. The Pantry's commands (spec/15): push, pop, queue reset and the end of a sweep. -/

namespace Sys2Proof.Machine

/-- Payload of an engine's push: r4 to r18, little-endian (R348). -/
def regPayload (e : Engine) : List Byte := (List.range 15).flatMap fun i => leBytes 4 (at' e.regs (4 + i) 0).toNat

/-- A popped payload in r4 to r18 (R348). -/
def payloadRegs (regs : Vector (BitVec 32) 32) (l : List Byte) : Vector (BitVec 32) 32 :=
  (List.range 15).foldl (fun v i => upd v (4 + i) (BitVec.ofNat 32 (leNat ((l.drop (4 * i)).take 4)))) regs

/-- A port's push staging buffer, 60 bytes (R347). -/
def stagingOf (s : State) (port : Nat) : List Byte := (Sp.get s.pan.staging port).getD (List.replicate 60 0)

/-- A push by a fabric port: its staging buffer is pushed and cleared (R347). -/
def fabricPush (s : State) (port q tag : Nat) (ecc : PantryEcc) : State :=
  let payload := stagingOf s port
  pantryPush raise { s with pan := { s.pan with staging := Sp.del s.pan.staging port } } port q tag payload ecc

/-- A pop by a fabric port: the payload and the tag word stay with the port (R347). -/
def fabricPop (s : State) (port q : Nat) (ecc : PantryEcc) : State :=
  let (tag, payload, t) := pantryPop raise s q ecc
  { t with pan := { t.pan with popBuf := Sp.put t.pan.popBuf port payload, popTag := Sp.put t.pan.popTag port tag } }

/-- PANTRY_PUSH (R347, R348, R351). -/
def execPantryPush (port : PantryPort) (q : BitVec 9) (tag : BitVec 16) (ecc : PantryEcc) (s : State) :
    Host.Outcome State Fault Refusal :=
  .next (match port with
    | .fabric _ => fabricPush s (portNum port) q.toNat tag.toNat ecc
    | .trellis n => pantryPush raise s (portNum port) q.toNat tag.toNat (regPayload (s.eng n)) ecc)

/-- An engine's pop: the payload in r4 to r18, and condition 7 (R348). -/
def enginePop (s : State) (n q : Nat) (ecc : PantryEcc) : Nat × State :=
  let (tag, payload, t) := pantryPop raise s q ecc
  (tag, t.setEng n { t.eng n with regs := payloadRegs (t.eng n).regs payload, popValid := bitAt tag 16 })

/-- PANTRY_POP (R347-R349, R354). -/
def execPantryPop (port : PantryPort) (q : BitVec 9) (ecc : PantryEcc) (s : State) : Host.Outcome State Fault Refusal :=
  .next (match port with
    | .fabric _ => fabricPop s (portNum port) q.toNat ecc
    | .trellis n => (enginePop s n q.toNat ecc).2)

/-- The action of an accepted QUEUE_RESET (R353). -/
def queueResetAct (q : Nat) (t : State) : State :=
  queueEmptied t q 0

/-- QUEUE_RESET (R353). -/
def execQueueReset (m : Master) (q : BitVec 9) (v : Word) (s : State) : Host.Outcome State Fault Refusal :=
  .next (kwrite s m (K.panQueueReset q.toNat) v (queueResetAct (q.toNat)))

/-- Cells a sweep frees: those in use of every epoch but the queue's present one, which counts modulo 4 (R353). -/
def swept (x : PanQueue) : Nat := (List.range 4).foldl (fun n e => if e = x.epoch % 4 then n else n + at' x.stale e 0) 0

/-- SWEEP_DONE (R353): the cells of other epochs are free again. -/
def execSweepDone (q : BitVec 9) (s : State) : Host.Outcome State Fault Refusal :=
  let x := s.queue q.toNat
  if !x.sweep then .next s
  else
    let kept := upd (Vector.replicate 4 0) (x.epoch % 4) (at' x.stale (x.epoch % 4) 0)
    let t := s.setQueue q.toNat { x with sweep := false, stale := kept, since := 0 }
    let t := setFlag (setUsed t (t.pan.used - swept x)) q.toNat 4 false
    .next (raise (t.addN K.poolReclaimedCount (swept x)) 434 [q.toNat, swept x, s.elapsed x.since] {})

end Sys2Proof.Machine
end

