-- ==== Sys2Proof/Machine/Sieve.lean ====
section
/-! DEFINITION. The Sieve engines' commands (spec/16 R366-R379): programs and their slots, memory range sets, runs and their
ends, environment calls, namespace 4. -/

namespace Sys2Proof.Machine

/-! ### Host commands of namespaces 3 and 4 (R371, R372) -/

/-- The ACTIVE entry of an I/O command for namespace 3 or 4. The opcodes of the two command sets are not printed, so the
command's own row says which it is (log 20). -/
def sieveEnt (s : State) (c : Ref) (ns : Nat) : Option CmdEnt :=
  s.host.table.find? fun e => e.ref == c && e.st == .active && !e.stopped && e.bad.isNone && e.sqid != 0
    && e.sqe.nsid.toNat == ns && sieveNs s ns

/-- An I/O command of namespace 3 or 4: in Safe it completes with Namespace Not Ready (spec/20 R456); else its work. -/
def sieveWork (s : State) (c : CmdRef) (ns : Nat) (f : CmdEnt → State) : State :=
  match sieveEnt s (refOf c) ns with
  | none => s
  | some e => if s.nat K.pmMode = 5 then complete raise s e.ref (stat 0 0x82) 0 else f e

/-- An admin command of the Computational Programs command set. -/
def sieveAdmin (s : State) (c : CmdRef) (op : Nat) (f : CmdEnt → State) : State :=
  match activeEnt s.host.table (refOf c) true op with
  | none => s
  | some e => f e

/-- Completes a Sieve command whose option or parameter is not supported: Invalid Field in Command (R372). -/
def sieveInvalid (s : State) (e : CmdEnt) : State := complete raise s e.ref (stat 0 0x02) 0

/-- Completes with a failure whose status the spec does not state: a free value. -/
def sieveRefused (s : State) (e : CmdEnt) : State := complete raise s.drawn e.ref (s.free.toNat % 2 ^ 15) 0

/-! ### Program slots (R366-R368) -/

/-- A program slot is loaded: slots 0-3 always are (R368). -/
def slotLoaded (s : State) (slot : Nat) : Bool := decide (slot < 4) || s.bit (K.sivProgramSlot slot) 0
/-- A program slot is active. -/
def slotActive (s : State) (slot : Nat) : Bool := slotLoaded s slot && s.bit (K.sivProgramSlot slot) 1
/-- A run of a slot is in progress, loading and paused ones included. -/
def slotBusy (s : State) (slot : Nat) : Bool := (List.range 8).any fun n => match (s.sieveEng n).run with
  | some x => x.slot == slot
  | none => false

/-- The key hash of a key slot (R367); slots 1-3 are empty while zero, slot 0 is fused. -/
def keyHashOf (s : State) (k : Nat) : Option (List Byte) :=
  let zero : List Byte := List.replicate 48 0
  if k = 0 then some ((Sp.get s.blobs K.sivKeyHash).getD zero)
  else if k < 4 then
    let h := (Sp.get s.blobs (K.sivKeyHash8001 (k - 1))).getD zero
    if h = zero then none else some h
  else none

/-- The sizes of an image meet R366. -/
def sizesOk (i : ProgImage) : Bool :=
  let t := i.textSize.toNat
  let d := i.dataSize.toNat
  let b := i.bssSize.toNat
  t % 64 == 0 && d % 64 == 0 && b % 64 == 0 && decide (t + d + b ≤ 225280) && i.payload.length == t + d

/-- Why Strongroom rejects an image, in the order of event 449's causes: 0 signature, 1 key slot, 2 size, 3 version, 4 busy
(R367, R368, R379). -/
def rejectCause (s : State) (slot : Nat) (i : ProgImage) : Option Nat :=
  match keyHashOf s i.keySlot.toNat with
  | none => some 1
  | some h =>
    if i.keyHash ≠ h then some 1
    else if !i.sigOk then some 0
    else if !sizesOk i then some 2
    else if i.version.toNat < (Sp.get s.sieve.versions i.programId.toNat).getD 0 then some 3
    else if slotBusy s slot then some 4
    else none

/-- An accepted image in its slot: measured, recorded, inactive until it is activated (R367, R368). -/
def acceptProgram (s : State) (slot : Nat) (i : ProgImage) : State :=
  let id := i.programId.toNat
  let t := { s with
    sieve := { s.sieve with
      progs := Sp.put s.sieve.progs slot i
      versions := Sp.put s.sieve.versions id i.version.toNat
      store := if i.persistent then Sp.put s.sieve.store slot i else s.sieve.store }
    blobs := Sp.put s.blobs (K.sivProgramHash slot) i.hash }
  let t := t.setN (K.sivProgramSlot slot)
    (1 + b2n i.persistent * 4 + i.keySlot.toNat % 4 * 16 + i.version.toNat * 2 ^ 32)
  let t := measure t { kind := 5, index := slot, flags := 1, version := i.version.toNat, component := id, digest := i.hash }
  sieveEvent raise t 0 448 [slot, i.keySlot.toNat, id, i.version.toNat]

/-- A rejected image leaves its slot unchanged (R367). -/
def rejectProgram (s : State) (slot cause : Nat) : State := raise (s.inc K.sivRejectCount) 449 [slot, cause] {}

/-- LOAD_PROGRAM (R367, R368, R372). -/
def execLoadProgram (c : CmdRef) (slot : BitVec 4) (img : ProgImage) (s : State) : Host.Outcome State Fault Refusal :=
  .next (sieveAdmin s c 0x22 fun e =>
    if slot.toNat < 4 then sieveInvalid s e
    else match rejectCause s slot.toNat img with
      | some cause => sieveRefused (rejectProgram s slot.toNat cause) e
      | none => complete raise (acceptProgram s slot.toNat img) e.ref 0 0)

/-- PROGRAM_ACTIVATION_MANAGEMENT (R368). -/
def execProgramActivationManagement (c : CmdRef) (slot : BitVec 4) (activate : Bool) (s : State) :
    Host.Outcome State Fault Refusal :=
  .next (sieveAdmin s c 0x23 fun e =>
    if !slotLoaded s slot.toNat then sieveInvalid s e
    else if !activate && slotBusy s slot.toNat then sieveRefused s e
    else complete raise (s.setBitOf (K.sivProgramSlot slot.toNat) 1 activate) e.ref 0 0)

/-! ### Memory range sets (R372) -/

/-- A range lies in namespace 4 and is 64 B aligned. -/
def rangeOk (s : State) (r : BitVec 32 × BitVec 32) : Bool :=
  r.1.toNat % 64 == 0 && r.2.toNat % 64 == 0 && decide (r.1.toNat + r.2.toNat ≤ s.nat K.sivSlmSize)

/-- The memory range sets. -/
def putSets (s : State) (m : Sp (List (Nat × Nat))) : State := { s with sieve := { s.sieve with sets := m } }

/-- MEMORY_RANGE_SET_MANAGEMENT: a new set takes the lowest free number, answered in DW0. -/
def execMemoryRangeSetManagement (c : CmdRef) (create : Bool) (set : BitVec 4) (ranges : List (BitVec 32 × BitVec 32))
    (s : State) : Host.Outcome State Fault Refusal :=
  .next (sieveAdmin s c 0x21 fun e =>
    if create then
      match (List.range 16).find? fun i => (Sp.get s.sieve.sets i).isNone with
      | none => sieveRefused s e
      | some i =>
        if 8 < ranges.length ∨ ranges.all (rangeOk s) = false then sieveInvalid s e
        else complete raise (putSets s (Sp.put s.sieve.sets i (ranges.map fun r => (r.1.toNat, r.2.toNat)))) e.ref 0 i
    else if (Sp.get s.sieve.sets set.toNat).isNone then sieveInvalid s e
    else complete raise (putSets s (Sp.del s.sieve.sets set.toNat)) e.ref 0 0)

/-! ### Placing runs (R369, R372, R375) -/

/-- A run takes an engine: loading, with its power reservation asked for (R375). -/
def beginRun (s : State) (n : Nat) (x : Run) : State :=
  let t := s.setSieveEng n { s.sieveEng n with run := some x, pausedFor := 0 }
  let t := ((t.setN (K.engEngineState n) 2).setN (K.engOwner n) x.owner.code).setN (K.engRunSlot n) x.slot
  requestRes raise t (sieveHolder n)

/-- The lowest-numbered engine that is idle and serves the host. -/
def idleEngine (s : State) : Option Nat :=
  (List.range 8).find? fun n => engState s n == 1 && s.bit K.sivHostEngineMask n

/-- Waiting host runs take idle engines in order of fetch; the fuel bounds the engines. -/
def placeRunsFuel (s : State) (fuel : Nat) : State :=
  match fuel with
  | 0 => s
  | k + 1 => match s.sieve.waiting, idleEngine s with
    | w :: rest, some n =>
      let (c, slot, set, p1, p2) := w
      let base := s.nat K.sivSlmBase
      let ranges := ((Sp.get s.sieve.sets set).getD []).map fun r => (base + r.1, r.2)
      let t := { s with sieve := { s.sieve with waiting := rest } }
      placeRunsFuel (beginRun t n { slot := slot, owner := .host c, cparam1 := p1, cparam2 := p2, ranges := ranges,
                                    queue := 0x1FF }) k
    | _, _ => s

/-- Places waiting runs, while runs may start. -/
def placeRuns (s : State) : State := if s.flag K.sivSieveEnable then placeRunsFuel s 8 else s

/-- What the end of a run lets happen: what it held is granted on (spec/20 R465), a waiting run takes the engine. -/
def afterRun (s : State) : State := placeRuns (regrantAll raise s)

/-- EXECUTE_PROGRAM (R372). -/
def execExecuteProgram (c : CmdRef) (slot : BitVec 4) (set : BitVec 4) (cparam1 cparam2 : Word) (s : State) :
    Host.Outcome State Fault Refusal :=
  .next (sieveWork s c 3 fun e =>
    if !slotActive s slot.toNat || (Sp.get s.sieve.sets set.toNat).isNone then sieveInvalid s e
    else if (s.sieve.waiting.any fun w => w.1 == e.ref) || (List.range 8).any fun n => match (s.sieveEng n).run with
        | some x => x.owner == .host e.ref
        | none => false then s
    else placeRuns { s with sieve := { s.sieve with
      waiting := s.sieve.waiting ++ [(e.ref, slot.toNat, set.toNat, cparam1.toNat, cparam2.toNat)] } })

/-- The range list of a firmware run: count, queue, then eight pairs of system address and length (R378). -/
def fwRanges (s : State) (a : Nat) : List (Nat × Nat) × Nat :=
  let count := leNat (s.load a 4)
  let n := if count < 8 then count else 8
  ((List.range n).map fun i => (leNat (s.load (a + 8 + 16 * i) 8), leNat (s.load (a + 16 + 16 * i) 8)),
    leNat (s.load (a + 4) 4) % 512)

/-- The action of an accepted FW_START (R378): nothing starts while sieve_enable is 0 or the slot is not active. -/
def fwStartAct (n : Nat) (t : State) : State :=
    let slot := t.nat (K.engFwSlot n)
    if !t.flag K.sivSieveEnable || !slotActive t slot then t
    else
      let (ranges, queue) := fwRanges t (t.nat (K.engFwRanges n))
      beginRun t n { slot := slot, owner := .firmware, cparam1 := t.nat (K.engFwCparam1 n), cparam2 := t.nat (K.engFwCparam2 n),
                     ranges := ranges, queue := queue }

/-- FW_START (R378). -/
def execFwStart (m : Master) (n : Fin 8) (v : Word) (s : State) : Host.Outcome State Fault Refusal :=
  .next (kwrite s m (K.engFwStart n) v (fwStartAct n))

/-- Ends a run that may hold or await its reservation. -/
def runEnds (s : State) (n code result status : Nat) : State :=
  let t := { s with power := { s.power with waiting := s.power.waiting.filter fun x => x.who != sieveHolder n } }
  regovern raise (endRun raise t n code result status)

/-- The action of an accepted FW_STOP (R370). -/
def fwStopAct (n : Nat) (t : State) : State :=
  match (t.sieveEng n).run with
    | some x => if x.owner = .firmware then afterRun (runEnds t n 5 0 0) else t
    | none => t

/-- FW_STOP (R370). -/
def execFwStop (m : Master) (n : Fin 8) (v : Word) (s : State) : Host.Outcome State Fault Refusal :=
  .next (kwrite s m (K.engFwStop n) v (fwStopAct n))

/-! ### Starting and ending a program (R362, R369, R370, R373) -/

/-- First address of the local memory of SIEVE[n] (spec/01 R20). -/
def localBase (n : Nat) : Nat := 0x70000000 + n * 0x100000

/-- The execution block (R369). -/
def execBlock (x : Run) : List Byte :=
  leBytes 8 x.cparam1 ++ leBytes 8 x.cparam2 ++ leBytes 4 x.ranges.length ++ leBytes 4 x.queue
    ++ (List.range x.ranges.length).flatMap fun i =>
      leBytes 8 (2 ^ 32 * (i + 1)) ++ leBytes 8 (match x.ranges[i]? with | some r => r.2 | none => 0)

/-- System address and length of a range of a run; an absent range has length 0. -/
def Run.range (x : Run) (i : Nat) : Nat × Nat := (x.ranges[i]?).getD (0, 0)

/-- Fields of CPARAM1 of the record filter (R373). -/
structure FilterParams where
  size : Nat
  offset : Nat
  width : Nat
  op : Nat
  signed : Bool
deriving DecidableEq, Repr

/-- Reads the record filter's CPARAM1. -/
def filterParams (p : Nat) : FilterParams :=
  { size := bitsOf p 0 16, offset := bitsOf p 16 16, width := bitsOf p 32 4, op := bitsOf p 36 3, signed := bitAt p 39 }

/-- A device-defined program's fault before its work: mcause 2 for a parameter outside the table of R373, 5 and 7 for a load or a
store outside the windows of the run (R361). -/
def deviceFault (x : Run) : Option Nat :=
  let len (i : Nat) : Nat := (x.range i).2
  if x.slot = 0 then (if x.cparam1 ≠ 0 ∨ x.cparam2 ≠ 0 then some 2 else none)
  else if x.slot = 1 then
    let f := filterParams x.cparam1
    if f.size < 8 ∨ 4096 < f.size ∨ f.size % 8 ≠ 0 ∨ !([1, 2, 4, 8] : List Nat).contains f.width ∨ 5 < f.op ∨ 2 ^ 40 ≤ x.cparam1 then some 2
    else
      let count := len 0 / f.size
      if count ≠ 0 ∧ len 0 < (count - 1) * f.size + f.offset + f.width then some 5 else none
  else if x.slot = 2 then (if x.cparam1 ≠ 0 ∨ x.cparam2 ≠ 0 then some 2 else if len 1 < 48 then some 7 else none)
  else if x.slot = 3 then
    let k := bitsOf x.cparam1 0 8
    let m := bitsOf x.cparam1 8 8
    let size := bitsOf x.cparam1 16 16 * 64
    if k < 2 ∨ 32 < k ∨ m < 1 ∨ 4 < m ∨ 8 < k + m ∨ 2 ^ 32 ≤ x.cparam1 ∨ x.cparam2 ≠ 0 then some 2
    else if (List.range k).any fun i => decide (len i < size) then some 5
    else if (List.range m).any fun i => decide (len (k + i) < size) then some 7
    else none
  else none

/-- A record matches the filter (R373). -/
def filterMatch (f : FilterParams) (field value : Nat) : Bool :=
  let w := 8 * f.width
  let a : Int := if f.signed then sgn w field else field
  let b : Int := if f.signed then sgn 64 value else value
  match f.op with
  | 0 => a == b
  | 1 => a != b
  | 2 => decide (a < b)
  | 3 => decide (a ≤ b)
  | 4 => decide (b < a)
  | _ => decide (b ≤ a)

/-- What a device-defined program writes and its result (R373). -/
def deviceOutput (s : State) (x : Run) : State × Nat :=
  let r0 := x.range 0
  let r1 := x.range 1
  if x.slot = 0 then (s, crc32c (s.load r0.1 r0.2))
  else if x.slot = 1 then
    let f := filterParams x.cparam1
    let hits := (List.range (r0.2 / f.size)).filter fun i =>
      filterMatch f (leNat (s.load (r0.1 + i * f.size + f.offset) f.width)) x.cparam2
    let room := r1.2 / f.size
    let out := (hits.take room).flatMap fun i => s.load (r0.1 + i * f.size) f.size
    (s.store r1.1 out, (hits.take room).length % 2 ^ 31 + b2n (decide (room < hits.length)) * 2 ^ 31)
  else if x.slot = 2 then (s.store r1.1 (padTo 48 (Config.sha384 (s.load r0.1 r0.2))), 0)
  else
    let k := bitsOf x.cparam1 0 8
    let m := bitsOf x.cparam1 8 8
    let size := bitsOf x.cparam1 16 16 * 64
    let parity := Config.erasure k m ((List.range k).map fun i => s.load (x.range i).1 size)
    ((List.range m).foldl (fun t i => t.store (x.range (k + i)).1 (padTo size ((parity[i]?).getD []))) s, 0)

/-- A run ends as a fault (R370, R372). -/
def faultRun (s : State) (n mcause pc addr : Nat) : State :=
  let t := (s.inc K.sivFaultCount).setN (K.engFaultPc n) pc
  afterRun (sieveEvent raise (runEnds t n 3 0 (stat 1 0xC3)) n 452 [n, mcause, pc, addr])

/-- A fault of a program that the part itself runs: its pc and the address are not printed, free values. -/
def ownFault (s : State) (n mcause : Nat) : State :=
  faultRun { s with freeCtr := s.freeCtr + 2 } n mcause (Config.freeValue s.freeCtr).toNat
    ((Config.freeValue (s.freeCtr + 1)).toNat % 2 ^ 40)

/-- A granted run may start: nothing pauses compute (R369, R375, spec/20 R450, R470). -/
def mayStart (s : State) (n : Nat) : Bool :=
  engState s n == 2 && s.flag K.sivSieveEnable && !s.flag K.poolPantryDegraded && !sievePaused s && (match (s.sieveEng n).run with
    | some x => x.granted
    | none => false)

/-- PROGRAM_START (R362, R369). The text of the programs in ROM is not printed: their local memory shows the execution block
alone. -/
def execProgramStart (n : Fin 8) (s : State) : Host.Outcome State Fault Refusal :=
  match (s.sieveEng n).run with
  | none => .next s
  | some x =>
    if !mayStart s n then .next s
    else
      let a := localBase n
      let t := clearBytes s a 0x40000
      let t := match Sp.get t.sieve.progs x.slot with
        | some p => t.store a p.payload
        | none => t
      let t := t.store (a + 0x3F000) (execBlock x)
      let t := (t.setN (K.engEngineState n) 3).inc K.sivRunCount
      let t := t.setSieveEng n { t.sieveEng n with runSince := t.now, pausedFor := 0 }
      let t := sieveEvent raise t n 450 [n, x.slot, x.owner.code]
      .next (match deviceFault x with
        | some mcause => ownFault t n mcause
        | none => t)

/-- The run of an engine in running. -/
def runningRun (s : State) (n : Nat) : Option Run := if engState s n = 3 then (s.sieveEng n).run else none

/-- ECALL_EXIT (R369, R370): a downloaded program's a0, a device-defined one's own result. -/
def execEcallExit (n : Fin 8) (a0 : BitVec 32) (runUs : BitVec 32) (s : State) : Host.Outcome State Fault Refusal :=
  match runningRun s n with
  | none => .next s
  | some x =>
    let (t, result) := if x.slot < 4 then deviceOutput s x else (s, a0.toNat)
    let t := (runEnds t n 1 result 0).setN (K.engRunUs n) runUs.toNat
    .next (afterRun (sieveEvent raise t n 451 [n, result, runUs.toNat]))

/-- End of the data segment of a run's program in local memory. -/
def dataEnd (s : State) (x : Run) : Nat := match Sp.get s.sieve.progs x.slot with
  | some p => p.textSize.toNat + p.dataSize.toNat
  | none => 0

/-- ECALL_POP (R369): 60 B to local address a0, the tag word in a0 of the program. A run without a queue pops nothing. -/
def execEcallPop (n : Fin 8) (a0 : BitVec 18) (s : State) : Host.Outcome State Fault Refusal :=
  match runningRun s n with
  | none => .next s
  | some x =>
    let a := a0.toNat
    if 0x3F000 < a + 60 ∨ a < dataEnd s x then .next (ownFault s n 7)
    else if x.queue = 0x1FF then .next (s.deliver (17 + n.val) 0)
    else
      let (tag, payload, t) := pantryPop raise s x.queue .ok
      .next ((t.store (localBase n + a) payload).deliver (17 + n.val) (BitVec.ofNat 64 tag))

/-- ECALL_PUSH (R369): 60 B from local address a0 to the run's queue + 1. -/
def execEcallPush (n : Fin 8) (a0 : BitVec 18) (tag : BitVec 16) (s : State) : Host.Outcome State Fault Refusal :=
  match runningRun s n with
  | none => .next s
  | some x =>
    let a := a0.toNat
    if 0x40000 < a + 60 then .next (ownFault s n 5)
    else if x.queue = 0x1FF then .next s
    else .next (pantryPush raise s (portNum (.fabric (.sieve n))) ((x.queue + 1) % 512) tag.toNat (s.load (localBase n + a) 60) .ok)

/-- PROGRAM_FAULT (R370). -/
def execProgramFault (n : Fin 8) (mcause : BitVec 32) (pc : Word) (addr : Addr) (s : State) : Host.Outcome State Fault Refusal :=
  .next (if (runningRun s n).isSome then faultRun s n mcause.toNat pc.toNat addr.toNat else s)

/-- EXEC_TIMEOUT (R370, R372). -/
def execExecTimeout (n : Fin 8) (pc : Word) (s : State) : Host.Outcome State Fault Refusal :=
  match runningRun s n with
  | none => .next s
  | some x => .next (afterRun (sieveEvent raise (runEnds (s.inc K.sivTimeoutCount) n 2 0 (stat 1 0xC2)) n 453 [n, x.slot, pc.toNat]))

/-- GRANT_WAIT_EXPIRY (R372, R375): a host run alone. -/
def execGrantWaitExpiry (n : Fin 8) (s : State) : Host.Outcome State Fault Refusal :=
  match (s.sieveEng n).run with
  | none => .next s
  | some x => match x.owner with
    | .firmware => .next s
    | .host _ =>
      if engState s n ≠ 2 ∨ x.granted = true then .next s
      else
        let t := runEnds s n 4 0 (stat 1 0xC4)
        .next (afterRun (sieveEvent raise t n 458 [x.slot, t.nat K.pmEnvelopeNowMw]))

/-- PAUSE_LIMIT_EXPIRY (R376). -/
def execPauseLimitExpiry (n : Fin 8) (s : State) : Host.Outcome State Fault Refusal :=
  .next (if engState s n = 4 then afterRun (withdrawRun raise s n) else s)

/-! ### Namespace 4 (R371, R372) -/

/-- A range of namespace 4. -/
def slmOk (s : State) (off len : Nat) : Bool := decide (off + len ≤ s.nat K.sivSlmSize)

/-- SLM_READ. -/
def execSlmRead (c : CmdRef) (offset len : BitVec 32) (s : State) : Host.Outcome State Fault Refusal :=
  .next (sieveWork s c 4 fun e =>
    if !slmOk s offset.toNat len.toNat then sieveInvalid s e
    else complete raise (returnData s e.ref (s.load (s.nat K.sivSlmBase + offset.toNat) len.toNat)) e.ref 0 0)

/-- SLM_WRITE. -/
def execSlmWrite (c : CmdRef) (offset : BitVec 32) (data : List Byte) (s : State) : Host.Outcome State Fault Refusal :=
  .next (sieveWork s c 4 fun e =>
    if !slmOk s offset.toNat data.length then sieveInvalid s e
    else complete raise (s.store (s.nat K.sivSlmBase + offset.toNat) data) e.ref 0 0)

/-- MEMORY_COPY: blocks of namespace 1 or 2, named in double word 13 (log 20), under the locks of their range (spec/18 R422);
blocks on the media come by the media path, and the command stays ACTIVE until its completion is written. -/
def execMemoryCopy (c : CmdRef) (dest : BitVec 32) (s : State) : Host.Outcome State Fault Refusal :=
  .next (sieveWork s c 4 fun e =>
    let ns := e.sqe.cdw13.toNat
    let first := e.sqe.slba.toNat
    let count := e.sqe.nlb.toNat + 1
    match nsBlocks s ns with
    | none => sieveInvalid s e
    | some blocks =>
      if blocks < first + count then complete raise s e.ref (stat 0 0x80) 0
      else if !slmOk s dest.toNat (4096 * count) then sieveInvalid s e
      else match lockedRange s false ns first count with
        | some r => complete raise (answerBad raise s e 33 r) e.ref (stat 2 0x86) 0
        | none =>
          let bs := (List.range count).map fun i => resolveBlock s ns (first + i)
          if bs.contains .media then s
          else complete raise (s.store (s.nat K.sivSlmBase + dest.toNat) (bs.flatMap (blockData s))) e.ref 0 0)

end Sys2Proof.Machine
end

