-- ==== Sys2Proof/Machine/Spindle.lean ====
section
/-! DEFINITION. The spindle's commands (spec/03): the control cycle and the speed loop, spin_enable, the steps of the catch
procedure, bridge protection, and the end of the power-loss sequence. -/

namespace Sys2Proof.Machine

/-- Magnet flux of the motor model in µWb: (ke / √3) / (pole pairs × 104.72 rad/s), as the example of R67 takes it; √3 to nine
digits. -/
def magnetFlux (s : State) : Nat :=
  let d := 10472 * s.cfg K.sunPolePairs * 1732050808
  if d = 0 then 0 else (rnd (s.cfg K.spinKeMvKrpm * 100000 * 1000000000 : Nat) d).toNat

/-- Torque in µN·m of a current in mA under the motor model: 1.5 × pole pairs × magnet flux × current (R70). -/
def modelTorque (s : State) (ma : Int) : Int := rnd (3 * s.cfg K.sunPolePairs * magnetFlux s * ma) 2000
/-- flux_ref: the magnet flux at 0, and never below it (R59). -/
def fluxRef (s : State) : Nat :=
  let f := s.cfg K.spinFluxRefUwb
  if f < magnetFlux s then magnetFlux s else f

/-- The motor model is valid (R61). -/
def modelValid (s : State) : Bool :=
  s.nat K.spinRsMohm != 0 && s.nat K.spinLsUh != 0 && s.nat K.spinKeMvKrpm != 0

/-- The largest of three phase currents reaches a limit in mA. -/
def reaches (iu iv iw : Int) (ma : Nat) : Bool :=
  decide (ma ≤ iu.natAbs) || decide (ma ≤ iv.natAbs) || decide (ma ≤ iw.natAbs)

/-- Voltage vector and duty per mille of the last cycle. -/
def applied (b : Bridge) : Int × Int := match b with
  | .active v d _ => (v, d)
  | .zero v => (v, 1000)
  | .highZ | .pulses .. | .forcing .. | .braking _ | .rectifier _ => (0, 0)

/-- The estimates are updated from the currents and the applied voltages (R55). Under torque control the shunts are sampled once
per joined window, in the odd cycle that ends it, and predicted between (R57); where the observer does not run (R60) only the
measurements are kept. -/
def estimateCycle (s : State) (i : CycleIn) : State :=
  let m := s.motor
  let e := m.est
  let st := motorState s
  let va := applied m.bridge
  let args (iu iv iw : Int) : List Int :=
    [e.flux, e.angle, e.torque, e.speed, iu, iv, iw, va.1, va.2, i.supplyMv.toNat, s.cfg K.spinRsMohm, s.cfg K.spinLsUh,
     s.cfg K.spinKeMvKrpm, s.cfg K.sunPolePairs]
  let c := if (st = 4 ∨ st = 5) ∧ m.odd = false then Config.predictCurrents (args e.iu e.iv e.iw)
    else (i.iu.toInt, i.iv.toInt, i.iw.toInt)
  let e' := { e with iu := c.1, iv := c.2.1, iw := c.2.2, supplyMv := i.supplyMv.toNat }
  if st = 3 ∨ st = 4 ∨ st = 5 ∨ st = 8 then
    let x := Config.estimate (args c.1 c.2.1 c.2.2)
    { s with motor := { m with est := { e' with flux := x.1, angle := x.2.1 % revCounts, torque := x.2.2.1, speed := x.2.2.2 } } }
  else { s with motor := { m with est := e' } }

/-- The wedge-derived electrical angle (R69). -/
def wedgeAngle (s : State) : Nat :=
  (s.sun.frac.toNat * s.cfg K.sunPolePairs + bitsOf (s.nat K.spinCommOffset) 0 24) % revCounts

/-- The 60° sector k - 1 centred on V1 to V6 of an electrical angle (R56). -/
def sectorOf (angle : Nat) : Nat := (angle * 6 + revCounts / 2) / revCounts % 6

/-- A vector number 1 to 6 stepped from sector k - 1 (R56). -/
def vecFrom (sector : Nat) (step : Int) : Nat := ((sector + step) % 6).toNat + 1

/-- The flux comparator (R55). -/
def fluxStep (s : State) (flux : Nat) (prev : Int) : Int :=
  let ref : Int := fluxRef s
  let e := (ref - flux) * 1000
  let band := s.cfg K.spinFluxBandPm * ref
  if band < e then 1 else if e < -band then -1 else prev

/-- The torque comparator (R55). -/
def torqueStep (s : State) (e : Int) : Int :=
  let band : Int := s.cfg K.spinTorqueBandUnm
  if band < e then 1 else if e < -band then -1 else 0

/-- The switching table of R56: none is the zero vector. -/
def switchVec (sector : Nat) (dPsi dT : Int) : Option Nat :=
  if dT = 0 then none
  else if dPsi = 1 then some (vecFrom sector (if dT = 1 then 1 else -1))
  else some (vecFrom sector (if dT = 1 then 2 else -2))

/-- V0 or V7, whichever needs fewer leg transitions from the previous vector; a tie goes to V0 (R56). -/
def zeroVec (last : Nat) : Nat := if last = 7 ∨ last = 2 ∨ last = 4 ∨ last = 6 then 7 else 0

/-- The duty asked for exceeds the depth limit (R57): d_req = |eT| / (2 × torque_band). -/
def dutyClipped (s : State) (e : Int) : Bool :=
  decide (s.cfg K.spinDepthMaxPm * (2 * s.cfg K.spinTorqueBandUnm) < e.natAbs * 1000)

/-- The duty applied, per mille (R57). -/
def dutyPm (s : State) (e : Int) : Nat :=
  let b := 2 * s.cfg K.spinTorqueBandUnm
  if dutyClipped s e then s.cfg K.spinDepthMaxPm else (rnd (e.natAbs * 1000) (if b = 0 then 1 else b)).toNat

/-- The flux angle and the torque that a cycle commutates by: the estimates, or the wedge-derived angle and the torque of i_q at it
(R70). -/
def commutation (s : State) : Nat × Int :=
  let e := s.motor.est
  if motorState s = 5 then (wedgeAngle s, modelTorque s (Config.qCurrent e.iu e.iv e.iw (wedgeAngle s))) else (e.angle, e.torque)

/-- The bridge of a control cycle under torque control, with the counts of R57 and R59. An electrical period ends where the
sector number falls by three or more, so a step back by one ends none (DESIGN CHOICE, log 7). -/
def torqueCycle (s : State) : State :=
  let m := s.motor
  let c := commutation s
  let sector := sectorOf c.1
  let e := s.int K.spinTorqueCmdUnm - c.2
  let dPsi := fluxStep s m.est.flux m.dPsi
  let clip := dutyClipped s e
  let s := s.on clip fun u => u.inc K.spinDepthLimitedCount
  let wraps := decide (sector + 3 ≤ m.lastSector)
  let base := { m with dPsi := dPsi, odd := !m.odd, lastSector := sector, dCount := m.dCount + 1,
                       period := if wraps then some (m.torqueCycles, m.clipped) else m.period,
                       torqueCycles := if wraps then 0 else m.torqueCycles, clipped := if wraps then 0 else m.clipped }
  match switchVec sector dPsi (torqueStep s e) with
  | none =>
    let z := zeroVec m.lastVec
    { s with motor := { base with bridge := .zero z, lastVec := z } }
  | some v =>
    let d := dutyPm s e
    { s with motor := { base with bridge := .active v d (!m.odd), lastVec := if m.odd then v else 0, dSum := m.dSum + d,
                                  torqueCycles := base.torqueCycles + 1, clipped := base.clipped + b2n clip } }

/-- modulation_pm: the mean of d over the last complete revolution (R57). -/
def modulation (s : State) : State :=
  let m := s.motor
  if s.sun.rev.toNat = m.modRev then s
  else
    let mean := if m.dCount = 0 then 0 else (rnd m.dSum m.dCount).toNat
    let t := { s with motor := { m with modRev := s.sun.rev.toNat, dSum := 0, dCount := 0 } }
    t.setN K.spinModulationPm mean

/-- A failed catch (R66): causes 0 IPD inconclusive, 1 handover_max_rpm, 2 not confirmed, 3 BRAKE timeout, 4 bridge
overcurrent, 5 observer loss. The third within 10 s enters FAULT and sends the module to Safe in hardware. -/
def catchFail (s : State) (before cause : Nat) : State :=
  let m := s.motor
  let fails := (s.now, cause) :: m.fails.filter fun f => s.elapsed f.1 < 10000000
  let t := { s with motor := { m with fails := fails } }
  let t := t.inc K.spinCatchFailCount
  let t := if 3 ≤ fails.length then (motorEnter t 9).setB K.spinSpinEnable false else motorEnter t 7
  let t := spinEvent raise t before 71 [cause, fails.length]
  if 3 ≤ fails.length then
    let t := spinEvent raise t before 72 ((fails.take 3).map (·.2))
    safeNow raise t 72
  else t

/-- The observer angle against the wedge-derived angle, in counts. -/
def angleError (s : State) : Int := fracDiff s.motor.est.angle (wedgeAngle s)

/-- Observer errors beyond the limits of R68, as cause bits: flux, angle, current. -/
def lossBits (s : State) : Nat :=
  let ref := fluxRef s
  let flux := decide (s.cfg K.spinFluxErrPct * ref < ((s.motor.est.flux : Int) - ref).natAbs * 100)
  let angle := decide (s.nat K.sunState = 3) && offsetValid s
    && decide (s.cfg K.spinAngleErrDeg * revCounts < (angleError s).natAbs * 360)
  b2n flux + 2 * b2n angle + 4 * b2n (decide (s.cfg K.spinIlimitCycles ≤ s.motor.ilimRun))

/-- The error values of event 73: flux, angle, and cycles at the current limit. -/
def lossValues (s : State) : List Nat :=
  [param32 ((s.motor.est.flux : Int) - fluxRef s), param32 (angleError s), s.motor.ilimRun]

/-- Event 73 with its cause bits and error values (R68). -/
def lossEvent (s : State) (before bits : Nat) (values : List Nat) : State :=
  spinEvent raise (s.inc K.spinObserverLossCount) before 73 (bits :: values)

/-- The commutation can go over to the wedges (R70). -/
def wedgeReady (s : State) : Bool := decide (s.nat K.sunState = 3) && offsetValid s

/-- The bridge goes to high impedance in RECTIFY (R72). -/
def rectLost (s : State) : State :=
  let t := { s with motor := { s.motor with rectLost := true, bridge := .highZ } }
  spinEvent raise t 8 79 [2, t.nat K.spinHoldRailNowMv]

/-- Measured speed in 0.01 rpm of a running spindle: from the revolution period in LOCKED_WEDGE, else the observer's (R58). -/
def measuredSpeed (s : State) : Int :=
  let p := s.nat K.sunRevPeriodNs
  if s.nat K.sunState = 3 ∧ p ≠ 0 then rnd 6000000000000 p else s.motor.est.speed

/-- The observer is seeded with an angle and a speed (R64, R70). -/
def seedObserver (s : State) (angle : Nat) (speed : Int) : State :=
  { s with motor := { s.motor with est := { s.motor.est with angle := angle % revCounts, speed := speed } } }

/-- Observer loss in RUN_OBSERVER (rows 15 and 16 of R61; R70, R71). -/
def runLoss (s : State) (bits : Nat) : State :=
  let values := lossValues s
  if wedgeReady s then
    let t := lossEvent (seedObserver (motorEnter s 5) (wedgeAngle s) (measuredSpeed s)) 4 bits values
    spinEvent raise t 4 74 [bitsOf (t.nat K.spinCommOffset) 0 24]
  else
    let soon := match s.motor.runCatch with | some c => decide (s.elapsed c < 1000000) | none => false
    let t := lossEvent (motorEnter s 7) 4 bits values
    let t := spinEvent raise t 4 76 [0]
    if soon then catchFail t 4 5 else t

/-- comm_offset is captured, or refined with a time constant of 1 s: in a cycle of 10 µs it takes on 1/100,000 of the observer's
difference (R69). -/
def commOffset (s : State) : State :=
  let both := motorState s == 4 && s.motor.confirmed && s.nat K.sunState == 3
  let whole := revCounts * 100000
  let fine := if s.motor.bothHeld && offsetValid s then
      ((((s.motor.offsetFine : Int) + angleError s) % whole).toNat)
    else (s.motor.est.angle + revCounts - s.sun.frac.toNat * s.cfg K.sunPolePairs % revCounts) % revCounts * 100000
  let t := { s with motor := { s.motor with bothHeld := both, offsetFine := if both then fine else s.motor.offsetFine } }
  t.on both fun u => u.setN K.spinCommOffset (fine / 100000 + 2 ^ 31)

/-- RUN_OBSERVER: confirmation (R64) and event 66. -/
def confirm (s : State) : State :=
  let m := s.motor
  if m.confirmed then s
  else
    let ref := magnetFlux s
    let run := if ((m.est.flux : Int) - ref).natAbs * 10 ≤ ref then m.confirmRun + 1 else 0
    let t := { s with motor := { m with confirmRun := run, confirmed := decide (64 ≤ run) } }
    if 64 ≤ run then
      spinEvent raise t 4 66 [m.catchPath, param32 (t.int K.spinSpeedCrpm), s.elapsed m.catchSince]
    else t

/-- START in its control cycle (R63, rows 12 and 13 of R61): the forced vector turns at a speed that rises at start_accel_rpm_s. -/
def startCycle (s : State) : State :=
  let m := s.motor
  let f := forcedAngle s
  let near := decide ((fracDiff m.est.angle f).natAbs * 360 ≤ 15 * revCounts)
  let run := if near then m.handRun + 1 else 0
  let v := m.forcedSpeed + s.cfg K.spinStartAccelRpmS
  let acc := (m.forcedAcc + v * s.cfg K.sunPolePairs * revCounts) % (revCounts * 600000000000)
  let speed := m.est.speed
  let t := { s with motor := { m with handRun := run, forcedSpeed := v, forcedAcc := acc,
                                      bridge := .forcing (acc / 600000000000) (s.cfg K.spinStartCurrentMa) } }
  if (s.cfg K.spinHandoverRpm * 100 : Nat) ≤ speed ∧ 64 ≤ run then
    let t := motorEnter t 4
    let t := { t with motor := { t.motor with confirmed := true, runCatch := some s.now, cmd := speed * 100, integ := 0 } }
    let t := spinEvent raise t 3 68 [f, m.est.angle]
    commOffset (spinEvent raise t 3 66 [m.catchPath, param32 speed, s.elapsed m.catchSince])
  else if (s.cfg K.spinHandoverMaxRpm * 100 : Nat) ≤ speed then catchFail t 3 1
  else t

/-- RECTIFY in its control cycle (R68, R70, R72, R74). -/
def rectifyCycle (s : State) (speed : Int) : State :=
  let m := s.motor
  let low := decide (speed < (s.cfg K.spinRectifyMinRpm * 100 : Nat))
  let s := if low && !m.exhausted then
      let t := { s with motor := { s.motor with exhausted := true } }
      spinEvent raise t 8 79 [1, t.nat K.spinHoldRailNowMv]
    else s
  let bits := lossBits s
  let fresh := decide (bits ≠ 0) && !m.lossHeld
  let s := { s with motor := { s.motor with lossHeld := decide (bits ≠ 0) } }
  if m.rectLost then s
  else if s.nat K.spinCommSource = 3 then
    let t := if fresh || !wedgeReady s then lossEvent s 8 bits (lossValues s) else s
    if wedgeReady s then (if fresh then seedObserver t (wedgeAngle s) (measuredSpeed s) else t) else rectLost t
  else if bits = 0 then s
  else
    let t := lossEvent s 8 bits (lossValues s)
    if wedgeReady s then
      let t := seedObserver (t.setN K.spinCommSource 3) (wedgeAngle s) (measuredSpeed s)
      spinEvent raise t 8 74 [bitsOf (t.nat K.spinCommOffset) 0 24]
    else rectLost t

/-- BRAKE in its control cycle (rows 19 and 21 of R61; R65, R74): the bridge is high impedance for the rest of a cycle in which the
limit is reached. -/
def brakeCycle (s : State) (i : CycleIn) (rest : Bool) : State :=
  let e := s.motor.est
  let limit := s.cfg K.spinBrakeCurrentMa
  if s.nat K.spinBrakeCause = 2 then
    if rest || (!s.motor.inputSwitch && decide (i.railMv.toNat < 6000)) then motorEnter s 0
    else { s with motor := { s.motor with bridge := if reaches e.iu e.iv e.iw limit then .highZ else .braking limit } }
  else if rest then motorEnter s 2
  else { s with motor := { s.motor with bridge := if reaches e.iu e.iv e.iw limit then .highZ else .braking limit } }

/-- Consecutive cycles in which the current limit was reached (R68). -/
def ilimitCycle (s : State) : State :=
  let e := s.motor.est
  let hit := reaches e.iu e.iv e.iw (s.cfg K.spinCurrentLimitMa)
  { s with motor := { s.motor with ilimRun := if hit then s.motor.ilimRun + 1 else 0 } }

/-- A state of the engine in its control cycle (R61 rows 5, 6, 12, 13, 15-19, 21, 23; R72, R74). -/
def motorCycle (s : State) (i : CycleIn) : State :=
  let st := motorState s
  let speed := s.int K.spinSpeedCrpm
  let on := s.flag K.spinSpinEnable
  let rest := decide (speed.natAbs < s.cfg K.spinRestRpm * 100)
  let stopping := decide (st = 6) && decide (s.nat K.spinBrakeCause = 2)
  if !s.power.loss && !on && !(st == 0 || st == 9 || st == 8 || stopping) then enterBrake s 2
  else if st = 0 then (if !s.power.loss && on && modelValid s then motorEnter s 1 else s)
  else if st = 3 then startCycle s
  else if st = 4 then
    let s := ilimitCycle s
    let bits := lossBits s
    if bits ≠ 0 then runLoss s bits else torqueCycle (commOffset (confirm s))
  else if st = 5 then
    let near := decide ((angleError s).natAbs * 360 ≤ s.cfg K.spinReconvergeDeg * revCounts)
    let run := if near then s.motor.reconvRun + 1 else 0
    if s.cfg K.spinReconvergeCycles ≤ run then
      let t := motorEnter s 4
      let t := { t with motor := { t.motor with confirmed := true } }
      torqueCycle (commOffset (spinEvent raise t 5 75 [s.elapsed s.motor.since]))
    else if s.nat K.sunState ≠ 3 then spinEvent raise (motorEnter s 7) 5 76 [1]
    else torqueCycle { s with motor := { s.motor with reconvRun := run, bothHeld := false } }
  else if st = 6 then brakeCycle s i rest
  else if st = 8 then rectifyCycle (ilimitCycle s) speed
  else s

/-- The speed a control cycle shows (R58, R60): of the running spindle, the observer's, or the one measured without it. -/
def cycleSpeed (s : State) (i : CycleIn) : Int :=
  let st := motorState s
  if st = 4 ∨ st = 5 then measuredSpeed s
  else if st = 3 ∨ st = 8 then s.motor.est.speed
  else i.speedCrpm.toInt

/-- The hold-up rail in mV: held at hold_rail_mv while the rectifier regulates it, else as measured (R72, R74). -/
def railNow (s : State) (i : CycleIn) : Nat := match s.motor.bridge with
  | .rectifier mv => if s.motor.exhausted then i.railMv.toNat else mv
  | .highZ | .pulses .. | .forcing .. | .active .. | .zero _ | .braking _ => i.railMv.toNat

/-- The measurements and estimates of a control cycle (R55, R57, R58). -/
def measureCycle (s : State) (i : CycleIn) : State :=
  let t := estimateCycle (boundary s .cycle) i
  let t := (t.setI K.spinSpeedCrpm (cycleSpeed t i)).setN K.spinPhaseCurrentMa i.currentMa.toNat
  t.setN K.spinHoldRailNowMv (railNow t i)

/-- CONTROL_CYCLE (R54-R57, R59, R61, R64, R68-R72): the cycle's measurements and estimates, the state table, the observer valid
flag, and the observer's angle as Sundial uses it (R38). -/
def execControlCycle (i : CycleIn) (s : State) : Host.Outcome State Fault Refusal :=
  let s := { s with power := { s.power with cycleTrim := s.power.adcTrim } }
  let t := observerCheck raise (modulation (motorCycle (measureCycle s i) i))
  .next (observerAngle t t.motor.est.angle)

/-- The speed command target in 0.0001 rpm (R58). -/
def speedTarget (s : State) : Int := rnd (s.cfg K.spinTargetRpm * (1000000 + s.int K.sunSpeedTrimPpm)) 100

/-- The command moves toward its target no faster than accel_limit_rpm_s (R58). -/
def rampCmd (s : State) : Int :=
  let step : Int := s.cfg K.spinAccelLimitRpmS
  s.motor.cmd + clamp (-step) step (speedTarget s - s.motor.cmd)

/-- Torque that current_limit_ma allows under the motor model (R58). -/
def currentTorque (s : State) : Int := modelTorque s (s.cfg K.spinCurrentLimitMa)

/-- Clamp of the torque command (R58, R64). -/
def torqueClamp (s : State) (speed t : Int) : Int :=
  let a : Int := s.cfg K.spinTorqueLimitUnm
  let t := clamp (-a) a t
  let b := currentTorque s
  let t := clamp (-b) b t
  if motorState s = 4 ∧ s.motor.confirmed = false then
    let c : Int := Config.runningTorque speed
    clamp (-c) c t
  else t

/-- Judges voltage headroom over an electrical period that has ended (R59); one with no cycle of dT ≠ 0 judges nothing and leaves
speed_capped as it is (DESIGN CHOICE, log 7). -/
def judgeCapped (s : State) : State :=
  match s.motor.period with
  | none => s
  | some (n, c) =>
    let t := { s with motor := { s.motor with period := none } }
    if n = 0 then t
    else if 9 * n ≤ 10 * c then
      if t.flag K.spinSpeedCapped then t
      else
        let u := (t.setB K.spinSpeedCapped true).inc K.spinSpeedCappedCount
        spinEvent raise u (motorState u) 65 [param32 (u.int K.spinTorqueCmdUnm), u.motor.est.supplyMv]
    else if 2 * c < n then t.setB K.spinSpeedCapped false
    else t

/-- The torque command of a tick (R58, R59, R64): while speed_capped is 1 the present command is held, inside its clamps. -/
def torqueTick (s : State) (speed : Int) : State :=
  let cmd := rampCmd s
  let m := s.motor
  let err := cmd - speed * 100
  let s := { s with motor := { m with cmd := cmd } }
  if s.flag K.spinSpeedCapped then s.setI K.spinTorqueCmdUnm (torqueClamp s speed (s.int K.spinTorqueCmdUnm))
  else
    let integ := m.integ + err * s.cfg K.spinSpeedKi
    let raw := rnd (err * s.cfg K.spinSpeedKp * 10000 + integ) (65536 * 100000000)
    let t := { s with motor := { s.motor with integ := integ } }
    t.setI K.spinTorqueCmdUnm (torqueClamp t speed raw)

/-- The loaded heads (R67, R77): bit 16 a + h for each head h that an actuator off its park uses, an order of bits that the spec
does not give (DESIGN CHOICE, log 7). -/
def loadedHeads (s : State) : Nat :=
  (List.range 2).foldl (fun n a =>
    let st := s.nat (K.actActState a)
    if 1 ≤ st ∧ st ≤ 5 then n + (2 ^ min (Config.headsUsed a) 12 - 1) * 2 ^ (16 * a) else n) 0

/-- Heads are off the park on an actuator (R67). -/
def anyLoaded (s : State) : Bool :=
  (List.range 2).any fun a => let st := s.nat (K.actActState a); decide (1 ≤ st) && decide (st ≤ 5)

/-- load_permit, at_speed and underspeed (R67, R77). -/
def speedChecks (s : State) (speed : Int) : State :=
  let st := motorState s
  let runs := decide (st = 4 ∨ st = 5)
  let target := s.cfg K.spinTargetRpm
  let permit := runs && decide (((target * s.cfg K.spinLoadMinPct : Nat) : Int) ≤ speed)
  let t := s.setB K.spinLoadPermit permit
  let cmd := speedTarget s
  let close := runs && decide ((speed * 100 - cmd).natAbs * 1000000 ≤ cmd.natAbs * s.cfg K.spinAtSpeedTolPpm)
  let t := if close && !s.flag K.spinAtSpeed then
      spinEvent raise (t.setB K.spinAtSpeed true) st 64 [param32 (rnd cmd 10000)]
    else t.setB K.spinAtSpeed close
  let low := decide (speed < ((target * s.cfg K.spinUnloadPct : Nat) : Int)) && anyLoaded s
  let was := t.motor.under
  let t := { t with motor := { t.motor with under := low } }
  if low && !was then spinEvent raise t st 67 [param32 speed, loadedHeads s] else t

/-- SPEED_LOOP_TICK (R58, R59, R67). -/
def execSpeedLoopTick (s : State) : Host.Outcome State Fault Refusal :=
  let st := motorState s
  if st = 4 ∨ st = 5 then
    let speed := measuredSpeed s
    .next (speedChecks (torqueTick (judgeCapped (s.setI K.spinSpeedCrpm speed)) speed) speed)
  else .next (speedChecks s (s.int K.spinSpeedCrpm))

/-- What a new value of spin_enable does (R61 rows 5, 6, 23 and 25): while the power-loss signal is latched nothing. -/
def spinAct (t : State) : State :=
  let st := motorState t
  let stopping := decide (st = 6) && decide (t.nat K.spinBrakeCause = 2)
  if t.power.loss then t
  else if t.flag K.spinSpinEnable then
    (if (st = 0 ∧ modelValid t) ∨ (st = 9 ∧ t.nat K.pmMode ≠ 5) then observerCheck raise (motorEnter t 1) else t)
  else if st = 0 ∨ st = 9 ∨ st = 8 ∨ stopping then t
  else observerCheck raise (enterBrake t 2)

/-- The action of an accepted SPIN_ENABLE_WRITE (R61). -/
def spinEnableWriteAct (t : State) : State :=
  spinAct t

/-- SPIN_ENABLE_WRITE (R61). -/
def execSpinEnableWrite (m : Master) (v : Word) (s : State) : Host.Outcome State Fault Refusal :=
  .next (kwrite s m K.spinSpinEnable v spinEnableWriteAct)

/-- MEASURE_END (R62, R64, rows 7-9 of R61). -/
def execMeasureEnd (emfMv : BitVec 16) (emfAngle : Frac) (speedCrpm : BitVec 32) (s : State) : Host.Outcome State Fault Refusal :=
  if motorState s ≠ 1 then .next s
  else
    let speed := speedCrpm.toInt
    let t := s.setI K.spinSpeedCrpm speed
    if emfMv.toNat < s.cfg K.spinEmfRestMv ∨ speed.natAbs < s.cfg K.spinRestRpm * 100 then .next (motorEnter t 2)
    else if 0 < speed then
      let t := seedObserver (motorEnter t 4) (emfAngle.toNat + 3 * (revCounts / 4)) speed
      let t := { t with motor := { t.motor with runCatch := some s.now, catchPath := 1, cmd := speed * 100, integ := 0 } }
      .next (t.setI K.spinTorqueCmdUnm (torqueClamp t speed (t.int K.spinTorqueCmdUnm)))
    else
      let t := enterBrake { t with motor := { t.motor with catchPath := 2 } } 1
      .next (spinEvent raise t 1 69 [param32 speed])

/-- The flux angle from the vector with the highest peak and its two neighbours (R63), within half a sector of that vector. -/
def ipdAngleOf (peaks : List Nat) (best : Nat) : Nat :=
  let half : Int := revCounts / 12
  let d := clamp (-half) half (Config.ipdShift (peaks.getD ((best + 5) % 6) 0) (peaks.getD best 0) (peaks.getD ((best + 1) % 6) 0))
  (((best * revCounts / 6 : Nat) + d) % (revCounts : Int)).toNat

/-- IPD_COMPLETE (R63, rows 10 and 11 of R61): inconclusive where the highest peak and its opposite vector's differ by less than
3 % of the highest; six zero peaks are inconclusive (DESIGN CHOICE, log 7: the spec names neither the base nor that case). -/
def execIpdComplete (p1 p2 p3 p4 p5 p6 : BitVec 16) (s : State) : Host.Outcome State Fault Refusal :=
  if motorState s ≠ 2 then .next s
  else
    let peaks := [p1, p2, p3, p4, p5, p6].map fun p => min p.toNat (s.cfg K.spinIpdCurrentMa)
    let best := (List.range 6).foldl (fun b k => if peaks.getD b 0 < peaks.getD k 0 then k else b) 0
    let top := peaks.getD best 0
    let opp := peaks.getD ((best + 3) % 6) 0
    .next (if (top - opp) * 100 < 3 * top ∨ top = 0 then catchFail s 2 0
      else motorEnter { s with motor := { s.motor with ipdAngle := ipdAngleOf peaks best } } 3)

/-- CONVERGE_TIMEOUT (R66, row 14 of R61). -/
def execConvergeTimeout (s : State) : Host.Outcome State Fault Refusal :=
  .next (if motorState s = 4 ∧ s.motor.confirmed = false then observerCheck raise (catchFail s 4 2) else s)

/-- BRAKE_TIMEOUT (R65, row 20 of R61). -/
def execBrakeTimeout (s : State) : Host.Outcome State Fault Refusal :=
  if motorState s = 6 ∧ s.nat K.spinBrakeCause = 1 then
    .next (catchFail (spinEvent raise (motorEnter s 7) 6 70 [param32 (s.int K.spinSpeedCrpm)]) 6 3)
  else .next s

/-- RECATCH_DELAY_EXPIRY (R71, row 22 of R61). -/
def execRecatchDelayExpiry (s : State) : Host.Outcome State Fault Refusal :=
  .next (if motorState s = 7 ∧ s.flag K.spinSpinEnable ∧ s.power.loss = false then motorEnter s 1 else s)

/-- Row 4 of R61 with its event; an overcurrent in a catch fails it (R66, R75). -/
def bridgeTrip (s : State) (e : Nat) (items : List Nat) (overcurrent : Bool) : State :=
  let st := motorState s
  let catching := st == 1 || st == 2 || st == 3 || (st == 6 && s.nat K.spinBrakeCause == 1)
  let t := s.inc K.spinBridgeTripCount
  let t := if st = 0 ∨ st = 9 then { t with motor := { t.motor with bridge := .highZ } } else motorEnter t 7
  let t := if overcurrent && catching then catchFail t st 4 else t
  observerCheck raise (spinEvent raise t st e items)

/-- BRIDGE_OVERCURRENT (R75). -/
def execBridgeOvercurrent (leg : Fin 3) (peakMa : BitVec 16) (s : State) : Host.Outcome State Fault Refusal :=
  .next (bridgeTrip s 77 [leg, peakMa.toNat] true)

/-- BRIDGE_FAULT (R75). -/
def execBridgeFault (cause : BridgeCause) (s : State) : Host.Outcome State Fault Refusal :=
  .next (bridgeTrip s 78 [match cause with | .driverUndervoltage => 0 | .overTemperature => 1] false)

/-- The power-loss sequence can report complete (R74): no flush is running, and every present actuator is PARKED. -/
def sequenceDone (s : State) : Bool :=
  s.nat K.sheafFlushState != 1 && (List.range 2).all fun a => !hasAct s.variant a || s.nat (K.actActState a) == 0

/-- POWER_LOSS_SEQUENCE_COMPLETE (R74, row 24 of R61). -/
def execPowerLossSequenceComplete (s : State) : Host.Outcome State Fault Refusal :=
  if motorState s = 8 ∧ sequenceDone s = true then
    .next (observerCheck raise (if s.cfgB K.spinAfterBrake then enterBrake s 2 else motorEnter s 0))
  else .next s

end Sys2Proof.Machine
end

