-- ==== Sys2Proof/Machine/Strongroom.lean ====
section
/-! DEFINITION. Strongroom's commands (spec/18): measurement and seal, firmware images, confirmation and rollback, attestation,
locking and crypto erase, faults. -/

namespace Sys2Proof.Machine

/-! ### Measurement and seal (R410, R411) -/

/-- The action of an accepted MEAS_GO (R410): the range named is hashed and its entry appended; a ledger that is full refuses
it. -/
def measGoAct (t : State) : State :=
    if !t.strong.sealed && decide (57 ≤ t.strong.entries.length) then
      srEvent (t.setN K.srMeasState 3) 470 [t.nat K.srMeasIndex, 0]
    else
      let e : LedgerEnt := { kind := 7, index := t.nat K.srMeasIndex, flags := 1, version := t.nat K.srMeasVersion,
                             component := t.nat K.srMeasComponent,
                             digest := Config.sha384 (t.load (t.nat K.srMeasAddr) (t.nat K.srMeasLen)) }
      (measure t e).setN K.srMeasState 2

/-- MEAS_GO (R410). -/
def execMeasGo (m : Master) (v : Word) (s : State) : Host.Outcome State Fault Refusal :=
  .next (kwrite s m K.srMeasGo v measGoAct)

/-- The action of an accepted SEAL_REQUEST (R411). -/
def sealRequestAct (stored : Bool) (t : State) : State :=
  sealAsk t false stored

/-- SEAL_REQUEST (R411). -/
def execSealRequest (m : Master) (v : Word) (stored : Bool) (s : State) : Host.Outcome State Fault Refusal :=
  .next (kwrite s m K.srSealRequest v (sealRequestAct stored))

/-- SEAL_TIMEOUT (R411): no request has come since the firmware image was released. -/
def execSealTimeout (stored : Bool) (s : State) : Host.Outcome State Fault Refusal :=
  .next (s.on (!s.strong.sealed && s.strong.sealWait.isNone && s.nat K.srSrState == 2) fun t => sealAsk t true stored)

/-! ### Images, confirmation, rollback (R406-R408) -/

/-- The entry of a firmware image (R413). -/
def imageEntry (flags version : Nat) (hash : List Byte) : LedgerEnt :=
  { kind := 2, index := 0, flags := flags, version := version, component := 0, digest := hash }

/-- The boot control record's readable fields (R424). -/
def showRecord (s : State) : State :=
  let x := s.strong
  ((((s.setN K.srBootSelect x.bootSelect).setN K.srTrialImage x.trialImage).setN K.srTrialBoots x.trialBoots).setN
    K.srTrialLeft x.trialLeft).setN K.srConfirmedImage x.confirmed

/-- The action of an accepted FW_CONFIRM (R406): while the running image is trial_image. -/
def fwConfirmAct (t : State) : State :=
    let x := t.strong
    if x.running = 0 ∨ x.running ≠ x.trialImage then t
    else
      let t := showRecord { t with strong := { x with confirmed := x.running, bootSelect := x.running, trialImage := 0 } }
      measureRuntime t (imageEntry 1 x.runVersion x.runHash)

/-- FW_CONFIRM (R406). -/
def execFwConfirm (m : Master) (v : Word) (s : State) : Host.Outcome State Fault Refusal :=
  .next (kwrite s m K.srFwConfirm v fwConfirmAct)

/-- The key of an image's version object. -/
def imageKey (slot : Nat) : Key := if slot = 1 then K.srImageAVersion else K.srImageBVersion

/-- A floor advances to a version, never beyond 64 fuses and never down, with event 479: floors 0 firmware, 1 Trellis patch, 2
customer. -/
def advanceFloor (s : State) (k : Key) (code version : Nat) : State :=
  let n := min version 64
  if s.nat k < n then srEvent (s.setN k n) 479 [code, n, 64 - n] else s

/-- The least version of an object over the Trellis engines that run an image of its kind. -/
def leastVersion (s : State) (k : Nat → Key) : Option Nat :=
  (List.range 7).foldl (fun m n =>
    let v := s.nat (k n)
    if v = 0 then m else match m with
      | none => some v
      | some x => some (min x v)) none

/-- The action of an accepted ROLLBACK_ADVANCE (R408): the firmware floor and the Trellis floors. An image below the floor is
unusable. -/
def rollbackAdvanceAct (t : State) : State :=
    let t := advanceFloor t K.srFwFloor 0 t.strong.runVersion
    let t := match leastVersion t K.trlPatchVersion with | some n => advanceFloor t K.trlxPatchFloor 1 n | none => t
    let t := match leastVersion t K.trlCustomerVersion with | some n => advanceFloor t K.trlxCustomerFloor 2 n | none => t
    let other := 3 - t.strong.running
    if t.nat (imageKey other) < t.nat K.srFwFloor then t.setN (imageKey other) 0xFFFFFFFF else t

/-- ROLLBACK_ADVANCE (R408). -/
def execRollbackAdvance (m : Master) (v : Word) (s : State) : Host.Outcome State Fault Refusal :=
  .next (kwrite s m K.srRollbackAdvance v rollbackAdvanceAct)

/-- FIRMWARE_IMAGE_DOWNLOAD (R407): the offset is in dwords. -/
def execFirmwareImageDownload (c : CmdRef) (data : List Byte) (s : State) : Host.Outcome State Fault Refusal :=
  match activeEnt s.host.table (refOf c) true 0x11 with
  | none => .next s
  | some e =>
    let base := 4 * e.sqe.cdw11.toNat
    let (d, _) := data.foldl (fun (acc : Sp Byte × Nat) b => (Sp.put acc.1 acc.2 b, acc.2 + 1)) (s.host.download, base)
    .next (complete raise (s.setHost { s.host with download := d }) e.ref 0 0)

/-- Offset of an image's area in the module flash: the areas of spec/01 R19 in its order, from offset 0. -/
def imageBase (slot : Nat) : Nat := 0x800000 + (slot - 1) * 0x10000000
/-- A byte of the module flash. -/
def flashAt (s : State) (o : Nat) : Byte := (Sp.get s.flash o).getD (Config.flashByte o)
/-- n bytes of the module flash. -/
def flashLoad (s : State) (o n : Nat) : List Byte := (List.range n).map fun i => flashAt s (o + i)

/-- The downloaded image is written to its slot's area (R407). -/
def storeImage (s : State) (slot : Nat) : State :=
  { s with flash := s.host.download.foldl (fun m p => if p.1 < 0x10000000 then Sp.put m (imageBase slot + p.1) p.2 else m) s.flash }

/-- The image of a slot is streamed into the Cellar: its payload to its load address (R404 step 4, R405). -/
def loadImage (s : State) (slot : Nat) : State :=
  let b := imageBase slot
  let n := leNat (flashLoad s (b + 0x0C) 4)
  let a := leNat (flashLoad s (b + 0x10) 8)
  if cellarBase ≤ a ∧ a + n ≤ cellarEnd then s.store a (flashLoad s (b + 0x1CA0) n) else s

/-- An image becomes the trial image (R407). -/
def setTrial (s : State) (slot : Nat) : State :=
  showRecord { s with strong := { s.strong with trialImage := slot, trialLeft := s.strong.trialBoots } }

/-- An image fails the checks of a commit: the status, with the event that reports it; none where it passes. -/
def commitImageFault (s : State) (slot : Nat) (chk : ImageCheck) : Option (Nat × State) :=
  if !chk.ok then some (stat 1 0x07, srEvent (s.drawn.inc K.srImageRejectCount) 465 [slot, s.free.toNat % 2 ^ 8])
  else if chk.version.toNat < s.nat K.srFwFloor then
    some (stat 1 0x13, srEvent s 466 [slot, chk.version.toNat, s.nat K.srFwFloor])
  else none

/-- FIRMWARE_COMMIT (R407): `chk` is the outcome of the checks of R405 on the downloaded image (actions 0 and 1) or on the
image stored in the slot (action 2). -/
def execFirmwareCommit (c : CmdRef) (chk : ImageCheck) (s : State) : Host.Outcome State Fault Refusal :=
  match activeEnt s.host.table (refOf c) true 0x10 with
  | none => .next s
  | some e =>
    let slot := bitsOf e.sqe.cdw10.toNat 0 3
    let act := bitsOf e.sqe.cdw10.toNat 3 3
    .next (if 2 < act then complete raise s e.ref (stat 0 0x02) 0
      else if slot = 0 ∨ 2 < slot ∨ slot = s.strong.running then complete raise s e.ref (stat 1 0x06) 0
      else match commitImageFault s slot chk with
        | some (st, t) => complete raise t e.ref st 0
        | none =>
          if act = 2 then complete raise (setTrial s slot) e.ref 0 0
          else
            let v := chk.version.toNat
            let s := storeImage s slot
            let t := { s with strong := { s.strong with staged := Sp.put s.strong.staged slot (v, chk.hash) } }
            let t := measureRuntime (t.setN (imageKey slot) v) (imageEntry 4 v chk.hash)
            complete raise (if act = 1 then setTrial t slot else t) e.ref 0 0)

/-! ### Attestation (R418, R419) -/

/-- A transport's code in event 472. -/
def spdmPathCode (t : SpdmPath) : Nat := match t with | .doe => 0 | .mctp => 1

/-- An answered request: its code, 0 or the error code, and the bytes. -/
def spdmAnswer (s : State) (t : SpdmPath) (req err : Nat) (bytes : List Byte) : State :=
  let u := { s with strong := { s.strong with spdm := some (req, err, bytes) } }
  if err = 0 then u.inc K.srSpdmRequestCount else srEvent u 472 [spdmPathCode t, req, err]

/-- Serves a request: ERROR Unspecified while SPDM is disabled, Busy before the seal; the body answers none for InvalidRequest. -/
def spdmServe (s : State) (t : SpdmPath) (req : Nat) (body : Option (List Byte)) : State :=
  if !s.flag K.srSpdmEnable then spdmAnswer s t req 0x05 []
  else if !s.strong.sealed then spdmAnswer s t req 0x03 []
  else match body with
    | some l => spdmAnswer s t req 0 l
    | none => spdmAnswer s t req 0x01 []

/-- A signature by the alias key over a response and the request's nonce. -/
def aliasSign (s : State) (l : List Byte) (nonce : BitVec 256) : List Byte :=
  padTo 96 (Config.signature s.strong.aliasKey (leBytes 32 nonce.toNat ++ l))

/-- Bytes of a response whose contents the SPDM specification fixes and the spec does not print: free. -/
def freeBytes (s : State) (n : Nat) : List Byte := (List.range n).map fun i => (Config.freeValue (s.freeCtr + i)).setWidth 8

/-- GET_VERSION. -/
def execGetVersion (t : SpdmPath) (s : State) : Host.Outcome State Fault Refusal := .next (spdmServe s t 0x84 (some [0x12]))
/-- GET_CAPABILITIES: CERT_CAP, CHAL_CAP and MEAS_CAP with signature. -/
def execGetCapabilities (t : SpdmPath) (s : State) : Host.Outcome State Fault Refusal :=
  .next (spdmServe s t 0xE1 (some (leBytes 4 (2 + 4 + 16))))
/-- NEGOTIATE_ALGORITHMS: ECDSA P-384 and SHA-384, or nothing in common. -/
def execNegotiateAlgorithms (t : SpdmPath) (supported : Bool) (s : State) : Host.Outcome State Fault Refusal :=
  .next (spdmServe s t 0xE3 (if supported then some (leBytes 4 0x80 ++ leBytes 4 2) else none))
/-- GET_DIGESTS: the digest of the chain of slot 0. -/
def execGetDigests (t : SpdmPath) (s : State) : Host.Outcome State Fault Refusal :=
  .next (spdmServe s t 0x81 (some (padTo 48 (Config.sha384 (Config.certificate 0)))))
/-- GET_CERTIFICATE: a part of the chain of slot 0, the only slot. -/
def execGetCertificate (t : SpdmPath) (slot : BitVec 4) (offset len : BitVec 16) (s : State) : Host.Outcome State Fault Refusal :=
  .next (spdmServe s t 0x82 (if slot = 0 then some (((Config.certificate 0).drop offset.toNat).take len.toNat) else none))
/-- CHALLENGE: signed by the alias key. -/
def execChallenge (t : SpdmPath) (slot : BitVec 4) (nonce : BitVec 256) (s : State) : Host.Outcome State Fault Refusal :=
  let l := padTo 48 (Config.sha384 (Config.certificate 0))
  .next (spdmServe s t 0x83 (if slot = 0 then some (l ++ aliasSign s l nonce) else none))

/-- The value of a measurement block, with its type (1 firmware, 3 configuration, 4 manifest; 0x80 raw); none where absent. -/
def measBlock (s : State) (i : Nat) : Option (Nat × List Byte) :=
  let x := s.strong
  let loaded (c : Bool) (ty : Nat) (l : List Byte) : Option (Nat × List Byte) := if c then some (ty, l) else none
  if i = 1 then loaded (!x.fsHash.isEmpty) 1 x.fsHash
  else if i = 2 then loaded (decide (x.running ≠ 0)) 1 x.runHash
  else if 3 ≤ i ∧ i ≤ 9 then loaded (decide (s.nat (K.trlPatchVersion (i - 3)) ≠ 0)) 1 (s.eng (i - 3)).patchHash
  else if 10 ≤ i ∧ i ≤ 15 then loaded (decide (s.nat (K.trlCustomerVersion (i - 10)) ≠ 0)) 1 (s.eng (i - 10)).custHash
  else if i = 16 then some (3, (x.ledger.drop 0x60).take 48)
  else if i = 17 then some (4, x.ledgerHash)
  else if i = 18 then some (4, x.rt)
  else if i = 19 then some (0x83, leBytes 8 (s.nat K.srBootCounter))
  else if 20 ≤ i ∧ i ≤ 31 then (Sp.get s.sieve.progs (i - 16)).map fun p => (1, p.hash)
  else if 32 ≤ i ∧ i ≤ 88 then ((x.entries.filter fun e => e.kind == 7)[i - 32]?).map fun e => (3, e.digest)
  else none

/-- A block in DMTF form. -/
def blockBytes (i : Nat) (b : Nat × List Byte) : List Byte :=
  leBytes 1 i ++ leBytes 1 1 ++ leBytes 2 (b.2.length + 3) ++ leBytes 1 b.1 ++ leBytes 2 b.2.length ++ b.2

/-- The blocks that exist. -/
def allBlocks (s : State) : List Nat := (List.range 89).filter fun i => (measBlock s i).isSome

/-- GET_MEASUREMENTS (R419): the count, every block, or one; signed on request. -/
def execGetMeasurements (t : SpdmPath) (index : Byte) (sign : Bool) (nonce : BitVec 256) (s : State) :
    Host.Outcome State Fault Refusal :=
  let i := index.toNat
  let body : Option (List Byte) :=
    if i = 0 then some (leBytes 1 (allBlocks s).length)
    else if i = 0xFF then some ((allBlocks s).flatMap fun j => match measBlock s j with | some b => blockBytes j b | none => [])
    else (measBlock s i).map (blockBytes i)
  .next (spdmServe s t 0xE0 (body.map fun l => if sign then l ++ aliasSign s l nonce else l))

/-! ### Locking and crypto erase (R421-R423) -/

/-- A failed authentication: counted, with event 473; the number of the authority is not stated: free. -/
def authFailed (s : State) (method : Nat) : State := srEvent (s.drawn.inc K.srAuthFailCount) 473 [s.free.toNat % 2 ^ 32, method]

/-- Sources of an erase in event 475. -/
def EraseSource.code (e : EraseSource) : Nat := match e with
  | .genkey => 0 | .revert => 1 | .format _ => 2 | .sanitize _ => 3

/-- A crypto erase of a set of ranges begins (R423 steps 1 and 2): each range has a new key. -/
def beginErase (s : State) (l : List Nat) (src : EraseSource) : State :=
  let x := s.strong
  let (keys, n) := l.foldl (fun (acc : Vector Nat 17 × Nat) r => (upd acc.1 r acc.2, acc.2 + 1)) (x.keys, x.keySeq)
  let t := { s with strong := { x with keys := keys, keySeq := n, erase := some src } }
  t.setN K.srErasePending (l.foldl (fun m r => setBit m r true) (t.nat K.srErasePending))

/-- Every range. -/
def allRanges : List Nat := List.range 17

/-- An erase cannot begin now: one still runs, or Strongroom has failed and releases no key (R425). -/
def eraseHeld (s : State) : Bool := s.strong.erase.isSome || s.strong.failed

/-- GENKEY (R423). Method codes of event 473: 0 GenKey, 1 Revert, 2 RevertSP, 3 PSID revert, 4 lock change. An erase that still runs
lets no other begin. -/
def execGenkey (range : Fin 17) (auth : Bool) (s : State) : Host.Outcome State Fault Refusal :=
  .next (if !auth then authFailed s 0 else if eraseHeld s then s else beginErase s [range.val] .genkey)

/-- A revert: every range is erased and the Opal state is Manufactured-Inactive (R423). -/
def revertAll (s : State) (auth : Bool) (method : Nat) : State :=
  if !auth then authFailed s method
  else if eraseHeld s then s
  else
    let t := beginErase s allRanges .revert
    let t := { t with strong := { t.strong with ranges := Vector.replicate 17 {} } }
    ((t.setN K.srOpalState 0).setN K.srReadLocked 0).setN K.srWriteLocked 0

/-- REVERT (R423). -/
def execRevert (auth : Bool) (s : State) : Host.Outcome State Fault Refusal := .next (revertAll s auth 1)
/-- REVERTSP (R423). -/
def execRevertsp (auth : Bool) (s : State) : Host.Outcome State Fault Refusal := .next (revertAll s auth 2)
/-- PSID_REVERT (R423). -/
def execPsidRevert (auth : Bool) (s : State) : Host.Outcome State Fault Refusal := .next (revertAll s auth 3)

/-- OPAL_LOCK_CHANGE (R422). -/
def execOpalLockChange (range : Fin 17) (readLocked writeLocked : Bool) (auth : Bool) (s : State) :
    Host.Outcome State Fault Refusal :=
  .next (if !auth then authFailed s 4
    else (s.setBitOf K.srReadLocked range readLocked).setBitOf K.srWriteLocked range writeLocked)

/-- A range is locked in some direction. -/
def anyLocked (s : State) : Bool := s.nat K.srReadLocked != 0 || s.nat K.srWriteLocked != 0

/-- A crypto erase that a host command asks for (R423): the command completes with the erase. -/
def hostErase (s : State) (e : CmdEnt) (ok : Bool) (src : EraseSource) : State :=
  if !ok then complete raise s e.ref (stat 0 0x02) 0
  else if anyLocked s then complete raise s e.ref (stat 0 0x15) 0
  else if eraseHeld s then s
  else beginErase s allRanges src

/-- FORMAT_NVM (R423): SES 2 on NSID 1, 2 or all. -/
def execFormatNvm (c : CmdRef) (s : State) : Host.Outcome State Fault Refusal :=
  match activeEnt s.host.table (refOf c) true 0x80 with
  | none => .next s
  | some e =>
    if !([1, 2, 0xFFFFFFFF] : List Nat).contains e.sqe.nsid.toNat then
      .next (complete raise (violate raise s 11 0 e.sqe.cid.toNat e.sqe.nsid.toNat) e.ref (stat 0 0x0B) 0)
    else .next (hostErase s e (decide (bitsOf e.sqe.cdw10.toNat 9 3 = 2)) (.format e.ref))

/-- SANITIZE (R423): the crypto erase action, 4. -/
def execSanitize (c : CmdRef) (s : State) : Host.Outcome State Fault Refusal :=
  match activeEnt s.host.table (refOf c) true 0x84 with
  | none => .next s
  | some e => .next (hostErase s e (decide (bitsOf e.sqe.cdw10.toNat 0 3 = 4)) (.sanitize e.ref))

/-- The action of an accepted ERASE_DONE (R423 step 5): the originating command completes. -/
def eraseDoneAct (t : State) : State :=
    if t.nat K.srErasePending = 0 then t
    else
      let src := match t.strong.erase with | some x => x.code | none => t.free.toNat % 4
      let t' := ({ t.drawn with strong := { t.strong with erase := none } }).setN K.srErasePending 0
      let t' := srEvent t' 475 [t.nat K.srErasePending, src]
      match t.strong.erase with
      | some (.format c) => complete raise t' c 0 0
      | some (.sanitize c) => complete raise t' c 0 0
      | _ => t'

/-- ERASE_DONE (R423 step 5). -/
def execEraseDone (m : Master) (v : Word) (s : State) : Host.Outcome State Fault Refusal :=
  .next (kwrite s m K.srEraseDone v eraseDoneAct)

/-- SECP and SPSP of a security command. -/
def secProtocol (e : CmdEnt) : Nat × Nat := (bitsOf e.sqe.cdw10.toNat 24 8, bitsOf e.sqe.cdw10.toNat 8 16)

/-- A range as a payload's methods leave it: an extent that is no multiple of 65,536 blocks fails and changes nothing (R422). -/
def tcgRange (l : List Byte) (r : Nat) (x : LockRange) : LockRange :=
  let (a, n, lor) := Config.tcgRange l r (x.start, x.len, x.lockOnReset)
  if a % 65536 = 0 ∧ n % 65536 = 0 then { start := a, len := n, lockOnReset := lor } else x

/-- SECURITY_SEND (R421): TCG protocols 1 and 2 at the static ComID. The methods that the table gives rows of their own (keys,
reverts, locks) act through those rows. -/
def execSecuritySend (c : CmdRef) (payload : List Byte) (s : State) : Host.Outcome State Fault Refusal :=
  match activeEnt s.host.table (refOf c) true 0x81 with
  | none => .next s
  | some e =>
    let (p, com) := secProtocol e
    .next (if (p = 1 ∨ p = 2) ∧ com = 0x1000 then
        let ranges := Vector.ofFn fun (r : Fin 17) => tcgRange payload r (at' s.strong.ranges r {})
        let t := { s with strong := { s.strong with ranges := ranges } }
        let t := t.setN K.srOpalState (Config.tcgState payload (t.nat K.srOpalState) % 2)
        complete raise (t.setHost { t.host with tcg := Config.tcgAnswer payload }) e.ref 0 0
      else complete raise s e.ref (stat 0 0x02) 0)

/-- SECURITY_RECEIVE (R421): protocol 0 discovery, whose bytes are not printed: free; 1 and 2 the TCG response. -/
def execSecurityReceive (c : CmdRef) (s : State) : Host.Outcome State Fault Refusal :=
  match activeEnt s.host.table (refOf c) true 0x82 with
  | none => .next s
  | some e =>
    let (p, com) := secProtocol e
    let n := e.sqe.cdw11.toNat
    .next (if p = 0 then
        complete raise (returnData { s with freeCtr := s.freeCtr + n } e.ref (freeBytes s n)) e.ref 0 0
      else if (p = 1 ∨ p = 2) ∧ com = 0x1000 then complete raise (returnData s e.ref (s.host.tcg.take n)) e.ref 0 0
      else complete raise s e.ref (stat 0 0x02) 0)

/-! ### Faults (R425) -/

/-- The code of a fault. -/
def srFaultCode (c : SrFault) : Nat := match c with | .selfTest => 0 | .keyStore => 1 | .sram => 2

/-- STRONGROOM_FAULT (R425): to Safe in hardware; no key is released any more. A key store without a valid copy is event 477 too. -/
def execStrongroomFault (cause : SrFault) (s : State) : Host.Outcome State Fault Refusal :=
  let t := { s with strong := { s.strong with failed := true } }.setN K.srSrState 6
  let t := if cause = .keyStore then srEvent t.drawn 477 [t.free.toNat % 2, 0] else t
  .next (safeNow raise (srEvent t 478 [srFaultCode cause]) 478)

end Sys2Proof.Machine
end

