-- ==== Sys2Proof/Machine/Boot.lean ====
section
/-! DEFINITION. Resets and the entry to Boot (spec/20 R457, R458, R462, R472, R484; spec/18 R404-R409; spec/14 R343). -/

namespace Sys2Proof.Machine

/-! ### What a reset keeps -/

/-- Objects whose values are fused or kept in flash by Strongroom: no reset touches them (R394, R403, R408, R424). -/
def durableKey (k : Key) : Bool :=
  let i := k / 256
  let sub := k % 256
  (i == 0x1000 && (sub ≤ 5 || 8 ≤ sub)) || i == 0x1020 || (0xC000 ≤ i && i < 0xC700 && i % 256 == 0 && sub == 10)
    || (i == 0xC800 && sub ≤ 3) || k == K.srSigAlg || k == K.srFsFloor || k == K.srFwFloor || k == K.srOpalState
    || k == K.srErasePending || k == K.sivKeyHash || k == K.hostMacAddr

/-- Objects that a warm reset keeps (R394, R458): RW values, but for the requests that R462 sets and the locks that their owners'
power-down releases (R393); and what pd_aon holds: reset_cause, trip_count, the event framework. -/
def warmKey (k : Key) : Bool :=
  let i := k / 256
  let rw := match objRow i (k % 256) with
    | some r => r.acc == .rw
    | none => false
  (rw && i != 0xB100 && i != 0x1040) || k == K.pmResetCause || k == K.pmTripCount || (0xA000 ≤ i && i < 0xA040)

/-- What Strongroom keeps in flash and OTP (R403, R415, R422). -/
def keptStrong (x : Strong) : Strong :=
  { store := x.store, newest := x.newest, foldHash := x.foldHash, bootSelect := x.bootSelect, trialImage := x.trialImage,
    trialBoots := x.trialBoots, trialLeft := x.trialLeft, confirmed := x.confirmed, ranges := x.ranges, keys := x.keys,
    keySeq := x.keySeq, erase := x.erase }

/-- The event framework through a warm reset: pd_aon stays on, the Almanac's RAM does not (R458). -/
def keptEvents (v : EvState) : EvState :=
  { v with parts := Vector.replicate 3 {}, blank := Vector.replicate 20 none, safeReq := none, sealedRec := false }

/-- The machine after a reset: module flash, OTP and the fused variant stay, and after a warm reset what pd_aon keeps. -/
def afterReset (s : State) (warm : Bool) : State :=
  { pending := s.pending, variant := s.variant, freeCtr := s.freeCtr
    dict := s.dict.filter fun e => durableKey e.1 || (warm && warmKey e.1)
    blobs := s.blobs.filter fun e => durableKey e.1 || (warm && warmKey e.1)
    ev := if warm then keptEvents s.ev else { segs := s.ev.segs, nextSeg := s.ev.nextSeg }
    sun := if warm then { rev := s.sun.rev, frac := s.sun.frac, us := s.sun.us, leftInvalid := s.sun.leftInvalid } else {}
    sheaf := { slots := s.sheaf.slots }, flash := s.flash
    sieve := { store := s.sieve.store, versions := s.sieve.versions }
    strong := keptStrong s.strong }

/-- Readable values that follow from the RW values a warm reset keeps (R335, R359, R463). -/
def followKept (s : State) : State :=
  let t := s.setN K.poolReserveTotal ((reserves s).foldl (fun n r => n + r.2) 0)
  let t := t.setN K.memScratchBytes (t.nat K.memScratchWays * 262144)
  regovern raiseBase (t.setN K.pmEnvelopeNowMw (envelopeOf t))

/-- Every lock entry is released as its owner's domain goes off (R393). -/
def dropLocks (s : State) : State := (List.range 17).foldl (fun t m => releaseLocks raise t m 0) s

/-- A warm reset with its cause of reset_cause: 2 power loss, 3 thermal trip, 4 Safe restart (R458, R472). -/
def warmReset (s : State) (cause ms : Nat) : State :=
  let mask := s.power.trip.getD 0
  let t := followKept ((afterReset (dropLocks s) true).setN K.pmResetCause cause)
  let t := t.on (decide (cause = 3)) fun u => u.inc K.pmTripCount
  { t with power := { t.power with resetEvent := true, tripCause := if cause = 3 then mask else 0,
                                   tripMs := if cause = 3 then ms else 0 } }

/-- No flush runs. -/
def flushIdle (s : State) : Bool := s.sheaf.flush.isNone

/-- POWER_ON_RESET (R458, R484): RW objects take their defaults, the microsecond counter starts again. -/
def execPowerOnReset (byRstL : Bool) (s : State) : Host.Outcome State Fault Refusal :=
  .next ((afterReset s false).setN K.pmResetCause (b2n byRstL))

/-- WARM_RESET (R458): each cause under its own condition: step 8 of R311 for the power loss, the trip's recovery, safe_restart; all
wait for a flush in progress. -/
def execWarmReset (cause : WarmCause) (s : State) : Host.Outcome State Fault Refusal :=
  .next (match cause with
    | .powerLoss => if s.power.loss && sequenceDone s && flushIdle s then warmReset s 2 0 else s
    | .thermalTrip => if s.power.trip.isSome && flushIdle s then warmReset s 3 (s.elapsed s.power.tripSince / 1000) else s
    | .safeRestart => if s.nat K.pmMode = 5 ∧ s.power.restart ∧ flushIdle s then warmReset s 4 0 else s)

/-- The action of an accepted SAFE_RESTART (R456): a flush in progress is waited for. -/
def safeRestartAct (t : State) : State :=
    if flushIdle t then warmReset t 4 0 else { t with power := { t.power with restart := true } }

/-- SAFE_RESTART (R456). -/
def execSafeRestart (m : Master) (v : Word) (s : State) : Host.Outcome State Fault Refusal :=
  .next (kwrite s m K.pmSafeRestart v safeRestartAct)

/-- TRIP_RECOVERY (R472). -/
def execTripRecovery (ms : BitVec 32) (s : State) : Host.Outcome State Fault Refusal :=
  .next (if s.power.trip.isSome && flushIdle s then warmReset s 3 ms.toNat else s)

/-! ### Checkers (R343) -/

/-- A checker passed or failed its self-test; a failure raises event 411, whose pattern is not known to the model: free. -/
def checkerResult (s : State) (b : Nat) (ok : Bool) : State :=
  if ok && !s.eccFailed b then s.setBitOf K.memSelftestResult b true
  else
    let t := { s with memory := { s.memory with failedChk := Sp.put s.memory.failedChk b () } }.setBitOf K.memSelftestResult b false
    let t := memEventFree t.drawn 411 [t.nat K.memSelftestResult, t.free.toNat % 2 ^ 32] 0
    if b = 0 then safeNow raise (t.setN K.memCellarState 5) 411
    else if b = 1 ∨ b = 2 then (((t.setB K.memLlcDegraded true).setB K.memCacheEnable false).setN K.memScratchWays 0).setN K.memScratchBytes 0
    else if b = 7 then raise (t.setB K.poolPantryDegraded true) 440 [t.nat K.memSelftestResult] {}
    else t

/-- Checkers of units that the variant does not have: their bits read 1. -/
def absentCheckers (v : Variant) : List Nat :=
  ([1, 2, 3].filter fun q => !hasSlot v q).map (8 + ·) ++ if hasSieve v then [] else [12]

/-! ### The boot chain (R404-R409) -/

/-- Whether an image of a slot passes R405 but for the floor, its version and its hash. -/
def bootImage (i : BootIn) (slot : Nat) : Bool × Nat × List Byte :=
  if slot = 1 then (i.imgA, i.verA.toNat, i.hashA) else (i.imgB, i.verB.toNat, i.hashB)

/-- The candidate list of R406 with the record as it stands once the list is formed, and whether a trial was exhausted. -/
def bootList (x : Strong) : Strong × List Nat × Bool :=
  if x.trialImage ≠ 0 ∧ 0 < x.trialLeft then
    ({ x with trialLeft := x.trialLeft - 1 }, [x.trialImage, x.confirmed], false)
  else if x.trialImage ≠ 0 then ({ x with trialImage := 0 }, [x.confirmed], true)
  else (x, [x.bootSelect, 3 - x.bootSelect], false)

/-- Tries the candidates in order: the slot that boots, whether the first that was refused was below the floor, and the events of the
rejected ones (R405, R425). Which check an image fails is not known to the model: free. -/
def tryImages (s : State) (i : BootIn) (l : List Nat) : State × Option Nat × Option Bool :=
  match l with
  | [] => (s, none, none)
  | slot :: rest =>
    let (ok, ver, _) := bootImage i slot
    if !ok then
      let (t, r, _) := tryImages (srEvent (s.drawn.inc K.srImageRejectCount) 465 [slot, s.free.toNat % 2 ^ 8]) i rest
      (t, r, some false)
    else if ver < s.nat K.srFwFloor then
      let (t, r, _) := tryImages (srEvent s 466 [slot, ver, s.nat K.srFwFloor]) i rest
      (t, r, some true)
    else (s, some slot, none)

/-- The readable version of an image: unusable where it fails a check or lies below the floor (R408, R424). -/
def shownVersion (s : State) (i : BootIn) (slot : Nat) : Nat :=
  let (ok, ver, _) := bootImage i slot
  if ok && decide (s.nat K.srFwFloor ≤ ver) then ver else 0xFFFFFFFF

/-- No image: nothing is released, and FAULT_L is held low (R404, R438). -/
def noImage (s : State) : State := s.setN K.srSrState 5

/-- A domain that the sequence of R462 brings up. -/
def bringUp (s : State) (d : Nat) : State := (domainGo s d 1).setN (K.pmDomainRequest d) 1

/-- The image is in the Cellar, the alias key is derived, and CTL[0] released with its domains (steps 4 and 5 of R404). -/
def releaseCore (s : State) (i : BootIn) (slot : Nat) : State :=
  let (_, ver, hash) := bootImage i slot
  let x := s.strong
  let t := { s with strong := { x with running := slot, runVersion := ver, runHash := hash,
                                       aliasKey := Config.aliasKey x.fsHash x.fsVersion hash ver slot } }
  let t := measure (loadImage t slot) { kind := 2, index := 0, flags := 1, version := ver, component := 0, digest := hash }
  let t := ((t.setN K.idnFwVersion ver).setN K.idnFwImage slot).setN K.srSrState 2
  [4, 8, 9].foldl bringUp t

/-- Persistent programs are checked and loaded into their slots again (R367). -/
def reloadPrograms (s : State) : State :=
  s.sieve.store.foldl (fun t p => match rejectCause t p.1 p.2 with
    | some cause => rejectProgram t p.1 cause
    | none => acceptProgram t p.1 p.2) s

/-- Steps 3 to 5 of R404: the image is chosen and released. -/
def chooseImage (s : State) (i : BootIn) : State :=
  let (x, l, exhausted) := bootList s.strong
  let t := showRecord { s with strong := x }
  let t := (t.setN K.srImageAVersion (shownVersion t i 1)).setN K.srImageBVersion (shownVersion t i 2)
  match tryImages t i l with
  | (t, none, _) => noImage t
  | (t, some slot, refused) =>
    let fallback := exhausted || refused.isSome
    let trial := x.trialImage == slot
    let t := t.setN K.srBootFlags (b2n fallback + 2 * b2n trial)
    let t := if fallback then
        srEvent (t.inc K.srFallbackCount) 464 [slot, if exhausted then 0 else if refused = some true then 2 else 1]
      else t
    releaseCore t i slot

/-- A copy of the first stage is rejected: which check it fails is not an operand, free. -/
def rejectStage (s : State) : State := srEvent (s.drawn.inc K.srImageRejectCount) 465 [0, s.free.toNat % 2 ^ 8]

/-- The first stage (step 2 of R404): a copy that fails is rejected with event 465. -/
def firstStage (s : State) (i : BootIn) : State :=
  let t := if i.fs0 then s else rejectStage s
  let t := if i.fs0 || i.fs1 then t else rejectStage t
  if !(i.fs0 || i.fs1) then noImage t
  else
    let ver := i.fsVersion.toNat
    let t := { t with strong := { t.strong with fsVersion := ver, fsHash := i.fsHash } }.setN K.srSrState 1
    chooseImage (measure t { kind := 1, index := 0, flags := 1, version := ver, component := 0, digest := i.fsHash }) i

/-- Locks at reset: ranges with LockOnReset are locked while the Locking SP is active (R422). -/
def lockRanges (s : State) : State :=
  if s.nat K.srOpalState = 0 then s
  else
    let mask := (List.range 17).foldl (fun n r => if (at' s.strong.ranges r {}).lockOnReset then setBit n r true else n) 0
    (s.setN K.srReadLocked mask).setN K.srWriteLocked mask

/-- The boot counter: one more than the newest stored ledger's (R412). -/
def nextBoot (s : State) : Nat := match s.strong.newest with
  | some n => (match Sp.get s.strong.store n with | some x => x.boot + 1 | none => 1)
  | none => 1

/-- Rows 1 to 3 of R462. -/
def earlyDomains : List Nat := [1, 2, 3, 14, 16, 10, 11, 12, 13, 21, 22, 23, 24]

/-- The start of Boot: the records of the reset, the domains of rows 1 to 3, the self-tests, the fill (R404, R441, R458, R462, R472). -/
def bootStart (s : State) (i : BootIn) : State :=
  let t := { s with memory := { s.memory with tested := [], failedChk := [] } }
  let t := (List.range 52).foldl (fun u d => u.setN (K.pmDomainRequest d) 0) t
  let t := earlyDomains.foldl (fun u d => u.setN (K.pmDomainState d) 3 |>.setN (K.pmDomainRequest d) 1) t
  let t := sysRecord t 0x200 [t.nat K.idnRomVersion, t.nat K.idnSiliconStep, t.nat K.pmResetCause]
  let t := if s.power.resetEvent then modeEvent raise t 5 [t.nat K.pmResetCause] else t
  let t := if s.power.resetEvent && t.nat K.pmResetCause == 3 then modeEvent raise t 35 [s.power.tripCause, s.power.tripMs] else t
  let t := { t with power := { t.power with resetEvent := false } }
  let t := (List.range 8).foldl (fun u c => if i.comparators.getLsbD c then u else modeEvent raise u 42 [c]) t
  let t := (t.setN K.memSelftestUs (t.free.toNat % 5001)).drawn
  let t := (absentCheckers t.variant).foldl (fun u b => u.setBitOf K.memSelftestResult b true) t
  let t := [0, 3, 4, 5, 6, 7].foldl (fun u b => checkerResult u b (i.checkers.getLsbD b)) t
  let t := if t.eccFailed 0 then t
    else { t.setN K.memCellarState 2 with memory := { t.memory with fillSince := t.now } }.setN K.memFillPointer cellarBase
  (t.setN K.srBootCounter (nextBoot t))

/-- BOOT_ENTRY (R404, R462): after a reset, before Strongroom has left its ROM. -/
def execBootEntry (i : BootIn) (s : State) : Host.Outcome State Fault Refusal :=
  if s.nat K.pmMode ≠ 0 ∨ s.nat K.srSrState ≠ 0 ∨ s.power.loss = true then .next s
  else
    let t := lockRanges (bootStart s i)
    let t := showStore (showRecord (t.on (decide (t.nat K.srErasePending ≠ 0)) fun u => srEvent u 476 [u.nat K.srErasePending]))
    let t := if t.variant = .xe ∨ t.variant = .xp then
        (List.range 4).foldl (fun u j => u.setN (K.sivProgramSlot j) 9) t else t
    let t := firstStage t i
    .next (if t.nat K.srSrState = 2 then reloadPrograms t else t)

end Sys2Proof.Machine
end

