-- ==== Sys2Proof/Machine/Events.lean ====
section
/-! DEFINITION. The commands of the event framework and the Almanac (spec/19): block resets and blanking, FAULT_L, clearing and
configuring status, injection, records, windows, persistence. -/

namespace Sys2Proof.Machine

/-- The faults whose detection no other command carries: of pd_nvme (364 by its table memory check, 365), of pd_eth_offload (392) and of a
Sieve engine (459), each of the unit that it resets (spec/12 R299, spec/16 R379). -/
def unitFault (u e : Nat) : Bool := (u == 10 && (e == 364 || e == 365)) || (u == 11 && e == 392) || (decide (12 ≤ u) && e == 459)

/-- The detection of such a fault: what its capture holds beside the cause and the engine is not among the operands, free values (log 60). -/
def faultDetected (s : State) (u e : Nat) : State :=
  let x (i : Nat) : Nat := (Config.freeValue (s.freeCtr + i)).toNat % 2 ^ 32
  let items := if e = 364 then [0, x 1 % 1024] else if e = 459 then [u - 12, x 1, x 2] else if e = 392 then [x 0, x 1] else [x 0, x 1, x 2]
  if unitFault u e then raiseBase { s with freeCtr := s.freeCtr + 3 } e items (if e = 459 then { engine := some (u - 12) } else {}) else s

/-- BLOCK_RESET (R435-R437). -/
def execBlockReset (u : Fin 20) (cause : Fin 512) (s : State) : Host.Outcome State Fault Refusal :=
  .next (blockReset (faultDetected s u cause) u cause)

/-- What an occurrence of a unit's dependent event may concern: a slot of it, slot A first, its engine, or the deep decoder. -/
def unitOccs (u : Nat) : List Occ :=
  if u < 4 then [{ slot := some u }]
  else if u < 6 then (slotsOf (u - 4)).map fun q => { slot := some q }
  else if u = 8 ∨ u = 9 then (slotsOf (u - 8)).map fun q => { slot := some q }
  else if 12 ≤ u then [{ engine := some (u - 12) }]
  else [{ deep := decide (u = 6) }]

/-- BLANKING_END (R436): sources whose condition still holds are raised again, in ascending event number. -/
def execBlankingEnd (u : Fin 20) (still : List (Fin 512)) (s : State) : Host.Outcome State Fault Refusal :=
  match at' s.ev.blank u none with
  | none => .next s
  | some _ =>
    let t := { s with ev := { s.ev with blank := upd s.ev.blank u none } }
    let slots := if u.val < 4 then [u.val] else if u.val < 6 then slotsOf (u.val - 4) else []
    let t := slots.foldl (fun x q => if (at' x.ev.blank q none).isSome || (at' x.ev.blank (4 + q / 2) none).isSome then x
      else x.setCh q { x.ch q with inReset := false }) t
    .next ((List.range 512).foldl (fun x e =>
      if still.any (fun f => f.val == e) then
        (match (unitOccs u).find? (dependentRaw u e ·) with | some occ => raise x e [] occ | none => x)
      else x) t)

/-- FAULT_PULSE_END (R438). -/
def execFaultPulseEnd (s : State) : Host.Outcome State Fault Refusal :=
  .next { s with ev := { s.ev with pulse := false } }

/-- FAULT_HOLD_WRITE (R438). -/
def execFaultHoldWrite (m : Master) (v : Word) (s : State) : Host.Outcome State Fault Refusal :=
  .next (kwrite s m K.evtFaultHold v id)

/-- Changes a status block. -/
def setBlk (s : State) (b : Nat) (x : StatBlk) : State := { s with ev := { s.ev with blks := upd s.ev.blks b x } }

/-- The action of an accepted LATCHED_CLEAR (R428, R429): the bits written 1 leave latched, pending and conseq; a block of 32
sources or fewer has no high word. -/
def latchedClearAct (blk : Nat) (hi : Bool) (v : Word) (t : State) : State :=
    let x := t.ev.blk blk
    let bits : BitVec 64 := BitVec.ofNat 64 (v.toNat % 2 ^ 32)
    let c := if hi then bits <<< 32 else bits
    setBlk t blk { x with latched := x.latched &&& ~~~c, pending := x.pending &&& ~~~c, conseq := x.conseq &&& ~~~c }

/-- LATCHED_CLEAR (R428, R429). -/
def execLatchedClear (m : Master) (blk : Fin 20) (hi : Bool) (v : Word) (s : State) : Host.Outcome State Fault Refusal :=
  .next (kwrite s m (if hi then K.statLatchedHi blk else K.statLatchedLo blk) v (latchedClearAct blk hi v))

/-- A block as after a release (R434). -/
def StatBlk.released (x : StatBlk) : StatBlk := { x with capture := none, missed := 0, first := none, overflow := false }

/-- The action of an accepted CAPTURE_RELEASE (R434). -/
def captureReleaseAct (blk : Nat) (t : State) : State :=
  setBlk t blk (t.ev.blk blk).released

/-- CAPTURE_RELEASE (R434). -/
def execCaptureRelease (m : Master) (blk : Fin 20) (v : Word) (s : State) : Host.Outcome State Fault Refusal :=
  .next (kwrite s m (K.statCaptureRelease blk) v (captureReleaseAct blk))

/-- The action of an accepted CAPTURE_MODE_WRITE (R432): every block is armed as after a release. -/
def captureModeWriteAct (t : State) : State :=
  { t with ev := { t.ev with blks := t.ev.blks.map StatBlk.released } }

/-- CAPTURE_MODE_WRITE (R432). -/
def execCaptureModeWrite (m : Master) (v : Word) (s : State) : Host.Outcome State Fault Refusal :=
  .next (kwrite s m K.evtCaptureMode v captureModeWriteAct)

/-- EVENT_CFG_WRITE (R430). -/
def execEventCfgWrite (m : Master) (e : Fin 512) (v : Word) (s : State) : Host.Outcome State Fault Refusal :=
  .next (kwrite s m (K.evtEventCfg e) v id)

/-- The action of an accepted INJECT_GO (R439): the event is raised as if detected, its detector's own actions apart, and event
496 with it. The engine or slot of its capture is the injected item, where its capture has one. -/
def injectGoAct (m : Nat) (t : State) : State :=
    let e := t.nat K.injInjectEvent
    let ps := (List.range 3).map fun i => t.nat (K.injInjectParam i)
    let named : Occ := if inRange e 450 459 && !inRange e 454 455 && !inRange e 457 458 then { engine := some (ps.headD 0) }
      else if 96 ≤ e ∧ e < 224 ∧ (e - 96) % 64 = 23 then { slot := some (ps.headD 0) } else {}
    raise (raise t e ps { named with master := 0, injected := true }) 496 [e, m] {}

/-- INJECT_GO (R439). -/
def execInjectGo (m : Master) (v : Word) (s : State) : Host.Outcome State Fault Refusal :=
  .next (kwrite s m K.injInjectGo v (injectGoAct m))

/-- ALMANAC_RECORD_WRITE (R440, R442-R444): the oldest queued record of a partition is written, and a gap record that was owed
is queued. -/
def execAlmanacRecordWrite (p : Fin 3) (s : State) : Host.Outcome State Fault Refusal :=
  let x := s.ev.part p
  match x.ingress with
  | [] => .next s
  | r :: rest =>
    let y := { x with ingress := rest, recs := x.recs ++ [r] }
    .next (queueGap { s with ev := s.ev.setPart p y } p)

/-- The action of an accepted FW_WRITE (R441). -/
def fwWriteAct (m : Nat) (t : State) : State :=
    fwRecord t m (t.nat K.fwrFwPartition) (t.nat K.fwrFwCode) ((List.range 3).map fun i => t.nat (K.fwrFwParam i))

/-- FW_WRITE (R441). -/
def execFwWrite (m : Master) (v : Word) (s : State) : Host.Outcome State Fault Refusal :=
  .next (kwrite s m K.fwrFwWrite v (fwWriteAct m))

/-- A read of window3 has advanced the cursor of a partition, unless it equals next (R445); invalid records that follow are skipped
(R449). -/
def windowAdvance (s : State) (p : Nat) : State :=
  let x := s.ev.part p
  if x.cursor = x.next then s
  else
    let past := x.recs.drop ((x.cursor + 2 ^ 24 - x.oldest) % 2 ^ 24 + 1)
    { s with ev := s.ev.setPart p { x with cursor := (x.cursor + 1 + (past.takeWhile (!·.valid)).length) % 2 ^ 24 } }

/-- The record at the cursor of a partition has an uncorrectable error: it reads as invalid, and event 484 is raised where it was valid
(R449). -/
def recordBad (s : State) (p : Nat) : State :=
  let x := s.ev.part p
  let n := (x.cursor + 2 ^ 24 - x.oldest) % 2 ^ 24
  match x.recs[n]? with
  | some r =>
    if r.valid then raise { s with ev := s.ev.setPart p { x with recs := x.recs.set n { r with valid := false } } } 484 [p, x.cursor] {} else s
  | none => s

/-- WINDOW3_READ (R445): the word is delivered to the master. -/
def execWindow3Read (m : Master) (p : Fin 3) (bad : Bool) (s : State) : Host.Outcome State Fault Refusal :=
  let s := if bad then recordBad s p else s
  let t := (recordStatus s m (0xA040 + p) 4 .ok).deliver m (BitVec.ofNat 64 (windowWord (s.ev.part p) 3))
  .next (windowAdvance t p)

/-- The action of an accepted CURSOR_WRITE (R445). -/
def cursorWriteAct (p : Nat) (v : Word) (t : State) : State :=
    { t with ev := t.ev.setPart p { t.ev.part p with cursor := v.toNat % 2 ^ 24 } }

/-- CURSOR_WRITE (R445). -/
def execCursorWrite (m : Master) (p : Fin 3) (v : Word) (s : State) : Host.Outcome State Fault Refusal :=
  .next (kwrite s m (K.almCursor p) v (cursorWriteAct p v))

/-- The action of an accepted PARTITION_RELEASE (R445): every record below cursor is freed and full falls; a gap record owed
stands first. -/
def partitionReleaseAct (p : Nat) (t : State) : State :=
    let x := t.ev.part p
    let n := (x.cursor + 2 ^ 24 - x.oldest) % 2 ^ 24
    queueGap { t with ev := t.ev.setPart p { x with recs := x.recs.drop n, oldest := x.cursor, full := false } } p

/-- PARTITION_RELEASE (R445). -/
def execPartitionRelease (m : Master) (p : Fin 3) (v : Word) (s : State) : Host.Outcome State Fault Refusal :=
  .next (kwrite s m (K.almRelease p) v (partitionReleaseAct p))

/-- The action of an accepted PERSIST_GO (R446). -/
def persistGoAct (p : Nat) (t : State) : State :=
  t.setN (K.almPersistState p) 1

/-- PERSIST_GO (R446). -/
def execPersistGo (m : Master) (p : Fin 3) (v : Word) (s : State) : Host.Outcome State Fault Refusal :=
  .next (kwrite s m (K.almPersistGo p) v (persistGoAct p))

/-- PERSIST_END (R446): a successful copy is the newest segment, in the next slot of the rotation. -/
def execPersistEnd (p : Fin 3) (ok : Bool) (flashAddr : BitVec 32) (s : State) : Host.Outcome State Fault Refusal :=
  if s.nat (K.almPersistState p) ≠ 1 then .next s
  else if ok then
    let x := s.ev.part p
    let slot := s.ev.nextSeg % 1024
    let seg := segmentBytes p x (s.nat K.srBootCounter) s.now (s.ev.nextSeg + 1)
    let t := { s with ev := { s.ev with segs := Sp.put s.ev.segs slot seg, nextSeg := s.ev.nextSeg + 1 } }
    let t := (t.setN (K.almPersistState p) 2).setN (K.almPersistSlot p) slot
    .next (raise t 482 [p.val, slot, x.recs.length] {})
  else .next (raise (s.setN (K.almPersistState p) 3) 483 [p.val, 0, flashAddr.toNat] {})

end Sys2Proof.Machine
end

