-- ==== Sys2Proof/Machine/LinkCmds.lean ====
section
/-! DEFINITION. The head-stack link's commands (spec/06): transactions and their answers, initialisation, faults and polls,
assist, register access. -/

namespace Sys2Proof.Machine

/-- Raises a link event of a slot: its items, then the head and the rate ring (R147). -/
def linkEvent (s : State) (q k : Nat) (items : List Nat) : State :=
  raise s (slotEv q k) (items ++ [(s.srv q).head, s.nat (K.slotSlotRing q)]) { slot := some q }

/-- link_error of an actuator: causes 0 timeout, 1 CRC, 2 stop bit, 3 down, 4 identity (R135, R136, R147). -/
def linkError (s : State) (a cause : Nat) (r : LinkReq) : State := linkEvent s (2 * a) 239 [cause, r.cmd, r.addr]

/-- A request of no slot. -/
def plainReq (cls cmd head addr data : Nat) (who : LinkWho) : LinkReq :=
  { cls := cls, cmd := cmd, head := head, addr := addr, data := data, who := who }

/-- The next transaction of a running initialisation (R136): SAFE, 64 NOPs, READ ID, READ CAPS. -/
def initStep (s : State) (a n : Nat) : State :=
  let t := s.setLink a { s.link a with init := n }
  linkPost t a (if n = 1 then plainReq 0 5 15 0 0 .init else if n < 66 then plainReq 0 0 15 0 0 .init
    else plainReq 0 1 15 (n - 66) 0 .init)

/-- Initialisation ends in failure with a link_error cause (R136). -/
def initFail (s : State) (a cause : Nat) (r : LinkReq) : State :=
  linkError ((s.setN (K.lnkLinkState a) 4).setLink a { s.link a with init := 0 }) a cause r

/-- The conditions of R136 on ID and CAPS. -/
def identityOk (s : State) (a : Nat) : Bool :=
  let caps := s.nat (K.lnkPreampCaps a)
  bitsOf (s.nat (K.lnkPreampId a)) 0 8 == 1 && decide (Config.headsUsed a ≤ bitsOf caps 0 4 + 1) && bitAt caps 6
    && bitsOf caps 4 2 == s.cfg (K.lnkAssistKind a)

/-- A transaction of the initialisation has been answered: code 0b10 on a READ fails the identity (R136). -/
def initAnswer (s : State) (a : Nat) (r : LinkReq) (code data : Nat) : State :=
  let n := (s.link a).init
  if n = 0 then s
  else if n < 65 then initStep s a (n + 1)
  else if n = 65 then
    -- the calibrated delay of HS_DI is a value the spec does not give
    let t := (s.setN (K.lnkDiDelayPs a) (s.free.toNat % 65536)).drawn
    initStep t a 66
  else if code = 2 then initFail s a 4 r
  else if n = 66 then initStep (s.setN (K.lnkPreampId a) data) a 67
  else
    let t := s.setN (K.lnkPreampCaps a) data
    if identityOk t a then (t.setN (K.lnkLinkState a) 2).setLink a { t.link a with init := 0 } else initFail t a 4 r

/-- The last values written to a head that leave the preamp at 0 in its safe state (R133). -/
def forgetHead (w : Sp Nat) (h : Nat) : Sp Nat :=
  [0x14, 0x15, 0x16].foldl (fun m k => Sp.put m (h * 256 + k) 0) w

/-- Sectors marked by an assist monitor fault are no longer written (R141); the gate closes and the descriptor ends. -/
def monitorFault (s : State) (q : Nat) : State :=
  let a := q / 2
  let w := s.wr q
  if !w.runOpen then s.setWr q { w with confirmed := false }
  else
    let lk := s.link a
    let cell (k : Nat) : Nat := (Sp.get lk.written (w.assistHead * 256 + k)).getD 0
    let window := if gateOpen s q then cell 0x17 + cell 0x18 * 2 ^ 12 else cell 0x19 + cell 0x1A * 2 ^ 12
    let marked := w.sinceConfirm + b2n w.gate.isSome
    let value := s.free.toNat % 4096
    let t := s.drawn.setWr q { w with confirmed := false, written := w.written - w.sinceConfirm, sinceConfirm := 0 }
    let t := t.inc (K.lnkMonitorFaultCount a)
    let t := linkEvent t q 235 [value, window, marked]
    let t := endPart raise t q 3
    assistOff t q 1

/-- The stop bit of a SAFE that keeps the clock running (R133): every assist of the actuator is off and its grants end; a slot within its
run loses its monitor bit (R141, R143); SLOT_SEL is written again, and heater and assist values count as 0. -/
def safeDone (s : State) (a : Nat) (asked : Option Nat) : State :=
  let t := (slotsOf a).foldl (fun u q =>
    let u := if asked ≠ some q ∧ (u.wr q).runOpen = true then monitorFault u q else u
    if (u.wr q).assist = .off ∧ (at' u.grants q none).isNone then u else assistEnded u q) s
  let l := t.link a
  let t := t.setLink a { l with preampSafe := true
                                written := forgetHead (forgetHead l.written (bitsOf l.sel 0 4)) (bitsOf l.sel 4 4) }
  linkPost t a (plainReq 1 2 15 2 (t.link a).sel .seq)

/-- The stop bit of a request's first transaction: a SAFE acts there, whatever its answer (R142, R143; log 49). -/
def safeStopBit (s : State) (a : Nat) (r : LinkReq) : State :=
  if r.who = .safeKeep ∧ r.tries = 0 then safeDone s a r.slot else s

/-- A late pre-bias (R140): ASSIST_OFF, the grant released, the sector and later ones moved. Causes 0 late arm, 1 not confirmed. -/
def prebiasLate (s : State) (q cause lateness : Nat) : State :=
  let t := (deferPart s q).inc (K.lnkPrebiasLateCount (q / 2))
  assistOff (linkEvent t q 236 [cause, lateness]) q 1

/-- A scheduled command of a slot could not be sent in time (R135): its sector is deferred as for a late pre-bias; the sector of a read
descriptor moves. -/
def sectorDeferred (s : State) (q : Nat) : State :=
  if (s.wr q).active then prebiasLate s q 0 0
  else match (s.ch q).desc with
    | some d => if d.write then s else s.setCh q { s.ch q with moved := (s.ch q).moved + 1 }
    | none => s

/-- A WRITE has been executed by the preamp (R130-R132). -/
def linkWritten (s : State) (a : Nat) (r : LinkReq) : State :=
  let l := s.link a
  let l := { l with written := Sp.put l.written (r.head * 256 + r.addr) r.data }
  s.setLink a (if r.addr = 2 ∧ r.head = 15 then { l with sel := r.data, preampSafe := false } else l)

/-- head_temp of a poll (R145): raised above the limit, and again only after a fall of 2 °C below it. -/
def headTemp (s : State) (a h data : Nat) : State :=
  let x := sgn 16 data
  let lim := s.cfgI (K.lnkHeadTempMaxC a) * 16
  let l := s.link a
  let t := s.setI (K.lnkHeadTemp a h) x
  let q := if bitAt l.sel 8 && bitsOf l.sel 4 4 == h then 2 * a + 1 else 2 * a
  if lim < x then
    if l.hot.toNat.testBit h then t
    else linkEvent (t.setLink a { l with hot := l.hot ||| ((1 : BitVec 12) <<< h) }) q 237 [data, (lim % 65536).toNat]
  else if x ≤ lim - 32 then t.setLink a { l with hot := l.hot &&& ~~~((1 : BitVec 12) <<< h) }
  else t

/-- preamp_fault (R137, R145); the cause "heater" is told from a STATUS by bit 16. -/
def preampFault (s : State) (a what gates : Nat) : State :=
  linkEvent (s.inc (K.lnkPreampFaultCount a)) (2 * a) 238 [what, gates]

/-- The READ of STATUS after a fall of HS_FLT_L has ended: preamp_fault with the STATUS last read (R137). -/
def faultReported (s : State) (a : Nat) : State :=
  preampFault (s.setLink a { s.link a with fltWait := false }) a (s.nat (K.lnkPreampStatus a)) (s.link a).fltGates

/-- The READ of STATUS went with the stop of HS_CK: preamp_fault is raised without it (R137). -/
def faultTick (s : State) (a : Nat) : State := if (s.link a).fltWait && !(s.link a).clock then faultReported s a else s

/-- HEATER_STATE of a poll (R145). -/
def heaterState (s : State) (a h data : Nat) : State :=
  let set := (Sp.get (s.link a).written (h * 256 + 0x14)).getD 0
  if bitAt data 15 || bitsOf data 0 10 != bitsOf set 0 10 then preampFault s a (2 ^ 16) (gatesMask s) else s

/-- What an executed transaction does at its requester (R135, R137, R143, R145, R146). -/
def linkDone (s : State) (a : Nat) (r : LinkReq) (data : Nat) : State :=
  let s := if r.cmd = 2 then linkWritten s a r else s
  -- preamp_status is STATUS at the last read, whoever reads it (R146)
  let s := if r.cmd = 1 ∧ r.head = 15 ∧ r.addr = 3 then s.setN (K.lnkPreampStatus a) data else s
  match r.who with
  | .init => initAnswer s a r 0 data
  | .status => faultReported s a
  | .poll =>
    if r.cmd ≠ 1 then s
    else if r.addr = 0x1C then headTemp s a r.head data
    else if r.addr = 0x1D then heaterState s a r.head data
    else if r.addr = 5 ∧ r.head = 15 then s.setI (K.lnkPreampTemp a) (sgn 16 data)
    else s
  | .regOp =>
    let t := if r.cmd = 1 then s.setN (K.lnkRegData a) data else s
    t.setN (K.lnkRegResult a) 2
  | .safeKeep => s
  | .safeStop => s
  | .monitor => s
  | .degradedNop => s
  | .seq => match r.slot with
    | none => s
    | some q =>
      if r.cmd = 3 ∧ (s.wr q).assist = .armed then s.setWr q { s.wr q with assist := .prebias }
      else if r.cmd = 4 then assistEnded s q
      else s

/-- A request that ends with code 0b10: no link failure, reported to the requester (R135, R136). The grant of a slot ends with its
ASSIST_OFF's stop bit all the same (R142); a READ of STATUS raises preamp_fault with the STATUS last read (R137). -/
def linkRejected (s : State) (a : Nat) (r : LinkReq) : State := match r.who with
  | .init => initAnswer s a r 2 0
  | .regOp => s.setN (K.lnkRegResult a) 3
  | .status => faultReported s a
  | .seq => match r.slot with
    | some q => if r.cmd = 4 then assistEnded s q else s
    | none => s
  | .safeKeep | .safeStop | .monitor | .degradedNop | .poll => s

/-- A transaction that still fails (R135): link_error once, then what its requester does about it. -/
def linkGaveUp (s : State) (a : Nat) (r : LinkReq) (cause : Nat) : State :=
  if r.who = .init then initFail s a cause r
  else
    let t := linkError s a cause r
    match r.who with
    | .regOp => t.setN (K.lnkRegResult a) 4
    | .status => faultReported t a
    | .seq => match r.slot with
      | none => t
      | some q => if r.cmd = 4 then linkPost t a (safeReq q) else sectorDeferred t q
    | .safeKeep | .safeStop | .monitor | .degradedNop | .poll | .init => t

/-- A scheduled command with a due angle, whose repeat would end after it (R134, R135). -/
def scheduled (r : LinkReq) : Bool := r.due.isSome

/-- While link_degraded is 1 the controller keeps sending NOPs (R135). -/
def degradedNops (s : State) (a : Nat) : State :=
  if s.flag (K.lnkLinkDegraded a) && (s.link a).cur.isNone && (s.link a).again.isNone && (s.link a).queue.isEmpty then
    linkPost s a (plainReq 2 0 15 0 0 .degradedNop) else s

/-- A failed transaction (R135). -/
def linkFailed (s : State) (a : Nat) (r : LinkReq) (cause : Nat) : State :=
  let l := s.link a
  let run := l.failRun + 1
  -- after a timeout the link stays occupied (R129)
  let t := s.setLink a { l with cur := none, failRun := run, hold := cause == 0 }
  let t := if s.cfg (K.lnkLinkFailLimit a) ≤ run ∧ s.flag (K.lnkLinkDegraded a) = false then
      let t := t.setB (K.lnkLinkDegraded a) true
      let t := t.setLink a { t.link a with nopSince := false }
      let t := t.on (decide (t.nat (K.lnkLinkState a) = 2)) fun u => u.setN (K.lnkLinkState a) 3
      linkError t a 3 r
    else t
  let t := if !scheduled r && decide (r.tries < s.cfg (K.lnkLinkRetries a)) then
      let again := { r with tries := r.tries + 1 }
      if cause = 0 then t.setLink a { t.link a with again := some again } else linkSend (t.inc (K.lnkRetryCount a)) a again
    else linkGaveUp t a r cause
  linkPump (degradedNops (safeStopBit t a r) a) a

/-- The monitor bits of an answer (R139, R141). -/
def monitorBits (s : State) (a : Nat) (status settleA settleB : Nat) : State :=
  (slotsOf a).foldl (fun t q =>
    let w := t.wr q
    let settled := decide (s.cfg (K.lnkMonSettleNs a) ≤ (if q % 2 = 0 then settleA else settleB))
    if w.assist = .off ∨ w.assist = .armed then t
    else if bitAt status (2 + q % 2) then t.setWr q { w with confirmed := w.confirmed || settled, sinceConfirm := 0 }
    else monitorFault t q) s

/-- LINK_NOP (R130, R134): the command as the link controller sends it. -/
def execLinkNop (a : Act) (s : State) : Host.Outcome State Fault Refusal :=
  .next (linkPost s a (plainReq 2 0 15 0 0 (if s.flag (K.lnkLinkDegraded a) then .degradedNop else .monitor)))

/-- LINK_READ (R130, R131): the vendor's addresses are reached through register access alone. -/
def execLinkRead (a : Act) (head : BitVec 4) (addr : Byte) (s : State) : Host.Outcome State Fault Refusal :=
  .next (if 0x80 ≤ addr.toNat then s else linkPost s a (plainReq 3 1 head.toNat addr.toNat 0 .poll))

/-- LINK_WRITE (R130-R132, R134, R144): a scheduled command of a slot's head sequencer with its due angle; the vendor's addresses are reached
through register access alone. -/
def execLinkWrite (q : Slot) (head : BitVec 4) (addr : Byte) (data : BitVec 16) (due : Stamp) (s : State) :
    Host.Outcome State Fault Refusal :=
  .next (if 0x80 ≤ addr.toNat then s
    else linkPost s (q.val / 2) { plainReq 1 2 head.toNat addr.toNat data.toNat .seq with slot := some q.val, due := some due.toNat })

/-- The level and window writes due before the first ASSIST_ARM of a run: those that differ from the last written (R138). -/
def levelWrites (s : State) (q h due : Nat) : State :=
  let a := q / 2
  let n := (s.wr q).assistRing
  let lv := s.cfg (K.lnkAssistRing a h n)
  let mon := s.cfg (K.lnkMonitorRing a h n)
  let want := [(0x15, bitsOf lv 10 12), (0x16, bitsOf lv 22 12), (0x17, bitsOf mon 0 12), (0x18, bitsOf mon 12 12),
    (0x19, bitsOf mon 24 12), (0x1A, bitsOf mon 36 12)]
  want.foldl (fun t (k, v) =>
    if (Sp.get (s.link a).written (h * 256 + k)).getD 0 = v then t
    else linkPost t a { plainReq 1 2 h k v .seq with slot := some q, due := some due }) s

/-- ASSIST_ARM (R138, R139): for a slot that holds its grant, due prebias_lead_counts before the sector's write-gate angle; none is sent where
assist_kind is 0. -/
def execAssistArm (q : Slot) (head : Head) (gate : Stamp) (s : State) : Host.Outcome State Fault Refusal :=
  let a := q.val / 2
  if s.cfg (K.lnkAssistKind a) = 0 ∨ (at' s.grants q none).isNone then .next s
  else
    let due := gate.toNat - s.cfg (K.lnkPrebiasLeadCounts a)
    let t := if (s.wr q).assist = .off then levelWrites s q head due else s
    let t := t.setWr q { t.wr q with assist := .armed, assistHead := head.val, confirmed := false }
    .next (linkPost t a { plainReq 1 3 head.val 0 0 .seq with slot := some q.val, due := some due })

/-- ASSIST_OFF (R142). -/
def execAssistOff (q : Slot) (head : Head) (s : State) : Host.Outcome State Fault Refusal :=
  let w := s.wr q
  .next (assistOff (if w.assist = .off then s.setWr q { w with assistHead := head.val } else s) q 1)

/-- PREAMP_SAFE (R133): with or without the stop of HS_CK. -/
def execPreampSafe (a : Act) (stopClock : Bool) (s : State) : Host.Outcome State Fault Refusal :=
  .next (if stopClock then stopLink s a else linkPost s a (plainReq 0 5 15 0 0 .safeKeep))

/-- LINK_RESPONSE (R127-R129, R135, R139, R141): an answer with no transaction outstanding is discarded, one after a timeout too. settleA and
settleB: how long after the ASSIST_ARM stop bit of each slot its start bit lies, in ns. -/
def execLinkResponse (a : Act) (status : Byte) (data : BitVec 16) (crc : Byte) (stop : Bool) (settleA settleB : BitVec 16)
    (s : State) : Host.Outcome State Fault Refusal :=
  match (s.link a).cur with
  | none => .next s
  | some r =>
    let code := status.toNat % 4
    let crcBad := decide (crc ≠ responseCrc status data)
    let t := s.on (crcBad || code == 3) fun u => u.inc (K.lnkCrcErrorCount a)
    let t := t.on (!crcBad && code == 1) fun u => u.inc (K.lnkPreampCrcCount a)
    if !stop then .next (linkFailed t a r 2)
    else if crcBad || code == 1 || code == 3 then .next (linkFailed t a r 1)
    else
      let l := t.link a
      let t := t.setLink a { l with cur := none, failRun := 0, nopSince := l.nopSince || r.cmd == 0 }
      let t := if code = 2 then linkRejected t a r else linkDone t a r data.toNat
      let t := monitorBits (safeStopBit t a r) a status.toNat settleA.toNat settleB.toNat
      .next (linkPump (degradedNops t a) a)

/-- LINK_RESPONSE_TIMEOUT (R129, R135). -/
def execLinkResponseTimeout (a : Act) (s : State) : Host.Outcome State Fault Refusal :=
  match (s.link a).cur with
  | none => .next s
  | some r => .next (linkFailed (s.inc (K.lnkTimeoutCount a)) a r 0)

/-- The action of an accepted LINK_DEGRADED_CLEAR (R135). -/
def linkDegradedClearAct (a : Nat) (t : State) : State :=
    t.on (decide (t.nat (K.lnkLinkState a) = 3)) fun u => u.setN (K.lnkLinkState a) 2

/-- LINK_DEGRADED_CLEAR (R135). -/
def execLinkDegradedClear (m : Master) (a : Act) (v : Word) (s : State) : Host.Outcome State Fault Refusal :=
  .next (kwrite s m (K.lnkLinkDegraded a) v (linkDegradedClearAct a))

/-- The action of an accepted LINK_INIT (R136). -/
def linkInitAct (a : Nat) (t : State) : State :=
    let t := (t.setN (K.lnkLinkState a) 1).setB (K.lnkLinkDegraded a) false
    initStep (t.setLink a { t.link a with clock := true, failRun := 0, nopSince := false }) a 1

/-- LINK_INIT (R136). -/
def execLinkInit (m : Master) (a : Act) (v : Word) (s : State) : Host.Outcome State Fault Refusal :=
  .next (kwrite s m (K.lnkLinkInit a) v (linkInitAct a))

/-- PREAMP_FAULT_LINE (R137): HS_FLT_L falls; every open gate of the actuator closes, each slot's sector in flight is a write fault, over a
wedge too, and STATUS is read in class 0. -/
def execPreampFaultLine (a : Act) (s : State) : Host.Outcome State Fault Refusal :=
  if (s.link a).fltLow then .next s
  else
    let gates := gatesMask s
    let t := s.setLink a { s.link a with fltLow := true, fltGates := gates, fltWait := true }
    let t := (slotsOf a).foldl (fun u q => if (u.wr q).gate.isSome then endPart raise u q 4 else u) t
    .next (faultTick (linkPost t a (plainReq 0 1 15 3 0 .status)) a)

/-- HS_FLT_L_RELEASE (R137). -/
def execHsFltLRelease (a : Act) (s : State) : Host.Outcome State Fault Refusal :=
  .next (s.setLink a { s.link a with fltLow := false })

/-- MONITOR_POLL (R139): while a slot of the actuator is in pre-bias or writing. -/
def execMonitorPoll (a : Act) (s : State) : Host.Outcome State Fault Refusal :=
  let busy := (slotsOf a).any fun q => (s.wr q).assist == .prebias || (s.wr q).assist == .writing
  .next (if busy then linkPost s a (plainReq 2 0 15 0 0 .monitor) else s)

/-- MONITOR_AGE_EXPIRY (R139, R141). -/
def execMonitorAgeExpiry (q : Slot) (s : State) : Host.Outcome State Fault Refusal :=
  .next (if (s.wr q).assist = .off ∨ (s.wr q).confirmed = false then s else monitorFault s q)

/-- HEAD_TEMP_POLL (R145): HEAD_TEMP and HEATER_STATE of each selected head, and PREAMP_TEMP. -/
def execHeadTempPoll (a : Act) (s : State) : Host.Outcome State Fault Refusal :=
  let sel := (s.link a).sel
  let heads := bitsOf sel 0 4 :: (if bitAt sel 8 then [bitsOf sel 4 4] else [])
  let reqs := heads.flatMap (fun h => [plainReq 3 1 h 0x1C 0 .poll, plainReq 3 1 h 0x1D 0 .poll])
  .next ((reqs ++ [plainReq 3 1 15 5 0 .poll]).foldl (fun t r => linkPost t a r) s)

/-- Head and address of reg_addr (R146). -/
def regHead (s : State) (a : Nat) : Nat := bitsOf (s.nat (K.lnkRegAddr a)) 8 4
/-- Register address of reg_addr. -/
def regAddr (s : State) (a : Nat) : Nat := bitsOf (s.nat (K.lnkRegAddr a)) 0 8

/-- A head is selected in a slot of the actuator. -/
def headSelected (s : State) (a h : Nat) : Bool :=
  let sel := (s.link a).sel
  bitsOf sel 0 4 == h || (bitAt sel 8 && bitsOf sel 4 4 == h)

/-- A register write that is refused while the actuator is not PARKED (R146). -/
def regRefused (s : State) (a : Nat) : Bool :=
  let r := regAddr s a
  decide (s.nat (K.actActState a) ≠ 0) && (r == 2 || ((r == 0x14 || (0x15 ≤ r && r ≤ 0x1A)) && headSelected s a (regHead s a)))

/-- A register operation goes out in class 4, or ends at once where the link cannot carry it (R146). -/
def regGo (s : State) (a cmd data : Nat) : State :=
  if (s.link a).clock then
    linkPost (s.setN (K.lnkRegResult a) 1) a (plainReq 4 cmd (regHead s a) (regAddr s a) data .regOp)
  else s.setN (K.lnkRegResult a) 4

/-- The action of an accepted REG_OP_READ (R146). -/
def regOpReadAct (a : Nat) (t : State) : State :=
  regGo t a 1 0

/-- REG_OP_READ (R146). -/
def execRegOpRead (m : Master) (a : Act) (s : State) : Host.Outcome State Fault Refusal :=
  .next (kwrite s m (K.lnkRegOp a) 1 (regOpReadAct a))

/-- The action of an accepted REG_OP_WRITE (R146). -/
def regOpWriteAct (m : Nat) (a : Nat) (t : State) : State :=
    if regRefused t a then violation (t.setN (K.lnkRegResult a) 5) m else regGo t a 2 (t.nat (K.lnkRegData a))

/-- REG_OP_WRITE (R146). -/
def execRegOpWrite (m : Master) (a : Act) (s : State) : Host.Outcome State Fault Refusal :=
  .next (kwrite s m (K.lnkRegOp a) 2 (regOpWriteAct m a))

end Sys2Proof.Machine
end

