-- ==== Sys2Proof/Machine/Pick.lean ====
section
/-! DEFINITION. DESCRIPTOR_PICK (spec/12 R282): admission to the pick set, the choice, and what a descriptor's start does at
its slots: rings (spec/07 R151, R155), retry profiles (spec/08 R192), head-ring state (spec/07 R163), heaters (spec/06 R144), twin
mode (spec/05 R112, R114) and group reads (spec/08 R195). -/

namespace Sys2Proof.Machine

/-! ### Arrival and cost -/

/-- Distance of a descriptor in whole servo tracks from the active head's position (spec/04 R94): the Q16 difference rounded down, for
which the spec gives no rounding (DESIGN CHOICE, log 46). -/
def pickDistance (s : State) (a : Nat) (d : Desc) : Nat :=
  let target : Int := d.track.toNat * s.cfg (K.actDataPitchQ16 a)
  ((target - (s.srv (2 * a)).lastX).natAbs) / 65536

/-- The profile entry that covers a distance: the first valid one in index order (spec/04 R94). -/
def seekEntry (s : State) (a dist : Nat) : Option Nat :=
  ((List.range 64).find? fun i =>
    let w := s.cfg (K.actSeekProfile a i)
    bitAt w 63 && decide (dist ≤ bitsOf w 0 23)).map fun i => s.cfg (K.actSeekProfile a i)

/-- Arrival of a descriptor in counts: the table's, two revolutions without an entry, more on a head change (spec/04 R94), and never
below hook 0's (spec/10 R239). -/
def arrival (s : State) (a : Nat) (d : Desc) : Nat :=
  let base := match seekEntry s a (pickDistance s a d) with
    | some w => (if d.write then bitsOf w 43 20 else bitsOf w 23 20) * 64
    | none => 2 * revCounts
  let base := base + (if (s.srv (2 * a)).head = d.head.val then 0 else s.cfg (K.actHeadSwitchCounts a))
  max base d.hookArrival.toNat

/-- G(d) of R282. -/
def pickGap (s : State) (d : Desc) : Nat := countsTo s d.firstFrac.toNat

/-- C(d) of R282. -/
def pickCost (s : State) (a : Nat) (d : Desc) : Nat :=
  let g := pickGap s d
  let r := arrival s a d
  if r ≤ g then g else g + revCounts * ((r - g + revCounts - 1) / revCounts)

/-! ### Choice -/

/-- Age of a descriptor since its post, in ms. -/
def ageMs (s : State) (p : PoolDesc) : Nat := s.elapsed p.posted / 1000

/-- The entry of least cost, the earlier post on a tie. -/
def leastCost (s : State) (a : Nat) (l : List PoolDesc) : Option PoolDesc :=
  l.foldl (fun (m : Option PoolDesc) p => match m with
    | none => some p
    | some b => if pickCost s a p.desc < pickCost s a b.desc then some p else some b) none

/-- A descriptor's age exceeds age_limit_ms (R282). -/
def isUrgent (s : State) (p : PoolDesc) : Bool :=
  decide (s.cfg K.hostAgeLimitMs * 1000 < s.elapsed p.posted) && decide (p.desc.cls.toNat ≠ 3)

/-- The descriptor a pick takes (R282). -/
def pickChoice (s : State) (a : Nat) (l : List PoolDesc) : Option PoolDesc :=
  match l.find? (isUrgent s) with
  | some p => some p
  | none =>
    let h := leastCost s a (l.filter fun (p : PoolDesc) => decide (p.desc.cls.toNat ≤ 1))
    let b := leastCost s a (l.filter fun (p : PoolDesc) => p.desc.cls == 2)
    match h, b with
    | none, x => x
    | some x, none => some x
    | some x, some y =>
      if pickCost s a y.desc + y.desc.length.toNat + s.cfg K.hostBgSlackCounts ≤ pickCost s a x.desc then some y else some x

/-- Event 363 once for each urgent descriptor of the set, in post order (R282). -/
def urgentEvents (s : State) (a : Nat) : State :=
  let fresh := (s.pick a).pool.filter fun (p : PoolDesc) => isUrgent s p && !p.urgent
  let t := s.setPick a { s.pick a with
    pool := (s.pick a).pool.map fun (p : PoolDesc) => if isUrgent s p then { p with urgent := true } else p }
  fresh.foldl (fun u (p : PoolDesc) => raise u 363 [a, p.desc.tag.toNat, ageMs s p] {}) t

/-! ### Start -/

/-- A descriptor is returned "not started" (R230, spec/07 R151, spec/08 R195, spec/14 R343): causes 0 sequencer reset, 1 buffer failed,
2 no ring, 3 group busy, 4 demoted, 5 ring invalid. A write's result word tells it too (spec/09 R212). -/
def notStarted (s : State) (a cause writeCause : Nat) (d : Desc) : State :=
  let p := s.pick a
  let t := s.setPick a { p with returned := p.returned ++ [{ tag := d.tag.toNat, sectors := d.count.toNat, cause := cause }] }
  if d.write then
    let q := 2 * a
    endPart raise (t.setWr q { t.wr q with active := true, tag := d.tag.toNat, written := 0, deferrals := 0, twinB := false }) q writeCause
  else t

/-- A zone is demoted, or its demotion waits for its commit (spec/05 R114). -/
def zoneDemoted (s : State) (a z : Nat) : Bool := (s.ctx z).demoted || (s.act a).demoting.any fun y => y.1 == z

/-- Why twin mode is not entered for a descriptor (spec/05 R112), in the order listed: 0 twin_enable, 1 slot B reservation, 2 map,
3 demoted, 4 microactuator fault. -/
def twinRefusal (s : State) (a : Nat) (d : Desc) : Option Nat :=
  let k := d.head.val / 2
  if !s.flag (K.actTwinEnable a) || !hasSlot s.variant (2 * a + 1) then some 0
  else if !holds s (slotBHolder a) then some 1
  else if !s.bit (K.actMapValid a) k then some 2
  else if (match d.zone with | some z => zoneDemoted s a z.toNat | none => false) then some 3
  else if (s.act a).pztFault.getLsbD (2 * k) || (s.act a).pztFault.getLsbD (2 * k + 1) then some 4
  else none

/-- Twin mode begins on the pair of a descriptor (spec/05 R104, R112). -/
def enterTwin (s : State) (a : Nat) (d : Desc) : State :=
  let k := d.head.val / 2
  let shift : Int := d.pairN.toInt * s.cfg (K.actDataPitchQ16 a)
  let z := (d.zone.map (·.toNat)).getD 0
  let t := ((s.setB (K.actTwinActive a) true).setN (K.actTwinPair a) k).setBitOf (K.actActiveHeads a) 8 true
  let t := t.setAct a { t.act a with twinZone := z, twinShift := shift, warned := false, oosRun := 0, clampRun := 0,
                                     oosHit := false, twinLeaving := none }
  actEvent raise (t.inc (K.actTwinEntryCount a)) a 128 [k, z, (shift % 2 ^ 32).toNat] none

/-- A group read takes the group memory (spec/08 R195). -/
def startGroup (s : State) (q : Nat) (d : Desc) : State :=
  if d.group && !d.write then
    { ((s.setN K.detOcState 1).setN K.detOcFailedMap 0).inc K.detOcGroupCount with
      deep := { s.deep with ocSlot := q, ocDecoded := 0, ocFailed := 0, ocTag := d.tag.toNat,
                            ocMem := [], ocEnts := [] } }
  else s

/-- Twin-serial running of a twin descriptor on slot A (spec/05 R112): both surfaces, one after the other. -/
def startSerial (s : State) (a n m why : Nat) (d : Desc) : State :=
  let z := (d.zone.map (·.toNat)).getD 0
  let t := actEvent raise (s.inc (K.actTwinSerialCount a)) a 130 [why, z] none
  startPart t (2 * a) n (2 * d.count.toNat) (some m) d

/-- A write descriptor for a zone demoted or about to be (spec/05 R114). -/
def demotedWrite (s : State) (a : Nat) (d : Desc) : Bool := d.write && (match d.zone with
  | some z => zoneDemoted s a z.toNat
  | none => false)

/-- The ring of a surface of a descriptor, or why it has none: 2 no ring, 5 ring invalid (spec/07 R151, R155). -/
def surfaceRing (s : State) (a : Nat) (d : Desc) : Except Nat Nat :=
  match ringOf s a d.head.val d.track.toNat with
  | none => .error 2
  | some n => if ringBad s a n then .error 5 else .ok n

/-- The rings of a descriptor's surfaces, the same one twice where it has one surface. -/
def descRings (s : State) (a : Nat) (d : Desc) : Except Nat (Nat × Nat) :=
  match surfaceRing s a d, (if d.twin then surfaceRing s a (otherSurface d) else surfaceRing s a d) with
  | .ok n, .ok m => .ok (n, m)
  | .error c, _ => .error c
  | _, .error c => .error c

/-- The picked descriptor begins, or is returned. -/
def begin_ (s : State) (a : Nat) (d : Desc) : State :=
  let q := 2 * a
  if demotedWrite s a d then notStarted s a 4 13 d
  else match descRings s a d with
    | .error c => notStarted s a c 16 d
    | .ok (n, m) =>
      if !d.write && s.eccFailed (8 + q) then notStarted s a 1 0 d
      else if !d.write && d.group && (s.nat K.detOcState = 1 ∨ s.nat K.detOcState = 2) then notStarted s a 3 0 d
      else
        let t := startGroup s q d
        if !d.twin then startPart t q n d.count.toNat none d
        else
          let t := requestRes raise t (slotBHolder a)
          match twinRefusal t a d with
          | some why => startSerial t a n m why d
          | none => startPart (startPart (enterTwin t a d) q n d.count.toNat none d) (q + 1) m d.count.toNat none (otherSurface d)

/-- TRL[a] admits from its input queue in post order, up to pick_depth (R282). -/
def admitPool (s : State) (a : Nat) : State :=
  let p := s.pick a
  let room := s.cfg K.hostPickDepth - p.pool.length
  s.setPick a { p with pool := p.pool ++ p.input.take room, input := p.input.drop room }

/-- The sequencer is free to start a pick: media work is allowed (spec/20 R450; spec/15 R355), no slot of the actuator holds a descriptor, and
it waits for pickable work in LOCKED_WEDGE and TRACKING. -/
def mayPick (s : State) (a : Nat) : Bool :=
  (s.nat K.pmMode == 1 || (s.nat K.pmMode == 0 && s.power.released)) && !s.flag K.poolPantryDegraded && s.nat K.sunState == 3
    && s.nat (K.actActState a) == 3 && (slotsOf a).all fun q => (s.ch q).desc.isNone && !(s.wr q).active && (s.wr q).gate.isNone

/-- One pick (R282). -/
def onePick (s : State) (a : Nat) : State :=
  let t := urgentEvents s a
  match pickChoice t a (t.pick a).pool with
  | none => t
  | some p =>
    let t := t.on p.urgent fun u => u.inc K.hostUrgentCount
    let pk := t.pick a
    let t := t.setPick a { pk with pool := pk.pool.erase p, last := some p.desc.tag.toNat }
    begin_ t a p.desc

/-- DESCRIPTOR_PICK (R282): class 3 is reserved and is never picked. -/
def execDescriptorPick (a : Act) (fresh : List Desc) (s : State) : Host.Outcome State Fault Refusal :=
  let t := postFresh (boundaryIn s .command (actOwns a)) a fresh
  if trlState t a ≠ 3 then .next t
  else
    let t := admitPool (twinSettle raise t a) a
    .next (if mayPick t a then onePick t a else t)

end Sys2Proof.Machine
end

