-- ==== Sys2Proof/Machine/Sheaf.lean ====
section
/-! DEFINITION. The commands of the Sheaf unit, power loss, flush and recovery (spec/13). -/

namespace Sys2Proof.Machine

/-! ### Ports (R300, R301) -/

/-- A write of an operation to a port's op object; the internal ports have none (R300). -/
def portWrite (s : State) (m : Master) (p : Fin 6) (op : Nat) (f : State → State) : State :=
  if fwPort p then kwrite s m (K.shfOp p) (BitVec.ofNat 64 op) f else f s

/-- The transaction that a port names: its txn object, or the operand of an internal port. -/
def txnOf (s : State) (p : Nat) (txn : Byte) : Nat := if fwPort p then s.nat (K.shfTxn p) else txn.toNat

/-- The action words of a port, or the operand of an internal port. -/
def actionOf (s : State) (p : Nat) (action : BitVec 256) : BitVec 256 :=
  if fwPort p then
    BitVec.ofNat 256 ((List.range 4).foldl (fun n i => n + s.nat (K.shfAction p i) * 2 ^ (64 * i)) 0)
  else action

/-- An open transaction that the port opened (R301). -/
def ownTxn (s : State) (p n : Nat) : Option Txn := match Sp.get s.sheaf.txns n with
  | some t => if t.port = p then some t else none
  | none => none

/-- Changes the open transactions. -/
def setTxns (s : State) (l : Sp Txn) : State := showOpen { s with sheaf := { s.sheaf with txns := l } }

/-- A slot is allocated to a port (R301). -/
def openTxn (s : State) (p n : Nat) : State := portResult (setTxns s (Sp.put s.sheaf.txns n { port := p })) p 0 n 0

/-- An open at a port (R300, R301). -/
def sheafOpenAct (p : Nat) (t : State) : State :=
  if t.nat K.sheafSheafState = 1 then portResult t p 6 0 0
  else match freeSlot t with
    | some n => openTxn t p n
    | none =>
      let t := if fwPort p then t.set (K.shfResult p) 0 else t
      waitBegins { t with sheaf := { t.sheaf with opens := t.sheaf.opens ++ [p] } } 333 [p, t.sheaf.txns.length] p

/-- SHEAF_OPEN (R300, R301): refused after the quiesce, waiting while every slot is held. -/
def execSheafOpen (m : Master) (p : Fin 6) (s : State) : Host.Outcome State Fault Refusal :=
  .next (portWrite s m p 1 (sheafOpenAct p))

/-- SHEAF_SLOT_FREED (R300): the oldest waiting open is served; a waiting request of the module's own becomes a commit. -/
def execSheafSlotFreed (s : State) : Host.Outcome State Fault Refusal :=
  match s.sheaf.opens, freeSlot s with
  | p :: rest, some n =>
    let t := { s with sheaf := { s.sheaf with opens := rest } }
    match t.sheaf.commits.find? fun c => c.port == p && c.wait == 4 with
    | some c =>
      let l := t.sheaf.commits.map fun x => if x = c then { x with slot := some n, wait := 0 } else x
      .next (runCommits { t with sheaf := { t.sheaf with commits := l } })
    | none => .next (openTxn t p n)
  | _, _ => .next s

/-- An append at a port (R301). -/
def sheafAppendAct (p : Nat) (txn : Byte) (action : BitVec 256) (t : State) : State :=
  let n := txnOf t p txn
  let a := actionOf t p action
  match ownTxn t p n with
  | none => portResult t p 4 n 0
  | some x =>
    if 64 ≤ x.actions.length then portResult t p 2 n x.actions.length
    else if formOk t p a.toNat then
      portResult (setTxns t (Sp.put t.sheaf.txns n { x with actions := x.actions ++ [a] })) p 0 n (x.actions.length + 1)
    else portResult t p 3 n x.actions.length

/-- SHEAF_APPEND (R301): the count is judged before the form. -/
def execSheafAppend (m : Master) (p : Fin 6) (txn : Byte) (action : BitVec 256) (s : State) : Host.Outcome State Fault Refusal :=
  .next (portWrite s m p 2 (sheafAppendAct p txn action))

/-- A commit at a port (R301, R302, R312). -/
def sheafCommitAct (p : Nat) (txn : Byte) (t : State) : State :=
  let n := txnOf t p txn
  match ownTxn t p n with
  | none => portResult t p 4 n 0
  | some x =>
    let u := setTxns t (Sp.del t.sheaf.txns n)
    if t.nat K.sheafSheafState = 1 then portResult u p 6 n x.actions.length
    else
      -- the commit waits: its transaction and actions are shown, done is 0
      let u := if fwPort p then u.setN (K.shfResult p) (n * 2 ^ 8 + x.actions.length * 2 ^ 16) else u
      let c : CommitReq := { port := p, slot := some n, actions := x.actions }
      runCommits { u with sheaf := { u.sheaf with commits := u.sheaf.commits ++ [c] } }

/-- SHEAF_COMMIT (R301, R302, R312). -/
def execSheafCommit (m : Master) (p : Fin 6) (txn : Byte) (s : State) : Host.Outcome State Fault Refusal :=
  .next (portWrite s m p 3 (sheafCommitAct p txn))

/-- SHEAF_COMMIT_PROCEED (R302, R314): waiting commits whose condition has ended. -/
def execSheafCommitProceed (s : State) : Host.Outcome State Fault Refusal := .next (runCommits s)

/-- An abort at a port (R301). -/
def sheafAbortAct (p : Nat) (txn : Byte) (t : State) : State :=
  let n := txnOf t p txn
  match ownTxn t p n with
  | none => portResult t p 4 n 0
  | some _ => portResult ((setTxns t (Sp.del t.sheaf.txns n)).inc K.sheafAbortCount) p 0 n 0

/-- SHEAF_ABORT (R301). -/
def execSheafAbort (m : Master) (p : Fin 6) (txn : Byte) (s : State) : Host.Outcome State Fault Refusal :=
  .next (portWrite s m p 4 (sheafAbortAct p txn))

/-- Frees the records up to a sequence number (R305). -/
def releaseRecs (s : State) (seq : Nat) : State :=
  let gone := s.sheaf.recs.filter fun r => decide (r.1 ≤ seq)
  let bytes := gone.foldl (fun n r => n + r.2) 0
  let t := { s with sheaf := { s.sheaf with recs := s.sheaf.recs.filter fun r => decide (seq < r.1),
                                            oldOff := (s.sheaf.oldOff + bytes) % journalSize } }
  t.setN K.sheafJournalFree (journalFree t)

/-- The action of an accepted RELEASE_SEQ_WRITE (R305). -/
def releaseSeqWriteAct (v : Word) (t : State) : State :=
  releaseRecs t v.toNat

/-- RELEASE_SEQ_WRITE (R305). -/
def execReleaseSeqWrite (m : Master) (v : Word) (s : State) : Host.Outcome State Fault Refusal :=
  .next (kwrite s m K.sheafReleaseSeq v (releaseSeqWriteAct v))

/-! ### Power loss and flush (R311-R315) -/

/-- Codes of the inputs of spec/20 R476. -/
def powerInputCode (i : PowerInput) : Nat := match i with
  | .v12 => 0 | .v5 => 1 | .pwrgd => 2 | .rstL => 3

/-- POWER_LOSS_SIGNAL (R311 steps 1 to 5, R312, R314, R315; spec/20 R457): latched, so only the first signal acts. -/
def execPowerLossSignal (input : PowerInput) (mv : BitVec 16) (s : State) : Host.Outcome State Fault Refusal :=
  if s.power.loss then .next s
  else
    let t := { s with power := { s.power with loss := true } }
    let t := modeEvent raise t 4 [powerInputCode input, mv.toNat]
    let t := raise t 335 [t.nat K.sheafCommitSeq, t.nat K.sheafOpenCount, t.nat K.sheafPwcValid] {}
    let t := mediaOff raise t 6 0
    let t := sheafQuiesce t
    let t := t.setHost { t.host with quiet := true }
    let t := hoeStop (motorPowerLoss raise t) 1
    let t := { t with sheaf := { t.sheaf with flush := none } }
    .next (flushStart t 1)

/-- FLUSH_DONE (R313): the header is written, and the slot is the newest. -/
def execFlushDone (s : State) : Host.Outcome State Fault Refusal :=
  match s.sheaf.flush with
  | none => .next s
  | some (img, slot, since) =>
    let t := { s with sheaf := { s.sheaf with flush := none, slots := upd s.sheaf.slots slot (some img), changed := false } }
    let t := (((t.setN K.sheafFlushState 2).setN K.sheafFlushSeq img.seq).setN K.sheafFlushSlot slot).inc K.sheafFlushCount
    .next (raise t 336 [img.cause, img.seq, slot, s.elapsed since] {})

/-- FLUSH_FAIL (R313, R314): no header is written. -/
def execFlushFail (flashAddr : BitVec 32) (s : State) : Host.Outcome State Fault Refusal :=
  match s.sheaf.flush with
  | none => .next s
  | some (img, _, _) =>
    let t := { s with sheaf := { s.sheaf with flush := none } }
    let t := (t.setN K.sheafFlushState 3).inc K.sheafFlushFailCount
    let t := raise t 337 [img.cause, flashAddr.toNat] {}
    .next (if img.cause ≠ 1 ∧ holdUpOk t = false then flushStart t 3 else t)

/-- HOLD_UP_LOST (R314): a fall of hold_up_ok starts an automatic flush where something has changed and none runs. -/
def execHoldUpLost (s : State) : Host.Outcome State Fault Refusal :=
  if holdUpOk s || !s.flag K.sheafPwcArmed || !s.sheaf.changed || s.sheaf.flush.isSome then .next s
  else .next (flushStart (raise s 338 [motorState s, param32 (s.int K.spinSpeedCrpm)] {}) 3)

/-- The action of an accepted FLUSH_NOW (R314, R315). -/
def flushNowAct (t : State) : State :=
  flushAsk t 2

/-- FLUSH_NOW (R314, R315). -/
def execFlushNow (m : Master) (v : Word) (s : State) : Host.Outcome State Fault Refusal :=
  .next (kwrite s m K.sheafFlushNow v flushNowAct)

/-! ### Recovery (R316, R317) -/

/-- The action of an accepted RECOVER_LOAD (R316): loading begins. -/
def recoverLoadAct (t : State) : State :=
  t.setN K.sheafRecoverState 1

/-- RECOVER_LOAD (R316). -/
def execRecoverLoad (m : Master) (v : Word) (s : State) : Host.Outcome State Fault Refusal :=
  .next (kwrite s m K.sheafRecoverLoad v recoverLoadAct)

/-- Replaces a region of the memory by listed cells. -/
def loadRegion (s : State) (base size : Nat) (l : List (Nat × Byte)) : State :=
  let t := { s with mem := s.mem.filter fun c => decide (c.1 < base) || decide (base + size ≤ c.1) }
  l.foldl (fun u c => u.store (base + c.1) [c.2]) t

/-- Valid entries of the cache directory. -/
def countValid (s : State) : Nat :=
  let base := s.cfg K.sheafPwcBase
  (s.mem.filter fun c => decide (base ≤ c.1) && decide (c.1 < base + 16 * cacheSlots) && (c.1 - base) % 16 == 0 && c.2.getLsbD 0).length

/-- The image loaded: the newest slot whose CRC checks (R316). -/
def chosenSlot (s : State) (crc0 crc1 : Bool) : Option FlushSlot :=
  let ok (n : Nat) : Bool := if n = 0 then crc0 else crc1
  match newestSlot s with
  | none => none
  | some n => if ok n then at' s.sheaf.slots n none else if ok (1 - n) then at' s.sheaf.slots (1 - n) none else none

/-- RECOVERY_LOADED (R316, R319): the image is in place, or there is none; pwc_armed is set. -/
def execRecoveryLoaded (crc0 crc1 : Bool) (s : State) : Host.Outcome State Fault Refusal :=
  if s.nat K.sheafRecoverState ≠ 1 then .next s
  else
    let base := s.cfg K.sheafPwcBase
    let t := match chosenSlot s crc0 crc1 with
      | some f =>
        let t := loadRegion (loadRegion s journalBase journalSize f.journal) base cacheSize f.cache
        let t := { t with memory := { t.memory with poison := f.poison.foldl (fun p o => Sp.put p (base + o) ()) t.memory.poison },
                          sheaf := { t.sheaf with imageOff := f.oldestOff, imageOldest := f.oldestSeq, changed := false } }
        ((((t.setN K.sheafRecoverState 2).setN K.sheafImageSeq f.seq).setN K.sheafImageCommitSeq f.commitSeq).setN
          K.sheafCommitSeq f.commitSeq).setN K.sheafPwcValid (countValid t)
      | none => s.setN K.sheafRecoverState (if (newestSlot s).isSome then 4 else 3)
    let t := t.setB K.sheafPwcArmed true
    .next (raise t 339 [t.nat K.sheafRecoverState, t.nat K.sheafImageSeq, t.nat K.sheafImageCommitSeq] {})

/-- The action of an accepted REPLAY_START (R317): replaying. -/
def replayStartAct (t : State) : State :=
  (t.setN K.sheafReplayState 1).setN K.sheafSheafState 2

/-- REPLAY_START (R317). -/
def execReplayStart (m : Master) (v : Word) (s : State) : Host.Outcome State Fault Refusal :=
  .next (kwrite s m K.sheafReplayStart v replayStartAct)

/-- A record of the journal: sequence number, port, actions. -/
structure JRec where
  seq : Nat
  port : Nat
  off : Nat
  actions : List Action
deriving DecidableEq, Repr

/-- The record at an offset where it is valid and carries the sequence number expected (R317). -/
def recordAt (s : State) (off seq : Nat) : Option JRec :=
  let head := journalGet s off 64
  let f (o n : Nat) : Nat := leNat ((head.drop o).take n)
  let count := f 8 1
  let body := journalGet s (off + 64) (32 * count)
  if f 0 8 = seq ∧ 1 ≤ count ∧ count ≤ 64 ∧ f 56 8 = 2 ^ 64 - 1 - seq % 2 ^ 64 ∧ f 12 4 = crc32c (head.take 12 ++ body) then
    some { seq := seq, port := f 9 1, off := off, actions := (List.range count).map fun i => leNat ((body.drop (32 * i)).take 32) }
  else none

/-- The valid records from an offset on; the fuel bounds their number. -/
def recordsFrom (s : State) (fuel off seq : Nat) : List JRec :=
  match fuel with
  | 0 => []
  | n + 1 => match recordAt s off seq with
    | none => []
    | some r => r :: recordsFrom s n ((off + recordSize r.actions.length) % journalSize) (seq + 1)

/-- Replays the actions of a record: the state, or the index of the action that matches neither precondition nor result. -/
def replayActions (s : State) (r : JRec) (l : List Action) (i : Nat) : State × Option Nat :=
  match l with
  | [] => (s, none)
  | a :: rest =>
    if resultHeld s a then replayActions s r rest (i + 1)
    else if actionOk s r.port a then replayActions (applyAction r.seq s a) r rest (i + 1)
    else (s, some i)

/-- Replays records in order: the state, those applied, and the failing record and action. -/
def replayRecs (s : State) (l : List JRec) (n : Nat) : State × Nat × Option (Nat × Nat) :=
  match l with
  | [] => (s, n, none)
  | r :: rest => match replayActions s r r.actions 0 with
    | (t, none) => replayRecs (t.setN K.sheafCommitSeq r.seq) rest (n + 1)
    | (t, some i) => (t, n, some (r.seq, i))

/-- The end of a failed replay: causes 0 gap, 1 mismatch (R317). -/
def replayFails (s : State) (seq i cause : Nat) : State :=
  raise ((s.setN K.sheafReplayState 3).setN K.sheafSheafState 0) 341 [seq, i, cause] {}

/-- REPLAY_END (R317). `torn`: the last record of the loaded journal does not check. -/
def execReplayEnd (torn : Bool) (s : State) : Host.Outcome State Fault Refusal :=
  if s.nat K.sheafReplayState ≠ 1 then .next s
  else
    let first := s.nat K.sheafReplayFrom
    let image := s.nat K.sheafImageCommitSeq
    let all := recordsFrom s 2731 s.sheaf.imageOff s.sheaf.imageOldest
    let l := if torn then all.dropLast else all
    let bytes := l.foldl (fun n r => n + recordSize r.actions.length) 0
    let t := { s with sheaf := { s.sheaf with recs := l.map fun (r : JRec) => (r.seq, recordSize r.actions.length), oldOff := s.sheaf.imageOff,
                                              nextOff := (s.sheaf.imageOff + bytes) % journalSize } }
    let t := t.setN K.sheafJournalFree (journalFree t)
    if image < first then
      let t := (((t.setN K.sheafReplayState 2).setN K.sheafSheafState 0).setN K.sheafReplayApplied 0).setN K.sheafReplayDiscarded 0
      .next (raise t 340 [0, 0] {})
    else if first < s.sheaf.imageOldest then .next (replayFails t first 0 0)
    else match replayRecs t (l.filter fun r => decide (first ≤ r.seq)) 0 with
      | (u, n, some (seq, i)) => .next (replayFails (u.setN K.sheafReplayApplied n) seq i 1)
      | (u, n, none) =>
        let last := s.sheaf.imageOldest + l.length - 1
        let u := (((u.setN K.sheafReplayState 2).setN K.sheafSheafState 0).setN K.sheafReplayApplied n).setN K.sheafReplayDiscarded
          (image - last)
        .next (raise u 340 [n, image - last] {})

end Sys2Proof.Machine
end

