-- ==== Sys2Proof/Machine/Sundial.lean ====
section
/-! DEFINITION. Sundial's commands (spec/02): snapshot, acceptance windows, enable, FREE limit, the fraction's wrap, angle
alarms and SYNC_IN; and the wedge detection that a servo sample delivers (R35-R39, R41). -/

namespace Sys2Proof.Machine

/-- The expected fraction of wedge w on head a.h (R35). -/
def expectedFraction (s : State) (a h w : Nat) : Nat :=
  let wp := s.cfg K.sunWedgesPerRev
  ((((w * revCounts / (if wp = 0 then 1 else wp) : Nat) : Int) + s.cfgI (K.sunHeadSkew a h)) % (revCounts : Int)).toNat

/-- |f| is within a limit in picoseconds at the measured speed (R39, R41): f is the exact fraction num / den in counts. -/
def errWithin (s : State) (num : Int) (den ps : Nat) : Bool :=
  decide (num.natAbs * periodNs s * 1000 ≤ ps * revCounts * den)

/-- phase_error of the filtered error (R39). -/
def setFilter (s : State) (num : Int) (den : Nat) : State :=
  ({ s with sun := { s.sun with fNum := num, fDen := den } }).setI K.sunPhaseError (rnd num den)

/-- The fused error of a wedge as sum and count (R37). -/
def errSum (l : List Int) : Int := l.foldl (· + ·) 0

/-- The states of R41 after a judged wedge that had an accepted detection: the drop of rows 2 and 3, the lock of row 4. -/
def judgeAccepted (s : State) : State :=
  let u := s.sun
  if s.nat K.sunState = 3 then
    if errWithin s u.fNum u.fDen (s.cfg K.sunLossErrorPs) then s else sunDrop raise s 1
  else
    let old := s.nat K.sunState
    let run := if errWithin s u.fNum u.fDen (s.cfg K.sunLockErrorPs) then u.run + 1 else 0
    let t := { s with sun := { u with run := run } }
    if s.cfg K.sunLockCount ≤ run then
      let fromInvalid := decide (old = 0)
      let frac := match u.internal with | some f => BitVec.ofNat 24 f | none => u.frac
      let t := sunEnter raise t 3
      let t := if fromInvalid then { t with sun := { t.sun with frac := frac, internal := none } } else t
      let t := (t.setB K.sunZeroKnown true).setN K.sunZeroSource 1
      sunEvent raise { t with sun := { t.sun with acquiring := false, run := 0, misses := 0 } } old 81 [t.nat K.sunLockSources] {}
    else t

/-- Judges the wedge that has been heard (R37, R39): the filtered error, which the first wedge of an acquisition sets and each later one
moves by a quarter, the lock run, the slots that contributed, and the wedge expected next. -/
def judgeWedge (s : State) : State :=
  let u := s.sun
  match u.wedge with
  | none => s
  | some w =>
    let wp := s.cfg K.sunWedgesPerRev
    let next := (w + 1) % (if wp = 0 then 1 else wp)
    let src := u.contributed.foldl (fun n q => setBit n q true) (b2n (observerValid s) * 16)
    let base := (s.setN K.sunLockSources src)
    let base := { base with sun := { u with wedge := some next, expect := some next, errs := [], heard := [],
                                            contributed := [] } }
    if u.errs.isEmpty then
      let t := { base with sun := { base.sun with run := 0, misses := u.misses + 1, first := false } }
      if s.nat K.sunState = 3 ∧ s.cfg K.sunMissLimit ≤ u.misses + 1 then sunDrop raise t 0 else t
    else
      let n := u.errs.length
      let e := errSum u.errs
      -- f = e at the first, then f ← f + (e - f) / 4, exactly
      let num := if u.first then e else 3 * u.fNum * n + e * u.fDen
      let den := if u.first then n else 4 * u.fDen * n
      judgeAccepted (setFilter { base with sun := { base.sun with misses := 0, first := false } } num den)

/-- Every slot that reads servo has delivered its detection of the wedge (R37). -/
def allHeard (s : State) : Bool := (servoReaders s).all fun q => s.sun.heard.contains q

/-- Alarm word fields (R48). -/
def alarmTarget (w : Nat) : Nat := bitsOf w 0 24
/-- The revolution condition of an alarm. -/
def alarmRevOk (w rev : Nat) : Bool := (rev % 256 &&& bitsOf w 24 8) == (bitsOf w 32 8 &&& bitsOf w 24 8)
/-- The alarm is armed. -/
def alarmArmed (w : Nat) : Bool := bitAt w 51

/-- An alarm does not fire (R46): cause 0 state, 1 re-base. -/
def alarmSkip (s : State) (n cause : Nat) : State :=
  let t := (s.setBitOf (K.sunAlarmSkipped (n / 32)) (n % 32) true).inc K.sunAlarmSkippedCount
  sunEvent raise t (s.nat K.sunState) 86 [n, cause] {}

/-- The alarms whose targets a forward step of the fraction from a revolution and fraction passes over are skipped (R46): a target
before the wrap is compared in the revolution the step leaves, one after it in the next. -/
def skipStepped (s : State) (rev0 from0 step : Nat) : State :=
  (List.range 256).foldl (fun t n =>
    let w := s.nat (K.sunAlarm n)
    let d := (alarmTarget w + revCounts - from0 % revCounts) % revCounts
    let rev := if from0 + d < revCounts then rev0 else rev0 + 1
    if alarmArmed w && alarmRevOk w rev && decide (0 < d) && decide (d ≤ step) then alarmSkip t n 1 else t) s

/-- A re-base at the first accepted detection of an acquisition (R32, R39). DESIGN CHOICE (log 46): the head item of events 84 and 87
is h alone, without the actuator of the head a.h. -/
def rebase (s : State) (head : Nat) (measured expected : Nat) : State :=
  let step := fracDiff expected measured
  let st := s.nat K.sunState
  let new := (s.sun.frac.toNat + (step % (revCounts : Int)).toNat) % revCounts
  let back := decide (new < s.sun.frac.toNat)
  let t := { s with sun := { s.sun with frac := BitVec.ofNat 24 new,
                                        rev := if back then s.sun.rev + 1 else s.sun.rev } }
  let t := t.inc K.sunRebaseCount
  let t := sunEvent raise t st 84 [(step % 2 ^ 32).toNat, head] {}
  let t := if 0 < step then skipStepped t s.sun.rev.toNat s.sun.frac.toNat step.toNat else t
  t.on (back && decide (s.sun.rev = 0xFFFFFFFF)) fun u => sunEvent raise u st 90 [] {}

/-- A rejected detection (R37). -/
def rejectWedge (s : State) (q head w : Nat) (err : Int) : State :=
  let t := s.inc K.sunWedgeRejectCount
  let t := sunEvent raise t (s.nat K.sunState) 87 [head, s.sun.expect.getD 0x1FF, w, (err % 2 ^ 32).toNat] { slot := some q }
  { t with sun := { t.sun with heard := q :: t.sun.heard } }

/-- The first accepted detection of an acquisition (R37, R39). -/
def firstDetection (s : State) (q head w measured : Nat) : State :=
  let expected := expectedFraction s (q / 2) head w
  let e := fracDiff measured expected
  let inv := decide (s.nat K.sunState = 0)
  let big := decide (s.cfg K.sunRebaseThreshold < e.natAbs)
  let t := if inv then { s with sun := { s.sun with internal := some expected } }
    else if big then rebase s head measured expected else s
  let e' : Int := if inv || big then 0 else e
  let t := { t with sun := { t.sun with acquiring := true, first := true, wedge := some w, expect := some w, errs := [e'],
                                        heard := [q], contributed := [q], run := 0, misses := 0, fNum := e', fDen := 1 } }
  setFilter t e' 1

/-- A slot's detection of a wedge reaches Sundial (R35-R39): the fraction measured at the mark is on the broadcast angle, or on
the internal angle of an acquisition from INVALID. -/
def wedgeDetection (s : State) (q head w : Nat) (index fault : Bool) (measured : Nat) : State :=
  let u := s.sun
  let locked := decide (s.nat K.sunState = 3)
  if !s.cfgB K.sunSundialEnable then s
  else if !locked && !u.acquiring then
    if fault || index != decide (w = 0) then rejectWedge s q head w 0
    else
      let t := firstDetection s q head w measured
      if allHeard t then judgeWedge t else t
  else
    let expected := expectedFraction s (q / 2) head w
    let e := fracDiff measured expected
    let wrong := decide (u.expect ≠ some w) || index != decide (w = 0)
    if wrong || fault || (locked && decide (s.cfg K.sunAcceptWindow < e.natAbs)) then
      -- a wedge with no accepted detection counts as missed at the close of its window (R41)
      let t := rejectWedge s q head w e
      if allHeard t && !t.sun.errs.isEmpty then judgeWedge t else t
    else
      let t := { s with sun := { u with errs := e :: u.errs, heard := q :: u.heard, contributed := q :: u.contributed,
                                        internal := u.internal.map fun _ => measured } }
      if allHeard t then judgeWedge t else t

/-- The action of an accepted SNAPSHOT (R34): both values latched in one cycle. -/
def snapshotAct (t : State) : State :=
  (t.setN K.sunSnapAngle t.stamp).setN K.sunSnapUs t.now

/-- SNAPSHOT (R34). -/
def execSnapshot (m : Master) (v : Word) (s : State) : Host.Outcome State Fault Refusal :=
  .next (kwrite s m K.sunSnapshot v snapshotAct)

/-- ACCEPT_WINDOW_CLOSE (R37, R41): the window of the wedge the angle expects closes, and the wedge is judged. -/
def execAcceptWindowClose (wedge : BitVec 9) (s : State) : Host.Outcome State Fault Refusal :=
  let t := boundaryIn s .wedge (fun i => i < 0x3000)
  .next (if t.sun.expect = some wedge.toNat then judgeWedge { t with sun := { t.sun with wedge := some wedge.toNat } } else t)

/-- The action of an accepted SUNDIAL_ENABLE_WRITE (R41 rows 1 and 8). -/
def sundialEnableWriteAct (t : State) : State :=
    if t.cfgB K.sunSundialEnable then observerCheck raise t else sunInvalid raise t 0

/-- SUNDIAL_ENABLE_WRITE (R41 rows 1 and 8). -/
def execSundialEnableWrite (m : Master) (v : Word) (s : State) : Host.Outcome State Fault Refusal :=
  .next (kwrite s m K.sunSundialEnable v sundialEnableWriteAct)

/-- FREE_LIMIT_EXPIRY (R41 row 7). -/
def execFreeLimitExpiry (s : State) : Host.Outcome State Fault Refusal :=
  .next (if s.nat K.sunState = 1 then sunInvalid raise s 1 else s)

/-- sync_enable as in force: OFF to ACQUIRE, or any state to OFF (R51). -/
def syncEnableCheck (s : State) : State :=
  let st := s.nat K.sunSyncState
  if s.cfgB K.sunSyncEnable then
    if st = 0 then
      let t := (setSync s 1).setN K.sunSpeedTrimPpm 0
      { t with sun := { t.sun with lastPulse := none, syncBad := 0, syncBig := 0 } }
    else s
  else if st ≠ 0 then (setSync s 0).setN K.sunSpeedTrimPpm 0
  else s

/-- FRACTION_WRAP (R32, R390): the revolution count increments, and EDGE (revolution) values take effect. DESIGN CHOICE (log 46): how
rev_period_ns (R52) is measured is not stated; it is the microseconds between two wraps, times 1,000. -/
def execFractionWrap (s : State) : Host.Outcome State Fault Refusal :=
  if s.nat K.sunState = 0 then .next s
  else
    let wrap := decide (s.sun.rev = 0xFFFFFFFF)
    let locked := decide (2 ≤ s.nat K.sunState)
    let took := match s.sun.lastWrap with | some w => s.elapsed w * 1000 | none => 0
    let last := if locked then some s.now else none
    let t := { s with sun := { s.sun with rev := s.sun.rev + 1, frac := 0, lastWrap := last, rem := 0 } }
    let t := t.on (locked && decide (took ≠ 0)) fun u => u.setN K.sunRevPeriodNs (took % 2 ^ 32)
    let t := syncEnableCheck (boundary t .revolution)
    .next (t.on wrap fun u => sunEvent raise u (s.nat K.sunState) 90 [] {})

/-- Posts a Trellis trigger line (R45); the engine's flags hold it. -/
def postTrigger (s : State) (engine line : Nat) : State :=
  if engine < 7 ∧ s.nat (K.trlState engine) ≠ 0 then s.setBitOf (K.trlIrqPending engine) line true else s

/-- ANGLE_ALARM_FIRE (R45, R46). -/
def execAngleAlarmFire (n : Fin 256) (s : State) : Host.Outcome State Fault Refusal :=
  let w := s.nat (K.sunAlarm n)
  let st := s.nat K.sunState
  let rev := s.sun.rev.toNat
  if st = 0 ∨ alarmArmed w = false ∨ alarmRevOk w rev = false ∨ Sp.get s.sun.fired n = some rev then .next s
  else if bitAt w 50 && decide (st ≠ 3) then .next (alarmSkip s n 0)
  else
    let t := { s with sun := { s.sun with fired := Sp.put s.sun.fired n rev } }
    let t := t.setBitOf (K.sunAlarmFired (n / 32)) (n % 32) true
    let t := if bitAt w 49 then t else t.setBitOf (K.sunAlarm n) 51 false
    let t := t.on (bitAt w 40) fun u => postTrigger u (bitsOf w 42 3) (bitsOf w 45 4)
    .next (t.on (bitAt w 41) fun u => sunEvent raise u st 85 [n] {})

/-- ALARM_WORD_WRITE (R47, R48). -/
def execAlarmWordWrite (m : Master) (n : Fin 256) (v : Word) (s : State) : Host.Outcome State Fault Refusal :=
  .next (kwrite s m (K.sunAlarm n) v id)

/-- The action of an accepted SYNC_ENABLE_WRITE (R51): an EDGE (revolution) object, in force at once in INVALID. -/
def syncEnableWriteAct (t : State) : State :=
  syncEnableCheck t

/-- SYNC_ENABLE_WRITE (R51). -/
def execSyncEnableWrite (m : Master) (v : Word) (s : State) : Host.Outcome State Fault Refusal :=
  .next (kwrite s m K.sunSyncEnable v syncEnableWriteAct)

/-- An ignored or missing pulse (R49, R51). -/
def syncIgnored (s : State) (interval : Nat) : State :=
  let st := s.nat K.sunSyncState
  let t := s.inc K.sunSyncIgnoredCount
  let bad := s.sun.syncBad + 1
  let t := sunEvent raise t (s.nat K.sunState) 89 [interval, st] {}
  let t := { t with sun := { t.sun with syncBad := bad } }
  if 8 ≤ bad ∧ (st = 2 ∨ st = 3) then
    let t := ((setSync t 4).setN K.sunSpeedTrimPpm 0).inc K.sunSyncLostCount
    sunEvent raise { t with sun := { t.sun with syncBad := 0 } } (s.nat K.sunState) 89 [interval, 4] {}
  else t

/-- The interval check of R49: more than 0.5 % from sync_divider nominal revolution periods. -/
def syncBadInterval (s : State) (interval : Nat) : Bool :=
  let rpm := s.cfg K.spinTargetRpm
  let want := s.cfg K.sunSyncDivider * 60000000
  decide (want < ((interval * rpm : Nat) - (want : Nat) : Int).natAbs * 200)

/-- The trim of R50 in ppm for a phase error e: -e / 2 counts per revolution, at most 0.2 %. -/
def trimPpm (e : Int) : Int := clamp (-2000) 2000 (rnd (-e * 1000000) (2 * revCounts))

/-- An accepted pulse as its row of R51 takes it. -/
def syncTaken (s : State) (e : Int) : State :=
  let st := s.nat K.sunSyncState
  let t := s.setI K.sunSyncError e
  let t := { t with sun := { t.sun with lastPulse := some s.now, syncBad := 0 } }
  let trimmed := t.setI K.sunSpeedTrimPpm (trimPpm e)
  if st = 1 then (if slewAllowed s then setSync { trimmed with sun := { trimmed.sun with syncBig := 0 } } 2 else t)
  else if st = 2 then
    if e.natAbs ≤ 16777 then
      let u := setSync trimmed 3
      sunEvent raise { u with sun := { u.sun with syncBig := 0 } } (s.nat K.sunState) 88 [(e % 2 ^ 32).toNat] {}
    else trimmed
  else if st = 3 then
    let big := if 33554 < e.natAbs then s.sun.syncBig + 1 else 0
    if 4 ≤ big then setSync { trimmed with sun := { trimmed.sun with syncBig := 0 } } 2
    else { trimmed with sun := { trimmed.sun with syncBig := big } }
  else if st = 4 then setSync t 1
  else t

/-- An accepted pulse (R50, R51): where slewing is not allowed after it, the state is ACQUIRE and the trim 0. -/
def syncAccepted (s : State) (e : Int) : State := syncCheck (syncTaken s e)

/-- SYNC_IN_PULSE (R49-R51): the edge that sync_polarity selects is sampled, the other is not. -/
def execSyncInPulse (falling : Bool) (fraction : Frac) (s : State) : Host.Outcome State Fault Refusal :=
  if s.nat K.sunSyncState = 0 ∨ s.cfg K.sunSyncPolarity ≠ b2n falling then .next s
  else
    let e := fracDiff fraction.toNat (s.cfg K.sunSyncOffset)
    match s.sun.lastPulse with
    | none => .next (syncAccepted s e)
    | some p => .next (if syncBadInterval s (s.elapsed p) then syncIgnored s (s.elapsed p) else syncAccepted s e)

/-- SYNC_PULSE_TIMEOUT (R49): an expected pulse counts as ignored. -/
def execSyncPulseTimeout (s : State) : Host.Outcome State Fault Refusal :=
  if s.nat K.sunSyncState = 0 then .next s
  else .next (syncIgnored s (match s.sun.lastPulse with | some p => s.elapsed p | none => 0))

end Sys2Proof.Machine
end

