-- ==== Sys2Proof/Machine/Servo.lean ====
section
/-! DEFINITION. Servo and positioning (spec/04) with the twin monitor's part of a sample and a latch (spec/05 R106,
R109-R113): samples, output latches, seeks, shock, load, unload and retract, driver faults. -/

namespace Sys2Proof.Machine

/-- atan(2^-i) / π × 2^64 for i = 0 to 45. -/
def atanTable : List Int :=
  [4611686018427387904, 2722437224269746381, 1438461061161762076, 730185295051043895, 366509582986589658, 183433460584072433,
   91739112965426259, 45872355853501789, 22936527896151662, 11468307695752815, 5734159316382967, 2867080341756270,
   1433540256323779, 716770138842597, 358385070756387, 179192535545079, 89596267793400, 44798133899308, 22399066949980,
   11199533475031, 5599766737520, 2799883368761, 1399941684381, 699970842190, 349985421095, 174992710548, 87496355274,
   43748177637, 21874088818, 10937044409, 5468522205, 2734261102, 1367130551, 683565276, 341782638, 170891319, 85445659,
   42722830, 21361415, 10680707, 5340354, 2670177, 1335088, 667544, 333772, 166886]

/-- Rotates a vector of positive q onto the axis, adding up the angles. -/
def cordic : List Int → Nat → Int → Int → Int → Int
  | [], _, _, _, z => z
  | a :: r, i, x, y, z =>
    if 0 ≤ y then cordic r (i + 1) (x + y / 2 ^ i) (y - x / 2 ^ i) (z + a)
    else cordic r (i + 1) (x - y / 2 ^ i) (y + x / 2 ^ i) (z - a)

/-- atan2(n, q) / π in Q16 (R80): exact at the multiples of π / 4; elsewhere one of the two whole numbers around it, which the spec does
not say (log 5). -/
def atanQ16 (n q : Int) : Int :=
  if n = 0 then (if 0 ≤ q then 0 else 65536)
  else if q = 0 then (if 0 < n then 32768 else -32768)
  else if n = q then (if 0 < n then 16384 else -49152)
  else if n = -q then (if 0 < n then 49152 else -16384)
  else
    let z := cordic atanTable 0 (q.natAbs * 2 ^ 48) (n.natAbs * 2 ^ 48) 0
    let z := if 0 < q then z else 2 ^ 64 - z
    let z := if 0 < n then z else -z
    z / 2 ^ 48 + b2n (Config.atanUp n q)

/-- Integer square root by bits. -/
def isqrtGo (n fuel r : Nat) : Nat := match fuel with
  | 0 => r
  | k + 1 => if (r + 2 ^ k) * (r + 2 ^ k) ≤ n then isqrtGo n k (r + 2 ^ k) else isqrtGo n k r
/-- Integer square root of a number below 2^34. -/
def isqrt (n : Nat) : Nat := isqrtGo n 17 0

/-- √(N² + Q²) as stored (R84): where it is no integer, one of the two around it, which the spec does not say (log 5). -/
def amplitude (n q : Int) : Nat :=
  let x := n.natAbs * n.natAbs + q.natAbs * q.natAbs
  let r := isqrt x
  r + b2n (decide (r * r ≠ x) && Config.rootUp x)

/-- Base of the servo interface area of SERVO[a] (R83). -/
def tcmBase (a : Nat) : Nat := 0x78000000 + a * 0x100000

/-- A signed 16-bit operand. -/
def i16 (v : BitVec 16) : Int := v.toInt
/-- An integer as an unsigned 32-bit capture item. -/
def cap32 (x : Int) : Nat := (x % 2 ^ 32).toNat

/-- Position x of a wedge in Q16 servo tracks (R80). -/
def samplePos (i : SampleIn) : Int :=
  let t := i.gray.toNat
  let p : Int := if t % 2 = 0 then 1 else -1
  (t : Int) * 65536 + atanQ16 (p * i16 i.burstN) (p * i16 i.burstQ)

/-- Predicted position of a slot (R81), none before its first valid sample. DESIGN CHOICE (log 46): with one valid position the
prediction is that position; with none no jump is checked, and a decode fault reports the position reported last. -/
def predicted (v : SlotServo) : Option Int := match v.x1, v.x2 with
  | some a, some b => some (a + (a - b))
  | some a, none => some a
  | none, _ => none

/-- The burst amplitude is below burst_min_pm per mille of the preamble amplitude (R81). -/
def burstLow (s : State) (a : Nat) (i : SampleIn) : Bool :=
  let n := (i16 i.burstN).natAbs
  let q := (i16 i.burstQ).natAbs
  let m := s.cfg (K.actBurstMinPm a) * i.preamble.toNat
  decide ((n * n + q * q) * 1000000 < m * m)

/-- The jump check of R81. -/
def trackJump (s : State) (a : Nat) (v : SlotServo) (x : Int) : Bool := match predicted v with
  | none => false
  | some p => decide (s.cfg (K.actTrackJumpLimit a) * 4096 < (x - p).natAbs)

/-- Search mode (R82): the demodulator takes the first address mark it finds. -/
def searchMode (s : State) (q : Nat) : Bool :=
  s.nat (K.actActState (q / 2)) == 2 || s.nat K.sunState != 3 || (s.srv q).lastMissed

/-- The address mark lies within ±servo_gate_open_cells of its expected cell (R78, R81): a cell is servo_cell_mhz_c at the target
speed, and the expected cell is the nearest one of the head's wedges (R35). -/
def inGate (s : State) (q : Nat) (sam : Nat) : Bool :=
  let a := q / 2
  let h := (s.srv q).head
  let wp := s.cfg K.sunWedgesPerRev
  let rel := (((sam : Int) - s.cfgI (K.sunHeadSkew a h)) % (revCounts : Int)).toNat
  let d := fracDiff sam (expectedFraction s a h ((rel * wp + revCounts / 2) / revCounts))
  decide (d.natAbs * s.cfg (K.actServoCellMhzC a) * 600000 ≤ s.cfg (K.actServoGateOpenCells a) * revCounts * s.cfg K.spinTargetRpm)

/-- The sample as the demodulator judges it: position, PES, and the flags of R84. -/
structure Sample where
  x : Int
  pes : Int
  valid : Bool
  missed : Bool
  low : Bool
  jump : Bool
  parity : Bool
deriving DecidableEq, Repr

/-- Judges a wedge (R80, R81). -/
def judgeSample (s : State) (q : Nat) (i : SampleIn) : Sample :=
  let a := q / 2
  let v := s.srv q
  let x0 := samplePos i
  let missed := !i.samFound || !(searchMode s q || inGate s q i.samFraction.toNat)
  let low := !missed && burstLow s a i
  let jump := !missed && trackJump s a v x0
  let valid := !(missed || low || jump)
  let x := if valid then x0 else (predicted v).getD v.lastX
  let parity := !missed && !i.rroParityOk
  let c : Int := if s.cfgB (K.actRroEnable a) && i.rroParityOk then i16 i.runout * 4 else 0
  { x := x, pes := x - c - (v.target + v.offset), valid := valid, missed := missed, low := low, jump := jump, parity := parity }

/-- stroke_use of the pair at the latest latch, in nm (spec/05 R110): the head with the larger use, and the use. -/
def strokeUse (s : State) (a pair : Nat) : Nat × Nat :=
  let one (h : Nat) : Nat := (rnd ((at' (s.act a).pztLatch h 0).natAbs * s.cfg (K.actPztGainNmV a h)) 1000).toNat
  let x := one (2 * pair)
  let y := one (2 * pair + 1)
  if x < y then (2 * pair + 1, y) else (2 * pair, x)

/-- The twin record of a slot B sample (spec/05 R109, R110), and the end of twin mode where d is invalid (R113). What d and the residual
hold in a record with map_invalid is not stated: 0 and S (DESIGN CHOICE, log 47). -/
def twinRecord (s : State) (a seq wedge : Nat) : State :=
  let x := s.act a
  let pair := s.nat (K.actTwinPair a)
  let d := surfaceOffset s a pair wedge (s.srv (2 * a)).target
  let use := (strokeUse s a pair).2
  let resid := x.twinShift - d.getD 0
  let w0 := seq % 256 + pair % 16 * 2 ^ 8 + b2n d.isNone * 2 ^ 12 + b2n (decide (s.cfg (K.actStrokeWarnNm a) ≤ use)) * 2 ^ 13
    + b2n (decide (s.cfg (K.actStrokeLimitNm a) < use)) * 2 ^ 14
  let addr := tcmBase a + 0x3F200 + x.twinPos * 16
  let t := s.store addr (leBytes 4 w0 ++ leBytes 4 (cap32 (d.getD 0)) ++ leBytes 4 (cap32 resid) ++ leBytes 2 use ++ leBytes 2 0)
  let t := t.setAct a { x with twinPos := (x.twinPos + 1) % 64, twinD := d.getD 0 }
  if d.isNone then
    let t := actEvent raise t a 136 [pair, cap32 ((s.srv (2 * a)).target / 65536), wedge] none
    twinLeave raise t a 3
  else t

/-- A revolution of a capture is over: it counts where both slots gave valid samples at all 512 wedges (spec/05 R107 steps 2 and 3). -/
def MapCap.closeRev (c : MapCap) : MapCap :=
  let full := decide (c.cur.length = 512)
  { c with inRev := false, cur := [], curMoved := false, revs := c.revs + 1, good := c.good + b2n full,
           sums := if full then (if c.sums.isEmpty then c.cur else List.zipWith (· + ·) c.sums c.cur) else c.sums,
           moved := c.moved || (full && c.curMoved) }

/-- Slot A's sample in a capture: wedge 0 begins a revolution. -/
def MapCap.sampleA (c : MapCap) (w : Nat) (p : Sample) : MapCap :=
  let c := if w = 0 then { (if c.inRev then c.closeRev else c) with inRev := true } else c
  { c with xa := if p.valid then some (w, p.x) else none }

/-- Slot B's sample in a capture: x_B - x_A joins the revolution where it is the next wedge's; wedge 511 ends it. -/
def MapCap.sampleB (c : MapCap) (w : Nat) (p : Sample) (hot : Bool) : MapCap :=
  let c := match c.xa with
    | some (v, x) => if c.inRev ∧ p.valid = true ∧ v = w ∧ c.cur.length = w then
        { c with cur := c.cur ++ [p.x - x], curMoved := c.curMoved || hot } else c
    | none => c
  if w = 511 ∧ c.inRev = true then c.closeRev else c

/-- A sample in a map capture, which begins to run at slot A's wedge 0 (spec/05 R107 steps 2 and 3). -/
def captureSample (s : State) (q w : Nat) (p : Sample) : State :=
  let a := q / 2
  match (s.act a).capture with
  | none => s
  | some c =>
    let s := s.on (q % 2 == 0 && w == 0 && s.nat (K.actCaptureState a) == 1) fun u => u.setN (K.actCaptureState a) 2
    if s.nat (K.actCaptureState a) ≠ 2 then s
    else
      let hot := decide (100 < (at' (s.act a).pztOut (2 * c.pair) 0).natAbs) || decide (100 < (at' (s.act a).pztOut (2 * c.pair + 1) 0).natAbs)
      s.setAct a { s.act a with capture := some (if q % 2 = 0 then c.sampleA w p else c.sampleB w p hot) }

/-- The sample record of R84, written to the next ring position, with the sample interrupt; a record overwritten unread is lost. -/
def sampleRecord (s : State) (q : Nat) (i : SampleIn) (p : Sample) (seq : Nat) : State :=
  let a := q / 2
  let x := s.act a
  let w0 := i.wedge.toNat + b2n i.index * 2 ^ 9 + (s.srv q).head % 16 * 2 ^ 10 + q % 2 * 2 ^ 14 + seq % 256 * 2 ^ 16
    + b2n p.valid * 2 ^ 24 + b2n p.missed * 2 ^ 25 + b2n p.low * 2 ^ 26 + b2n p.jump * 2 ^ 27 + b2n p.parity * 2 ^ 28
    + b2n (writeOk s q) * 2 ^ 29 + b2n (!x.onTime) * 2 ^ 30
  let rec32 := leBytes 4 w0 ++ leBytes 4 i.gray.toNat ++ leBytes 8 (p.x % 2 ^ 64).toNat ++ leBytes 4 (cap32 p.pes)
    ++ leBytes 2 i.burstN.toNat ++ leBytes 2 i.burstQ.toNat ++ leBytes 2 i.runout.toNat
    ++ leBytes 2 (amplitude (i16 i.burstN) (i16 i.burstQ)) ++ leBytes 3 i.samFraction.toNat
    ++ leBytes 1 (s.sun.rev.toNat % 256)
  let t := (s.store (tcmBase a + 0x3F800 + x.ringPos * 32) rec32).on (x.unread.getLsbD x.ringPos) fun u => u.inc (K.actLateCount a)
  t.setAct a { x with ringPos := (x.ringPos + 1) % 64, unread := x.unread ||| ((1 : BitVec 64) <<< x.ringPos),
                      sampleIrqs := x.sampleIrqs + 1 }

/-- A PZT driver fault stands on the head the slot serves (R99). -/
def pztBad (s : State) (q : Nat) : Bool := (s.act (q / 2)).pztFault.toNat.testBit (s.srv q).head

/-- The conditions of R91 other than the write on-track flag. -/
def writeOkConds (s : State) (q : Nat) : Bool :=
  let x := s.act (q / 2)
  (s.srv q).sampleOk && x.onTime && !x.shock && !s.flag (K.actServoDegraded (q / 2)) && !pztBad s q

/-- write_ok rises where the write on-track flag and every condition of R91 hold. -/
def writeOkRise (s : State) (q : Nat) : State :=
  if onWrite' s q && writeOkConds s q then s.setBitOf (K.actWriteOk (q / 2)) (q % 2) true else s

/-- On-track flags and write_ok of a tracking slot after a sample (R90, R91). -/
def trackSample (s : State) (q : Nat) (p : Sample) : State :=
  let a := q / 2
  let v := s.srv q
  let readIn := p.valid && withinPm s a p.pes (s.cfg (K.actReadOntrackPm a))
  let writeIn := p.valid && !p.parity && withinPm s a p.pes (s.cfg (K.actWriteOntrackPm a))
  let good := p.valid && !p.parity && withinPm s a p.pes (s.cfg (K.actWiThresholdPm a))
  let readRun := if readIn then v.readRun + 1 else 0
  -- a shock inhibit needs a new qualification after it (R92)
  let writeIn := writeIn && !(s.act a).shock
  let writeRun := if writeIn then v.writeRun + 1 else 0
  let t := s.setSrv q { v with readRun := readRun, writeRun := writeRun, sampleOk := good, sampleValid := p.valid,
                               lastPes := p.pes,
                               lastValidPes := if p.valid then some p.pes else v.lastValidPes,
                               lastGood := if p.valid then withinPm s a p.pes (s.cfg (K.actWiThresholdPm a)) else v.lastGood }
  let why : OkFall := if !p.valid then .decodeFault else if p.parity then .rroParity else .pes
  let t := if good then t else writeOkFall raise t q why
  let t := if !readIn then setOnTrack raise t q false false
    else if s.cfg (K.actReadOntrackCount a) ≤ readRun then setOnTrack raise t q false true else t
  let t := if writeIn && decide (s.cfg (K.actWriteOntrackCount a) ≤ writeRun) then setOnTrack raise t q true true else t
  let t := writeOkRise t q
  -- a flag of the requested slot ends the wait of R93
  let x := t.act a
  if x.seeking && x.seekSlot = q % 2 && (onRead t q || onWrite' t q) then t.setAct a { x with seeking := false } else t

/-- Decode faults and parity failures of a sample (R81, R102). -/
def faultSample (s : State) (q : Nat) (i : SampleIn) (p : Sample) : State :=
  let a := q / 2
  let v := s.srv q
  let flags := b2n p.valid + b2n p.missed * 2 + b2n p.low * 4 + b2n p.jump * 8 + b2n p.parity * 16
  let run := if p.valid then 0 else v.decodeRun + 1
  let t := s.setSrv q { v with decodeRun := run }
  let t := if p.valid then t else
    actEvent raise (t.inc (K.actDecodeFaultCount a)) a 104 [flags, i.wedge.toNat] (some q)
  let t := if !p.valid && decide (s.nat (K.actActState a) = 3) && decide (run = s.cfg (K.actDecodeRunLimit a)) then
      actEvent raise t a 105 [run] (some q) else t
  if p.parity then actEvent raise (t.inc (K.actRroParityCount a)) a 106 [i.wedge.toNat, i.runout.toNat] (some q) else t

/-- SEARCH to TRACKING after read_ontrack_count consecutive valid samples on slot A (R97 row 6). -/
def searchSample (s : State) (q : Nat) (p : Sample) : State :=
  let a := q / 2
  let v := s.srv q
  let run := if p.valid then v.readRun + 1 else 0
  let t := s.setSrv q { v with readRun := run }
  if s.cfg (K.actReadOntrackCount a) ≤ run then
    let took := s.elapsed (s.act a).since
    let t := t.setSrv q { t.srv q with readRun := 0, writeRun := 0, target := p.x, offset := 0, lastPes := 0 }
    let t := (actEnter t a 3 .firmware).inc (K.actLoadCount a)
    actEvent raise t a 96 [took] none
  else t

/-- SERVO_SAMPLE (R80-R84, R90, R91): the sample, its wedge detection, on-track flags and write_ok, and its record. A slot
that reads no servo delivers nothing (R82). -/
def execServoSample (q : Slot) (i : SampleIn) (s : State) : Host.Outcome State Fault Refusal :=
  if !readsServo s q then .next s
  else
    let a := q.val / 2
    let s := boundaryIn s .wedge (slotOwns q)
    let s := s.setCh q { s.ch q with servo := servoFront s q }
    let p := judgeSample s q i
    let s := captureSample s q i.wedge.toNat p
    let seq := (s.act a).seq
    let st := s.nat (K.actActState a)
    let head := (s.srv q).head
    let t := if q.val % 2 = 1 then twinRecord s a seq i.wedge.toNat else s
    let t := faultSample t q i p
    let v := t.srv q
    let t := t.setSrv q { v with x2 := if p.valid then v.x1 else v.x2, x1 := if p.valid then some p.x else v.x1,
                                 lastX := p.x, seq := seq % 256, lastPes := p.pes, lastMissed := p.missed }
    let t := t.setI (if q.val % 2 = 0 then K.actPesA a else K.actPesB a) (sgn 32 (cap32 p.pes))
    let t := if !p.missed then wedgeDetection t q head i.wedge.toNat i.index (!p.valid) i.samFraction.toNat else t
    let t := if st = 3 then trackSample t q p
      else if st = 2 ∧ q.val % 2 = 0 then searchSample t q p
      else if st = 4 ∧ q.val % 2 = 0 ∧ p.valid ∧ p.x < 0 then
        readersCheck (t.setAct a { t.act a with passed0 := true, since := t.now })
      else t
    let t := sampleRecord t q i p seq
    .next (twinSettle raise (t.setAct a { t.act a with seq := (seq + 1) % 256 }) a)

/-- A biquad section's output and next state (R95): state u₋₁, u₋₂, y₋₁, y₋₂; coefficients Q4.28. -/
def biquad (c : Nat → Int) (u : Int) (st : List Int) : Int × List Int :=
  let g (k : Nat) : Int := st.getD k 0
  let y := rnd (c 0 * u + c 1 * g 0 + c 2 * g 1 - c 3 * g 2 - c 4 * g 3) (2 ^ 28)
  (y, [u, g 0, y, g 2])

/-- A feed-forward term: two sections in series, then the gain in Q16.16 (R95). -/
def feedForward (c : Nat → Int) (gain u : Int) (st : List Int) : Int × List Int :=
  let (y1, s1) := biquad c u (st.take 4)
  let (y2, s2) := biquad (fun k => c (5 + k)) y1 (st.drop 4)
  (rnd (y2 * gain) (2 ^ 16), (s1 ++ s2))

/-- Input of xff: the other actuator's VCM command after its clamp, 0 while it is absent or not in TRACKING (R95). -/
def xffInput (s : State) (a : Nat) : Int :=
  if hasAct s.variant (1 - a) && decide (s.nat (K.actActState (1 - a)) = 3) then (s.act (1 - a)).vcmDriven else 0

/-- The VCM command of a latch (R87, R95), with the saturation count of R102. -/
def latchVcm (s : State) (a : Nat) (cmd rot : Int) : State :=
  let x := s.act a
  let (xff, xs) := if s.cfgB (K.actXffEnable a) then
      feedForward (fun k => s.cfgI (K.actXffCoef a k)) (s.cfgI (K.actXffGain a)) (xffInput s a) x.xffState else (0, [])
  let (rvff, rs) := if s.cfgB (K.actRvffEnable a) then
      feedForward (fun k => s.cfgI (K.actRvffCoef a k)) (s.cfgI (K.actRvffGain a)) rot x.rvffState else (0, [])
  let raw := cmd + xff + rvff
  let lim : Int := s.cfg (K.actVcmCurrentLimit a) * 1000
  let out := clamp (-lim) lim raw
  let sat := if raw = out then 0 else x.vcmSat + 1
  let t := s.setAct a { x with vcmDriven := out, xffState := xs, rvffState := rs, vcmSat := sat,
                               vcmCode := clamp (-32768) 32767 (rnd (out * 65536) 4000000) }
  let t := ((t.setI (K.actVcmCmdUa a) out).setI (K.actXffNowUa a) xff).setI (K.actRvffNowUa a) rvff
  if sat = s.cfg (K.actVcmSatSamples a) ∧ sat ≠ 0 then
    actEvent raise (t.inc (K.actVcmSatCount a)) a 111 [cap32 raw] none else t

/-- One PZT output of a latch (R86-R88, R99), with its saturation count: 0 on a head the drive does not have, with a driver fault or in a
state that holds the outputs (spec/21 R490), else the clamped command, which the output slews to. -/
def latchPzt (s : State) (a h : Nat) (cmd : Int) : State :=
  let x := s.act a
  let lim : Int := s.cfg (K.actPztLimitMv a)
  let out := if x.pztFault.toNat.testBit h || decide (Config.headsUsed a ≤ h) || pztHeld (s.nat (K.actActState a)) then 0 else clamp (-lim) lim cmd
  let sat := if clamp (-lim) lim cmd = cmd then 0 else at' x.pztSat h 0 + 1
  let t := slewPzt (s.setAct a { x with pztTarget := upd x.pztTarget h out, pztSat := upd x.pztSat h sat }) a h
  if sat = s.cfg (K.actPztSatSamples a) ∧ sat ≠ 0 then
    actEvent raise (t.inc (K.actPztSatCount a)) a 113 [h, cap32 cmd] none else t

/-- The twin monitor at a latch in twin mode (spec/05 R113, R114). -/
def twinMonitor (s : State) (a : Nat) : State :=
  if !twinOn s a then s
  else
    let pair := s.nat (K.actTwinPair a)
    let (head, use) := strokeUse s a pair
    let x := s.act a
    let clamped := at' x.pztSat (2 * pair) 0 != 0 || at' x.pztSat (2 * pair + 1) 0 != 0
    let oos := if s.cfg (K.actStrokeLimitNm a) < use then x.oosRun + 1 else 0
    let cl := if clamped then x.clampRun + 1 else 0
    let warn := decide (s.cfg (K.actStrokeWarnNm a) ≤ use) && !x.warned
    let resid := cap32 (x.twinShift - x.twinD)
    let t := s.setAct a { x with oosRun := oos, clampRun := cl, warned := x.warned || warn }
    let t := t.setN (K.actStrokeUseNm a) (use % 65536)
    let t := if t.nat (K.actStrokePeakNm a) < use then t.setN (K.actStrokePeakNm a) (use % 65536) else t
    let t := t.on warn fun u => actEvent raise (u.inc (K.actStrokeWarnCount a)) a 131 [head, use, resid] none
    if x.oosHit = false ∧ (s.cfg (K.actOosSamples a) ≤ oos ∨ s.cfg (K.actPztSatSamples a) ≤ cl) then
      let kind := if s.cfg (K.actOosSamples a) ≤ oos then 0 else 1
      let mask := gatesMask t
      let t := writeOkFallAct raise t a .outOfStroke
      let t := actEvent raise (t.inc (K.actOosCount a)) a 132 [kind, use, resid, mask] none
      let y := t.act a
      let waits := y.demoting.any fun d => d.1 == y.twinZone
      let t := twinLeave raise (t.setAct a { y with oosHit := true, demoting := if waits then y.demoting
        else (y.twinZone, pair, y.twinShift) :: y.demoting }) a 4
      if waits then t else moduleCommit t 4 [zoneAction 5 y.twinZone] (.demote a y.twinZone)
    else t

/-- bemf in mV of the VCM (R88): V - I × Rs - Ls × dI/dt, from the voltage in mV and the currents in µA now and a microsecond before; an
I16, so held within its range (DESIGN CHOICE, log 47). -/
def vcmBemf (s : State) (a : Nat) (mv ua before : Int) : Int :=
  clamp (-32768) 32767
    (rnd (mv * 1000000 - ua * s.cfg (K.actVcmRsMohm a) - s.cfg (K.actVcmLsUh a) * (ua - before) * 1000) 1000000)

/-- The outputs as this latch leaves them are those of the latest latch (spec/05 R110), and the twin monitor judges them. -/
def latchJudged (s : State) (a : Nat) : State :=
  twinSettle raise (twinMonitor (s.setAct a { s.act a with pztLatch := (s.act a).pztOut }) a) a

/-- OUTPUT_LATCH (R86-R88, R91, R95): the block is applied where ready answers the slot's last sample, else the sample is late. A late
sample's latch holds the outputs and counts as a latch in the runs of the twin monitor (DESIGN CHOICE, log 47). -/
def execOutputLatch (q : Slot) (rot : BitVec 16) (vcmMv : BitVec 16) (vcmUa beforeUa : BitVec 32) (s : State) :
    Host.Outcome State Fault Refusal :=
  let a := q.val / 2
  let s := (s.setI (K.actVcmCurrentUa a) vcmUa.toInt).setI (K.actVcmBemfMv a) (vcmBemf s a vcmMv.toInt vcmUa.toInt beforeUa.toInt)
  if !readsServo s q then .next s
  else
    let blk := tcmBase a + 0x3F100
    let word (o n : Nat) : Nat := leNat (s.load (blk + o) n)
    let seq := (s.srv q).seq
    if word 0x3C 4 % 256 = seq then
      let was := (s.act a).onTime
      let t := s.setAct a { s.act a with onTime := true, lateRun := 0 }
      let t := t.setSrv (2 * a) { t.srv (2 * a) with offset := sgn 32 (word 4 4) }
      let t := t.setSrv (2 * a + 1) { t.srv (2 * a + 1) with offset := sgn 32 (word 8 4) }
      let t := latchVcm t a (sgn 32 (word 0 4)) (i16 rot)
      let t := (List.range 12).foldl (fun u h => latchPzt u a h (sgn 16 (word (0x10 + 2 * h) 2))) t
      let t := latchJudged t a
      .next (if was then t else (slotsOf a).foldl writeOkRise t)
    else
      let x := s.act a
      let run := x.lateRun + 1
      let t := (s.setAct a { x with onTime := false, lateRun := run }).inc (K.actLateCount a)
      let t := writeOkFallAct raise t a .late
      let t := actEvent raise t a 109 [seq] (some q.val)
      let t := if run = s.cfg (K.actLateLimit a) then actEvent raise t a 110 [run] none else t
      .next (latchJudged t a)

/-- The mailbox as TRL[a] writes it to the servo interface area, twin extension first (R85, spec/05 R109). -/
def mailboxBytes (s : State) (a : Nat) (mb : Mailbox) : State :=
  let base := tcmBase a
  let t := if mb.twin then
      s.store (base + 0x3F010) (leBytes 4 mb.pairShift.toNat ++ leBytes 4 (mb.zone.toNat + mb.pair.toNat * 2 ^ 18)) else s
  let w := mb.head.val + b2n mb.slotB * 2 ^ 4 + b2n mb.write * 2 ^ 5 + b2n mb.twin * 2 ^ 6
  t.store (base + 0x3F000)
    (leBytes 8 mb.target.toNat ++ leBytes 2 w ++ leBytes 2 mb.seekSeq.toNat ++ leBytes 4 mb.deadline.toNat)

/-- A slot takes a target: its on-track flags clear, write_ok with them (R85, R90). -/
def loadTarget (s : State) (q : Nat) (target : Int) (head : Nat) : State :=
  let a := q / 2
  let t := writeOkFall raise s q .unlisted
  let t := (t.setBitOf (K.actOnTrackRead a) (q % 2) false).setBitOf (K.actOnTrackWrite a) (q % 2) false
  let old := (t.srv q).head
  let t := t.setSrv q { t.srv q with target := target, head := head, readRun := 0, writeRun := 0 }
  let heads := t.nat (K.actActiveHeads a)
  let heads' := if q % 2 = 0 then heads - heads % 16 + head else heads - bitsOf heads 4 4 * 16 + head * 16
  let t := (t.setN (K.actActiveHeads a) heads').setN (K.slotSlotHead q) head
  if old = head then t else actEvent raise t a 116 [old, head] (some q)

/-- A write of the seek mailbox (R85, spec/05 R109). -/
def seekWrite (s : State) (a : Nat) (mb : Mailbox) : State :=
  let q := 2 * a + b2n mb.slotB
  let t := (mailboxBytes s a mb).inc (K.actSeekCount a)
  let target := mb.target.toInt
  let t := if mb.twin then
      let t := loadTarget t (2 * a) target mb.head.val
      let t := loadTarget t (2 * a + 1) (target + mb.pairShift.toInt) (mb.head.val + 1)
      t.setAct a { t.act a with twinShift := mb.pairShift.toInt, twinZone := mb.zone.toNat }
    else loadTarget t q target mb.head.val
  t.setAct a { t.act a with seekIrqs := (t.act a).seekIrqs + 1, seekSeq := mb.seekSeq.toNat, seekSlot := b2n mb.slotB, seekWrite := mb.write,
                            seeking := true, deadline := mb.deadline.toNat }

/-- SEEK_MAILBOX_WRITE (R85). -/
def execSeekMailboxWrite (a : Act) (mb : Mailbox) (s : State) : Host.Outcome State Fault Refusal := .next (seekWrite s a.val mb)

/-- SEEK_TIMEOUT (R93): neither flag of the requested slot is set within seek_timeout_us. -/
def execSeekTimeout (a : Act) (s : State) : Host.Outcome State Fault Refusal :=
  let x := s.act a
  let q := 2 * a.val + x.seekSlot
  if !x.seeking || onRead s q || onWrite' s q then .next s
  else
    let t := (s.setAct a { x with seeking := false }).inc (K.actSeekTimeoutCount a)
    let t := actEvent raise t a 102 [x.seekSeq, cap32 (s.srv q).target, cap32 (s.srv q).lastX] (some q)
    .next (if twinOn s a then (slotsOf a).foldl (fun u r => returnSlot raise u r 12) t else returnSlot raise t q 12)

/-- SETTLE_MISS (R93): the first gate angle passes before the flag the descriptor needs is set; the sectors slip. -/
def execSettleMiss (a : Act) (sectors : BitVec 16) (s : State) : Host.Outcome State Fault Refusal :=
  let x := s.act a
  let q := 2 * a.val + x.seekSlot
  if (if x.seekWrite then writeOk s q else onRead s q) then .next s
  else
    let t := s.inc (K.actSettleMissCount a)
    let t := t.setCh q { t.ch q with moved := (t.ch q).moved + sectors.toNat }
    .next (actEvent raise t a 103 [x.seekSeq, sectors.toNat] (some q))

/-- The axis and peak of a shock by an actuator's thresholds, none where no axis exceeds (R92): axes 0-2 linear, 3 rotational. -/
def shockAxis (s : State) (a : Nat) (x y z rot : Int) : Option (Nat × Nat) :=
  let lim := s.cfg (K.actShockLinMg a)
  if lim < x.natAbs then some (0, x.natAbs)
  else if lim < y.natAbs then some (1, y.natAbs)
  else if lim < z.natAbs then some (2, z.natAbs)
  else if s.cfg (K.actShockRotRadS2 a) < rot.natAbs then some (3, rot.natAbs)
  else none

/-- An accelerometer sample at one actuator (R92). -/
def shockAct (s : State) (a : Nat) (x y z rot : Int) : State :=
  if !hasAct s.variant a || !s.cfgB (K.actShockEnable a) then s
  else match shockAxis s a x y z rot with
    | none => s
    | some (axis, peak) =>
      let onset := !(s.act a).shock
      let mask := gatesMask s
      let t := s.setAct a { s.act a with shock := true }
      let t := t.on onset fun u => actEvent raise (u.inc (K.actShockInhibitCount a)) a 108 [axis, peak, mask] none
      twinSettle raise (writeOkFallAct raise t a .shock) a

/-- ACCEL_SAMPLE (R92): each actuator compares the shared sensor against its own thresholds. -/
def execAccelSample (x y z rot : BitVec 16) (s : State) : Host.Outcome State Fault Refusal :=
  .next ([0, 1].foldl (fun t a => shockAct t a (i16 x) (i16 y) (i16 z) (i16 rot)) s)

/-- SHOCK_HOLDOFF_EXPIRY (R92): shock_holdoff_us has passed with no shock. -/
def execShockHoldoffExpiry (a : Act) (s : State) : Host.Outcome State Fault Refusal :=
  .next (s.setAct a { s.act a with shock := false })

/-- The VCM model is valid (R89), and the servo memories passed their self-test (spec/14 R343). -/
def vcmModel (s : State) (a : Nat) : Bool :=
  s.nat (K.actVcmRsMohm a) != 0 && s.nat (K.actVcmLsUh a) != 0 && !s.eccFailed 13

/-- A load request as firmware or the mode manager makes it (R97 rows 3 and 4). -/
def loadNow (s : State) (a : Nat) : State :=
  if vcmModel s a && s.flag K.spinLoadPermit then
    let t := holdRes raise s (slotAHolder a) 0
    actEnter t a 1 (driverMove s a (-outward s a (s.cfg (K.actLoadBemfMv a))))
  else loadEscalate raise (loadFail raise s a (if vcmModel s a then 0 else 1)) a

/-- The action of an accepted LOAD_REQUEST (R97): outside PARKED it is ignored and counted as a violation. -/
def loadRequestAct (m : Nat) (a : Nat) (t : State) : State :=
    if t.nat (K.actActState a) = 0 then loadNow t a else violation t m

/-- LOAD_REQUEST (R97). -/
def execLoadRequest (m : Master) (a : Act) (v : Word) (s : State) : Host.Outcome State Fault Refusal :=
  .next (kwrite s m (K.actLoadRequest a) v (loadRequestAct m a))

/-- The action of an accepted UNLOAD_REQUEST (R97): in FAULT it is ignored and counted as a violation. -/
def unloadRequestAct (m : Nat) (a : Nat) (t : State) : State :=
    if t.nat (K.actActState a) = 6 then violation t m else unloadNow raise t a

/-- UNLOAD_REQUEST (R97). -/
def execUnloadRequest (m : Master) (a : Act) (v : Word) (s : State) : Host.Outcome State Fault Refusal :=
  .next (kwrite s m (K.actUnloadRequest a) v (unloadRequestAct m a))

/-- LOAD_MS_EXPIRY (R97 row 5); an unload request that was held acts in the first evaluation of SEARCH. -/
def execLoadMsExpiry (a : Act) (s : State) : Host.Outcome State Fault Refusal :=
  if s.nat (K.actActState a) ≠ 1 then .next s
  else
    let held := (s.act a).unloadHeld
    let t := (slotsOf a).foldl (fun u q => u.setSrv q { u.srv q with x1 := none, x2 := none, readRun := 0, decodeRun := 0 }) s
    let t := actEnter t a 2 .hold
    .next (if held then unloadNow raise t a else t)

/-- LOAD_SEARCH_TIMEOUT (R97 row 7). -/
def execLoadSearchTimeout (a : Act) (s : State) : Host.Outcome State Fault Refusal :=
  if s.nat (K.actActState a) ≠ 2 then .next s
  else .next (unloadNow raise (loadFail raise s a 2) a)

/-- The actuator is PARKED with park hold (R97 rows 2 and 9); its slot A reservation ends (spec/20 R464). -/
def parked (s : State) (a path : Nat) : State :=
  let t := actEnter s a 0 (.parkHold (outward s a (s.cfg (K.actParkHoldMa a))))
  let t := unholdRes raise t (slotAHolder a)
  loadEscalate raise (actEvent raise t a 97 [path] none) a

/-- UNLOAD_COMPLETE (R97 row 9): the outer crash position, or unload_ms since the head passed track 0. -/
def execUnloadComplete (a : Act) (s : State) : Host.Outcome State Fault Refusal :=
  if s.nat (K.actActState a) ≠ 4 then .next s
  else .next (parked (s.inc (K.actUnloadCount a)) a 0)

/-- UNLOAD_TIMEOUT (R97 row 10): 2 × unload_ms without reaching track 0. -/
def execUnloadTimeout (a : Act) (s : State) : Host.Outcome State Fault Refusal :=
  if s.nat (K.actActState a) ≠ 4 ∨ (s.act a).passed0 = true then .next s
  else
    let t := stopLink s a
    let t := t.setAct a { t.act a with unloadHeld := false, passed0 := false }
    let t := actEnter t a 5 (driverMove s a (outward s a (s.cfg (K.actRetractBemfMv a))))
    .next (actEvent raise t a 100 [cap32 (s.srv (2 * a.val)).lastX] none)

/-- RETRACT_EXPIRY (R97 row 2): retract_ms elapsed. -/
def execRetractExpiry (a : Act) (s : State) : Host.Outcome State Fault Refusal :=
  if s.nat (K.actActState a) ≠ 5 then .next s
  else .next (parked (s.inc (K.actRetractCount a)) a 1)

/-- PARK_HOLD_EXPIRY (R97): park hold ends and the VCM is off. -/
def execParkHoldExpiry (a : Act) (s : State) : Host.Outcome State Fault Refusal :=
  .next (match (s.act a).vcm with
    | .parkHold _ => s.setAct a { s.act a with vcm := .off }
    | .off | .velocity .. | .brake | .hold | .firmware | .highZ => s)

/-- BEMF_OVERSPEED (R97 row 12). -/
def execBemfOverspeed (a : Act) (bemfMv : BitVec 16) (s : State) : Host.Outcome State Fault Refusal :=
  let st := s.nat (K.actActState a)
  if (st = 1 ∨ st = 4 ∨ st = 5) ∧ s.cfg (K.actOverspeedBemfMv a) < bemfMv.toNat then
    .next (actEvent raise (s.setAct a { s.act a with vcm := .brake }) a 115 [bemfMv.toNat, st] none)
  else .next s

/-- VCM_DRIVER_FAULT (R99): the output goes to high impedance; the event's default reaction resets the driver. -/
def execVcmDriverFault (a : Act) (cause : VcmCause) (s : State) : Host.Outcome State Fault Refusal :=
  let c := match cause with | .overcurrent => 0 | .short => 1 | .undervoltage => 2
  .next (actEvent raise (s.setAct a { s.act a with vcm := .highZ }) a 112 [c] none)

/-- PZT_DRIVER_FAULT (R99): the output goes to 0 V, and write_ok stays 0 for a slot while it serves that head; twin mode on
the head's pair ends (spec/05 R112). -/
def execPztDriverFault (a : Act) (h : Head) (cause : BitVec 8) (s : State) : Host.Outcome State Fault Refusal :=
  let x := s.act a
  let t := s.setAct a { x with pztFault := x.pztFault ||| ((1 : BitVec 12) <<< h.val), pztOut := upd x.pztOut h 0,
                               pztTarget := upd x.pztTarget h 0, pztCode := upd x.pztCode h 0 }
  let t := t.setI (K.actPztOutMv a h) 0
  let t := (slotsOf a).foldl (fun u q => if (u.srv q).head = h.val then writeOkFall raise u q .pztFault else u) t
  let t := if s.nat (K.actTwinPair a) = h.val / 2 then twinLeave raise t a 5 else t
  .next (actEvent raise t a 114 [h.val, cause.toNat] none)

/-- The action of an accepted SERVO_DEGRADED_CLEAR (R100). -/
def servoDegradedClearAct (a : Nat) (t : State) : State :=
  (slotsOf a).foldl writeOkRise t

/-- SERVO_DEGRADED_CLEAR (R100). -/
def execServoDegradedClear (m : Master) (a : Act) (v : Word) (s : State) : Host.Outcome State Fault Refusal :=
  .next (kwrite s m (K.actServoDegraded a) v (servoDegradedClearAct a))

end Sys2Proof.Machine
end

