-- ==== Sys2Proof/Machine/Modes.lean ====
section
/-! DEFINITION. The mode manager and the power domains (spec/20 R450-R462): requests, mode rows, Safe, Standby wakes, domain
requests and what a domain's power-up and power-down do. -/

namespace Sys2Proof.Machine

/-! ### Requests (R454) -/

/-- A write that the mode manager makes as PWR. -/
def pwrWrite (s : State) (k : Key) (n : Nat) : State := match objRow (k / 256) (k % 256) with
  | some r => storeObj s r k (BitVec.ofNat 64 n)
  | none => s

/-- The mode that the host's power state names (R453), and its source: 0 while the host has set none. -/
def hostTarget (s : State) : Nat × Nat :=
  let ps := s.nat K.pmHostPs
  (if ps ≤ 1 then 1 else ps, if ps ≠ 0 ∨ (Sp.get s.host.features 2).isSome = true then 1 else 0)

/-- The highest standing request below the thermal one. -/
def plainTarget (s : State) : Nat × Nat :=
  let m := s.nat K.pmMgmtRequest
  if m ≠ 0 then (m, 2) else hostTarget s

/-- The target mode of the request in force, and its source (R454): the thermal-forced request is never a cause of higher power. -/
def modeTargetOf (s : State) : Nat × Nat :=
  let p := plainTarget s
  if s.nat K.pmThrottleStep = 5 then (if 3 ≤ p.1 then p.1 else 2, 3) else p

/-- MGMT_REQUEST_WRITE (R454). -/
def execMgmtRequestWrite (m : Master) (v : Word) (s : State) : Host.Outcome State Fault Refusal :=
  .next (kwrite s m K.pmMgmtRequest v id)

/-! ### Mode rows (R451, R452) -/

/-- Present actuators. -/
def presentActs (s : State) : List Nat := (List.range 2).filter (hasAct s.variant)

/-- The row that leads from a mode toward a target. -/
def rowFor (mode target : Nat) : Nat := if mode < target then 4 + mode else 12 - mode
/-- The mode that a row leads to. -/
def rowTo (row : Nat) : Nat := if row ≤ 7 then row - 3 else 11 - row

/-- Brings the domains to the sets of a mode before the mode is reached. -/
def preSets (s : State) (mode : Nat) : State := (applySets (s.setN K.pmMode mode)).setN K.pmMode (s.nat K.pmMode)

/-- Slot B reservations withdrawn on a mode change, ACT[1] first; their cause in event 8 is none of the listed ones: free. -/
def withdrawBoth (s : State) : State :=
  [1, 0].foldl (fun t a => if holds t (slotBHolder a) then withdrawSlotB raise t.drawn a (t.free.toNat % 256) else t) s

/-- spin_enable 0 in row 7, once the planned flush is done; a failed flush is started again. -/
def spinDown (s : State) : State :=
  if s.sheaf.flush.isSome then s
  else if s.flag K.sheafPwcArmed && s.nat K.sheafFlushState != 2 then flushAsk s 2
  else
    let t := spinAct (pwrWrite s K.spinSpinEnable 0)
    { t with power := { t.power with rowStep := true } }

/-- load_request on both actuators in row 9, once load_permit holds at the restored target. -/
def loadBoth (s : State) : State :=
  if s.flag K.spinLoadPermit && decide (s.nat K.spinTargetRpm * s.nat K.spinLoadMinPct ≤ (s.int K.spinSpeedCrpm).natAbs) then
    let t := (presentActs s).foldl (fun u a => if u.nat (K.actActState a) = 0 then loadNow u a else u) s
    { t with power := { t.power with rowStep := true } }
  else s

/-- What a row in progress still has to start. -/
def rowProgress (s : State) : State := match s.power.row with
  | some 7 => if s.power.rowStep then s else spinDown s
  | some 9 => if s.power.rowStep then s else loadBoth s
  | _ => s

/-- The action that starts a row (R451). -/
def rowAction (s : State) (row : Nat) : State :=
  if row = 5 then let t := withdrawBoth s; pauseEngines raise t (runningEngines t) false
  else if row = 6 then
    let t := (presentActs s).foldl (unloadNow raise) s
    let t := { t with power := { t.power with rpmSaved := some (s.nat K.spinTargetRpm) } }
    if s.nat K.pmUnloadedRpm = 0 then t else pwrWrite t K.spinTargetRpm (s.nat K.pmUnloadedRpm)
  else if row = 7 then s.on (s.flag K.sheafPwcArmed) fun t => flushAsk t 2
  else if row = 8 then
    let t := preSets { s with power := { s.power with electronicsWake := false } } 3
    spinAct (pwrWrite t K.spinSpinEnable 1)
  else if row = 9 then
    let t := preSets s 2
    match t.power.rpmSaved with
    | some n => pwrWrite { t with power := { t.power with rpmSaved := none } } K.spinTargetRpm n
    | none => t
  else preSets s 1

/-- A row starts. -/
def startRow (s : State) (row : Nat) : State :=
  rowAction { s with power := { s.power with row := some row, rowLate := false, rowStep := false } } row

/-- The completion condition of a row (R451). -/
def rowDone (s : State) (row : Nat) : Bool :=
  if row = 5 then [1, 3].all (slotQuiet s) && allSlots.all fun q => (s.wr q).gate.isNone && (s.ch q).gate.isNone
  else if row = 6 then (presentActs s).all (fun a => s.nat (K.actActState a) == 0) && s.flag K.spinAtSpeed
  else if row = 7 then s.power.rowStep && motorState s == 0
  else if row = 8 then s.flag K.spinLoadPermit
  else if row = 9 then (presentActs s).all fun a => s.nat (K.actActState a) == 3
  else [37, 39, 45, 47].all fun d => s.nat (K.pmDomainState d) != 2

/-- The mode changes at the end of a row, with event 0; a lower mode's domains go to their states, and in Standby the Sieve's runs are
withdrawn; at Active the Sieve's runs resume (R450-R452, R461). -/
def endRow (s : State) (row : Nat) : State :=
  let old := s.nat K.pmMode
  let dest := rowTo row
  let t := { s with power := { s.power with row := none, rowLate := false } }.setN K.pmMode dest
  let t := if row = 7 then (List.range 8).foldl (withdrawRun raise) t else t
  let t := if row ≤ 7 then applySets t else t
  let t := modeEvent raise t 0 [old, dest, t.nat K.pmModeSource]
  if row = 10 then afterRun t else t

/-- Row 4 of R451: link_enable has been written 1. -/
def leaveBoot (s : State) : State :=
  modeEvent raise (s.setN K.pmMode 1) 0 [0, 1, s.nat K.pmModeSource]

/-- pd_eth_phy powers up once the reservation of R464 is granted. -/
def ethPower (s : State) : State :=
  s.on (s.nat (K.pmDomainRequest 19) == 1 && s.nat K.hostHostTransport == 1 && holds s .ethernet && s.nat (K.pmDomainState 19) == 1)
    fun t => domainGo t 19 1

/-- What a tick does outside Safe, power loss and trip (R451, R452). -/
def manageMode (s : State) : State :=
  let (target, source) := modeTargetOf s
  let s := ethPower s
  let t := if s.power.row.isSome then rowProgress s else (s.setN K.pmModeTarget target).setN K.pmModeSource source
  if t.nat K.pmMode = 0 then (if t.power.released then leaveBoot t else t)
  else if t.power.row.isSome ∨ t.nat K.pmMode = target then t
  else startRow t (rowFor (t.nat K.pmMode) target)

/-- MODE_TICK (R451, R452): a standing Safe request is taken at once; no row moves while a power loss or a trip is in force. -/
def execModeTick (s : State) : Host.Outcome State Fault Refusal :=
  .next (if s.nat K.pmMode = 5 then s
    else match s.ev.safeReq with
      | some c => safeEnter raise s c false
      | none => if s.power.loss || s.power.trip.isSome then s else manageMode s)

/-- MODE_ROW_COMPLETE (R452). -/
def execModeRowComplete (s : State) : Host.Outcome State Fault Refusal :=
  .next (match s.power.row with
    | none => s
    | some row => if rowDone s row then endRow s row else s)

/-- MODE_ROW_TIMEOUT (R452): once a row; the mode manager keeps trying. -/
def execModeRowTimeout (s : State) : Host.Outcome State Fault Refusal :=
  .next (match s.power.row with
    | none => s
    | some row => if s.power.rowLate then s
      else modeEvent raise { s with power := { s.power with rowLate := true } } 10 [row, s.nat K.pmMode])

/-! ### Safe, supplies (R456, R457) -/

/-- SAFE_ENTRY (R451 row 1, R456): a hardware entry acts at once, another where a Safe request stands. -/
def execSafeEntry (cause : Fin 512) (hw : Bool) (s : State) : Host.Outcome State Fault Refusal :=
  .next (if hw then safeEnter raise s cause true else match s.ev.safeReq with
    | some c => safeEnter raise s c false
    | none => s)

/-- SUPPLY_OUT_OF_RANGE (R457): rail 0 is 12 V, rail 1 is 5 V; the millivolts tell low from high. -/
def execSupplyOutOfRange (rail : Fin 2) (mv : BitVec 16) (s : State) : Host.Outcome State Fault Refusal :=
  let n := mv.toNat
  let (lossAt, lo, hi) := if rail = 0 then (10200, 10800, 13200) else (4500, 4750, 5250)
  .next (if lossAt ≤ n ∧ n < lo then modeEvent raise s 2 [rail, n]
    else if hi < n then modeEvent raise s 3 [rail, n]
    else s)

/-! ### Standby (R455) -/

/-- Domains of the electronics wake. -/
def wakeDomains : List Nat := [14, 4, 10, 11, 12, 13, 21, 22, 23]

/-- Codes of event 11. -/
def wakeCode (c : WakeCause) : Nat := match c with
  | .perst => 0 | .doorbell => 1 | .capsule => 2 | .management => 3

/-- STANDBY_WAKE (R455). -/
def execStandbyWake (cause : WakeCause) (mediaNeeded : Bool) (s : State) : Host.Outcome State Fault Refusal :=
  .next (if s.nat K.pmMode ≠ 4 ∨ s.power.electronicsWake then s
    else
      let t := modeEvent raise { s with power := { s.power with electronicsWake := true } } 11 [wakeCode cause, b2n mediaNeeded]
      wakeDomains.foldl (fun u d => domainGo u d 1) t)

/-- STANDBY_IDLE_EXPIRY (R455): the last command has completed, and the target is still Standby. -/
def execStandbyIdleExpiry (s : State) : Host.Outcome State Fault Refusal :=
  .next (if s.nat K.pmMode = 4 ∧ s.power.electronicsWake ∧ s.power.row.isNone ∧ (modeTargetOf s).1 = 4
      ∧ (s.host.table.all fun e => e.st == .committed) = true then
    wakeDomains.foldl (fun u d => domainGo u d 2) { s with power := { s.power with electronicsWake := false } }
    else s)

/-! ### Domains (R459-R462) -/

/-- The Cellar group changes state as one (R460). -/
def domainGroup (d : Nat) : List Nat := if 21 ≤ d ∧ d ≤ 23 then [21, 22, 23] else [d]

/-- The action of an accepted DOMAIN_REQUEST (R460, R464): pd_eth_phy waits for the Ethernet reservation. -/
def domainRequestAct (d : Nat) (v : Word) (t : State) : State :=
    let n := v.toNat
    let t := (domainGroup d).foldl (fun u x => u.setN (K.pmDomainRequest x) n) t
    if d = 19 ∧ n = 1 ∧ t.nat K.hostHostTransport = 1 then ethPower (requestRes raise t .ethernet)
    else (domainGroup d).foldl (fun u x => domainGo u x n) t

/-- DOMAIN_REQUEST (R460, R464). -/
def execDomainRequest (m : Master) (d : Fin 52) (v : Word) (s : State) : Host.Outcome State Fault Refusal :=
  .next (kwrite s m (K.pmDomainRequest d) v (domainRequestAct d v))

/-- The master whose domain this is (R393). -/
def domainMaster (d : Nat) : Option Nat := (([(1, 0), (3, 1), (4, 2), (5, 3), (6, 4), (7, 5), (40, 6), (48, 7), (41, 8), (49, 9),
  (36, 10), (37, 11), (44, 12), (45, 13), (35, 14), (2, 15)] : List (Nat × Nat)).find? fun p => p.1 == d).map (·.2)

/-- The Trellis engine of a domain (R459). -/
def domainEngine (d : Nat) : Option Nat :=
  if d = 41 then some 0 else if d = 49 then some 1 else if d = 36 then some 2 else if d = 37 then some 3
  else if d = 44 then some 4 else if d = 45 then some 5 else if d = 35 then some 6 else none

/-- The slot whose front end or detector is in a domain. -/
def domainSlot (d : Nat) : Option Nat :=
  if 36 ≤ d ∧ (d - 36) % 8 < 4 then some (2 * ((d - 36) / 8) + (d - 36) % 2) else none

/-- The checker of R343 that a domain's memories have. -/
def domainChecker (d : Nat) : Option Nat :=
  if d = 8 ∨ d = 9 then some (d - 7)
  else if 25 ≤ d ∧ d ≤ 32 then some 12
  else if d = 40 ∨ d = 48 then some 13
  else if (domainEngine d).isSome then some 14
  else if 36 ≤ d ∧ (d - 36) % 8 < 4 then some (8 + 2 * ((d - 36) / 8) + (d - 36) % 2)
  else none

/-- An object index belongs to a unit of a domain (R459): its values other than RW start again at the domain's power-up (R394). -/
def domainOwns (d i : Nat) : Bool :=
  let a := (d - 36) / 8
  let window (lo hi : Nat) : Bool := decide (lo ≤ i) && decide (i ≤ hi)
  let slot (q : Nat) (afe : Bool) : Bool :=
    decide (0x5000 + 0x400 * q ≤ i) && decide (i < 0x5400 + 0x400 * q) && !(0x5300 ≤ i && i ≤ 0x5304) && (decide (i % 0x400 < 0x80) == afe)
  let trl (n : Nat) : Bool := window (0xC000 + 0x100 * n) (0xC0FF + 0x100 * n)
  (match domainEngine d with | some n => trl n | none => false)
    || (if d = 8 then window 0x7100 0x7101
      else if d = 14 then window 0x6000 0x67FF || window 0x7200 0x7301 || window 0x7A00 0x7C00
      else if d = 16 then window 0xA040 0xA042
      else if d = 18 then window 0x6800 0x680F || i == 0x6820
      else if d = 20 then i == 0x6810
      else if 25 ≤ d ∧ d ≤ 32 then i == 0x8010 + (d - 25)
      else if d = 33 then window 0x8200 0x8201
      else if d = 34 then window 0x5300 0x5304
      else if d = 35 then window 0x2000 0x27FF
      else if d < 36 then false
      else match (d - 36) % 8 with
        | 0 => slot (2 * a) true
        | 1 => slot (2 * a + 1) true
        | 2 => slot (2 * a) false
        | 3 => slot (2 * a + 1) false
        | 4 => window (0x3000 + 0x800 * a) (0x37FF + 0x800 * a)
        | 5 => window (0x4000 + 0x800 * a) (0x47FF + 0x800 * a) && i != 0x4010
        | _ => false)

/-- Objects of a domain other than RW and fused ones are as at reset (R394). -/
def resetObjects (s : State) (d : Nat) : State :=
  { s with dict := s.dict.filter fun e => !domainOwns d (e.1 / 256) || warmKey e.1 || durableKey e.1 }

/-- Once in a Boot, before any master can use the domain, its checker is tested (R343, R462). -/
def testDomain (s : State) (d : Nat) (ok : Bool) : State :=
  match domainChecker d with
  | none => s
  | some b => if (Sp.get s.memory.tested d).isSome then s
    else checkerResult { s with memory := { s.memory with tested := Sp.put s.memory.tested d () } } b ok

/-- An engine comes up with its stores cleared, in LOAD (spec/10 R219, R230). -/
def engineUp (s : State) (n : Nat) : State :=
  if hasTrl s.variant n then (((s.setEng n {}).setN (K.trlState n) 1).setN (K.trlLoadState n) 1) else s

/-- The scratchpad's lines in a half of the cache are zero (R329, R330). -/
def clearScratch (s : State) (half : Nat) : State :=
  { s with mem := s.mem.filter fun c => decide (c.1 < 0x50000000) || decide (0x50300000 ≤ c.1) || c.1 / 64 % 2 != half }

/-- A channel slot whose detector, sample buffer and write pipeline come up (R329). -/
def freshSlot (s : State) (q : Nat) : State :=
  rebuf (refreshWrite ((clearBytes (s.setCh q {}) (entryAddr q 0) (16 * 0xE800)).setWr q {}) q) q

/-- What power-up from off does in a domain: SRAM cleared, objects as at reset, engines in LOAD or idle (R329, R394, R461). -/
def freshUp (s : State) (d : Nat) : State :=
  let a := (d - 36) / 8
  let t := resetObjects s d
  let t := match domainEngine d with | some n => engineUp t n | none => t
  if d = 1 then { t with locals := { t.locals with srSram := [] } }
  else if d = 3 then { t with locals := { t.locals with pwrSram := [] } }
  else if 4 ≤ d ∧ d ≤ 7 then { t with locals := { t.locals with l1i := upd t.locals.l1i (d - 4) [], l1d := upd t.locals.l1d (d - 4) [] } }
  else if d = 8 ∨ d = 9 then clearScratch t (d - 8)
  else if 10 ≤ d ∧ d ≤ 13 then clearBytes t ctxBase (0x40840000 - ctxBase)
  else if d = 14 then
    { t with pan := {}, zones := {}, sheaf := { slots := t.sheaf.slots }
             memory := { t.memory with trackers := Vector.replicate 8 [] } }
  else if d = 16 then { t with ev := { t.ev with parts := Vector.replicate 3 {} } }
  else if 25 ≤ d ∧ d ≤ 32 then
    let n := d - 25
    (clearBytes (t.setSieveEng n {}) (localBase n) 0x40000).setN (K.engEngineState n) (b2n (!t.eccFailed 12))
  else if d = 34 then { t with deep := {} }
  else if d = 35 then { t with motor := {} }
  else if d < 36 then t
  else match (d - 36) % 8 with
    | 2 => freshSlot t (2 * a)
    | 3 => freshSlot t (2 * a + 1)
    | 4 => (slotsOf a).foldl (fun u q => u.setSrv q {}) (clearBytes (t.setAct a {}) (0x78000000 + a * 0x100000) 0x40000)
    | 5 => t.setLink a {}
    | _ => t

/-- The Cellar follows its group: self-refresh in retention, ready again without a new fill (R328). -/
def cellarFollows (s : State) (d st : Nat) : State :=
  if d ≠ 21 then s
  else if st = 4 ∧ s.nat K.memCellarState = 3 then s.setN K.memCellarState 4
  else if st = 3 ∧ s.nat K.memCellarState = 4 then s.setN K.memCellarState 3
  else s

/-- What an engine that stops leaves (spec/10 R230): outputs zero, descriptors returned, slots reset, the bridge off. -/
def engineLeaves (r : Raiser) (s : State) (n : Nat) : State :=
  let t := trlQuiet s n
  if n < 2 then (slotsOf n).foldl (slotReset r) (returnDescs t n 0)
  else if n < 6 then slotReset r t (n - 2)
  else { t with motor := { t.motor with bridge := .highZ } }

/-- An engine's domain is off. -/
def engineDown (s : State) (n : Nat) : State :=
  if hasTrl s.variant n then (engineLeaves raise s n).setN (K.trlState n) 0 else s

/-- What reaching off does: locks of the domain's master are released, its unit's work ends (R329, R393, spec/10 R230, spec/14 R342). -/
def domainOff (s : State) (d : Nat) : State :=
  let a := (d - 36) / 8
  let t := match domainMaster d with | some m => releaseLocks raise s m 0 | none => s
  let t := match domainEngine d with | some n => engineDown t n | none => t
  let t := match domainSlot d with | some q => slotReset raise t q | none => t
  if d = 2 then { t with mgmt := {} }.setN K.mgmtMgmtLinkState 0
  else if d = 8 ∨ d = 9 then loseHalf t (d - 8)
  else if d = 14 then hoeStop t 2
  else if d = 17 then (if t.nat K.hostHostTransport = 0 then linkDown t else t)
  else if d = 18 then linkDown (releaseLocks raise ((sieveControllerReset raise t).setHost {}) 16 0)
  else if d = 19 then linkDown (ethReset t)
  else if d = 20 then ethReset t
  else if 25 ≤ d ∧ d ≤ 32 then (withdrawRun raise t (d - 25)).setN (K.engEngineState (d - 25)) 0
  else if d = 34 then deepReset raise t
  else if d = 35 then motorEnter t 0
  else if d < 36 then t
  else match (d - 36) % 8 with
    | 4 => unholdRes raise (leaveTracking raise t a) (slotAHolder a)
    | 5 => stopLink t a
    | 6 => t.setAct a { t.act a with vcm := .off }
    | _ => t

/-- DOMAIN_TRANSITION_DONE (R460, R462): a domain reaches the state it was going to. -/
def execDomainTransitionDone (d : Fin 52) (checkerOk : Bool) (s : State) : Host.Outcome State Fault Refusal :=
  let st := s.nat (K.pmDomainState d)
  let goal := (Sp.get s.power.goal d).getD 0
  let s' := { s with power := { s.power with goal := Sp.del s.power.goal d } }
  .next (if st = 2 then
      let t := if goal = 3 then s' else testDomain s' d checkerOk
      cellarFollows ((if goal = 3 then t else freshUp t d).setN (K.pmDomainState d) 3) d 3
    else if st = 5 then
      if goal = 2 then cellarFollows ((if d.val = 14 then hoeStop s' 2 else s').setN (K.pmDomainState d) 4) d 4
      else (domainOff s' d).setN (K.pmDomainState d) 1
    else s)

/-- DOMAIN_TIMEOUT (R460). -/
def execDomainTimeout (d : Fin 52) (s : State) : Host.Outcome State Fault Refusal :=
  let st := s.nat (K.pmDomainState d)
  .next (if st = 2 ∨ st = 5 then modeEvent raise (s.setN (K.pmDomainState d) 6) 10 [d, 6] else s)

/-- DEBUG_PORT_ACTIVE (R462, spec/19 R449): hardware powers pd_debug. -/
def execDebugPortActive (port : DebugPort) (s : State) : Host.Outcome State Fault Refusal :=
  .next (raise (domainGo s 15 1) 497 [match port with | .jtag => 0 | .trace => 1] {})

end Sys2Proof.Machine
end

