-- ==== Sys2Proof/Machine/Thermal.lean ====
section
/-! DEFINITION. Temperature (spec/20 R467-R474): sensors and their failures, level and throttle step, the hardware trip, clock and
reference compensation, and the Cellar's refresh indication (spec/14 R328). Temperatures are in 1/16 °C. -/

namespace Sys2Proof.Machine

/-! ### Sensors (R467, R468, R473) -/

/-- A sensor has failed and is excluded. -/
def sensorBad (s : State) (i : Nat) : Bool :=
  if i < 32 then s.bit K.pmSensorFailedLo i else s.bit K.pmSensorFailedHi (i - 32)
/-- Marks a sensor failed. -/
def markBad (s : State) (i : Nat) : State :=
  if i < 32 then s.setBitOf K.pmSensorFailedLo i true else s.setBitOf K.pmSensorFailedHi (i - 32) true
/-- The designated neighbours of a sensor. -/
def neighbours (i : Nat) : Nat × Nat := ((i + 39) % 40, (i + 1) % 40)
/-- A sensor has given a reading and has not failed. -/
def sensorValid (s : State) (i : Nat) : Bool := (Sp.get s.power.seen i).isSome && !sensorBad s i
/-- The last reading of a sensor. -/
def reading (s : State) (i : Nat) : Int := s.int (K.pmSensorTemp i)
/-- Failed sensors. -/
def badCount (s : State) : Nat := ((List.range 40).filter (sensorBad s)).length

/-- Why a new reading of a sensor shows it failed (R473): 0 range, 1 stuck, 2 rate. -/
def sensorFault (s : State) (i : Nat) (t : Int) : Option Nat :=
  if t < -640 ∨ 2400 < t then some 0
  else
    let (a, b) := neighbours i
    let jump : Bool := match Sp.get s.power.last i with
      | some (at', x) => decide (320 < absI (t - x)) && decide (s.elapsed at' ≤ 1000)
      | none => false
    let stuck : Bool := match Sp.get s.power.changed i, Sp.get s.power.last i with
      | some (since, na, nb), some (_, x) => decide (t = x) && decide (2000000 ≤ s.elapsed since)
          && (decide (32 < absI (reading s a - na)) || decide (32 < absI (reading s b - nb)))
      | _, _ => false
    if stuck then some 1 else if jump then some 2 else none

/-- Keeps a reading with its time, and when it last changed with the neighbours' readings then. -/
def keepReading (s : State) (i : Nat) (t : Int) : State :=
  let p := s.power
  let (a, b) := neighbours i
  let same := match Sp.get p.last i with | some x => decide (x.2 = t) | none => false
  let changed := if same then p.changed else Sp.put p.changed i (s.now, reading s a, reading s b)
  let prev := match Sp.get p.last i with | some x => Sp.put p.prev i x | none => p.prev
  { s with power := { p with last := Sp.put p.last i (s.now, t), prev := prev, changed := changed } }.setI (K.pmSensorTemp i) t

/-- The largest valid reading with its sensor, the Cellar's input as sensor 40 (R468). -/
def hottestValid (s : State) : Option (Nat × Int) :=
  let l := ((List.range 40).filter (sensorValid s)).map fun i => (i, reading s i)
  let l := if s.power.cellarHot then l ++ [(40, s.int K.pmThrottleC * 16)] else l
  l.foldl (fun m x => match m with
    | none => some x
    | some y => if y.2 < x.2 then some x else some y) none

/-- The substitute reading for a failed sensor (R473). -/
def substituteFor (s : State) (i : Nat) : Int :=
  let (a, b) := neighbours i
  if sensorValid s a || sensorValid s b then
    let x := if sensorValid s a then reading s a else reading s b
    let y := if sensorValid s b then reading s b else x
    (if x < y then y else x) + 80
  else (match hottestValid s with | some x => x.2 | none => s.int K.pmTj) + 160

/-- Substitution may stand: the step is above 0 or the level is throttle or above. -/
def hotNow (s : State) : Bool := decide (0 < s.nat K.pmThrottleStep) || decide (2 ≤ s.nat K.pmLevel)

/-- Brings the substitution up to date (R473). -/
def followSubst (s : State) : State :=
  match s.power.subst with
  | none => s
  | some i =>
    if hotNow s && sensorBad s i then { s with power := { s.power with substT := substituteFor s i } }
    else { s with power := { s.power with subst := none } }.setB K.pmSubstituted false

/-- A sensor fails (R473). -/
def sensorFails (s : State) (i cause : Nat) (t : Int) : State :=
  let before := match Sp.get s.power.last i with | some x => x.2 | none => t
  let led := (Sp.get s.power.seen i).getD false
  let u := (markBad s i).inc K.pmSensorFailCount
  let u := modeEvent raise u 38 [i, cause, param32 t, param32 before]
  let u := if led && hotNow u then
      let (a, b) := neighbours i
      let x := substituteFor u i
      let v := { u with power := { u.power with subst := some i, substT := x, substHold := true } }
      modeEvent raise ((v.setB K.pmSubstituted true).inc K.pmSubstitutionCount) 39 [i, param32 x, param32 (reading v a), param32 (reading v b)]
    else u
  if 10 ≤ badCount u then modeEvent raise u 40 [badCount u] else u

/-- T_j with what supplies it (R468). -/
def newTj (s : State) : State :=
  let m := hottestValid s
  let m := match s.power.subst with
    | some i => (match m with
      | some x => if x.2 < s.power.substT then some (i, s.power.substT) else some x
      | none => some (i, s.power.substT))
    | none => m
  match m with
  | none => s
  | some x => (s.setI K.pmTj x.2).setN K.pmHottest x.1

/-! ### Level and throttle step (R469, R470) -/

/-- The limit of a level. -/
def levelLimit (s : State) (l : Nat) : Int :=
  16 * (if l = 1 then s.int K.pmWarnC else if l = 2 then s.int K.pmThrottleC else s.int K.pmCriticalC)

/-- The control cores' clock in MHz: 1,600, and the reduced one from step 4 on (R470; spec/01 R16). -/
def coreMhz (s : State) : Nat := if 4 ≤ s.nat K.pmThrottleStep then s.nat K.pmCoreClockThrottleMhz else 1600

/-- What a throttle step does as it changes (R470): Sieve runs, slot B reservations, decoder iterations. Step 4 acts in
`coreMhz`; step 5 acts at the next mode tick. -/
def stepEffects (s : State) (old new : Nat) : State :=
  let t := if old < 1 ∧ 1 ≤ new then pauseEngines raise s (runningEngines s) true else s
  let t := if old < 2 ∧ 2 ≤ new then withdrawSlotB raise (withdrawSlotB raise t 1 3) 0 3 else t
  let t := if old < 3 ∧ 3 ≤ new then t.setN K.detIterCapThermal (t.nat K.pmThermalIterCap)
    else if 3 ≤ old ∧ new < 3 then t.setN K.detIterCapThermal 12 else t
  if new < old ∧ new < 2 then afterRun t else t

/-- The throttle step changes, with event 36. -/
def setStep (s : State) (new : Nat) : State :=
  let old := s.nat K.pmThrottleStep
  if old = new then s
  else
    let t := { s with power := { s.power with stepAt := s.now } }.setN K.pmThrottleStep new
    let t := modeEvent raise t 36 [old, new, param32 (t.int K.pmTj)]
    stepEffects t old new

/-- The highest limit that T_j has reached. -/
def levelReached (s : State) : Nat :=
  let t := s.int K.pmTj
  if levelLimit s 3 ≤ t then 3 else if levelLimit s 2 ≤ t then 2 else if levelLimit s 1 ≤ t then 1 else 0

/-- The key that counts crossings of a level. -/
def crossKey (l : Nat) : Key :=
  if l = 1 then K.pmWarnCrossCount else if l = 2 then K.pmThrottleCrossCount else K.pmCriticalCrossCount

/-- The thermal level after a sample (R469). -/
def followLevel (s : State) : State :=
  let l := s.nat K.pmLevel
  let h := levelReached s
  let t := s.int K.pmTj
  if l < h then
    let u := ([1, 2, 3].filter fun x => decide (l < x) && decide (x ≤ h)).foldl (fun v x =>
      modeEvent raise (v.inc (crossKey x)) (31 + x) [param32 t, v.nat K.pmHottest]) s
    { u with power := { u.power with levelAt := u.now } }.setN K.pmLevel h
  else if 0 < l ∧ t ≤ levelLimit s l - 48 ∧ 100000 ≤ s.elapsed s.power.levelAt then
    let u := { s with power := { s.power with levelAt := s.now, fallAt := if l = 2 then s.now else s.power.fallAt } }
    modeEvent raise (u.setN K.pmLevel (l - 1)) 37 [l, param32 t]
  else s

/-- The rises of the throttle step at a sample, from the level before it (R470). -/
def followStep (s : State) (before : Nat) : State :=
  let l := s.nat K.pmLevel
  let st := s.nat K.pmThrottleStep
  if before < 3 ∧ l = 3 then setStep s 5
  else if before < 2 ∧ 2 ≤ l then setStep s (max st 1)
  else if 2 ≤ l ∧ levelLimit s 2 ≤ s.int K.pmTj ∧ st < 5 ∧ s.nat K.pmStepUpMs * 1000 ≤ s.elapsed s.power.stepAt then setStep s (st + 1)
  else s

/-- The over-temperature threshold for the composite: the host's, else WCTEMP. -/
def overThreshold (s : State) : Int := if s.power.tempThresh = 0 then s.int K.pmWarnC + 273 else s.power.tempThresh

/-- Crossing the threshold sets Critical Warning bit 1 and raises the SMART / Health asynchronous event (R471). -/
def followWarning (s : State) : State :=
  let high := decide (overThreshold s ≤ (compositeK s : Int))
  if high && !s.power.tempWarn then asyncEvent raise { s with power := { s.power with tempWarn := true } } 1 1 2
  else { s with power := { s.power with tempWarn := high } }

/-- SENSOR_SAMPLE (R468-R473). -/
def execSensorSample (i : Fin 40) (t : BitVec 16) (s : State) : Host.Outcome State Fault Refusal :=
  let x := t.toInt
  let before := s.nat K.pmLevel
  let fault := if sensorBad s i then none else sensorFault s i x
  let u := match fault with
    | some c => keepReading (sensorFails s i c x) i x
    | none => keepReading s i x
  let valid := !sensorBad u i
  let u := if valid then { u with power := { u.power with seen := Sp.put u.power.seen i false } } else u
  let u := newTj (followSubst u)
  let u := if valid && u.nat K.pmHottest == i.val then { u with power := { u.power with seen := Sp.put u.power.seen i true } } else u
  .next (followWarning (followSubst (followStep (followLevel u) before)))

/-- THROTTLE_STEP_DOWN (R470): step_down_ms have passed since the later of the last change of s and the moment both conditions began. -/
def execThrottleStepDown (s : State) : Host.Outcome State Fault Refusal :=
  let st := s.nat K.pmThrottleStep
  let due (since : Nat) : Bool := decide (s.nat K.pmStepDownMs * 1000 ≤ s.elapsed since)
  .next (if 0 < st ∧ s.nat K.pmLevel < 2 ∧ s.power.substHold = false ∧ (due s.power.stepAt && due s.power.fallAt) = true then followSubst (setStep s (st - 1)) else s)

/-- SUBSTITUTION_HOLD_EXPIRY (R473). -/
def execSubstitutionHoldExpiry (s : State) : Host.Outcome State Fault Refusal :=
  .next (if s.power.substHold then { s with power := { s.power with substHold := false, fallAt := s.now } } else s)

/-! ### The hardware trip (R472) -/

/-- THERMAL_TRIP (R472): the first comparator acts; further ones add to the capture. -/
def execThermalTrip (mask : Byte) (s : State) : Host.Outcome State Fault Refusal :=
  .next (match s.power.trip with
    | some m => { s with power := { s.power with trip := some (m ||| mask.toNat) } }
    | none =>
      if mask = 0 then s
      else
        let t := { s with power := { s.power with trip := some mask.toNat, tripSince := s.now } }
        let t := sheafQuiesce (mediaOff raise t 7 1)
        let t := t.on (t.flag K.sheafPwcArmed) fun u => flushAsk u 3
        let t := (t.setHost { t.host with cfs := true }).setN K.hostCtrlState 5
        applySets t)

/-! ### Compensation (R474) and the Cellar's indication (R328, R468) -/

/-- The cubic polynomial of a coefficient set at x = T - 25 °C, given in 1/16 °C (R474). -/
def compensation (set : Nat) (x : Int) : Int :=
  let shift (k : Nat) : Nat := Config.compShift set k
  let all := shift 0 + shift 1 + shift 2 + shift 3
  let term (k : Nat) : Int := (Config.compCoeff set k).toInt * x ^ k * (16 ^ (3 - k) * 2 ^ (all - shift k) : Nat)
  rnd (term 0 + term 1 + term 2 + term 3) (4096 * 2 ^ all)

/-- COMPENSATION_UPDATE (R474). -/
def execCompensationUpdate (otpOk : BitVec 3) (s : State) : Host.Outcome State Fault Refusal :=
  if !s.flag K.pmCompEnable then
    .next ({ s with power := { s.power with refTrim := compensation 1 0, adcTrim := compensation 2 0 } }.setI K.pmXtalPpb 0)
  else
    let x := reading s 39 - 400
    let old := s.int K.pmXtalPpb
    let ok (j : Nat) : Bool := otpOk.getLsbD j
    let t := if ok 0 then s.setI K.pmXtalPpb (old + clamp (-100) 100 (compensation 0 x - old)) else s
    let t := { t with power := { t.power with refTrim := if ok 1 then compensation 1 x else t.power.refTrim
                                              adcTrim := if ok 2 then compensation 2 x else t.power.adcTrim } }
    let was := s.nat K.pmCompStatus
    let t := t.setN K.pmCompStatus otpOk.toNat
    .next (if (List.range 3).any fun j => bitAt was j && !ok j then modeEvent raise t 12 [otpOk.toNat] else t)

/-- REFRESH_RATE_INDICATION (R328, R468): the factors are 1, 2 and 4. -/
def execRefreshRateIndication (mult : BitVec 3) (hot : Bool) (s : State) : Host.Outcome State Fault Refusal :=
  let m := mult.toNat
  let old := s.nat K.memRefreshMultiplier
  let t := if m = 1 ∨ m = 2 ∨ m = 4 then s.setN K.memRefreshMultiplier m else s
  let t := if t.nat K.memRefreshMultiplier ≠ old ∧ 1 < t.nat K.memRefreshMultiplier then
      memEventFree t 412 [t.nat K.memRefreshMultiplier] 0 else t
  let rises := hot && !t.power.cellarHot
  let t := { t with power := { t.power with cellarHot := hot } }
  .next (if rises then modeEvent raise t 41 [m] else t)

end Sys2Proof.Machine
end

