-- ==== Sys2Proof/Machine/TrlCtl.lean ====
section
/-! DEFINITION. The control side of the Trellis engines (spec/10 R229-R235): run and halt_req, soft interrupts, the
loader's report and an uncorrectable store error. -/

namespace Sys2Proof.Machine

/-- The action of an accepted RUN_RESTART (R230 rows 10 and 11). -/
def runRestartAct (n : Nat) (t : State) : State :=
  if trlState t n = 2 ∨ trlState t n = 4 then trlRestart t n else t

/-- RUN_RESTART (R230). -/
def execRunRestart (m : Master) (n : Eng) (s : State) : Host.Outcome State Fault Refusal :=
  .next (kwrite s m (K.trlRun n) 1 (runRestartAct n))

/-- The action of an accepted RUN_RESUME (R230 row 12): after a HALT microword or a request, with the saved context. -/
def runResumeAct (n : Nat) (t : State) : State :=
  let cause := t.nat (K.trlHaltCause n)
  match (t.eng n).halt with
  | some (c, irq) =>
    if trlState t n = 4 ∧ (cause = 1 ∨ cause = 2) then
      trlShow ((t.setEng n { t.eng n with cur := c, irq := irq, halt := none }).setN (K.trlState n) 3) n
    else t
  | none => t

/-- RUN_RESUME (R230). -/
def execRunResume (m : Master) (n : Eng) (s : State) : Host.Outcome State Fault Refusal :=
  .next (kwrite s m (K.trlRun n) 2 (runResumeAct n))

/-- The action of an accepted HALT_REQ (R230 row 9): kept for the next Y point of an engine in RUN. -/
def haltReqAct (n : Nat) (t : State) : State :=
  if trlState t n = 3 then t.setEng n { t.eng n with haltReq := true } else t

/-- HALT_REQ (R230). -/
def execHaltReq (m : Master) (n : Eng) (v : Word) (s : State) : Host.Outcome State Fault Refusal :=
  .next (kwrite s m (K.trlHaltReq n) v (haltReqAct n))

/-- The action of an accepted SOFT_IRQ (R231): bits 16 to 23 of irq_pending. -/
def softIrqAct (n : Nat) (v : Word) (t : State) : State :=
  t.setN (K.trlIrqPending n) (t.nat (K.trlIrqPending n) ||| (v.toNat % 256) * 2 ^ 16)

/-- SOFT_IRQ (R231). -/
def execSoftIrq (m : Master) (n : Eng) (v : Word) (s : State) : Host.Outcome State Fault Refusal :=
  .next (kwrite s m (K.trlSoftIrq n) v (softIrqAct n v))

/-! ### Leaving RUN (R230) -/

/-- The slots that an engine's leaving RUN takes into block reset. -/
def engineSlots (n : Nat) : List Nat := if n < 2 then slotsOf n else if n < 6 then [n - 2] else []

/-- An engine leaves RUN for a state: its event, and what it leaves behind; a slot whose blanking the event's own block reset has
started is not reset again. -/
def leaveRun (s : State) (n st e : Nat) (items : List Nat) : State :=
  let t := trlShow ((trlQuiet s n).setN (K.trlState n) st) n
  let t := if n < 2 then returnDescs t n 0 else if n < 6 then t
    else { t with motor := { t.motor with bridge := .highZ } }
  let t := raise t e (items ++ [n, st, t.nat (K.trlProgress n)]) {}
  (engineSlots n).foldl (fun u q =>
    if (at' u.ev.blank q none).isSome || (at' u.ev.blank (4 + q / 2) none).isSome then slotReset raiseBase u q
    else resetUnit u q e (decide (2 ≤ u.evClass e)) false) t

/-- An engine enters FAULT: the module goes to Safe in hardware (R230). -/
def trlFault (s : State) (n e : Nat) (items : List Nat) : State :=
  safeNow raise (raise (s.setN (K.trlState n) 5) e (items ++ [n, 5, s.nat (K.trlProgress n)]) {}) e

/-! ### Store errors (R230 rows 5 and 6) -/

/-- The region of a store that a word lies in (R219): 0 ROM, 1 patch RAM, 2 customer region. -/
def storeRegion (st : TrlStore) (a : Nat) : Nat := match st with
  | .micro => if a < 4096 then 0 else if a < 7168 then 1 else 2
  | .nano => if a < 2048 then 0 else if a < 3584 then 1 else 2

/-- Codes of the stores in event 289 + 4n. -/
def storeCode (st : TrlStore) : Nat := match st with | .micro => 0 | .nano => 1

/-- STORE_ERROR (R230 rows 5 and 6): an error in ROM is a fault; another sends the engine back to LOAD. -/
def execStoreError (n : Eng) (store : TrlStore) (addr : BitVec 13) (s : State) : Host.Outcome State Fault Refusal :=
  let a := addr.toNat
  if trlState s n ≠ 3 then .next s
  else
    let region := storeRegion store a
    let e := 289 + 4 * n.val
    let t := (s.setN (K.trlHaltCause n) 7).setN (K.trlHaltUpc n) (s.eng n).cur.upc
    if region = 0 then .next (safeNow raise (leaveRun t n 5 e [storeCode store, 0, a]) e)
    else
      let t := (t.setEng n { t.eng n with reload := true }).setN (K.trlLoadState n) 1
      .next (leaveRun t n 1 e [storeCode store, region, a])

/-! ### The loader's report (R235) -/

/-- An image rejected while selecting: event 316 with the engine's mask bit, 0 patch or 1 customer, version and check. -/
def loaderReject (s : State) (n : Nat) (x : Bool × BitVec 32 × BitVec 8) : State :=
  raise (s.inc K.trlxLoaderRejectCount) 316 [2 ^ n, b2n x.1, x.2.1.toNat, x.2.2.toNat] {}

/-- Measures a load: into the ledger, or after the seal where the engine's ledger entry does not show the same hash (R417). -/
def measureLoad (s : State) (e : LedgerEnt) : State :=
  if s.strong.sealed && s.strong.entries.any fun (x : LedgerEnt) => x.kind == e.kind && x.index == e.index && x.digest == e.digest then s
  else measure s e

/-- A failed load (R230 row 3). -/
def loadFailed (s : State) (n kind check : Nat) : State :=
  trlFault (s.setN (K.trlLoadState n) 4) n (290 + 4 * n) [kind, check, s.nat K.trlxPatchFloor]

/-- Words of a store image by address, those of a region only. -/
def storeWords {w : Nat} (l : List (BitVec 16 × BitVec w)) (lo hi : Nat) : Sp (BitVec w) :=
  (l.filter fun x => decide (lo ≤ x.1.toNat) && decide (x.1.toNat < hi)).foldl (fun m x => Sp.put m x.1.toNat x.2) []

/-- Nano-words whose reserved bits are zero (R226). -/
def nanoClean (l : List (BitVec 16 × BitVec 128)) : Bool := l.all fun x => bitsOf x.2.toNat 85 42 == 0

/-- What the loader can see of a patch image by its words alone (R226, R236). -/
def patchFits (r : LoadReport) : Bool :=
  nanoClean r.patchNano && r.redirects.all fun x => decide (x.1.toNat < 4096) && decide (4096 ≤ x.2.toNat) && decide (x.2.toNat < 7168)

/-- A customer microword keeps to the limits that its word alone shows (R238): the nano-word it names, where control passes, reserved
operations, and a yield point on every WAIT (R234). Limit 3 of a call rests on the entry attribute of its target. -/
def custWordFits (r : LoadReport) (entries : List Nat) (w : Nat) : Bool :=
  let op := bitsOf w 36 4
  let target := bitsOf w 16 13
  let call := op == 5 || op == 6
  let jump := ([1, 2, 3, 4, 9] : List Nat).contains op
  let attr := entries.contains target || r.patchMicro.any fun x => x.1.toNat == target && x.2.getLsbD 40
  (decide (3584 ≤ bitsOf w 0 12) || decide (bitsOf w 0 12 < 2048)) && decide (op < 14) && (op != 10 || bitAt w 35)
    && (!jump || decide (7168 ≤ target)) && (!call || decide (7168 ≤ target) || attr)

/-- What the loader can see of a customer image by its words alone (R226, R237-R239): the hooks of the engine's role only. -/
def custFits (r : LoadReport) : Bool :=
  let entries := (r.entryTable.filter fun w => w != 0).map fun w => bitsOf w.toNat 0 13
  nanoClean r.custNano
    && ((List.range 16).all fun i => let h := (r.hooks.getD i 0).toNat; h == 0 || (decide (i < 3) && decide (7168 ≤ h) && decide (h < 8192)))
    && r.custMicro.all fun x => !x.2.getLsbD 40 && custWordFits r entries x.2.toNat

/-- The customer image loaded: none on the motor engine, without a fused key, below the floor, or where it breaks a limit statically
(R235, R237, R238). -/
def customerOf (s : State) (n : Nat) (r : LoadReport) : Option Nat :=
  match r.customer with
  | some v => if n < 6 ∧ s.flag K.trlxCustomerKeyFused = true ∧ s.nat K.trlxCustomerFloor ≤ v.toNat ∧ custFits r = true then some v.toNat else none
  | none => none

/-- The stores, redirects, hooks and entry table of an engine are written (R219, R220, R235-R240). -/
def fillStores (s : State) (n : Nat) (r : LoadReport) : State :=
  let p := r.patch.isSome
  let c := (customerOf s n r).isSome
  let micro := (if p then storeWords r.patchMicro 4096 7168 else []) ++ (if c then storeWords r.custMicro 7168 8192 else [])
  let nano := (if p then storeWords r.patchNano 2048 3584 else []) ++ (if c then storeWords r.custNano 3584 4096 else [])
  let e := { s.eng n with micro := micro, nano := nano, reload := false
                          redirects := if p then r.redirects.map fun x => (x.1.toNat, x.2.toNat) else []
                          patchHash := if p then r.patchHash else [], custHash := if c then r.custHash else [] }
  let t := s.setEng n e
  let t := (List.range 16).foldl (fun u i => u.setN (K.trlHook n i) (if c then (r.hooks.getD i 0).toNat else 0)) t
  (List.range 64).foldl (fun u i => u.setN (K.trlEntryTable n i) (r.entryTable.getD i 0).toNat) t

/-- The ledger entries of a load (R413). -/
def measureLoads (s : State) (n : Nat) (r : LoadReport) : State :=
  let t := measureLoad s (match r.patch with
    | some v => { kind := 3, index := n, flags := 1, version := v.toNat, component := s.nat (K.trlRomId n), digest := r.patchHash }
    | none => { kind := 3, index := n, flags := 2, version := 0, component := s.nat (K.trlRomId n), digest := List.replicate 48 0 })
  match customerOf s n r with
  | some v => measureLoad t { kind := 4, index := n, flags := 1, version := v, component := r.entryTableId.toNat, digest := r.custHash }
  | none => t

/-- The same images as the ledger shows are there for a reload (R235). -/
def reloadSame (s : State) (n : Nat) (r : LoadReport) : Bool :=
  let e := s.eng n
  e.patchHash == (if r.patch.isSome then r.patchHash else []) && e.custHash == (if (customerOf s n r).isSome then r.custHash else [])

/-- A load done (R230 row 4, R235). -/
def loadDone (s : State) (n : Nat) (r : LoadReport) : State :=
  let reload := (s.eng n).reload
  let t := fillStores s n r
  let t := if reload then t else measureLoads t n r
  let t := (t.setN (K.trlPatchVersion n) (match r.patch with | some v => v.toNat | none => 0)).setN (K.trlCustomerVersion n)
    ((customerOf s n r).getD 0)
  (t.setN (K.trlLoadState n) (if r.patch.isSome then 2 else 3)).setN (K.trlState n) 2

/-- A report of a load (R230 rows 3 and 4, R235, spec/14 R343): a patch below the floor, or none above a floor of 0, has not qualified; a
reload takes the measured images only. -/
def loadReported (s : State) (n : Eng) (r : Option LoadReport) (failKind failCheck : BitVec 8) : State :=
  if s.eccFailed 14 then loadFailed s.drawn n 0 (s.free.toNat % 256)
  else match r with
    | none => loadFailed s n failKind.toNat failCheck.toNat
    | some r =>
      let t := r.rejected.foldl (fun u x => loaderReject u n x) s
      let v : BitVec 8 := s.free.setWidth 8
      let t := match r.customer with
        | some w => if n.val < 6 ∧ custFits r = false then loaderReject t.drawn n (true, w, v) else t
        | none => t
      let (t, r) := match r.patch with
        | some w => if patchFits r then (t, r) else (loaderReject t.drawn n (false, w, t.free.setWidth 8), { r with patch := none })
        | none => (t, r)
      let floor := s.nat K.trlxPatchFloor
      if (match r.patch with | some v => decide (v.toNat < floor) | none => decide (0 < floor)) then
        loadFailed t n failKind.toNat failCheck.toNat
      else if (s.eng n).reload && !reloadSame s n r then loadFailed t.drawn n 0 (t.free.toNat % 256)
      else loadDone t n r

/-- TRELLIS_LOAD_REPORT (R235); a seal may have waited for it (spec/18 R411). -/
def execTrellisLoadReport (n : Eng) (r : Option LoadReport) (failKind failCheck : BitVec 8) (s : State) :
    Host.Outcome State Fault Refusal :=
  if trlState s n ≠ 1 then .next s else .next (sealDue (loadReported s n r failKind failCheck))

end Sys2Proof.Machine
end

