-- ==== Sys2Proof/Machine/Twin.lean ====
section
/-! DEFINITION. Twin operation's own commands and the assist arbiter (spec/05): map_valid, map capture, assist grants and
the assist budget. -/

namespace Sys2Proof.Machine

/-- The action of an accepted MAP_VALID_WRITE (R106): twin mode on a pair whose bit falls would end (R112). -/
def mapValidWriteAct (a : Nat) (t : State) : State :=
    if twinOn t a && !t.bit (K.actMapValid a) (t.nat (K.actTwinPair a)) then twinLeave raise t a 3 else t

/-- MAP_VALID_WRITE (R106). -/
def execMapValidWrite (m : Master) (a : Act) (v : Word) (s : State) : Host.Outcome State Fault Refusal :=
  .next (kwrite s m (K.actMapValid a) v (mapValidWriteAct a))

/-- A capture of a pair's point fails with a cause: 1 state, 2 microactuator, 3 samples, 4 overflow (R107, R120). -/
def captureFail (s : State) (a pair point cause : Nat) : State :=
  let t := ((s.setN (K.actCaptureState a) 4).setN (K.actCaptureCause a) cause).setAct a { s.act a with capture := none }
  actEvent raise t a 135 [pair, point, cause] none

/-- Step 1 of R107 holds: TRACKING in twin mode on capture_pair, slot A's target within map_step_tracks / 64 of the point. -/
def captureReady (s : State) (a : Nat) : Bool :=
  let step : Int := s.cfg (K.actMapStepTracks a)
  let point : Int := s.nat (K.actCapturePoint a)
  decide (s.nat (K.actActState a) = 3) && twinOn s a && s.nat (K.actTwinPair a) == s.nat (K.actCapturePair a)
    && decide (((s.srv (2 * a)).target - point * step * 65536).natAbs * 64 ≤ step.toNat * 65536)

/-- The action of an accepted CAPTURE_START (R107 steps 1 and 2). -/
def captureStartAct (a : Nat) (t : State) : State :=
    if captureReady t a then
      let t := (t.setN (K.actCaptureState a) 1).setN (K.actCaptureCause a) 0
      t.setAct a { t.act a with
        capture := some { pair := t.nat (K.actCapturePair a), point := t.nat (K.actCapturePoint a) } }
    else captureFail t a (t.nat (K.actCapturePair a)) (t.nat (K.actCapturePoint a)) 1

/-- CAPTURE_START (R107 steps 1 and 2). -/
def execCaptureStart (m : Master) (a : Act) (v : Word) (s : State) : Host.Outcome State Fault Refusal :=
  .next (kwrite s m (K.actCaptureStart a) v (captureStartAct a))

/-- base of a capture: the mean of its sums over all wedges, in Q16 (R107 step 4). -/
def captureBase (c : MapCap) : Int := rnd (c.sums.foldl (· + ·) 0) (512 * c.good)

/-- The deltas of a capture in 1/256 servo track: each wedge's mean less base (R107 step 4). -/
def captureDeltas (c : MapCap) : List Int := c.sums.map fun x => rnd (x - captureBase c * c.good) (256 * c.good)

/-- The revolutions of a capture have ended: enough were good, one moved, or 2 × capture_revs have passed (R107). -/
def captureEnded (c : MapCap) (revs : Nat) : Bool := c.moved || decide (revs ≤ c.good) || decide (2 * revs ≤ c.revs)

/-- The bytes of a delta; one that I16 cannot hold is a free value (R107 step 5). -/
def deltaBytes (free w : Nat) (d : Int) : List Byte :=
  if -32768 ≤ d ∧ d ≤ 32767 then leBytes 2 (d % 65536).toNat else leBytes 2 (Config.freeValue (free + w)).toNat

/-- The captured point is written to the pair's block (R105, R107). -/
def writeCapture (s : State) (a pair point : Nat) (base : Int) (deltas : List Int) : State :=
  let addr := s.cfg (K.actMapBase a) + pair * 0x10100
  let bytes := (List.range 512).flatMap fun w => deltaBytes s.freeCtr w (deltas.getD w 0)
  let t := (s.store (addr + 4 * point) (leBytes 4 (base % 2 ^ 32).toNat)).store (addr + 0x100 + point * 1024) bytes
  { t with freeCtr := s.freeCtr + 512 }

/-- What the accumulation of a capture comes to (R107 steps 3 to 5). -/
def captureResult (s : State) (a : Nat) (c : MapCap) : State :=
  if c.moved then captureFail s a c.pair c.point 2
  else if c.good < s.cfg (K.actCaptureRevs a) then captureFail s a c.pair c.point 3
  else
    let base := captureBase c
    let deltas := captureDeltas c
    if deltas.any fun d => 32767 < d.natAbs then
      captureFail (writeCapture s a c.pair c.point 0x80000000 deltas) a c.pair c.point 4
    else
      let t := writeCapture s a c.pair c.point base deltas
      let t := (t.setN (K.actCaptureState a) 3).setAct a { t.act a with capture := none }
      actEvent raise t a 134 [c.pair, c.point, (base % 2 ^ 32).toNat] none

/-- MAP_CAPTURE_DONE (R107 steps 3 to 5): the revolutions of a running capture have ended. -/
def execMapCaptureDone (a : Act) (s : State) : Host.Outcome State Fault Refusal :=
  match (s.act a).capture with
  | none => .next s
  | some c => .next (if s.nat (K.actCaptureState a) = 2 ∧ captureEnded c (s.cfg (K.actCaptureRevs a)) = true then
      captureResult s a c else s)

/-- assist_mw of a head at a ring (spec/06 R138). -/
def assistMw (s : State) (a h n : Nat) : Nat := bitsOf (s.cfg (K.lnkAssistRing a h n)) 0 10
/-- write_code of a head at a ring (spec/06 R138). -/
def writeCode (s : State) (a h n : Nat) : Nat := bitsOf (s.cfg (K.lnkAssistRing a h n)) 10 12

/-- A request asks for nothing: assist_kind is 0, or the slot holds its grant already (R116, spec/06 R138). -/
def grantIdle (s : State) (g : GrantReq) : Bool :=
  s.cfg (K.lnkAssistKind (g.q.val / 2)) == 0 || (at' s.grants g.q none).isSome

/-- Revolution bit 0 of a stamp. -/
def stampOdd (g : GrantReq) : Nat := g.stamp.toNat / revCounts % 2

/-- The order of R117. -/
def grantBefore (x y : GrantReq) : Bool :=
  if x.stamp ≠ y.stamp then decide (x.stamp.toNat < y.stamp.toNat)
  else
    let ax := x.q.val / 2
    let ay := y.q.val / 2
    if ax ≠ ay then decide (ax = stampOdd x) else decide (x.q.val < y.q.val)

/-- Inserts a request in the order of R117. -/
def insertGrant (x : GrantReq) (l : List GrantReq) : List GrantReq :=
  match l with
  | [] => [x]
  | y :: r => if grantBefore y x then y :: insertGrant x r else x :: y :: r

/-- A tie between the actuators at a stamp (R117): counted, and raised on the actuator placed second. -/
def tieEvents (s : State) (l : List GrantReq) : State :=
  l.foldl (fun t g =>
    let first := l.find? fun x => decide (x.stamp = g.stamp ∧ x.q.val / 2 = g.q.val / 2)
    let other := l.any fun x => decide (x.stamp = g.stamp ∧ x.q.val / 2 ≠ g.q.val / 2)
    if other && first == some g && decide (g.q.val / 2 ≠ stampOdd g) then
      actEvent raise (t.inc K.asstAssistTieCount) (g.q.val / 2) 138 [g.stamp.toNat / revCounts, stampOdd g] none
    else t) s

/-- Admits one request (R116, R118, R119; spec/06 R138). -/
def admitGrant (s : State) (g : GrantReq) : State :=
  let q := g.q.val
  let a := q / 2
  let mw := assistMw s a g.head g.ring
  let budget := s.cfg K.asstAssistBudgetMw
  let sum := grantSum s
  if grantIdle s g then s
  else if writeCode s a g.head g.ring = 0 then endPart raise s q 15
  else if budget < mw then actEvent raise (endPart raise s q 14) a 139 [g.head.val, mw, budget] none
  else if sum + mw ≤ budget then
    regrant ({ s with grants := upd s.grants q (some (g.head.val, mw)) }.setWr q
      { s.wr q with assistHead := g.head.val, assistRing := g.ring.val })
  else
    actEvent raise ((deferPart s q).inc K.asstAssistDeferCount) a 137 [q, g.stamp.toNat, mw, sum] none

/-- The boundaries of a request: its sector, and the run that begins with it, where the head's assist and monitor levels take effect
(spec/06 R138, R146). -/
def grantBoundary (s : State) (g : GrantReq) : State :=
  let q := g.q.val
  let t := boundaryIn s .sector (slotOwns q)
  if (s.wr q).assist = .off ∧ (at' s.grants q none).isNone then
    boundaryIn t .run fun i => i == 0x4100 + q / 2 * 0x800 + g.head.val || i == 0x4120 + q / 2 * 0x800 + g.head.val
  else t

/-- ASSIST_GRANT_REQUEST (R116-R118): the requests of one Trellis cycle, one at a time in the order of R117. -/
def execAssistGrantRequest (reqs : List GrantReq) (s : State) : Host.Outcome State Fault Refusal :=
  let s := reqs.foldl grantBoundary s
  let l := (reqs.filter fun g => !grantIdle s g).foldr insertGrant []
  .next (l.foldl admitGrant (tieEvents s l))

/-- The action of an accepted ASSIST_BUDGET_WRITE (R119). -/
def assistBudgetWriteAct (t : State) : State :=
  regrant t

/-- ASSIST_BUDGET_WRITE (R119). -/
def execAssistBudgetWrite (m : Master) (v : Word) (s : State) : Host.Outcome State Fault Refusal :=
  .next (kwrite s m K.asstAssistBudgetMw v assistBudgetWriteAct)

end Sys2Proof.Machine
end

