-- ==== Sys2Proof/Machine/Hooks.lean ====
section
/-! DEFINITION. What an accepted write of an object does beside storing its value: one dispatch over the objects, so that every way of
writing one (a store, a frame, a command of the host) has the same effect (spec/17 R382-R394). Counter clears and the
management link's reset stand here too. -/

namespace Sys2Proof.Machine

/-! ### Counters (R401 and the object rules of every chapter) -/

/-- The first n subindexes of an index cleared. -/
def zeroFirst (t : State) (i n : Nat) : State := t.zero (i * 256 + 1) n

/-- The action of a write of 1 to a counters_clear object, by the index of its unit's first instance. -/
def clearAct (i : Nat) (t : State) : State :=
  let a := actOfIndex i
  match baseIndex i with
  | 0x1050 => (t.zero (K.dictViolationCount 0) 17).zero (K.dictConflictCount 0) 17
  | 0x2805 => zeroFirst t i 7
  | 0x2060 => zeroFirst t i 8
  | 0x3600 => zeroFirst t i 14
  | 0x3703 => (zeroFirst t i 5).setN (K.actStrokePeakNm a) (t.nat (K.actStrokeUseNm a))
  | 0x4010 => (t.zero K.asstAssistDeferCount 2).setN K.asstAssistPeakMw (t.nat K.asstAssistGrantedMw)
  | 0x4003 => zeroFirst t i 8
  | 0x5004 => let q := (i - 0x5000) / 0x400
    (zeroFirst t i 8).setN (K.slotBufLowWater q) (freeEntries (t.ch q))
  | 0x5105 => zeroFirst t i 12
  | 0x5304 => zeroFirst t i 5
  | 0x5201 => zeroFirst t i 7
  | 0xC004 => zeroFirst t i 6
  | 0x6040 => zeroFirst t i 7
  | 0x6820 => zeroFirst t i 9
  | 0x6120 => zeroFirst t i 6
  | 0x7001 => zeroFirst t i 4
  | 0x7101 => zeroFirst t i 6
  | 0x7201 => zeroFirst t i 1
  | 0x7C01 => zeroFirst t i 4
  | 0x8300 => (zeroFirst t i 6).zero (K.sivTapDropCount 0) 15
  | 0x9070 => zeroFirst t i 6
  | 0xB021 => ((t.zero K.pmWarnCrossCount 3).zero K.pmSensorFailCount 2).setN K.pmMeasuredPeakMw (t.nat K.pmMeasuredMw)
  | _ => t

/-- The object is a counters_clear. -/
def isClear (i sub : Nat) : Bool :=
  (sub == 15 && ([0x2805, 0x2060, 0x3600, 0x3703, 0x4010, 0x4003, 0x5004, 0x5105, 0x5304, 0x5201, 0xC004, 0x6040, 0x6820, 0x6120, 0x7001,
    0x7101, 0x7201, 0x7C01, 0x8300, 0x9070, 0xB021] : List Nat).contains (baseIndex i)) || (i == 0x1050 && sub == 31)

/-! ### The management link (R399, R402) -/

/-- The management link resets: causes 0 timeout, 1 target reset, 2 reselection, 3 request. Its EDGE objects apply, the locks of id 15
are released, and address and endpoint are assigned anew. -/
def mgmtLinkReset (s : State) (cause : Nat) : State :=
  let t := raise s 493 [s.cfg K.mgmtMgmtBus, cause] {}
  let t := releaseLocks raise (boundary t .mgmtReset) 15 2
  { t with mgmt := { t.mgmt with address := none, eid := none } }.setN K.mgmtMgmtLinkState 0

/-! ### Lock entries (R393) -/

/-- A lock entry as the engine keeps it: its range and held bit as written, the writer as owner where it is held, nothing reserved. -/
def lockWord (m v : Nat) : Nat := v % 2 ^ 32 + (if lockHeld v then m * 2 ^ 32 + 2 ^ 37 else 0)

/-! ### The dispatch -/

/-- Objects of Sundial, the spindle, the servo, twin operation and the head-stack link (spec/02 to spec/06). -/
def onWriteMotion (s : State) (m k : Nat) (v : Word) (t : State) : State :=
  let a := actOfIndex (k / 256)
  if k = K.sunSnapshot then snapshotAct t
  else if k = K.sunSundialEnable then sundialEnableWriteAct t
  else if k = K.sunObserverUse then observerCheck raise t
  else if k = K.sunSyncEnable then syncEnableWriteAct t
  else if k = K.spinSpinEnable then spinEnableWriteAct t
  else if k = K.spinTargetRpm then { t with power := { t.power with rpmSaved := t.power.rpmSaved.map fun _ => v.toNat } }
  else if k = K.actServoSearchHold a then
    (if v ≠ 0 ∧ s.flag k = false ∧ t.nat K.sunState = 0 then actEvent raise t a 118 [1] none else t)
  else if k = K.actXffEnable a then (if v = 0 then t.setAct a { t.act a with xffState := [] } else t)
  else if k = K.actRvffEnable a then (if v = 0 then t.setAct a { t.act a with rvffState := [] } else t)
  else if k = K.actLoadRequest a then loadRequestAct m a t
  else if k = K.actUnloadRequest a then unloadRequestAct m a t
  else if k = K.actServoDegraded a then servoDegradedClearAct a t
  else if k = K.actTwinEnable a then (if t.flag (K.actTwinEnable a) then t else twinLeave raise t a 1)
  else if k = K.actMapValid a then mapValidWriteAct a t
  else if k = K.actCaptureStart a then captureStartAct a t
  else if k = K.asstAssistBudgetMw then assistBudgetWriteAct t
  else if k = K.lnkLinkInit a then linkInitAct a t
  else if k = K.lnkLinkDegraded a then linkDegradedClearAct a t
  else if k = K.lnkRegOp a then (if v = 1 then regOpReadAct a t else regOpWriteAct m a t)
  else t

/-- Objects of the channel slots (spec/07 to spec/09). -/
def onWriteSlot (k : Nat) (t : State) : State :=
  let q := ixOf (k / 256) 0x5000 0x1000 / 0x400
  if k = K.slotBufPin q then bufPinWriteAct q t
  else if k = K.slotCombineStart q then combineStartAct (Fin.ofNat 4 q) t
  else if k = K.detOcRelease then ocReleaseAct t
  else t

/-- Objects of the Trellis engines (spec/10). -/
def onWriteTrellis (k : Nat) (v : Word) (t : State) : State :=
  let n := ixOf (k / 256) 0xC000 0x700 / 0x100
  if k = K.trlRun n then (if v = 1 then runRestartAct n t else if v = 2 then runResumeAct n t else t)
  else if k = K.trlHaltReq n then haltReqAct n t
  else if k = K.trlSoftIrq n then softIrqAct n v t
  else t

/-- Objects of the zones, the host link and the Sheaf unit (spec/11 to spec/13). -/
def onWriteHost (s : State) (k : Nat) (v : Word) (t : State) : State :=
  let p := ixOf (k / 256) 0x6110 4
  if k = K.zoneFormatCommit then formatCommitAct t
  else if k = K.zoneZoneHwEnable then zoneHwEnableAct v s t
  else if k = K.zoneMergeStart then mergeStartAct t
  else if k = K.zoneMergeCancel then mergeCancelAct t
  else if K.zoneAllocRequest 0 ≤ k ∧ k ≤ K.zoneAllocRequest 3 then allocRequestAct (k - K.zoneAllocRequest 0) v t
  else if k = K.hostLinkEnable then linkEnableAct v t
  else if k = K.sheafReleaseSeq then releaseSeqWriteAct v t
  else if k = K.sheafFlushNow then flushNowAct t
  else if k = K.sheafRecoverLoad then recoverLoadAct t
  else if k = K.sheafReplayStart then replayStartAct t
  else if k = K.shfOp p then
    (match v.toNat with
    | 1 => sheafOpenAct p t
    | 2 => sheafAppendAct p 0 0 t
    | 3 => sheafCommitAct p 0 t
    | 4 => sheafAbortAct p 0 t
    | _ => t)
  else t

/-- Objects of the memories, the Pantry and the Sieve (spec/14 to spec/16). -/
def onWriteMemory (s : State) (k : Nat) (v : Word) (t : State) : State :=
  let i := k / 256
  let q := i - 0x7800
  let n := i - 0x8010
  if k = K.memCacheEnable then cacheEnableWriteAct s t
  else if k = K.memScratchWays then scratchWaysWriteAct s t
  else if k = K.memTrackerClear then trackerClearAct v t
  else if k = K.memHoeStart then hoeStartAct t
  else if k = K.memHoeCancel then hoeCancelAct t
  else if 0x7800 ≤ i ∧ i < 0x7A00 then
    (if k = K.panQueueReset q then queueResetAct q t
    else if k = K.panReserve q then (setUsed t t.pan.used).setN K.poolReserveTotal (reserveSum t)
    else t)
  else if 0x7A00 ≤ i ∧ i < 0x7C00 then
    (let q := i - 0x7A00
    if k = K.panFlags q then ((setFlag t q 0 (s.bit k 0)).setBitOf k 4 (s.bit k 4))
    else if k = K.panCountsClear q then (t.set (K.panHiCount q) 0).set (K.panLoCount q) 0
    else t)
  else if K.sivTap 0 ≤ k ∧ k ≤ K.sivTap 14 then t.setBitOf k 11 (s.bit k 11 && !v.getLsbD 11)
  else if 0x8010 ≤ i ∧ i ≤ 0x8017 then
    (if k = K.engFwStart n then fwStartAct n t else if k = K.engFwStop n then fwStopAct n t else t)
  else t

/-- Objects of Strongroom and of the event framework (spec/18, spec/19). The store of a sealed ledger by a write that carries no outcome
of its programming is open: a free value. -/
def onWriteSafety (m k : Nat) (v : Word) (t : State) : State :=
  let i := k / 256
  let b := ixOf i 0xA020 20
  let p := ixOf i 0xA040 3
  if k = K.srBootSelect then { t with strong := { t.strong with bootSelect := v.toNat } }
  else if k = K.srTrialBoots then { t with strong := { t.strong with trialBoots := v.toNat } }
  else if k = K.srFwConfirm then fwConfirmAct t
  else if k = K.srRollbackAdvance then rollbackAdvanceAct t
  else if k = K.srMeasGo then measGoAct t
  else if k = K.srSealRequest then sealRequestAct (t.free.getLsbD 0) t.drawn
  else if k = K.srEraseDone then eraseDoneAct t
  else if k = K.evtCaptureMode then captureModeWriteAct t
  else if k = K.statLatchedLo b then latchedClearAct b false v t
  else if k = K.statLatchedHi b then latchedClearAct b true v t
  else if k = K.statCaptureRelease b then captureReleaseAct b t
  else if k = K.almCursor p then cursorWriteAct p v t
  else if k = K.almRelease p then partitionReleaseAct p t
  else if k = K.almPersistGo p then persistGoAct p t
  else if k = K.fwrFwWrite then fwWriteAct m t
  else if k = K.injInjectGo then injectGoAct m t
  else t

/-- Objects of modes, power and temperature (spec/20). -/
def onWritePower (k : Nat) (v : Word) (t : State) : State :=
  if k = K.pmSafeRestart then safeRestartAct t
  else if k = K.pmEnvelopeMw then envelopeWriteAct t
  else if k = K.pmPs1EnvelopeMw then reEnvelope raise t
  else if k = K.pmBaseReserveMw then regrantAll raise t
  else if k = K.pmCompEnable then (if t.flag K.pmCompEnable then t else t.setN K.pmXtalPpb 0)
  else if K.pmDomainRequest 0 ≤ k ∧ k ≤ K.pmDomainRequest 51 then domainRequestAct (k - K.pmDomainRequest 0) v t
  else t

/-- Objects of the dictionary and the management link (R393, R398, R401). -/
def onWriteDict (m k : Nat) (v : Word) (t : State) : State :=
  let i := k / 256
  if i = 0x1040 then t.setN k (lockWord m v.toNat)
  else if k = K.mgmtMgmtReset then mgmtLinkReset t 3
  else if k = K.portFrameGo (ixOf i 0x1060 4) then t.setN (K.portFrameState (ixOf i 0x1060 4)) 1
  else t

/-- The action of an accepted write of object k by master m: s is the state before it, t the state with the value stored. -/
def onWrite (s : State) (m k : Nat) (v : Word) (t : State) : State :=
  let i := k / 256
  if isClear i (k % 256) then clearAct i t
  else
    let u := match i / 0x1000 with
      | 0x1 => onWriteDict m k v t
      | 0x2 => onWriteMotion s m k v t
      | 0x3 => onWriteMotion s m k v t
      | 0x4 => onWriteMotion s m k v t
      | 0x5 => onWriteSlot k t
      | 0x6 => onWriteHost s k v t
      | 0x7 => onWriteMemory s k v t
      | 0x8 => onWriteMemory s k v t
      | 0x9 => onWriteSafety m k v t
      | 0xA => onWriteSafety m k v t
      | 0xB => onWritePower k v t
      | 0xC => onWriteTrellis k v t
      | 0xF => onWriteSafety m k v t
      | _ => t
    if s.obj k = t.obj k then u else objectChanged u i (k % 256)

/-- A write of an object with all that follows from it. -/
def hookWrite (s : State) (m i sub : Nat) (v : Word) : State :=
  dwrite s m i sub v fun t => onWrite s m (aliasIndex i * 256 + sub) v t

end Sys2Proof.Machine
end

