-- ==== Sys2Proof/Machine/Dict.lean ====
section
/-! DEFINITION. The object dictionary and management access (spec/17), and fabric accesses (spec/01 R20, R21): reads with the values the
block computes, the stores of one dictionary cycle, Enunile frames and their paths, locks, the management bus. -/

namespace Sys2Proof.Machine

/-! ### Values read -/

/-- A half of a status block's bits. -/
def halfOf (b : BitVec 64) (hi : Bool) : Nat := if hi then b.toNat / 2 ^ 32 else b.toNat % 2 ^ 32

/-- The words of a status object that its block keeps (spec/19 R428, R433). -/
def statWord (s : State) (b sub : Nat) : Option Nat :=
  let x := s.ev.blk b
  if noHighWord b sub then some 0 else
  match sub with
  | 1 => some (halfOf x.latched false)
  | 2 => some (halfOf x.latched true)
  | 5 => some (halfOf x.pending false)
  | 6 => some (halfOf x.pending true)
  | 8 => some (halfOf x.conseq false)
  | 9 => some (halfOf x.conseq true)
  | 11 => some x.missed
  | 12 => some (match x.first with | some e => e % 512 + 2 ^ 15 | none => 0)
  | 13 => some (b2n x.overflow)
  | _ => if 16 ≤ sub ∧ sub < 24 then some (captureWord x.capture (sub - 16)) else none

/-- The words of a partition's object (spec/19 R445, R448). -/
def partWord (s : State) (p sub : Nat) : Option Nat :=
  let x := s.ev.part p
  match sub with
  | 5 => some x.cursor
  | 6 => some x.oldest
  | 7 => some x.next
  | 8 => some x.recs.length
  | 9 => some (partCap p)
  | 11 => some x.missed
  | 12 => some x.missedTotal
  | 13 => some (b2n x.full)
  | 14 => some x.peak
  | _ => if 1 ≤ sub ∧ sub ≤ 4 then some (windowWord x (sub - 1)) else none

/-- FAULT_L is driven low (spec/19 R438, spec/18 R404). -/
def faultLow (s : State) : Bool := s.ev.pulse || s.flag K.evtFaultHold || s.nat K.srSrState == 5

/-- ring_max_spt of a ring (spec/07 R155). -/
def ringMaxSpt (s : State) (a n : Nat) : Nat :=
  let w := s.nat (K.ringRingFormat a n)
  let m := ringSMax s a w
  m % 1024 + (if m < bitsOf w 16 10 then 2 ^ 15 else 0)

/-- Length in bytes of a BLOB, or the longest of a STR (the object tables). -/
def blobMax (k : Key) : Nat :=
  if k = K.idnSerialNumber ∨ k = K.idnUnitId then 16 else if k = K.srLedgerChunk then 1024 else if k = K.hostSubsystemNqn then 223 else 48

/-- Contents of a STR or BLOB object. -/
def blobOf (s : State) (r : ObjRow) (k : Key) : List Byte :=
  let x := s.strong
  if k = K.srLedgerHash then padTo 48 x.ledgerHash
  else if k = K.srLedgerChunk then padTo 1024 (x.ledger.drop (s.nat K.srLedgerOffset))
  else if k = K.srRuntimeHash then padTo 48 x.rt
  else (Sp.get s.blobs k).getD (if r.ty = .blob ∨ k = K.idnSerialNumber then List.replicate (blobMax k) 0 else [])

/-- A value that the block computes at the read, where the object has one. -/
def viewWord (s : State) (k : Key) : Option Nat :=
  let i := k / 256
  let sub := k % 256
  let q := ixOf i 0x5000 0x1000 / 0x400
  let n := ixOf i 0xC000 0x700 / 0x100
  if sub = 0 then none
  else if k = K.sunAngleStamp then some s.stamp
  else if k = K.sunUsCounter then some s.now
  else if k = K.slotSlotState q then some (slotState s q)
  else if k = K.slotInterlockNow q then some (interlockNow s q)
  else if K.ringRingMaxSpt (q / 2) 0 ≤ k ∧ k ≤ K.ringRingMaxSpt (q / 2) 63 then some (ringMaxSpt s (q / 2) (k - K.ringRingMaxSpt (q / 2) 0))
  else if k = K.sheafHoldUpOk then some (b2n (holdUpOk s))
  else if k = K.memFillPointer then some (fillPointer s)
  else if k = K.memTrackerEntry then some (trackerEntry s)
  else if k = K.memHoeProgress ∧ s.memory.hoeRun = true then some (hoeDone s)
  else if 0x7A00 ≤ i ∧ i < 0x7C00 ∧ sub = 2 then some (setBit (s.nat k) 0 (queueFull s (i - 0x7A00)))
  else if 0xA020 ≤ i ∧ i ≤ 0xA033 then statWord s (i - 0xA020) sub
  else if k = K.evtBlankActive then
    some ((List.range 20).foldl (fun m u => if (at' s.ev.blank u none).isSome then m + 2 ^ u else m) 0)
  else if k = K.evtFaultLLow then some (b2n (faultLow s))
  else if k = K.evtFaultPulseCount then some s.ev.pulseCount
  else if K.evtUnitWindowCount 0 ≤ k ∧ k ≤ K.evtUnitWindowCount 19 then
    (let w := (windowResets s (k - K.evtUnitWindowCount 0)).length
    some (if w < 255 then w else 255))
  else if 0xA040 ≤ i ∧ i ≤ 0xA042 then partWord s (i - 0xA040) sub
  else if k = K.trlHaltReq n then some (b2n (s.eng n).haltReq)
  else none

/-- gpio_in (spec/21 R493): the level at a ball that the part drives is what it drives; at another it is the carrier's, a free value. -/
def gpioIn (s : State) : Nat :=
  let out := s.nat K.gpioGpioOut
  let oe := s.nat K.gpioGpioOe
  let od := s.nat K.gpioGpioOd
  (List.range 32).foldl (fun m i =>
    let b := if bitAt oe i && (!bitAt od i || !bitAt out i) then bitAt out i else s.free.getLsbD i
    if b then m + 2 ^ i else m) 0

/-- The word a read of an object returns (R386, R388, R390), and the state after it. -/
def readWord (s : State) (r : ObjRow) (k : Key) : Word × State :=
  if r.ty.bytes = 0 then (BitVec.ofNat 64 (blobOf s r k).length, s)
  else if k = K.gpioGpioIn then (BitVec.ofNat 64 (gpioIn s), s.drawn)
  else match viewWord s k with
    | some n => (BitVec.ofNat 64 n, s)
    | none => (s.obj k, s)

/-- The status of a read (R385, R392): a read is never limited by rank or locks. -/
def readStatus (s : State) (i sub : Nat) : DStatus :=
  match objNow s (aliasIndex i) sub with
  | none => .noObject
  | some r => if unitAbsent s.variant i then .objectAbsent else if r.acc = .wo then .accessDenied else .ok

/-- A read of one object by one master: its status, its row where it is ok, its word, and the state (R386, R389, R392). -/
def readAccess (s : State) (m i sub : Nat) : DStatus × Word × State :=
  let d := readStatus s i sub
  let i' := aliasIndex i
  match d, objNow s i' sub with
  | .ok, some r =>
    let (w, u) := readWord s r (i' * 256 + sub)
    let u := recordStatus u m i sub .ok
    (.ok, w, if 0xA040 ≤ i' ∧ i' ≤ 0xA042 ∧ sub = 4 then windowAdvance u (i' - 0xA040) else u)
  | .accessDenied, _ => (d, 0, violation (recordStatus s m i sub d) m)
  | _, _ => (d, 0, recordStatus s m i sub d)

/-! ### Stores of a dictionary cycle (R386, R387, R391) -/

/-- What a store asks for: a write of a value, a low word to be held, or nothing. -/
inductive Ask where
  | write (v : Word)
  | hold (low : BitVec 32)
  | bad
deriving DecidableEq, Repr

/-- The object is 8 bytes wide. -/
def isWide (s : State) (k : Key) : Bool :=
  match objNow s (k / 256) (k % 256) with
  | some r => r.ty == .u64
  | none => false

/-- What a store asks for by the object's width and its own (R386, R387). -/
def askOf (s : State) (x : DictStore) : Ask :=
  let k := aliasIndex x.index.toNat * 256 + x.sub.toNat
  match x.width with
  | .full8 => .write x.data
  | .low4 => if isWide s k then .hold (x.data.setWidth 32) else .write ((x.data.setWidth 32).setWidth 64)
  | .high4 =>
    match isWide s k, at' s.held x.master.val none with
    | true, some h => if h.1 = k then .write ((x.data.setWidth 32) ++ h.2) else .bad
    | _, _ => .bad

/-- The status of a store on its own (R385, R391). -/
def judge (s : State) (x : DictStore) : DStatus :=
  let st (v : Word) : DStatus := writeStatus s x.master.val x.index.toNat x.sub.toNat v true
  match askOf s x with
  | .write v => st v
  | .hold low => let d := st (low.setWidth 64); if d = .invalidValue then .ok else d
  | .bad => let d := st x.data; if d = .ok then .invalidValue else d

/-- The object a store names. -/
def storeKey (x : DictStore) : Key := aliasIndex x.index.toNat * 256 + x.sub.toNat

/-- Store x goes before store y: higher rank, then lower master id (R391). -/
def beats (x y : DictStore) : Bool :=
  let rx := rankOf x.master.val
  let ry := rankOf y.master.val
  decide (rx < ry) || (rx == ry && decide (x.master.val < y.master.val))

/-- A store that writes its object, as far as its own checks go. -/
def writes (s : State) (x : DictStore) : Bool :=
  judge s x == .ok && (match askOf s x with | .write _ => true | _ => false)

/-- Another store of the cycle to the same object wins (R391). -/
def loses (s : State) (l : List DictStore) (n : Nat) (x : DictStore) : Bool :=
  (List.range l.length).any fun j => match l[j]? with
    | some y => writes s y && storeKey y == storeKey x && (beats y x || (!beats x y && decide (j < n)))
    | none => false

/-- One store of the cycle with its status (R386-R391). -/
def applyStore (u : State) (x : DictStore) (ask : Ask) (d : DStatus) : State :=
  let m := x.master.val
  let k := storeKey x
  match ask, d with
  | .hold low, .ok =>
    let t := recordStatus (dropHeld u m k false) m x.index.toNat x.sub.toNat .ok
    { t with held := upd t.held m (some (k, low)) }
  | .write v, _ => finishWrite u m x.index.toNat x.sub.toNat v d fun t => onWrite u m k v t
  | _, _ => finishWrite u m x.index.toNat x.sub.toNat 0 d id

/-- Inserts a store by the object it names, after those of the same object. -/
def insertStore (x : DictStore) (l : List DictStore) : List DictStore :=
  match l with
  | [] => [x]
  | y :: r => if storeKey x < storeKey y then x :: y :: r else y :: insertStore x r

/-- Stores in ascending order of their objects: the allocation ports are so served in ascending order (spec/11 R254). -/
def orderStores (l : List DictStore) : List DictStore := l.foldl (fun m x => insertStore x m) []

/-- The stores that reach the engine in one cycle: each judged on the state before the cycle, then the winners applied (R391). -/
def storeCycle (s : State) (stores : List DictStore) : State :=
  let l := orderStores stores
  (List.range l.length).foldl (fun u n => match l[n]? with
    | none => u
    | some x =>
      if writes s x && loses s l n x then applyStore (u.inc (K.dictConflictCount x.master.val)) x .bad .conflict
      else applyStore u x (askOf s x) (judge s x)) s

/-! ### Enunile frames (R395-R397) -/

/-- A write entry of a frame. -/
structure WEntry where
  index : Nat
  sub : Nat
  ty : Nat
  value : List Byte
deriving DecidableEq, Repr

/-- A write entry and the bytes after it; none where it is malformed. -/
def parseWrite (l : List Byte) : Option (WEntry × List Byte) :=
  let f (a n : Nat) : Nat := leNat ((l.drop a).take n)
  let n := f 4 2
  let rest := l.drop 8
  let pad := (4 - n % 4) % 4
  if l.length < 8 || rest.length < n + pad || f 6 2 != 0 || f 3 1 == 0 || 11 < f 3 1 || ((rest.drop n).take pad).any (· != 0) then none
  else some ({ index := f 0 2, sub := f 2 1, ty := f 3 1, value := rest.take n }, rest.drop (n + pad))

/-- The write entries of a frame. -/
def parseWrites (n : Nat) (l : List Byte) : Option (List WEntry) :=
  match n with
  | 0 => if l.isEmpty then some [] else none
  | n + 1 => match parseWrite l with
    | none => none
    | some (e, r) => (parseWrites n r).map (e :: ·)

/-- The read or describe entries of a frame: index, first subindex, count. -/
def parseReads (n : Nat) (l : List Byte) : Option (List (Nat × Nat × Nat)) :=
  match n with
  | 0 => if l.isEmpty then some [] else none
  | n + 1 =>
    let f (a n : Nat) : Nat := leNat ((l.drop a).take n)
    if l.length < 4 || f 3 1 == 0 then none else (parseReads n (l.drop 4)).map ((f 0 2, f 2 1, f 3 1) :: ·)

/-- The op and entry count of a frame whose header is sound. -/
def frameHead (l : List Byte) : Option (Nat × Nat) :=
  let f (a n : Nat) : Nat := leNat ((l.drop a).take n)
  if l.length < 8 || 4096 < l.length || f 0 2 != 0x4E45 || f 2 1 != 1 || f 4 2 == 0 || 255 < f 4 2 || f 6 2 != l.length then none
  else some (f 3 1, f 4 2)

/-- Type code and length of a write entry are the object's (R385). -/
def entryFits (r : ObjRow) (k : Key) (e : WEntry) : Bool :=
  e.ty == r.ty.code && (match r.ty with
    | .str => decide (e.value.length ≤ blobMax k)
    | .blob => decide (e.value.length = blobMax k)
    | _ => decide (e.value.length = r.ty.bytes))

/-- A write entry is carried out: its status and the state (R396). STR and BLOB objects are written by frames only (R388). -/
def writeEntryNow (s : State) (m : Nat) (e : WEntry) : DStatus × State :=
  let k := aliasIndex e.index * 256 + e.sub
  let v := BitVec.ofNat 64 (leNat e.value)
  match objNow s (k / 256) e.sub with
  | none => let d := writeStatus s m e.index e.sub v true; (d, finishWrite s m e.index e.sub v d id)
  | some r =>
    let d := writeStatus s m e.index e.sub v (entryFits r k e)
    if r.ty.bytes = 0 ∧ d = .invalidValue then
      let t := recordStatus (dropHeld s m k true) m e.index e.sub .ok
      let t := { t with blobs := Sp.put t.blobs k e.value }
      (.ok, if blobOf s r k = e.value then t else objectChanged t (k / 256) e.sub)
    else (d, finishWrite s m e.index e.sub v d fun t => onWrite s m k v t)

/-- Response entry of a write (R395). -/
def writeReply (e : WEntry) (d : DStatus) : List Byte := leBytes 2 e.index ++ leBytes 1 e.sub ++ leBytes 1 d.code

/-- The bytes of an object's value in a frame. -/
def valueBytes (s : State) (r : ObjRow) (k : Key) (w : Word) : List Byte :=
  if r.ty.bytes = 0 then blobOf s r k else leBytes r.ty.bytes w.toNat

/-- Response entry of a read object (R395). -/
def readReply (s : State) (m i sub : Nat) : List Byte × DStatus × State :=
  let (d, w, t) := readAccess s m i sub
  let row := objNow s (aliasIndex i) sub
  let ty := match row with | some r => r.ty.code | none => 0
  let v := match d, row with | .ok, some r => valueBytes s r (aliasIndex i * 256 + sub) w | _, _ => []
  (leBytes 2 i ++ leBytes 1 sub ++ leBytes 1 d.code ++ leBytes 1 ty ++ leBytes 1 0 ++ leBytes 2 v.length ++ pad4 v, d, t)

/-- Codes of R382. -/
def Acc.code (a : Acc) : Nat := match a with | .ro => 0 | .rw => 1 | .wo => 2 | .w1c => 3 | .w1s => 4
/-- Codes of the apply classes (R395). -/
def Apply.code (a : Apply) : Nat := match a with | .none => 0 | .live => 1 | .edge _ => 2 | .staged => 3 | .halt _ => 4

/-- Response entry of a described object (R395). -/
def describeReply (s : State) (m i sub : Nat) : List Byte × DStatus × State :=
  let i' := aliasIndex i
  let k := i' * 256 + sub
  let d : DStatus := match objNow s i' sub with
    | none => .noObject
    | some _ => if unitAbsent s.variant i then .objectAbsent else .ok
  let head := leBytes 2 i ++ leBytes 1 sub ++ leBytes 1 d.code
  let t := recordStatus s m i sub d
  match d, objNow s i' sub with
  | .ok, some r =>
    (head ++ leBytes 1 r.ty.code ++ leBytes 1 r.acc.code ++ leBytes 1 r.apply.code ++ leBytes 1 0 ++ leBytes 4 (objMask r i' sub)
      ++ leBytes 2 (if r.ty.bytes = 0 then blobMax k else r.ty.bytes) ++ leBytes 2 0
      ++ (if r.ty.bytes = 0 then List.replicate 8 0 else leBytes 8 (defaultOf s.variant k).toNat), d, t)
  | _, _ => (head ++ List.replicate 20 0, d, t)

/-- What a frame comes to: the response entries with their statuses, in order, and the state. -/
structure FrameRun where
  op : Nat
  replies : List (List Byte × DStatus)
  state : State

/-- The write entries in order (R396). -/
def runWrites (s : State) (m : Nat) (l : List WEntry) : List (List Byte × DStatus) × State :=
  match l with
  | [] => ([], s)
  | e :: r =>
    let (d, t) := writeEntryNow s m e
    let (x, u) := runWrites t m r
    ((writeReply e d, d) :: x, u)

/-- The objects of a read entry, in order. -/
def entryObjs (e : Nat × Nat × Nat) : List (Nat × Nat) :=
  ((List.range e.2.2).map fun j => (e.1, e.2.1 + j)).filter fun o => decide (o.2 < 256)

/-- The objects of read or describe entries in order (R396). -/
def runReads (s : State) (m : Nat) (describe : Bool) (l : List (Nat × Nat)) : List (List Byte × DStatus) × State :=
  match l with
  | [] => ([], s)
  | o :: r =>
    let (b, d, t) := if describe then describeReply s m o.1 o.2 else readReply s m o.1 o.2
    let (x, u) := runReads t m describe r
    ((b, d) :: x, u)

/-- A frame executed by a master; none where it is malformed (R397). -/
def runFrame (s : State) (m : Nat) (l : List Byte) : Option FrameRun :=
  match frameHead l with
  | none => none
  | some (op, n) =>
    if op = 1 then (parseWrites n (l.drop 8)).map fun es => let x := runWrites s m es; ⟨op, x.1, x.2⟩
    else if op = 2 ∨ op = 3 then
      (parseReads n (l.drop 8)).map fun es => let x := runReads s m (op == 3) (es.flatMap entryObjs); ⟨op, x.1, x.2⟩
    else none

/-- The entries that a buffer holds whole. -/
def fitReplies (room : Nat) (l : List (List Byte × DStatus)) : List (List Byte) :=
  match l with
  | [] => []
  | x :: r => if x.1.length ≤ room then x.1 :: fitReplies (room - x.1.length) r else []

/-- The response frame in a buffer of so many bytes (R395). -/
def response (f : FrameRun) (cap : Nat) : List Byte :=
  let cap := if cap < 4096 then cap else 4096
  if cap < 8 then []
  else
    let es := fitReplies (cap - 8) f.replies
    let body := es.flatMap id
    leBytes 2 0x4E45 ++ leBytes 1 1 ++ leBytes 1 (f.op + 0x80) ++ leBytes 2 es.length ++ leBytes 2 (8 + body.length) ++ body

/-- The first nonzero status of a frame and its position, counted from 1 (R296). -/
def firstFailure (l : List (List Byte × DStatus)) (n : Nat) : Nat :=
  match l with
  | [] => 0
  | x :: r => if x.2 = .ok then firstFailure r (n + 1) else x.2.code + n * 2 ^ 8

/-- A frame through the port of CTL[c] (R398): malformed, or done with its response in the buffer. -/
def portRun (s : State) (c : Nat) (l : List Byte) : State :=
  match runFrame s (2 + c) l with
  | none => s.setN (K.portFrameState c) 3
  | some f =>
    let t := f.state
    let a := t.nat (K.portRespAddr c)
    let bytes := response f (t.nat (K.portRespLen c))
    (if inCellar a then t.store a bytes else t).setN (K.portFrameState c) 2

/-- The frame that a port's frame_addr names: its header says how long it is. -/
def portFrame (s : State) (c : Nat) : State :=
  let a := s.nat (K.portFrameAddr c)
  if !inCellar a then s.setN (K.portFrameState c) 3
  else portRun s c (s.load a (leNat (s.load (a + 6) 2)))

/-- The frames that the writes of a cycle have started run (R398). -/
def servePorts (s t : State) : State :=
  (List.range 4).foldl (fun u c =>
    if u.nat (K.portFrameState c) = 1 ∧ s.nat (K.portFrameState c) ≠ 1 then portFrame u c else u) t

/-- The management endpoint answers: its status and bytes. -/
def answer (s : State) (status : Nat) (l : List Byte) : State := { s with mgmt := { s.mgmt with status := status, reply := l } }

/-- A malformed frame on the management bus (R397): Invalid Parameter, and event 490; how the malformation is coded is not stated. -/
def busMalformed (s : State) : State :=
  let v (i : Nat) : Nat := (Config.freeValue (s.freeCtr + i)).toNat
  let t := { s with freeCtr := s.freeCtr + 2 }
  raise (answer t 2 []) 490 [t.cfg K.mgmtMgmtBus, v 0 % 2 ^ 32, v 1 % 4096] {}

/-- A frame on one of its paths: of this op, or malformed. -/
def framePath (s : State) (p : FramePath) (op : Nat) (l : List Byte) : State :=
  let mine := (match frameHead l with | some (o, _) => o == op | none => false)
  match p with
  | .port c => portRun s c.val (if mine then l else [])
  | .mgmtBus => match (if mine then runFrame s 15 l else none) with
    | none => busMalformed s
    | some f => answer f.state 0 (response f 4096)

/-- FRAME_WRITE (R395, R396, R398, R399). -/
def execFrameWrite (p : FramePath) (frame : List Byte) (s : State) : Host.Outcome State Fault Refusal := .next (framePath s p 1 frame)
/-- FRAME_READ (R395, R396). -/
def execFrameRead (p : FramePath) (frame : List Byte) (s : State) : Host.Outcome State Fault Refusal := .next (framePath s p 2 frame)
/-- FRAME_DESCRIBE (R395, R396). -/
def execFrameDescribe (p : FramePath) (frame : List Byte) (s : State) : Host.Outcome State Fault Refusal :=
  .next (framePath s p 3 frame)

/-! ### Dictionary commands of the host (R296, R397) -/

/-- A malformed frame on the host path (kind 20 of spec/12 R291): its detail is not stated. -/
def hostMalformed (s : State) (e : CmdEnt) : State :=
  complete raise (violate raise s.drawn 20 e.sqid e.sqe.cid.toNat s.free.toNat) e.ref (stat 0 0x02) 0

/-- DICTIONARY_WRITE (R296): at host rank; DW0 names the first failure. -/
def execDictionaryWrite (c : CmdRef) (frame : List Byte) (s : State) : Host.Outcome State Fault Refusal :=
  match activeEnt s.host.table (refOf c) true 0xC1 with
  | none => .next s
  | some e =>
    let n := e.sqe.cdw10.toNat
    match (if n = frame.length ∧ 4 ≤ n ∧ n ≤ 4096 ∧ (frameHead frame).map (·.1) = some 1 then runFrame s 16 frame else none) with
    | none => .next (hostMalformed s e)
    | some f =>
      let w := firstFailure f.replies 1
      .next (complete raise (raise f.state 366 [0xC1, w % 256] {}) e.ref 0 w)

/-- DICTIONARY_READ (R296): a response frame in the command's buffer, of 4 to 4,096 bytes. -/
def execDictionaryRead (c : CmdRef) (s : State) : Host.Outcome State Fault Refusal :=
  match activeEnt s.host.table (refOf c) true 0xC2 with
  | none => .next s
  | some e =>
    let w := e.sqe.cdw10.toNat
    if bitsOf w 24 8 = 0 ∨ e.sqe.cdw11.toNat < 4 ∨ 4096 < e.sqe.cdw11.toNat then .next (hostMalformed s e)
    else
      let (l, u) := runReads s 16 false (entryObjs (bitsOf w 0 16, bitsOf w 16 8, bitsOf w 24 8))
      let t := raise u 366 [0xC2, firstFailure l 1 % 256] {}
      .next (complete raise (returnData t e.ref (response ⟨2, l, u⟩ e.sqe.cdw11.toNat)) e.ref 0 0)

/-- NVME_MI_SEND (R383, R399): a frame carried in band acts at host rank; its response waits for NVMe-MI Receive. -/
def execNvmeMiSend (c : CmdRef) (frame : List Byte) (s : State) : Host.Outcome State Fault Refusal :=
  match activeEnt s.host.table (refOf c) true 0x1D with
  | none => .next s
  | some e => match runFrame s 16 frame with
    | none => .next (hostMalformed s e)
    | some f => .next (complete raise (f.state.setHost { f.state.host with miReply := response f 4096 }) e.ref 0 0)

/-- NVME_MI_RECEIVE (R399). -/
def execNvmeMiReceive (c : CmdRef) (s : State) : Host.Outcome State Fault Refusal :=
  match activeEnt s.host.table (refOf c) true 0x1E with
  | none => .next s
  | some e => .next (complete raise (returnData s e.ref s.host.miReply) e.ref 0 0)

/-! ### Stores and counters -/

/-- OBJECT_WRITE (R386, R387, R390-R392). -/
def execObjectWrite (stores : List DictStore) (s : State) : Host.Outcome State Fault Refusal := .next (servePorts s (storeCycle s stores))

/-- HOST_TRANSPORT_WRITE (R274; one of R414's objects, so that R417 measures a change). -/
def execHostTransportWrite (m : Master) (v : Word) (s : State) : Host.Outcome State Fault Refusal :=
  .next (hookWrite s m (K.hostHostTransport / 256) (K.hostHostTransport % 256) v)

/-- COUNTERS_CLEAR (R52 and the object rules of every chapter). -/
def execCountersClear (m : Master) (index : BitVec 16) (sub : Byte) (v : Word) (s : State) : Host.Outcome State Fault Refusal :=
  .next (servePorts s (hookWrite s m index.toNat sub.toNat v))

/-! ### Locks and the dictionary store (R393, R394) -/

/-- LOCK_ACQUIRE (R393). -/
def execLockAcquire (m : Master) (i : Fin 16) (v : Word) (s : State) : Host.Outcome State Fault Refusal :=
  .next (hookWrite s m 0x1040 (i.val + 1) v)
/-- LOCK_RELEASE (R393). -/
def execLockRelease (m : Master) (i : Fin 16) (v : Word) (s : State) : Host.Outcome State Fault Refusal :=
  .next (hookWrite s m 0x1040 (i.val + 1) v)

/-- DICT_STORE_ERROR (R394): the store holds RW values only. -/
def execDictStoreError (index : BitVec 16) (sub : Byte) (s : State) : Host.Outcome State Fault Refusal :=
  let i := aliasIndex index.toNat
  let k := i * 256 + sub.toNat
  match objNow s i sub.toNat with
  | none => .next s
  | some r =>
    if unitAbsent s.variant index.toNat || r.acc != .rw then .next s
    else
      let t := { s.set k (defaultOf s.variant k) with edge := Sp.del s.edge k, blobs := Sp.del s.blobs k }
      .next (raise t 492 [index.toNat, sub.toNat] {})

/-! ### The management bus (R399) -/

/-- Requests other than frames and health polls find the endpoint busy in Boot until link_enable is written. -/
def miBusy (s : State) : Bool := s.nat K.pmMode == 0 && !s.power.released

/-- An answer whose bytes are NVMe-MI's and not printed: free values. -/
def miFree (s : State) : State := answer s.drawn 0 (leBytes 8 s.free.toNat)

/-- READ_NVME_MI_DATA_STRUCTURE (R399). -/
def execReadNvmeMiDataStructure (_dtyp : Byte) (s : State) : Host.Outcome State Fault Refusal :=
  .next (if miBusy s then answer s 1 [] else miFree s)

/-- NVM_SUBSYSTEM_HEALTH_STATUS_POLL (R399). -/
def execNvmSubsystemHealthStatusPoll (_clear : Bool) (s : State) : Host.Outcome State Fault Refusal := .next (miFree s)

/-- CONTROLLER_HEALTH_STATUS_POLL (R399). -/
def execControllerHealthStatusPoll (s : State) : Host.Outcome State Fault Refusal := .next (miFree s)

/-- The settings of Configuration Get and Set: 1 SMBus frequency, 3 MCTP transmission unit size (NVMe-MI's numbers, PRESUMED). -/
def miConfig (cfg : Byte) : Bool := cfg == 1 || cfg == 3

/-- CONFIGURATION_GET (R399): what stands before the first Set is not stated, a free value. -/
def execConfigurationGet (cfg : Byte) (s : State) : Host.Outcome State Fault Refusal :=
  .next (if miBusy s then answer s 1 [] else if !miConfig cfg then answer s 2 []
    else match Sp.get s.mgmt.config cfg.toNat with
      | some v => answer s 0 (leBytes 4 v)
      | none => answer s.drawn 0 (leBytes 4 s.free.toNat))

/-- CONFIGURATION_SET (R399). -/
def execConfigurationSet (cfg : Byte) (v : BitVec 32) (s : State) : Host.Outcome State Fault Refusal :=
  .next (if miBusy s then answer s 1 [] else if !miConfig cfg then answer s 2 []
    else answer { s with mgmt := { s.mgmt with config := Sp.put s.mgmt.config cfg.toNat v.toNat } } 0 [])

/-- MGMT_LINK_RESET (R399, R402). -/
def execMgmtLinkReset (cause : MgmtResetCause) (s : State) : Host.Outcome State Fault Refusal :=
  .next (mgmtLinkReset s (match cause with | .timeout => 0 | .targetReset => 1 | .reselection => 2))

/-- MGMT_RESET (R401). -/
def execMgmtReset (m : Master) (v : Word) (s : State) : Host.Outcome State Fault Refusal :=
  .next (hookWrite s m (K.mgmtMgmtReset / 256) (K.mgmtMgmtReset % 256) v)

/-- MCTP_CONTROL_MESSAGE (R399, R401): an address, then an endpoint identifier; a static mctp_eid needs no bus owner's. -/
def execMctpControlMessage (msg : MctpMsg) (s : State) : Host.Outcome State Fault Refusal :=
  let static := s.cfg K.mgmtMctpEid
  .next (match msg with
    | .dynamicAddress a =>
      { s with mgmt := { s.mgmt with address := some a.toNat, eid := if static = 0 then none else some static } }.setN K.mgmtMgmtLinkState
        (if static = 0 then 1 else 2)
    | .endpointId e =>
      { s with mgmt := { s.mgmt with eid := some (if static = 0 then e.toNat else static) } }.setN K.mgmtMgmtLinkState 2)

/-! ### Fabric accesses (spec/01 R20, R21) -/

/-- A rejected access: an error to the requester, and the capture record, which holds the latest rejection: what it holds after several
the spec does not say (DESIGN CHOICE, log 53). -/
def fabricReject (s : State) (fm : FabricMaster) (write : Bool) (a n : Nat) : State :=
  errorTo { s with memory := { s.memory with fabricCap := some (portNum (.fabric fm), write, a, n) } } (fabricKey fm)

/-- An access that is answered normally, with the bytes read. -/
def fabricAnswer (s : State) (fm : FabricMaster) (write : Bool) (n v : Nat) : State :=
  okTo (if write then s else s.deliver (fabricKey fm) (BitVec.ofNat 64 (v % 2 ^ (8 * n)))) (fabricKey fm)

/-- A correction on an access to an on-die SRAM (spec/14 R337, R338): it feeds the tracker of its memory. -/
def sramCorrected (s : State) (a : Nat) : State :=
  let w := a - a % 8
  if a < 0x50000000 then track s 1 w
  else if a < 0x60000000 then
    let o := a - 0x50000000
    llcCorrected s (o % 0x40000 / 64) (15 - o / 0x40000) (o % 64 / 8) a
  else track s (if a < 0x70000000 then 4 else if a < 0x78000000 then 5 else 6) w

/-- A word that cannot be corrected in the journal is a fault of the Sheaf unit, which discards every open transaction (spec/13 R320); in a
zone context it takes the zone out of service (spec/11 R271). -/
def sramLost (s : State) (a : Nat) : State :=
  let z := (a - ctxBase) / 32
  if journalBase ≤ a ∧ a < journalBase + journalSize then
    raise (setTxns (s.setN K.sheafSheafState 3) []) 342 [1, a] {}
  else if ctxBase ≤ a ∧ z < ctxCount then contextLost s z
  else s

/-- What the check bits of an on-die SRAM say of an access. What the reader gets for a word that cannot be corrected is not stated: a
free value (log 40). -/
def sramEcc (s : State) (a : Nat) (arr : ArrayEcc) (v : Nat) : Nat × State := match arr with
  | .clean => (v, s)
  | .correctable => (v, sramCorrected s a)
  | _ => (s.free.toNat, sramLost s.drawn a)

/-- A plain access to SRAM. -/
def sramAccess (s : State) (fm : FabricMaster) (write : Bool) (a n v : Nat) (arr : ArrayEcc) : State :=
  if write then fabricAnswer (s.store a (leBytes n v)) fm true n 0
  else fabricAnswer (sramEcc s a arr (leNat (s.load a n))).2 fm false n (sramEcc s a arr (leNat (s.load a n))).1

/-- The regions of R20. -/
inductive Region where
  | context | journal | scratch | pantry | samples | sieve | tcm | dict | cellar | none
deriving DecidableEq, Repr

/-- An access of n bytes at a lies within a range. -/
def within (a n lo size : Nat) : Bool := decide (lo ≤ a) && decide (a + n ≤ lo + size)

/-- The region of an access. -/
def regionOf (a n : Nat) : Region :=
  if within a n 0x40000000 0x800000 then .context
  else if within a n 0x40800000 0x40000 then .journal
  else if within a n 0x50000000 0x300000 then .scratch
  else if within a n 0x60000000 0x100000 then .pantry
  else if within a n 0x68000000 0x400000 then .samples
  else if within a n 0x70000000 0x800000 && decide (a % 0x100000 + n ≤ 0x40000) then .sieve
  else if within a n 0x78000000 0x200000 && decide (a % 0x100000 + n ≤ 0x40000) then .tcm
  else if within a n 0x80000000 0x8000000 then .dict
  else if within a n cellarBase (cellarEnd - cellarBase) then .cellar
  else .none

/-- The bytes at an offset of a Pantry window (spec/15 R347): the last pop's payload, the pop's tag word, the status word. -/
def windowByte (s : State) (port q tag o : Nat) : Byte :=
  if 0x40 ≤ o ∧ o < 0x7C then ((Sp.get s.pan.popBuf port).getD []).getD (o - 0x40) 0
  else if 0x7C ≤ o ∧ o < 0x80 then BitVec.ofNat 8 (tag / 256 ^ (o - 0x7C))
  else if 0x80 ≤ o ∧ o < 0x84 then
    let f := s.nat (K.panFlags q)
    BitVec.ofNat 8 (((s.queue q).items.length % 2 ^ 15 + b2n (queueFull s q) * 2 ^ 15 + bitsOf f 1 4 * 2 ^ 16) / 256 ^ (o - 0x80))
  else 0

/-- An access to a Pantry window (spec/15 R347-R349): a read of the pop tag word pops, a write of the push tag word pushes. -/
def pantryAccess (s : State) (fm : FabricMaster) (write : Bool) (a n v : Nat) : State :=
  let port := portNum (.fabric fm)
  let q := (a - 0x60000000) / 0x800
  let o := (a - 0x60000000) % 0x800
  if write then
    let old := stagingOf s port
    let new := (List.range 60).map fun i => if o ≤ i ∧ i < o + n then BitVec.ofNat 8 (v / 256 ^ (i - o)) else old.getD i 0
    let t := if o < 60 then { s with pan := { s.pan with staging := Sp.put s.pan.staging port new } } else s
    let t := if o ≤ 60 ∧ 60 < o + n then fabricPush t port q (v / 256 ^ (60 - o) % 65536) .ok else t
    fabricAnswer t fm true n 0
  else
    let t := if o ≤ 0x7C ∧ 0x7C < o + n then fabricPop s port q .ok else s
    let tag := (Sp.get t.pan.popTag port).getD 0
    fabricAnswer t fm false n (leNat ((List.range n).map fun i => windowByte s port q tag (o + i)))

/-- The offset of an address in the object window. -/
def windowOffset (a : Nat) : Nat := a - 0x80000000

/-- An access to the object window (R386): a master's, 4-byte aligned and 4 or 8 bytes wide, within one object's word. -/
def dictAccess (s : State) (fm : FabricMaster) (write : Bool) (a n : Nat) (data : Word) : State :=
  match fm with
  | .core m =>
    let o := windowOffset a
    let i := o / 2048
    let sub := o / 8 % 256
    if n = 8 ∧ o % 8 = 0 ∨ n = 4 ∧ o % 4 = 0 then
      if write then
        let w : StoreWidth := if n = 8 then .full8 else if o % 8 = 0 then .low4 else .high4
        let x : DictStore := { master := Fin.ofNat 17 m.val, index := BitVec.ofNat 16 i, sub := BitVec.ofNat 8 sub, width := w, data := data }
        okTo (servePorts s (storeCycle s [x])) m
      else
        let (_, w, t) := readAccess s m.val i sub
        fabricAnswer t fm false n (if n = 8 then w.toNat else if o % 8 = 0 then w.toNat % 2 ^ 32 else w.toNat / 2 ^ 32)
    else fabricReject s fm write a n
  | _ => fabricReject s fm write a n

/-- A byte of the raw sample buffers (spec/07 R166): what is stored, or, in the sample area of a capture under way or abandoned, one of the
entry's free values (log 13). -/
def sampleByte (s : State) (addr : Nat) : Byte :=
  let o := addr % 0x100000 % 0xE800
  match (bufAt (s.ch ((addr - 0x68000000) / 0x100000)) (addr % 0x100000 / 0xE800)).freeBase with
  | some n => if o < 64 then Memory.read s.mem addr else BitVec.ofNat 8 (Config.freeValue (n + (o - 64))).toNat
  | none => Memory.read s.mem addr

/-- A read of the raw sample buffers. -/
def sampleRead (s : State) (fm : FabricMaster) (a n : Nat) (arr : ArrayEcc) : State :=
  let v := leNat ((List.range n).map fun i => sampleByte s (a + i))
  fabricAnswer (sramEcc s a arr v).2 fm false n (sramEcc s a arr v).1

/-- An access to the Cellar (R325, R330, R331, R337): cores go through the cache, other masters look into it. -/
def cellarFabric (s : State) (fm : FabricMaster) (write : Bool) (a n v : Nat) (arr : ArrayEcc) : State :=
  let op : CellarOp := if write then .writePart (Fin.ofNat 64 a) (leBytes n v) else .read
  match fm with
  | .pruner => cellarAccess s .pruner a op .clean arr
  | .hoe => cellarAccess s .hoe a op .clean arr
  | _ =>
    let (t, bad) := arrayMeets s a arr (fabricKey fm)
    if bad then errorTo t (fabricKey fm)
    else coreAccess t { master := fabricKey fm, write := write, addr := a, size := n, data := v, since := s.now }

/-- Control firmware (ids 2-14 of R383), which alone may write zone contexts (spec/11 R244). -/
def controlFirmware (fm : FabricMaster) : Bool := match fm with
  | .core m => decide (2 ≤ m.val) && decide (m.val ≤ 14)
  | _ => false

/-- The sample records not yet read after a read of n bytes at an offset of a servo memory: one is read with its bytes 0-3 (spec/04
R84). -/
def recordsRead (l : BitVec 64) (o n : Nat) : BitVec 64 :=
  (List.range 64).foldl (fun m k =>
    let r := 0x3F800 + 32 * k
    if o < r + 4 ∧ r < o + n then m &&& ~~~((1 : BitVec 64) <<< k) else m) l

/-- A fabric access of n bytes (R20, R21; zone contexts by spec/11 R244). -/
def fabricAccess (s : State) (fm : FabricMaster) (write : Bool) (a n : Nat) (data : Word) (arr : ArrayEcc) : State :=
  let v := data.toNat % 2 ^ (8 * n)
  let reject := fabricReject s fm write a n
  match regionOf a n with
  | .context =>
    if !write then sramAccess s fm write a n v arr
    else if s.flag K.zoneZoneHwEnable || !controlFirmware fm then reject
    else (sramAccess s fm write a n v arr).setN K.zoneFormatState 0
  | .journal => if write ∧ fm ≠ .sheafUnit then reject else sramAccess s fm write a n v arr
  | .scratch => if 0x50000000 + s.nat K.memScratchWays * 0x40000 < a + n then reject else sramAccess s fm write a n v arr
  | .pantry => pantryAccess s fm write a n v
  | .samples =>
    if !hasSlot s.variant ((a - 0x68000000) / 0x100000) then reject
    else if write then fabricAnswer s fm true n 0 else sampleRead s fm a n arr
  | .sieve => if hasSieve s.variant then sramAccess s fm write a n v arr else reject
  | .tcm =>
    let b := (a - 0x78000000) / 0x100000
    if hasAct s.variant b then
      let t := sramAccess s fm write a n v arr
      if write then t else t.setAct b { t.act b with unread := recordsRead (t.act b).unread (a % 0x100000) n }
    else reject
  | .dict => dictAccess s fm write a n data
  | .cellar => cellarFabric s fm write a n v arr
  | .none => reject

/-- FABRIC_ACCESS (R20, R21). -/
def execFabricAccess (fm : FabricMaster) (write : Bool) (addr : Addr) (size : AccessSize) (data : Word) (arr : ArrayEcc)
    (s : State) :
    Host.Outcome State Fault Refusal :=
  .next (fabricAccess s fm write addr.toNat (sizeBytes size) data arr)

end Sys2Proof.Machine
end

