-- ==== Sys2Proof/Machine/Trellis.lean ====
section
/-! DEFINITION. Microwords of the Trellis engines (spec/10 R218-R240): fetch, conditions, the datapath, sequencing, yield points and
halts. A command carries the microword and nano-word at the engine's present address where those lie in ROM, which the spec
does not print; patch RAM and the customer region supply their own. -/

namespace Sys2Proof.Machine

/-! ### Fields (R222, R226) -/

/-- A microword by its fields. -/
structure Micro where
  op : Nat
  y : Bool
  cond : Nat
  /-- The register that DISP names. -/
  dreg : Nat
  target : Nat
  lc : Nat
  load : Bool
  nano : Nat
deriving DecidableEq, Repr

/-- The fields of a microword. -/
def microOf (w : Nat) : Micro :=
  { op := bitsOf w 36 4, y := bitAt w 35, cond := bitsOf w 29 6, dreg := bitsOf w 29 5, target := bitsOf w 16 13, lc := bitsOf w 12 2,
    load := bitAt w 14, nano := bitsOf w 0 12 }

/-- A nano-word by its fields. -/
structure Nano where
  alu : Nat
  a : Nat
  b : Nat
  dst : Nat
  bImm : Bool
  wr : Bool
  flags : Bool
  imm : Nat
  mem : Nat
  sel : Nat
  strobe : Nat
  gate : Nat
  event : Bool
  opened : Bool
deriving DecidableEq, Repr

/-- The fields of a nano-word. -/
def nanoOf (w : Nat) : Nano :=
  { alu := bitsOf w 0 5, a := bitsOf w 5 5, b := bitsOf w 10 5, dst := bitsOf w 15 5, bImm := bitAt w 20, wr := bitAt w 21,
    flags := bitAt w 22, imm := bitsOf w 23 32, mem := bitsOf w 55 4, sel := bitsOf w 59 9, strobe := bitsOf w 68 8, gate := bitsOf w 76 8,
    event := bitAt w 84, opened := bitAt w 127 }

/-! ### Fetch (R219, R220) -/

/-- The address fetched: a redirect's target where the address is a valid source in ROM (R220). -/
def Engine.fetchAt (e : Engine) : Nat :=
  match e.redirects.find? fun r => r.1 == e.cur.upc with
  | some r => if e.cur.upc < 4096 then r.2 else e.cur.upc
  | none => e.cur.upc

/-- The microword at an address: the command's in ROM, else the store's. -/
def Engine.microAt (e : Engine) (pc : Nat) (w : BitVec 40) : Nat :=
  if pc < 4096 then w.toNat else ((Sp.get e.micro pc).getD 0).toNat % 2 ^ 40

/-- The nano-word at an address. -/
def Engine.nanoAt (e : Engine) (a : Nat) (w : BitVec 128) : Nat := if a < 2048 then w.toNat else ((Sp.get e.nano a).getD 0).toNat

/-- A micro-store word's entry attribute (R238 limit 3): patch words carry it; a ROM word has it where the entry table shows it. -/
def entryAttr (s : State) (n a : Nat) : Bool :=
  if a < 4096 then (List.range 64).any fun i => let w := s.nat (K.trlEntryTable n i); w != 0 && bitsOf w 0 13 == a
  else ((Sp.get (s.eng n).micro a).getD 0).getLsbD 40

/-! ### Conditions (R224, R225) -/

/-- A register; r0 reads 0 (R221). -/
def Engine.reg (e : Engine) (i : Nat) : Nat := if i = 0 then 0 else (at' e.regs i 0).toNat
/-- Writes a register; a write to r0 is discarded. -/
def Engine.setReg (e : Engine) (i v : Nat) : Engine := if i = 0 then e else { e with regs := upd e.regs i (BitVec.ofNat 32 v) }
/-- A loop counter. -/
def Engine.lcOf (e : Engine) (i : Nat) : Nat := e.cur.lc.getD i 0

/-- Role conditions of a format sequencer (R225); whether a slot's schedule queue has room is not kept by the model: free. -/
def formatCond (s : State) (a c : Nat) : Bool := match c with
  | 48 => s.nat K.sunState == 3
  | 49 => !(s.act a).seeking
  | 50 => onRead s (2 * a)
  | 51 => onRead s (2 * a + 1)
  | 52 => writeOk s (2 * a)
  | 53 => writeOk s (2 * a + 1)
  | 54 => s.free.getLsbD 0
  | 55 => s.free.getLsbD 1
  | 56 => twinOn s a
  | 57 => s.power.loss
  | _ => false

/-- Role conditions of a head sequencer (R225). -/
def headCond (s : State) (q c : Nat) : Bool := match c with
  | 48 => s.nat K.sunState == 3
  | 49 => onRead s q
  | 50 => writeOk s q
  | 51 => (s.wr q).confirmed
  | 52 => (at' s.grants q none).isSome
  | 53 => (s.wr q).staging.any fun (e : StageEnt) => e.complete
  | 54 => decide (0 < freeEntries (s.ch q))
  | 55 => (s.link (q / 2)).clock && (s.link (q / 2)).cur.isNone
  | 56 => (s.ch q).resultReady
  | 57 => s.power.loss
  | _ => false

/-- Role conditions of the motor engine (R225); its ticks, samples and comparators at the present cycle are not kept: free. -/
def motorCond (s : State) (c : Nat) : Bool := match c with
  | 48 => s.free.getLsbD 0
  | 49 => s.free.getLsbD 1
  | 50 => s.free.getLsbD 2
  | 51 => s.power.loss
  | 52 => s.nat K.sunState == 3
  | 53 => s.free.getLsbD 3
  | 54 => s.free.getLsbD 4
  | 55 => decide (s.nat K.spinHoldRailNowMv < s.nat K.spinHoldRailMv)
  | _ => false

/-- A condition of engine n (R224). -/
def condOf (s : State) (n c : Nat) : Bool :=
  let e := s.eng n
  if c = 0 then true
  else if c < 5 then bitAt e.cur.flags (c - 1)
  else if c = 5 then e.fabReady
  else if c = 6 then e.fabError
  else if c = 7 then e.popValid
  else if c < 12 then e.lcOf (c - 8) == 0
  else if c < 16 then false
  else if c < 40 then s.bit (K.trlIrqPending n) (c - 16)
  else if c < 48 then (s.queue (8 * n + (c - 40))).items.length != 0
  else if n < 2 then formatCond s n c
  else if n < 6 then headCond s (n - 2) c
  else motorCond s c

/-! ### Sequencing (R223) -/

/-- The branch, call, return or skip of a word is taken, or its WAIT completes. -/
def takes (m : Micro) (c : Bool) (lc : Nat) : Bool := match m.op with
  | 0x1 => true
  | 0x2 => c
  | 0x3 => !c
  | 0x5 => true
  | 0x6 => c
  | 0x7 => true
  | 0x8 => c
  | 0x9 => (lc + 65535) % 65536 != 0
  | 0xA => c
  | 0xD => c
  | _ => false

/-- Next address of a word, redirects apart, for an address, whether it takes, the micro-stack's top and the register DISP names. -/
def nextAddr (m : Micro) (pc : Nat) (taken : Bool) (top dreg : Nat) : Nat :=
  let next := (pc + 1) % 8192
  match m.op with
  | 0x1 => m.target
  | 0x2 => if taken then m.target else next
  | 0x3 => if taken then m.target else next
  | 0x4 => m.target - m.target % 4 + dreg % 4
  | 0x5 => m.target
  | 0x6 => if taken then m.target else next
  | 0x7 => top
  | 0x8 => if taken then top else next
  | 0x9 => if taken then m.target else next
  | 0xA => if taken then next else pc
  | 0xD => if taken then (pc + 2) % 8192 else next
  | _ => next

/-- A word is a taken CALL or CALL_T. -/
def calls (m : Micro) (taken : Bool) : Bool := (m.op == 0x5 || m.op == 0x6) && taken
/-- A word is a taken RET or RET_T. -/
def returns (m : Micro) (taken : Bool) : Bool := (m.op == 0x7 || m.op == 0x8) && taken

/-! ### Datapath (R227) -/

/-- The 32-bit result of an ALU operation, and carry and overflow where the operation defines them: of an addition; overflow of a
subtraction. The carry of a subtraction has no stated sense. -/
def aluOf (op a b : Nat) : Nat × Option Bool × Option Bool :=
  let x := BitVec.ofNat 32 a
  let y := BitVec.ofNat 32 b
  match op with
  | 1 => (a, none, none)
  | 2 => ((x + y).toNat, some (decide (2 ^ 32 ≤ a + b)), some (x.msb == y.msb && (x + y).msb != x.msb))
  | 3 => ((x - y).toNat, none, some (x.msb != y.msb && (x - y).msb != x.msb))
  | 4 => ((x &&& y).toNat, none, none)
  | 5 => ((x ||| y).toNat, none, none)
  | 6 => ((x ^^^ y).toNat, none, none)
  | 7 => ((x <<< (b % 32)).toNat, none, none)
  | 8 => ((x >>> (b % 32)).toNat, none, none)
  | 9 => ((x.sshiftRight (b % 32)).toNat, none, none)
  | 10 => ((x - y).toNat, none, some (x.msb != y.msb && (x - y).msb != x.msb))
  | 11 => (if a < b then a else b, none, none)
  | 12 => (if a < b then b else a, none, none)
  | _ => (0, none, none)

/-- The flags after an operation: zero, negative, carry, overflow as bits 0 to 3. -/
def flagsOf (r : Nat × Option Bool × Option Bool) (freeC freeV : Bool) : Nat :=
  b2n (r.1 == 0) + 2 * b2n (bitAt r.1 31) + 4 * b2n (r.2.1.getD freeC) + 8 * b2n (r.2.2.getD freeV)

/-- Local memory read of an aligned 32-bit word (R221). -/
def Engine.localRead (e : Engine) (a : Nat) : Nat := leNat ((List.range 4).map fun i => (Sp.get e.mem (a - a % 4 + i)).getD 0)
/-- Local memory write. -/
def Engine.localWrite (e : Engine) (a v : Nat) : Engine := { e with mem := Memory.writeAll e.mem (a - a % 4) (leBytes 4 v) }

/-! ### Faults of a word (R223, R227, R230 row 7, R238) -/

/-- Limits 4 to 6 of R238, and the one fabric operation outstanding of R227. -/
def memFault (s : State) (n : Nat) (cust : Bool) (x : Nano) : Option Nat :=
  let e := s.eng n
  let a := e.reg x.a
  let sum := (a + x.imm % 65536) % 2 ^ 32
  let fab := x.sel % 256 * 2 ^ 32 + a
  let base := s.nat (K.trlCustFabricBase n)
  let qf := s.nat (K.trlCustQueueFirst n)
  if cust && (x.mem == 1 || x.mem == 2) && (decide (sum < 0x3000) || decide (0x3FFF < sum)) then some 6
  else if cust && (x.mem == 5 || x.mem == 6) && (decide (fab < base) || decide (base + s.nat (K.trlCustFabricSize n) < fab + 4)) then some 6
  else if cust && (x.mem == 3 || x.mem == 4) && (decide (x.sel < qf) || decide (qf + s.nat (K.trlCustQueueCount n) ≤ x.sel)) then some 6
  else if (x.mem == 5 || x.mem == 6) && e.fabric.isSome then some 5
  else none

/-- Limits 3 and 7 and the nano-word's of limit 1 (R238). -/
def custFault (s : State) (n : Nat) (m : Micro) (x : Nano) (taken : Bool) (next : Nat) : Option Nat :=
  if !s.flag (K.trlCustomerEnable n) then some 6
  else if !(3584 ≤ m.nano || (m.nano < 2048 && x.opened)) then some 6
  else if next < 7168 && m.op != 0xB && m.op != 0xC && !returns m taken && !(calls m taken && entryAttr s n m.target) then some 6
  else none

/-- The cause for which a word halts the engine with none of its effects; none where it executes. -/
def wordFault (s : State) (n pc : Nat) (m : Micro) (x : Nano) (taken : Bool) (next : Nat) : Option Nat :=
  let e := s.eng n
  let cust := decide (7168 ≤ pc)
  if cust && !s.flag (K.trlCustomerEnable n) then some 6
  else if cust && !(3584 ≤ m.nano || (m.nano < 2048 && x.opened)) then some 6
  else if 0xE ≤ m.op || 12 < x.alu || 7 < x.mem then some 5
  else if calls m taken && decide (8 ≤ e.cur.stack.length) then some 3
  else if returns m taken && e.cur.stack.isEmpty then some 4
  else match (if cust then custFault s n m x taken next else none) with
    | some c => some c
    | none => match memFault s n cust x with
      | some c => some c
      | none => if m.op = 0xB ∧ e.irq.isNone = true then some 8 else none

/-- A word halts its engine with a cause of row 7 (R230). -/
def engineFault (s : State) (n pc cause : Nat) : State :=
  let t := (s.setN (K.trlHaltCause n) cause).setN (K.trlHaltUpc n) pc
  let t := t.inc (K.trlFaultCount n)
  let t := if cause = 6 then t.inc (K.trlIsolationCount n) else t
  leaveRun t n 4 (288 + 4 * n) [cause, pc, (s.eng n).cur.stack.length]

/-! ### What a nano-word does outside the datapath (R227, R228) -/

/-- The mailbox that r4 to r7 hold (R85, R228), with the twin extension as it stands in the servo interface area (spec/05 R109). -/
def mailboxOf (s : State) (a : Nat) (e : Engine) : Mailbox :=
  let w := e.reg 6
  let ext := tcmBase a + 0x3F010
  let z := leNat (s.load (ext + 4) 4)
  { target := BitVec.ofNat 64 (e.reg 4 + e.reg 5 * 2 ^ 32), head := Fin.ofNat 12 (w % 16), slotB := bitAt w 4, write := bitAt w 5,
    twin := bitAt w 6, seekSeq := BitVec.ofNat 16 (w / 2 ^ 16), deadline := BitVec.ofNat 24 (e.reg 7),
    pairShift := BitVec.ofNat 32 (leNat (s.load ext 4)), zone := BitVec.ofNat 18 z, pair := BitVec.ofNat 4 (z / 2 ^ 18) }

/-- Gate bits that act on what the model holds; the others post requests that their own commands carry (R228). What a twin extension
write takes its bytes from is not stated: free. -/
def gateActs (s : State) (n gate : Nat) (e : Engine) : State :=
  if n < 2 then
    let t := if bitAt gate 4 then s.store (tcmBase n + 0x3F010) (leBytes 8 (Config.freeValue (s.freeCtr + 3)).toNat) else s
    if bitAt gate 0 then seekWrite t n (mailboxOf t n e) else t
  else if n = 6 then
    let v := bitsOf gate 1 3
    let t := if bitAt gate 0 then
        { s with motor := { s.motor with bridge := if v = 0 ∨ v = 7 then .zero v else .active v 1000 true, lastVec := v } } else s
    if bitAt gate 4 then { t with motor := { t.motor with bridge := .highZ } } else t
  else s

/-- Strobes that act on what the model holds (R228). -/
def strobeActs (s : State) (n strobe : Nat) : State :=
  if !bitAt strobe 1 then s
  else if n = 6 then observerCheck raise s
  else if 2 ≤ n then s.setCh (n - 2) { s.ch (n - 2) with resultReady := false }
  else s

/-- A fabric operation is issued (R227). -/
def fabricIssue (s : State) (n : Nat) (write : Bool) (addr data dst : Nat) : State :=
  let t := s.setEng n { s.eng n with fabric := some (if write then none else some dst), fabReady := false, fabError := false }
  let t := { t with rdata := Sp.del t.rdata (8 + n), memory := { t.memory with errs := Sp.del t.memory.errs (8 + n) } }
  fabricAccess t (.core (Fin.ofNat 16 (8 + n))) write addr 4 (BitVec.ofNat 64 data) .clean

/-- Memory operations beyond the engine's own memory (R227). -/
def memActs (s : State) (n : Nat) (x : Nano) (e : Engine) (b : Nat) : State :=
  match x.mem with
  | 3 => pantryPush raise s (31 + n) x.sel (x.imm % 65536) (regPayload e) .ok
  | 4 =>
    let (tag, t) := enginePop s n x.sel .ok
    t.setEng n ((t.eng n).setReg x.dst tag)
  | 5 => fabricIssue s n false (x.sel % 256 * 2 ^ 32 + e.reg x.a) 0 x.dst
  | 6 => fabricIssue s n true (x.sel % 256 * 2 ^ 32 + e.reg x.a) b 0
  | _ => s

/-- The engine after a word's datapath and sequencing (R221, R223, R227). -/
def datapath (s : State) (m : Micro) (x : Nano) (e : Engine) (pc next : Nat) (taken cust : Bool) : Engine :=
  let b := if x.bImm then x.imm else e.reg x.b
  let a := e.reg x.a
  let r := aluOf x.alu a b
  let v (i : Nat) : Bool := (Config.freeValue (s.freeCtr + i)).getLsbD 0
  let sum := (a + x.imm % 65536) % 16384
  let lc := if m.op = 0x9 then e.cur.lc.set m.lc ((e.lcOf m.lc + 65535) % 65536) else e.cur.lc
  let lc := if m.load then lc.set m.lc (x.imm % 65536) else lc
  let stack := if calls m taken then (pc + 1) % 8192 :: e.cur.stack else if returns m taken then e.cur.stack.tail else e.cur.stack
  let flags := if x.flags && x.alu != 0 then flagsOf r (v 1) (v 2) else e.cur.flags
  let f := { e with cur := { upc := next, stack := stack, lc := lc, flags := flags }
                    gate := if cust then 0 else x.gate, strobe := x.strobe, angle := a % 2 ^ 24, span := e.reg x.b }
  let f := if x.wr && x.alu != 0 && x.alu != 10 && x.mem != 1 then f.setReg x.dst r.1 else f
  match x.mem with
  | 1 => f.setReg x.dst (e.localRead sum)
  | 2 => f.localWrite sum (e.reg x.b)
  | 7 => (f.setReg x.dst s.sun.frac.toNat).setReg 19 s.sun.rev.toNat
  | _ => f

/-! ### Yield points (R231) -/

/-- The pending source that an engine would take. -/
def irqSource (s : State) (n : Nat) : Option Nat :=
  (List.range 32).find? fun i => s.bit (K.trlIrqPending n) i && s.bit (K.trlIrqMask n) i

/-- A handler is entered for a source: its pending bit clears, r28 names it, and the wait ends (R231, R234). -/
def enterHandler (s : State) (n src : Nat) : State :=
  let e := s.eng n
  let t := s.setEng n { (e.setReg 28 src) with cur := { e.cur with upc := 4 }, wait := 0 }
  let t := (t.setBitOf (K.trlIrqPending n) src false).inc (K.trlIrqTakenCount n)
  if t.nat (K.trlMaxIrqLatency n) < e.wait then t.setN (K.trlMaxIrqLatency n) (if e.wait < 65535 then e.wait else 65535) else t

/-- An interrupt is taken: the context is saved, then the handler entered. -/
def takeIrq (s : State) (n src : Nat) : State :=
  enterHandler (s.setEng n { s.eng n with irq := some (s.eng n).cur }) n src

/-- A word does not take a pending interrupt: the wait grows (R234). -/
def waits (s : State) (n : Nat) : State :=
  let e := s.eng n
  if (irqSource s n).isSome then s.setEng n { e with wait := e.wait + 1 } else if e.wait = 0 then s else s.setEng n { e with wait := 0 }

/-- A halt with its context saved: causes 1 HALT microword, 2 request (R230 rows 8 and 9). -/
def haltNow (s : State) (n pc cause : Nat) : State :=
  let e := s.eng n
  let t := s.setEng n { e with halt := some (e.cur, e.irq), haltReq := false }
  let t := (t.setN (K.trlHaltCause n) cause).setN (K.trlHaltUpc n) pc
  let t := trlShow ((trlQuiet t n).setN (K.trlState n) 4) n
  let t := if n < 2 then returnDescs t n 0 else if n < 6 then t else { t with motor := { t.motor with bridge := .highZ } }
  (engineSlots n).foldl (fun u q => slotReset raise u q) t

/-- RETI: the saved context is current again (R234). -/
def irqReturn (s : State) (n : Nat) : State := match (s.eng n).irq with
  | some c => s.setEng n { s.eng n with cur := c, irq := none }
  | none => s

/-- The end of a word: a halt, RETI, an interrupt at a yield point, or none (R230, R231). -/
def wordEnd (s : State) (n pc : Nat) (m : Micro) : State :=
  let e := s.eng n
  if m.op = 0xC then haltNow s n pc 1
  else if m.y && e.haltReq then haltNow (if m.op = 0xB then irqReturn s n else s) n pc 2
  else match irqSource s n with
    | some src =>
      if m.op = 0xB then enterHandler s n src
      else if m.y && e.irq.isNone then takeIrq s n src
      else waits s n
    | none => waits (if m.op = 0xB then irqReturn s n else s) n

/-! ### One microword -/

/-- A word that executes (R223-R231). -/
def wordActs (s : State) (n pc : Nat) (m : Micro) (x : Nano) (taken : Bool) (next : Nat) : State :=
  let e := s.eng n
  let cust := decide (7168 ≤ pc)
  let t := s.setEng n (datapath s m x e pc next taken cust)
  let t := if taken && decide (16 ≤ m.cond) && decide (m.cond < 32) && ([0x2, 0x6, 0x8, 0xA, 0xD] : List Nat).contains m.op then
    t.setBitOf (K.trlIrqPending n) (m.cond - 16) false else t
  let t := memActs t n x e (if x.bImm then x.imm else e.reg x.b)
  let t := strobeActs (gateActs t n (if cust then 0 else x.gate) e) n x.strobe
  let t := trlShow { t with freeCtr := t.freeCtr + 4 } n
  let t := if x.event then trlEvent raise t n 3 [x.imm % 65536, pc] else t
  if trlState t n = 3 then trlShow (wordEnd t n pc m) n else t

/-- Corrections of a word's fetch are counted and feed the repeat tracker of the Trellis stores (R219, R241, spec/14 R338). -/
def storeFixed (s : State) (n pc nano : Nat) (fix : BitVec 2) : State :=
  let t := if fix.getLsbD 0 then track (s.inc (K.trlMicroCorrectedCount n)) 7 (pc + n * 2 ^ 14) else s
  if fix.getLsbD 1 then track (t.inc (K.trlNanoCorrectedCount n)) 7 (nano + 2 ^ 13 + n * 2 ^ 14) else t

/-- A microword of an engine in RUN whose sequencing operation is one of those given; of any other word nothing is executed. -/
def runWord (s : State) (n : Nat) (ops : List Nat) (w : BitVec 40) (nano : BitVec 128) (fix : BitVec 2) : State :=
  let e := s.eng n
  let pc := e.fetchAt
  let m := microOf (e.microAt pc w)
  if trlState s n ≠ 3 ∨ ops.contains m.op = false then s
  else
    let s := storeFixed s n pc m.nano fix
    let x := nanoOf (e.nanoAt m.nano nano)
    let taken := takes m (condOf s n m.cond) (e.lcOf m.lc)
    let next := nextAddr m pc taken (e.cur.stack.headD 0) (e.reg m.dreg)
    match wordFault s n pc m x taken next with
    | some cause => engineFault s n pc cause
    | none => wordActs s n pc m x taken next

/-- NEXT (R223), and the reserved encodings 0xE and 0xF, which halt the engine. -/
def execNext (n : Eng) (w : BitVec 40) (nano : BitVec 128) (fix : BitVec 2) (s : State) : Host.Outcome State Fault Refusal :=
  .next (runWord s n [0x0, 0xE, 0xF] w nano fix)
/-- JUMP (R223). -/
def execJump (n : Eng) (w : BitVec 40) (nano : BitVec 128) (fix : BitVec 2) (s : State) : Host.Outcome State Fault Refusal :=
  .next (runWord s n [0x1] w nano fix)
/-- BR_T (R223). -/
def execBrT (n : Eng) (w : BitVec 40) (nano : BitVec 128) (fix : BitVec 2) (s : State) : Host.Outcome State Fault Refusal :=
  .next (runWord s n [0x2] w nano fix)
/-- BR_F (R223). -/
def execBrF (n : Eng) (w : BitVec 40) (nano : BitVec 128) (fix : BitVec 2) (s : State) : Host.Outcome State Fault Refusal :=
  .next (runWord s n [0x3] w nano fix)
/-- DISP (R223). -/
def execDisp (n : Eng) (w : BitVec 40) (nano : BitVec 128) (fix : BitVec 2) (s : State) : Host.Outcome State Fault Refusal :=
  .next (runWord s n [0x4] w nano fix)
/-- CALL (R223). -/
def execCall (n : Eng) (w : BitVec 40) (nano : BitVec 128) (fix : BitVec 2) (s : State) : Host.Outcome State Fault Refusal :=
  .next (runWord s n [0x5] w nano fix)
/-- CALL_T (R223). -/
def execCallT (n : Eng) (w : BitVec 40) (nano : BitVec 128) (fix : BitVec 2) (s : State) : Host.Outcome State Fault Refusal :=
  .next (runWord s n [0x6] w nano fix)
/-- RET (R223). -/
def execRet (n : Eng) (w : BitVec 40) (nano : BitVec 128) (fix : BitVec 2) (s : State) : Host.Outcome State Fault Refusal :=
  .next (runWord s n [0x7] w nano fix)
/-- RET_T (R223). -/
def execRetT (n : Eng) (w : BitVec 40) (nano : BitVec 128) (fix : BitVec 2) (s : State) : Host.Outcome State Fault Refusal :=
  .next (runWord s n [0x8] w nano fix)
/-- LOOP (R223): the branch is decided on the count before a load of the same counter. -/
def execLoop (n : Eng) (w : BitVec 40) (nano : BitVec 128) (fix : BitVec 2) (s : State) : Host.Outcome State Fault Refusal :=
  .next (runWord s n [0x9] w nano fix)
/-- WAIT (R223). -/
def execWait (n : Eng) (w : BitVec 40) (nano : BitVec 128) (fix : BitVec 2) (s : State) : Host.Outcome State Fault Refusal :=
  .next (runWord s n [0xA] w nano fix)
/-- RETI (R231). -/
def execReti (n : Eng) (w : BitVec 40) (nano : BitVec 128) (fix : BitVec 2) (s : State) : Host.Outcome State Fault Refusal :=
  .next (runWord s n [0xB] w nano fix)
/-- HALT (R223, R230). -/
def execHalt (n : Eng) (w : BitVec 40) (nano : BitVec 128) (fix : BitVec 2) (s : State) : Host.Outcome State Fault Refusal :=
  .next (runWord s n [0xC] w nano fix)
/-- SKIP (R223). -/
def execSkip (n : Eng) (w : BitVec 40) (nano : BitVec 128) (fix : BitVec 2) (s : State) : Host.Outcome State Fault Refusal :=
  .next (runWord s n [0xD] w nano fix)

/-- FABRIC_RESPONSE (R227): what the model's own memories answered is what comes back; the operand stands for the rest. -/
def execFabricResponse (n : Eng) (error : Bool) (data : BitVec 32) (s : State) : Host.Outcome State Fault Refusal :=
  let e := s.eng n
  match e.fabric with
  | none => .next s
  | some dst =>
    let bad := error || (Sp.get s.memory.errs (8 + n.val)).isSome
    let v := (((Sp.get s.rdata (8 + n.val)).map (·.toNat)).getD data.toNat) % 2 ^ 32
    let f := { e with fabric := none, fabReady := true, fabError := bad }
    let f := match dst with | some d => if bad then f else f.setReg d v | none => f
    .next (trlShow (s.setEng n f) n)

end Sys2Proof.Machine
end

