-- ==== Sys2Proof/Machine/Dispatch.lean ====
section
/-! DEFINITION. What each command does to the block (everything but the queue of waiting commands), one arm per constructor. -/

namespace Sys2Proof.Machine

/-- The effect of a command. -/
def exec (i : Instr) (s : State) : Host.Outcome State Fault Refusal :=
  match i with
  | .fabricAccess fm write addr size data arr => Sys2Proof.Machine.execFabricAccess fm write addr size data arr s
  | .objectWrite stores => Sys2Proof.Machine.execObjectWrite stores s
  | .countersClear m index sub v => Sys2Proof.Machine.execCountersClear m index sub v s
  | .stagingMiss q tag sector short => Sys2Proof.Machine.execStagingMiss q tag sector short s
  | .snapshot m v => Sys2Proof.Machine.execSnapshot m v s
  | .acceptWindowClose wedge => Sys2Proof.Machine.execAcceptWindowClose wedge s
  | .sundialEnableWrite m v => Sys2Proof.Machine.execSundialEnableWrite m v s
  | .freeLimitExpiry => Sys2Proof.Machine.execFreeLimitExpiry s
  | .fractionWrap => Sys2Proof.Machine.execFractionWrap s
  | .angleAlarmFire n => Sys2Proof.Machine.execAngleAlarmFire n s
  | .alarmWordWrite m n v => Sys2Proof.Machine.execAlarmWordWrite m n v s
  | .syncEnableWrite m v => Sys2Proof.Machine.execSyncEnableWrite m v s
  | .syncInPulse falling fraction => Sys2Proof.Machine.execSyncInPulse falling fraction s
  | .syncPulseTimeout => Sys2Proof.Machine.execSyncPulseTimeout s
  | .controlCycle inp => Sys2Proof.Machine.execControlCycle inp s
  | .speedLoopTick => Sys2Proof.Machine.execSpeedLoopTick s
  | .spinEnableWrite m v => Sys2Proof.Machine.execSpinEnableWrite m v s
  | .measureEnd emfMv emfAngle speedCrpm => Sys2Proof.Machine.execMeasureEnd emfMv emfAngle speedCrpm s
  | .ipdComplete p1 p2 p3 p4 p5 p6 => Sys2Proof.Machine.execIpdComplete p1 p2 p3 p4 p5 p6 s
  | .convergeTimeout => Sys2Proof.Machine.execConvergeTimeout s
  | .brakeTimeout => Sys2Proof.Machine.execBrakeTimeout s
  | .recatchDelayExpiry => Sys2Proof.Machine.execRecatchDelayExpiry s
  | .bridgeOvercurrent leg peakMa => Sys2Proof.Machine.execBridgeOvercurrent leg peakMa s
  | .bridgeFault cause => Sys2Proof.Machine.execBridgeFault cause s
  | .powerLossSequenceComplete => Sys2Proof.Machine.execPowerLossSequenceComplete s
  | .servoSample q inp => Sys2Proof.Machine.execServoSample q inp s
  | .outputLatch q rot vcmMv vcmUa beforeUa => Sys2Proof.Machine.execOutputLatch q rot vcmMv vcmUa beforeUa s
  | .seekMailboxWrite a mb => Sys2Proof.Machine.execSeekMailboxWrite a mb s
  | .seekTimeout a => Sys2Proof.Machine.execSeekTimeout a s
  | .settleMiss a sectors => Sys2Proof.Machine.execSettleMiss a sectors s
  | .accelSample x y z rot => Sys2Proof.Machine.execAccelSample x y z rot s
  | .shockHoldoffExpiry a => Sys2Proof.Machine.execShockHoldoffExpiry a s
  | .loadRequest m a v => Sys2Proof.Machine.execLoadRequest m a v s
  | .unloadRequest m a v => Sys2Proof.Machine.execUnloadRequest m a v s
  | .loadMsExpiry a => Sys2Proof.Machine.execLoadMsExpiry a s
  | .loadSearchTimeout a => Sys2Proof.Machine.execLoadSearchTimeout a s
  | .unloadComplete a => Sys2Proof.Machine.execUnloadComplete a s
  | .unloadTimeout a => Sys2Proof.Machine.execUnloadTimeout a s
  | .retractExpiry a => Sys2Proof.Machine.execRetractExpiry a s
  | .bemfOverspeed a bemfMv => Sys2Proof.Machine.execBemfOverspeed a bemfMv s
  | .vcmDriverFault a cause => Sys2Proof.Machine.execVcmDriverFault a cause s
  | .pztDriverFault a h cause => Sys2Proof.Machine.execPztDriverFault a h cause s
  | .servoDegradedClear m a v => Sys2Proof.Machine.execServoDegradedClear m a v s
  | .mapValidWrite m a v => Sys2Proof.Machine.execMapValidWrite m a v s
  | .captureStart m a v => Sys2Proof.Machine.execCaptureStart m a v s
  | .mapCaptureDone a => Sys2Proof.Machine.execMapCaptureDone a s
  | .assistGrantRequest reqs => Sys2Proof.Machine.execAssistGrantRequest reqs s
  | .assistBudgetWrite m v => Sys2Proof.Machine.execAssistBudgetWrite m v s
  | .linkNop a => Sys2Proof.Machine.execLinkNop a s
  | .linkRead a head addr => Sys2Proof.Machine.execLinkRead a head addr s
  | .linkWrite q head addr data due => Sys2Proof.Machine.execLinkWrite q head addr data due s
  | .assistArm q head gate => Sys2Proof.Machine.execAssistArm q head gate s
  | .assistOff q head => Sys2Proof.Machine.execAssistOff q head s
  | .preampSafe a stopClock => Sys2Proof.Machine.execPreampSafe a stopClock s
  | .linkResponse a status data crc stop settleA settleB => Sys2Proof.Machine.execLinkResponse a status data crc stop settleA settleB s
  | .linkResponseTimeout a => Sys2Proof.Machine.execLinkResponseTimeout a s
  | .linkDegradedClear m a v => Sys2Proof.Machine.execLinkDegradedClear m a v s
  | .linkInit m a v => Sys2Proof.Machine.execLinkInit m a v s
  | .preampFaultLine a => Sys2Proof.Machine.execPreampFaultLine a s
  | .monitorPoll a => Sys2Proof.Machine.execMonitorPoll a s
  | .monitorAgeExpiry q => Sys2Proof.Machine.execMonitorAgeExpiry q s
  | .headTempPoll a => Sys2Proof.Machine.execHeadTempPoll a s
  | .regOpRead m a => Sys2Proof.Machine.execRegOpRead m a s
  | .regOpWrite m a => Sys2Proof.Machine.execRegOpWrite m a s
  | .readGateRequest q inp => Sys2Proof.Machine.execReadGateRequest q inp s
  | .readGateClose q inp => Sys2Proof.Machine.execReadGateClose q inp s
  | .defectDetect q flag mean bit => Sys2Proof.Machine.execDefectDetect q flag mean bit s
  | .defectClear q flag mean bit => Sys2Proof.Machine.execDefectClear q flag mean bit s
  | .defectHoldoffExpiry q => Sys2Proof.Machine.execDefectHoldoffExpiry q s
  | .defectLong q flag => Sys2Proof.Machine.execDefectLong q flag s
  | .loopRail q loop held => Sys2Proof.Machine.execLoopRail q loop held s
  | .ringFormatWrite m a n v => Sys2Proof.Machine.execRingFormatWrite m a n v s
  | .bufPinWrite m q v => Sys2Proof.Machine.execBufPinWrite m q v s
  | .liveDecode q e => Sys2Proof.Machine.execLiveDecode q e s
  | .markTrial q e => Sys2Proof.Machine.execMarkTrial q e s
  | .redetectPass q e pass => Sys2Proof.Machine.execRedetectPass q e pass s
  | .deepJob => Sys2Proof.Machine.execDeepJob s
  | .combineStart m q v => Sys2Proof.Machine.execCombineStart m q v s
  | .outerCodeSolve => Sys2Proof.Machine.execOuterCodeSolve s
  | .ocRelease m v => Sys2Proof.Machine.execOcRelease m v s
  | .decoderFault q unit cause => Sys2Proof.Machine.execDecoderFault q unit cause s
  | .sectorStage q inp => Sys2Proof.Machine.execSectorStage q inp s
  | .writeGateRequest q inp => Sys2Proof.Machine.execWriteGateRequest q inp s
  | .writeGateClose q last descEnd runEnd => Sys2Proof.Machine.execWriteGateClose q last descEnd runEnd s
  | .encoderFault q unit cause => Sys2Proof.Machine.execEncoderFault q unit cause s
  | .next n w nano fix => Sys2Proof.Machine.execNext n w nano fix s
  | .jump n w nano fix => Sys2Proof.Machine.execJump n w nano fix s
  | .brT n w nano fix => Sys2Proof.Machine.execBrT n w nano fix s
  | .brF n w nano fix => Sys2Proof.Machine.execBrF n w nano fix s
  | .disp n w nano fix => Sys2Proof.Machine.execDisp n w nano fix s
  | .call n w nano fix => Sys2Proof.Machine.execCall n w nano fix s
  | .callT n w nano fix => Sys2Proof.Machine.execCallT n w nano fix s
  | .ret n w nano fix => Sys2Proof.Machine.execRet n w nano fix s
  | .retT n w nano fix => Sys2Proof.Machine.execRetT n w nano fix s
  | .loop n w nano fix => Sys2Proof.Machine.execLoop n w nano fix s
  | .wait n w nano fix => Sys2Proof.Machine.execWait n w nano fix s
  | .reti n w nano fix => Sys2Proof.Machine.execReti n w nano fix s
  | .halt n w nano fix => Sys2Proof.Machine.execHalt n w nano fix s
  | .skip n w nano fix => Sys2Proof.Machine.execSkip n w nano fix s
  | .fabricResponse n error data => Sys2Proof.Machine.execFabricResponse n error data s
  | .runRestart m n => Sys2Proof.Machine.execRunRestart m n s
  | .runResume m n => Sys2Proof.Machine.execRunResume m n s
  | .haltReq m n v => Sys2Proof.Machine.execHaltReq m n v s
  | .softIrq m n v => Sys2Proof.Machine.execSoftIrq m n v s
  | .trellisLoadReport n r failKind failCheck => Sys2Proof.Machine.execTrellisLoadReport n r failKind failCheck s
  | .storeError n store addr => Sys2Proof.Machine.execStoreError n store addr s
  | .formatCommit m v => Sys2Proof.Machine.execFormatCommit m v s
  | .formatCheckDone => Sys2Proof.Machine.execFormatCheckDone s
  | .zoneHwEnable m v => Sys2Proof.Machine.execZoneHwEnable m v s
  | .allocWrite m port v => Sys2Proof.Machine.execAllocWrite m port v s
  | .allocAppend m port v => Sys2Proof.Machine.execAllocAppend m port v s
  | .allocRewind m port v => Sys2Proof.Machine.execAllocRewind m port v s
  | .zoneOpen c zone => Sys2Proof.Machine.execZoneOpen c zone s
  | .zoneClose c zone => Sys2Proof.Machine.execZoneClose c zone s
  | .zoneFinish c zone => Sys2Proof.Machine.execZoneFinish c zone s
  | .zoneReset c zone placement => Sys2Proof.Machine.execZoneReset c zone placement s
  | .zoneOffline c zone => Sys2Proof.Machine.execZoneOffline c zone s
  | .zoneSetDescriptorExtension c zone => Sys2Proof.Machine.execZoneSetDescriptorExtension c zone s
  | .zoneManagementReceive c => Sys2Proof.Machine.execZoneManagementReceive c s
  | .mergeStart m v => Sys2Proof.Machine.execMergeStart m v s
  | .mergeEnd r => Sys2Proof.Machine.execMergeEnd r s
  | .mergeCancel m v => Sys2Proof.Machine.execMergeCancel m v s
  | .contextUncorrectable zone => Sys2Proof.Machine.execContextUncorrectable zone s
  | .hostTransportWrite m v => Sys2Proof.Machine.execHostTransportWrite m v s
  | .linkEnable m v => Sys2Proof.Machine.execLinkEnable m v s
  | .perstAssert => Sys2Proof.Machine.execPerstAssert s
  | .functionLevelReset => Sys2Proof.Machine.execFunctionLevelReset s
  | .ccEnClear => Sys2Proof.Machine.execCcEnClear s
  | .shutdownNotification => Sys2Proof.Machine.execShutdownNotification s
  | .shutdownComplete => Sys2Proof.Machine.execShutdownComplete s
  | .sqTailDoorbell qid v => Sys2Proof.Machine.execSqTailDoorbell qid v s
  | .cqHeadDoorbell qid v => Sys2Proof.Machine.execCqHeadDoorbell qid v s
  | .commandFetch qid e => Sys2Proof.Machine.execCommandFetch qid e s
  | .sqFetchError qid cause => Sys2Proof.Machine.execSqFetchError qid cause s
  | .tlpReceive t => Sys2Proof.Machine.execTlpReceive t s
  | .dataTransferError c cause => Sys2Proof.Machine.execDataTransferError c cause s
  | .completionWrite c status dw0 => Sys2Proof.Machine.execCompletionWrite c status dw0 s
  | .cqePost cqid => Sys2Proof.Machine.execCqePost cqid s
  | .descriptorPick a fresh => Sys2Proof.Machine.execDescriptorPick a fresh s
  | .abortBudgetExpiry c => Sys2Proof.Machine.execAbortBudgetExpiry c s
  | .read c => Sys2Proof.Machine.execRead c s
  | .write c => Sys2Proof.Machine.execWrite c s
  | .zoneAppend c => Sys2Proof.Machine.execZoneAppend c s
  | .writeZeroes c => Sys2Proof.Machine.execWriteZeroes c s
  | .flush c => Sys2Proof.Machine.execFlush c s
  | .datasetManagement c ranges => Sys2Proof.Machine.execDatasetManagement c ranges s
  | .abort c => Sys2Proof.Machine.execAbort c s
  | .createIoSq c => Sys2Proof.Machine.execCreateIoSq c s
  | .createIoCq c => Sys2Proof.Machine.execCreateIoCq c s
  | .deleteIoSq c => Sys2Proof.Machine.execDeleteIoSq c s
  | .deleteIoCq c => Sys2Proof.Machine.execDeleteIoCq c s
  | .getLogPage c => Sys2Proof.Machine.execGetLogPage c s
  | .identify c => Sys2Proof.Machine.execIdentify c s
  | .setFeatures c => Sys2Proof.Machine.execSetFeatures c s
  | .getFeatures c => Sys2Proof.Machine.execGetFeatures c s
  | .asynchronousEventRequest c => Sys2Proof.Machine.execAsynchronousEventRequest c s
  | .firmwareImageDownload c data => Sys2Proof.Machine.execFirmwareImageDownload c data s
  | .firmwareCommit c chk => Sys2Proof.Machine.execFirmwareCommit c chk s
  | .deviceSelfTest c => Sys2Proof.Machine.execDeviceSelfTest c s
  | .formatNvm c => Sys2Proof.Machine.execFormatNvm c s
  | .sanitize c => Sys2Proof.Machine.execSanitize c s
  | .securitySend c payload => Sys2Proof.Machine.execSecuritySend c payload s
  | .securityReceive c => Sys2Proof.Machine.execSecurityReceive c s
  | .nvmeMiSend c frame => Sys2Proof.Machine.execNvmeMiSend c frame s
  | .nvmeMiReceive c => Sys2Proof.Machine.execNvmeMiReceive c s
  | .keepAlive c => Sys2Proof.Machine.execKeepAlive c s
  | .keepAliveTimeout => Sys2Proof.Machine.execKeepAliveTimeout s
  | .dictionaryWrite c frame => Sys2Proof.Machine.execDictionaryWrite c frame s
  | .dictionaryRead c => Sys2Proof.Machine.execDictionaryRead c s
  | .orderedQueueRestart c => Sys2Proof.Machine.execOrderedQueueRestart c s
  | .orderedMaskWrite m v => Sys2Proof.Machine.execOrderedMaskWrite m v s
  | .fabricsConnect qid hostNqn cntlid source => Sys2Proof.Machine.execFabricsConnect qid hostNqn cntlid source s
  | .tcpPduError conn pduType code what => Sys2Proof.Machine.execTcpPduError conn pduType code what s
  | .tcpConnectionClose conn => Sys2Proof.Machine.execTcpConnectionClose conn s
  | .pcieLinkDown ltssm => Sys2Proof.Machine.execPcieLinkDown ltssm s
  | .ethLinkChange up detail => Sys2Proof.Machine.execEthLinkChange up detail s
  | .sheafOpen m p => Sys2Proof.Machine.execSheafOpen m p s
  | .sheafSlotFreed => Sys2Proof.Machine.execSheafSlotFreed s
  | .sheafAppend m p txn action => Sys2Proof.Machine.execSheafAppend m p txn action s
  | .sheafCommit m p txn => Sys2Proof.Machine.execSheafCommit m p txn s
  | .sheafCommitProceed => Sys2Proof.Machine.execSheafCommitProceed s
  | .sheafAbort m p txn => Sys2Proof.Machine.execSheafAbort m p txn s
  | .releaseSeqWrite m v => Sys2Proof.Machine.execReleaseSeqWrite m v s
  | .powerLossSignal input mv => Sys2Proof.Machine.execPowerLossSignal input mv s
  | .flushDone => Sys2Proof.Machine.execFlushDone s
  | .flushFail flashAddr => Sys2Proof.Machine.execFlushFail flashAddr s
  | .holdUpLost => Sys2Proof.Machine.execHoldUpLost s
  | .flushNow m v => Sys2Proof.Machine.execFlushNow m v s
  | .recoverLoad m v => Sys2Proof.Machine.execRecoverLoad m v s
  | .recoveryLoaded crc0 crc1 => Sys2Proof.Machine.execRecoveryLoaded crc0 crc1 s
  | .replayStart m v => Sys2Proof.Machine.execReplayStart m v s
  | .replayEnd torn => Sys2Proof.Machine.execReplayEnd torn s
  | .cellarAccess req addr op ecc arr => Sys2Proof.Machine.execCellarAccess req addr op ecc arr s
  | .cellarFillDone => Sys2Proof.Machine.execCellarFillDone s
  | .refreshRateIndication mult hot => Sys2Proof.Machine.execRefreshRateIndication mult hot s
  | .cacheEnableWrite m v => Sys2Proof.Machine.execCacheEnableWrite m v s
  | .llcCleanDone => Sys2Proof.Machine.execLlcCleanDone s
  | .scratchWaysWrite m v => Sys2Proof.Machine.execScratchWaysWrite m v s
  | .cacheClean addr => Sys2Proof.Machine.execCacheClean addr s
  | .cacheFlush addr => Sys2Proof.Machine.execCacheFlush addr s
  | .cacheInvalidate addr => Sys2Proof.Machine.execCacheInvalidate addr s
  | .zeroLine addr => Sys2Proof.Machine.execZeroLine addr s
  | .lineFill addr ecc arr => Sys2Proof.Machine.execLineFill addr ecc arr s
  | .trackerClear m v => Sys2Proof.Machine.execTrackerClear m v s
  | .hoeStart m v => Sys2Proof.Machine.execHoeStart m v s
  | .hoeCancel m v => Sys2Proof.Machine.execHoeCancel m v s
  | .hoePassEnd correctable uncorrectable => Sys2Proof.Machine.execHoePassEnd correctable uncorrectable s
  | .pantryPush port q tag ecc => Sys2Proof.Machine.execPantryPush port q tag ecc s
  | .pantryPop port q ecc => Sys2Proof.Machine.execPantryPop port q ecc s
  | .queueReset m q v => Sys2Proof.Machine.execQueueReset m q v s
  | .sweepDone q => Sys2Proof.Machine.execSweepDone q s
  | .loadProgram c slot img => Sys2Proof.Machine.execLoadProgram c slot img s
  | .programActivationManagement c slot activate => Sys2Proof.Machine.execProgramActivationManagement c slot activate s
  | .memoryRangeSetManagement c create set ranges => Sys2Proof.Machine.execMemoryRangeSetManagement c create set ranges s
  | .executeProgram c slot set cparam1 cparam2 => Sys2Proof.Machine.execExecuteProgram c slot set cparam1 cparam2 s
  | .memoryCopy c dest => Sys2Proof.Machine.execMemoryCopy c dest s
  | .slmRead c offset len => Sys2Proof.Machine.execSlmRead c offset len s
  | .slmWrite c offset data => Sys2Proof.Machine.execSlmWrite c offset data s
  | .fwStart m n v => Sys2Proof.Machine.execFwStart m n v s
  | .fwStop m n v => Sys2Proof.Machine.execFwStop m n v s
  | .programStart n => Sys2Proof.Machine.execProgramStart n s
  | .ecallExit n a0 runUs => Sys2Proof.Machine.execEcallExit n a0 runUs s
  | .ecallPop n a0 => Sys2Proof.Machine.execEcallPop n a0 s
  | .ecallPush n a0 tag => Sys2Proof.Machine.execEcallPush n a0 tag s
  | .programFault n mcause pc addr => Sys2Proof.Machine.execProgramFault n mcause pc addr s
  | .execTimeout n pc => Sys2Proof.Machine.execExecTimeout n pc s
  | .grantWaitExpiry n => Sys2Proof.Machine.execGrantWaitExpiry n s
  | .pauseLimitExpiry n => Sys2Proof.Machine.execPauseLimitExpiry n s
  | .frameWrite p frame => Sys2Proof.Machine.execFrameWrite p frame s
  | .frameRead p frame => Sys2Proof.Machine.execFrameRead p frame s
  | .frameDescribe p frame => Sys2Proof.Machine.execFrameDescribe p frame s
  | .lockAcquire m inp v => Sys2Proof.Machine.execLockAcquire m inp v s
  | .lockRelease m inp v => Sys2Proof.Machine.execLockRelease m inp v s
  | .dictStoreError index sub => Sys2Proof.Machine.execDictStoreError index sub s
  | .readNvmeMiDataStructure dtyp => Sys2Proof.Machine.execReadNvmeMiDataStructure dtyp s
  | .nvmSubsystemHealthStatusPoll clear => Sys2Proof.Machine.execNvmSubsystemHealthStatusPoll clear s
  | .controllerHealthStatusPoll => Sys2Proof.Machine.execControllerHealthStatusPoll s
  | .configurationGet cfg => Sys2Proof.Machine.execConfigurationGet cfg s
  | .configurationSet cfg v => Sys2Proof.Machine.execConfigurationSet cfg v s
  | .mgmtLinkReset cause => Sys2Proof.Machine.execMgmtLinkReset cause s
  | .mgmtReset m v => Sys2Proof.Machine.execMgmtReset m v s
  | .bootEntry inp => Sys2Proof.Machine.execBootEntry inp s
  | .measGo m v => Sys2Proof.Machine.execMeasGo m v s
  | .sealRequest m v stored => Sys2Proof.Machine.execSealRequest m v stored s
  | .sealTimeout stored => Sys2Proof.Machine.execSealTimeout stored s
  | .fwConfirm m v => Sys2Proof.Machine.execFwConfirm m v s
  | .rollbackAdvance m v => Sys2Proof.Machine.execRollbackAdvance m v s
  | .getVersion t => Sys2Proof.Machine.execGetVersion t s
  | .getCapabilities t => Sys2Proof.Machine.execGetCapabilities t s
  | .negotiateAlgorithms t supported => Sys2Proof.Machine.execNegotiateAlgorithms t supported s
  | .getDigests t => Sys2Proof.Machine.execGetDigests t s
  | .getCertificate t slot offset len => Sys2Proof.Machine.execGetCertificate t slot offset len s
  | .challenge t slot nonce => Sys2Proof.Machine.execChallenge t slot nonce s
  | .getMeasurements t index sign nonce => Sys2Proof.Machine.execGetMeasurements t index sign nonce s
  | .genkey range auth => Sys2Proof.Machine.execGenkey range auth s
  | .revert auth => Sys2Proof.Machine.execRevert auth s
  | .revertsp auth => Sys2Proof.Machine.execRevertsp auth s
  | .psidRevert auth => Sys2Proof.Machine.execPsidRevert auth s
  | .opalLockChange range readLocked writeLocked auth => Sys2Proof.Machine.execOpalLockChange range readLocked writeLocked auth s
  | .eraseDone m v => Sys2Proof.Machine.execEraseDone m v s
  | .strongroomFault cause => Sys2Proof.Machine.execStrongroomFault cause s
  | .blockReset u cause => Sys2Proof.Machine.execBlockReset u cause s
  | .blankingEnd u still => Sys2Proof.Machine.execBlankingEnd u still s
  | .faultPulseEnd => Sys2Proof.Machine.execFaultPulseEnd s
  | .faultHoldWrite m v => Sys2Proof.Machine.execFaultHoldWrite m v s
  | .latchedClear m blk hi v => Sys2Proof.Machine.execLatchedClear m blk hi v s
  | .captureRelease m blk v => Sys2Proof.Machine.execCaptureRelease m blk v s
  | .captureModeWrite m v => Sys2Proof.Machine.execCaptureModeWrite m v s
  | .eventCfgWrite m e v => Sys2Proof.Machine.execEventCfgWrite m e v s
  | .injectGo m v => Sys2Proof.Machine.execInjectGo m v s
  | .almanacRecordWrite p => Sys2Proof.Machine.execAlmanacRecordWrite p s
  | .fwWrite m v => Sys2Proof.Machine.execFwWrite m v s
  | .window3Read m p bad => Sys2Proof.Machine.execWindow3Read m p bad s
  | .cursorWrite m p v => Sys2Proof.Machine.execCursorWrite m p v s
  | .partitionRelease m p v => Sys2Proof.Machine.execPartitionRelease m p v s
  | .persistGo m p v => Sys2Proof.Machine.execPersistGo m p v s
  | .persistEnd p ok flashAddr => Sys2Proof.Machine.execPersistEnd p ok flashAddr s
  | .modeTick => Sys2Proof.Machine.execModeTick s
  | .modeRowComplete => Sys2Proof.Machine.execModeRowComplete s
  | .modeRowTimeout => Sys2Proof.Machine.execModeRowTimeout s
  | .mgmtRequestWrite m v => Sys2Proof.Machine.execMgmtRequestWrite m v s
  | .safeEntry cause hw => Sys2Proof.Machine.execSafeEntry cause hw s
  | .safeRestart m v => Sys2Proof.Machine.execSafeRestart m v s
  | .supplyOutOfRange rail mv => Sys2Proof.Machine.execSupplyOutOfRange rail mv s
  | .powerOnReset byRstL => Sys2Proof.Machine.execPowerOnReset byRstL s
  | .warmReset cause => Sys2Proof.Machine.execWarmReset cause s
  | .standbyWake cause mediaNeeded => Sys2Proof.Machine.execStandbyWake cause mediaNeeded s
  | .standbyIdleExpiry => Sys2Proof.Machine.execStandbyIdleExpiry s
  | .domainRequest m d v => Sys2Proof.Machine.execDomainRequest m d v s
  | .domainTransitionDone d checkerOk => Sys2Proof.Machine.execDomainTransitionDone d checkerOk s
  | .domainTimeout d => Sys2Proof.Machine.execDomainTimeout d s
  | .reservationRequest h => Sys2Proof.Machine.execReservationRequest h s
  | .reservationRelease h => Sys2Proof.Machine.execReservationRelease h s
  | .slotReleaseExpiry a => Sys2Proof.Machine.execSlotReleaseExpiry a s
  | .envelopeWrite m v => Sys2Proof.Machine.execEnvelopeWrite m v s
  | .powerMeasurement mw => Sys2Proof.Machine.execPowerMeasurement mw s
  | .sensorSample inp t => Sys2Proof.Machine.execSensorSample inp t s
  | .throttleStepDown => Sys2Proof.Machine.execThrottleStepDown s
  | .substitutionHoldExpiry => Sys2Proof.Machine.execSubstitutionHoldExpiry s
  | .thermalTrip mask => Sys2Proof.Machine.execThermalTrip mask s
  | .tripRecovery ms => Sys2Proof.Machine.execTripRecovery ms s
  | .compensationUpdate otpOk => Sys2Proof.Machine.execCompensationUpdate otpOk s
  | .ccEnSet => Sys2Proof.Machine.execCcEnSet s
  | .pcieLinkTrained speed width => Sys2Proof.Machine.execPcieLinkTrained speed width s
  | .parkHoldExpiry a => Sys2Proof.Machine.execParkHoldExpiry a s
  | .debugPortActive port => Sys2Proof.Machine.execDebugPortActive port s
  | .hsFltLRelease a => Sys2Proof.Machine.execHsFltLRelease a s
  | .mctpControlMessage msg => Sys2Proof.Machine.execMctpControlMessage msg s

end Sys2Proof.Machine
end

