-- ==== Sys2Proof/Machine/Tick.lean ====
section
/-! DEFINITION. The microsecond that passes when no command waits (log 41): the table has no row for the clock. -/

namespace Sys2Proof.Machine

/-- The microsecond counter advances by 1 (spec/02 R33). -/
def tickUs (s : State) : State := { s with sun := { s.sun with us := s.sun.us + 1 } }

/-- How far the angle moves in the microsecond (spec/02 R32, R38-R40). In INVALID the stamp stands still and the internal angle of an
acquisition advances at the last measured revolution period. FREE coasts at the last measured speed. In LOCKED_OBSERVER the control
cycles move the fraction. Where wedges correct the angle, the phase-locked loop's law is not stated: the move is a free value.
The wrap is FRACTION_WRAP: the fraction keeps short of it. -/
def tickAngle (s : State) : State :=
  let st := s.nat K.sunState
  let u := s.sun
  if st = 0 then
    match u.internal with
    | none => s
    | some f => { s with sun := { u with internal := some ((f + (coast s).1) % revCounts), rem := (coast s).2 } }
  else if st = 1 ∧ u.acquiring = false then
    { s with sun := { u with frac := fracOn u.frac (coast s).1, rem := (coast s).2 } }
  else if st = 2 ∧ u.acquiring = false then s
  else { s.drawn with sun := { s.sun with frac := BitVec.ofNat 24 (s.sun.frac.toNat + s.free.toNat % (2 ^ 24 - s.sun.frac.toNat)) } }

/-- One idle microsecond: the clock, the PZT outputs (spec/04 R87), the links (spec/06 R129, R134), twin mode whose descriptor is over
(spec/05 R112), the deep decoder's next job (spec/08 R189), the boot fill and the eviction buffer (spec/14 R327, R333), runs that wait for an engine (spec/16
R372), and a seal that waits for a load (spec/18 R411). -/
def idleTick (s : State) : State :=
  let t := slewTick (tickAngle (tickUs s))
  sealDue (placeRuns (evictTick (fillTick (takeDeep ([0, 1].foldl (fun u a => twinSettle raise (faultTick (linkTick u a) a) a) t)))))

end Sys2Proof.Machine
end

