-- ==== Sys2Proof/Safety.lean ====
section
/-! DEFINITION. What counts as a sound state, and the terms the claims are stated in. -/

namespace Sys2Proof.Machine

/-- A sound state: the addressed memory, the dictionary and the values in force are in their canonical form, so that equal
contents are equal data and every key has one value. -/
def State.Sound (s : State) : Prop :=
  Memory.wf s.mem = true ∧ dictWf s.variant s.dict = true ∧ sortedKeys s.edge = true

/-- A run of n steps stays sound: what a claim about every state that a run reaches rests on. -/
def SafeRun (n : Nat) (s : State) : Prop :=
  match n with
  | 0 => s.Sound
  | n + 1 => s.Sound ∧ ∃ t, step s = .next t ∧ SafeRun n t

/-- The write of an object by a master without the action of its owner (spec/17 R382-R392). -/
def wrote (s : State) (m : Nat) (k : Key) (v : Word) : State := kwrite s m k v id

/-- Every object but those selected reads as before. -/
def SameObjects (p : Key → Bool) (s t : State) : Prop := ∀ k, p k = false → t.obj k = s.obj k

/-- Every byte of the addressed memory outside [a, a + n) reads as before. -/
def SameBytes (a n : Nat) (s t : State) : Prop :=
  ∀ c, c < a ∨ a + n ≤ c → Memory.read t.mem c = Memory.read s.mem c

end Sys2Proof.Machine
end

