-- ==== Sys2Proof/Certificates/Slice0/Obligations.lean ====
section
/-! DEFINITION. The statements for the provers: what each family of commands does, what every step keeps, and the rules of the
dictionary, the queues, the events and the memory. A clause names its conditions on the state and the operands alone and concludes with
the next state of the command; `wrote` is the write of the object without its owner's action (Safety.lean). -/

open Sys2Proof Sys2Proof.Machine

/-- The timebase's commands have their effect (spec/02 R31-R51): a snapshot, the close of an acceptance window without and with
detections in LOCKED_WEDGE, the Sundial and sync enables, the FREE limit, the wrap of the fraction, an angle alarm and its word,
the sync pulse and its absence. -/
def Obligations.TimebaseCommandsComplete : Prop :=
  (∀ (m : Master) (v : Word) (s : State), accepts s m K.sunSnapshot v = true → v ≠ 0 →
    exec (.snapshot m v) s = .next (((wrote s m K.sunSnapshot v).setN K.sunSnapAngle s.stamp).setN K.sunSnapUs s.now)) ∧
  (∀ (w : BitVec 9) (s : State), s.sun.expect = some w.toNat → s.sun.errs = [] →
    (s.nat K.sunState ≠ 3 ∨ s.sun.misses + 1 < (boundaryIn s .wedge (fun i => decide (i < 0x3000))).cfg K.sunMissLimit) →
    let b := boundaryIn s .wedge (fun i => decide (i < 0x3000))
    let n := b.cfg K.sunWedgesPerRev
    let next := (w.toNat + 1) % (if n = 0 then 1 else n)
    let src := s.sun.contributed.foldl (fun n q => setBit n q true) (b2n (observerValid b) * 16)
    exec (.acceptWindowClose w) s = .next { b.setN K.sunLockSources src with sun := { s.sun with
      wedge := some next, expect := some next, errs := [], heard := [], contributed := [], run := 0,
      misses := s.sun.misses + 1, first := false } }) ∧
  (∀ (w : BitVec 9) (s : State), s.sun.expect = some w.toNat → s.sun.errs ≠ [] → s.nat K.sunState = 3 →
    let b := boundaryIn s .wedge (fun i => decide (i < 0x3000))
    let n := b.cfg K.sunWedgesPerRev
    let next := (w.toNat + 1) % (if n = 0 then 1 else n)
    let src := s.sun.contributed.foldl (fun n q => setBit n q true) (b2n (observerValid b) * 16)
    let k := s.sun.errs.length
    let num := if s.sun.first then errSum s.sun.errs else 3 * s.sun.fNum * k + errSum s.sun.errs * s.sun.fDen
    let den := if s.sun.first then k else 4 * s.sun.fDen * k
    let t : State := ({ b.setN K.sunLockSources src with sun := { s.sun with
      wedge := some next, expect := some next, errs := [], heard := [], contributed := [], misses := 0, first := false,
      fNum := num, fDen := den } }).setI K.sunPhaseError (rnd num den)
    errWithin t num den (t.cfg K.sunLossErrorPs) = true → exec (.acceptWindowClose w) s = .next t) ∧
  (∀ (m : Master) (v : Word) (s : State), accepts s m K.sunSundialEnable v = true →
    let t := wrote s m K.sunSundialEnable v
    exec (.sundialEnableWrite m v) s =
      .next (if t.cfgB K.sunSundialEnable then observerCheck raise t else sunInvalid raise t 0)) ∧
  (∀ (s : State), s.nat K.sunState = 1 →
    let t : State := { s.setN K.sunState 0 with
      sun := { s.sun with internal := none, acquiring := false, first := false, run := 0, misses := 0, rem := 0 } }
    let u := (t.setB K.sunZeroKnown false).setN K.sunZeroSource 0
    exec .freeLimitExpiry s = .next (syncCheck (raise u 83 [1, 1, u.nat K.sunState] {}))) ∧
  (∀ (s : State), s.nat K.sunState ≠ 0 →
    let took := match s.sun.lastWrap with | some w => s.elapsed w * 1000 | none => 0
    let t : State := { s with sun := { s.sun with
      rev := s.sun.rev + 1, frac := 0, rem := 0, lastWrap := if 2 ≤ s.nat K.sunState then some s.now else none } }
    let t := if 2 ≤ s.nat K.sunState ∧ took ≠ 0 then t.setN K.sunRevPeriodNs (took % 2 ^ 32) else t
    let t := syncEnableCheck (boundary t .revolution)
    exec .fractionWrap s = .next (if s.sun.rev = 0xFFFFFFFF then raise t 90 [s.nat K.sunState, t.nat K.sunState] {} else t)) ∧
  (∀ (n : Fin 256) (s : State),
    let w := s.nat (K.sunAlarm n)
    let rev := s.sun.rev.toNat
    s.nat K.sunState ≠ 0 → bitAt w 51 = true → rev % 256 &&& bitsOf w 24 8 = bitsOf w 32 8 &&& bitsOf w 24 8 →
    Sp.get s.sun.fired n ≠ some rev → (bitAt w 50 = false ∨ s.nat K.sunState = 3) →
    let t : State := { s with sun := { s.sun with fired := Sp.put s.sun.fired n rev } }
    let t := t.setBitOf (K.sunAlarmFired (n / 32)) (n % 32) true
    let t := if bitAt w 49 then t else t.setBitOf (K.sunAlarm n) 51 false
    let t := if bitAt w 40 then postTrigger t (bitsOf w 42 3) (bitsOf w 45 4) else t
    exec (.angleAlarmFire n) s = .next (if bitAt w 41 then raise t 85 [n, s.nat K.sunState, t.nat K.sunState] {} else t)) ∧
  (∀ (m : Master) (n : Fin 256) (v : Word) (s : State), accepts s m (K.sunAlarm n) v = true →
    exec (.alarmWordWrite m n v) s = .next (wrote s m (K.sunAlarm n) v)) ∧
  (∀ (m : Master) (v : Word) (s : State), accepts s m K.sunSyncEnable v = true →
    exec (.syncEnableWrite m v) s = .next (syncEnableCheck (wrote s m K.sunSyncEnable v))) ∧
  (∀ (falling : Bool) (f : Frac) (s : State), s.nat K.sunSyncState ≠ 0 → s.cfg K.sunSyncPolarity = b2n falling →
    (∀ p, s.sun.lastPulse = some p → syncBadInterval s (s.elapsed p) = false) →
    exec (.syncInPulse falling f) s = .next (syncCheck (syncTaken s (fracDiff f.toNat (s.cfg K.sunSyncOffset))))) ∧
  (∀ (s : State) (p : Nat), s.nat K.sunSyncState = 1 → s.sun.lastPulse = some p →
    let u := s.inc K.sunSyncIgnoredCount
    let t := raise u 89 [s.elapsed p, 1, s.nat K.sunState, u.nat K.sunState] {}
    exec .syncPulseTimeout s = .next { t with sun := { t.sun with syncBad := s.sun.syncBad + 1 } })

/-- The spindle's commands have their effect (spec/03 R54-R76): a control cycle samples speed, current and rail and runs the state
in hand (out of OFF with a valid model it enters MEASURE), the speed loop, spin_enable, the ends of MEASURE and IPD, the
convergence, brake and re-catch limits, the bridge's trips and the end of the power-loss sequence. -/
def Obligations.SpindleCommandsComplete : Prop :=
  (∀ (i : CycleIn) (s : State),
    let t := measureCycle { s with power := { s.power with cycleTrim := s.power.adcTrim } } i
    motorState t = 0 → t.flag K.spinSpinEnable = true → t.power.loss = false → modelValid t = true →
    let u := observerCheck raise (modulation (motorEnter t 1))
    exec (.controlCycle i) s = .next (observerAngle u u.motor.est.angle)) ∧
  (∀ (i : CycleIn) (s : State),
    let t := estimateCycle (boundary { s with power := { s.power with cycleTrim := s.power.adcTrim } } .cycle) i
    let t := (t.setI K.spinSpeedCrpm (cycleSpeed t i)).setN K.spinPhaseCurrentMa i.currentMa.toNat
    let u := observerCheck raise (modulation (motorCycle (t.setN K.spinHoldRailNowMv (railNow t i)) i))
    exec (.controlCycle i) s = .next (observerAngle u u.motor.est.angle)) ∧
  (∀ (s : State), motorState s = 4 →
    let speed := measuredSpeed s
    exec .speedLoopTick s =
      .next (speedChecks (torqueTick (judgeCapped (s.setI K.spinSpeedCrpm speed)) speed) speed)) ∧
  (∀ (m : Master) (v : Word) (s : State), accepts s m K.spinSpinEnable v = true →
    exec (.spinEnableWrite m v) s = .next (spinAct (wrote s m K.spinSpinEnable v))) ∧
  (∀ (e : BitVec 16) (ang : Frac) (v : BitVec 32) (s : State), motorState s = 1 → s.cfg K.spinEmfRestMv ≤ e.toNat → 0 < v.toInt →
    s.cfg K.spinRestRpm * 100 ≤ v.toInt.natAbs →
    let t := seedObserver (motorEnter (s.setI K.spinSpeedCrpm v.toInt) 4) (ang.toNat + 3 * (revCounts / 4)) v.toInt
    let t : State := { t with motor := { t.motor with runCatch := some s.now, catchPath := 1, cmd := v.toInt * 100, integ := 0 } }
    exec (.measureEnd e ang v) s =
      .next (t.setI K.spinTorqueCmdUnm (torqueClamp t v.toInt (t.int K.spinTorqueCmdUnm)))) ∧
  (∀ (e : BitVec 16) (ang : Frac) (v : BitVec 32) (s : State), motorState s = 1 → e.toNat < s.cfg K.spinEmfRestMv →
    exec (.measureEnd e ang v) s = .next (motorEnter (s.setI K.spinSpeedCrpm v.toInt) 2)) ∧
  (∀ (p1 p2 p3 p4 p5 p6 : BitVec 16) (s : State), motorState s = 2 →
    let peaks := [p1, p2, p3, p4, p5, p6].map fun p => min p.toNat (s.cfg K.spinIpdCurrentMa)
    let best := (List.range 6).foldl (fun b k => if peaks.getD b 0 < peaks.getD k 0 then k else b) 0
    let top := peaks.getD best 0
    0 < top → 3 * top ≤ (top - peaks.getD ((best + 3) % 6) 0) * 100 →
    exec (.ipdComplete p1 p2 p3 p4 p5 p6) s =
      .next (motorEnter { s with motor := { s.motor with ipdAngle := ipdAngleOf peaks best } } 3)) ∧
  (∀ (s : State), motorState s = 4 → s.motor.confirmed = false →
    exec .convergeTimeout s = .next (observerCheck raise (catchFail s 4 2))) ∧
  (∀ (s : State), motorState s = 6 → s.nat K.spinBrakeCause = 1 →
    let t := motorEnter s 7
    exec .brakeTimeout s = .next (catchFail (raise t 70
      [param32 (s.int K.spinSpeedCrpm), 6, motorState t, param32 (t.int K.spinSpeedCrpm)] {}) 6 3)) ∧
  (∀ (s : State), motorState s = 7 → s.flag K.spinSpinEnable = true → s.power.loss = false →
    exec .recatchDelayExpiry s = .next (motorEnter s 1)) ∧
  (∀ (leg : Fin 3) (p : BitVec 16) (s : State), motorState s = 4 →
    let t := motorEnter (s.inc K.spinBridgeTripCount) 7
    exec (.bridgeOvercurrent leg p) s = .next (observerCheck raise (raise t 77
      [leg, p.toNat, 4, motorState t, param32 (t.int K.spinSpeedCrpm)] {}))) ∧
  (∀ (c : BridgeCause) (s : State), motorState s ≠ 0 → motorState s ≠ 9 →
    let t := motorEnter (s.inc K.spinBridgeTripCount) 7
    exec (.bridgeFault c) s = .next (observerCheck raise (raise t 78
      [match c with | .driverUndervoltage => 0 | .overTemperature => 1,
       motorState s, motorState t, param32 (t.int K.spinSpeedCrpm)] {}))) ∧
  (∀ (s : State), motorState s = 8 → s.nat K.sheafFlushState ≠ 1 →
    (∀ a, a < 2 → hasAct s.variant a = true → s.nat (K.actActState a) = 0) →
    exec .powerLossSequenceComplete s = .next (observerCheck raise
      (if s.cfgB K.spinAfterBrake then enterBrake s 2 else motorEnter s 0)))

/-- The servo's sampling and seeking commands have their effect (spec/04 R78-R99): a sample is judged, searched or tracked on and
recorded in the ring, an output block that answers the sample is latched, a mailbox loads its target, a seek that has not arrived by
its deadline returns its slot, and the shock sensor takes write_ok away. -/
def Obligations.ServoSampleCommandsComplete : Prop :=
  (∀ (q : Slot) (i : SampleIn) (s : State), readsServo s q = true →
    exec (.servoSample q i) s =
    let a := q.val / 2
    let s := boundaryIn s .wedge (slotOwns q)
    let s := s.setCh q { s.ch q with servo := servoFront s q }
    let p := judgeSample s q i
    let s := captureSample s q i.wedge.toNat p
    let seq := (s.act a).seq
    let st := s.nat (K.actActState a)
    let head := (s.srv q).head
    let t := if q.val % 2 = 1 then twinRecord s a seq i.wedge.toNat else s
    let t := faultSample t q i p
    let v := t.srv q
    let t := t.setSrv q { v with x2 := if p.valid then v.x1 else v.x2, x1 := if p.valid then some p.x else v.x1,
                                 lastX := p.x, seq := seq % 256, lastPes := p.pes, lastMissed := p.missed }
    let t := t.setI (if q.val % 2 = 0 then K.actPesA a else K.actPesB a) (sgn 32 (cap32 p.pes))
    let t := if !p.missed then wedgeDetection t q head i.wedge.toNat i.index (!p.valid) i.samFraction.toNat else t
    let t := if st = 3 then trackSample t q p
      else if st = 2 ∧ q.val % 2 = 0 then searchSample t q p
      else if st = 4 ∧ q.val % 2 = 0 ∧ p.valid ∧ p.x < 0 then
        readersCheck (t.setAct a { t.act a with passed0 := true, since := t.now })
      else t
    let t := sampleRecord t q i p seq
    .next (twinSettle raise (t.setAct a { t.act a with seq := (seq + 1) % 256 }) a)) ∧
  (∀ (q : Slot) (rot mv : BitVec 16) (ua before : BitVec 32) (s : State),
    let a := q.val / 2
    let u := (s.setI (K.actVcmCurrentUa a) ua.toInt).setI (K.actVcmBemfMv a)
      (vcmBemf s a mv.toInt ua.toInt before.toInt)
    let word (o n : Nat) : Nat := leNat (u.load (tcmBase a + 0x3F100 + o) n)
    readsServo u q = true → word 0x3C 4 % 256 = (u.srv q).seq →
    let t := u.setAct a { u.act a with onTime := true, lateRun := 0 }
    let t := t.setSrv (2 * a) { t.srv (2 * a) with offset := sgn 32 (word 4 4) }
    let t := t.setSrv (2 * a + 1) { t.srv (2 * a + 1) with offset := sgn 32 (word 8 4) }
    let t := latchVcm t a (sgn 32 (word 0 4)) (i16 rot)
    let t := (List.range 12).foldl (fun v h => latchPzt v a h (sgn 16 (word (0x10 + 2 * h) 2))) t
    let t := twinMonitor (t.setAct a { t.act a with pztLatch := (t.act a).pztOut }) a
    let t := twinSettle raise t a
    exec (.outputLatch q rot mv ua before) s = .next (if (u.act a).onTime then t else (slotsOf a).foldl writeOkRise t)) ∧
  (∀ (a : Act) (mb : Mailbox) (s : State),
    let q := 2 * a.val + b2n mb.slotB
    let w := mb.head.val + b2n mb.slotB * 2 ^ 4 + b2n mb.write * 2 ^ 5 + b2n mb.twin * 2 ^ 6
    let t := if mb.twin then s.store (tcmBase a + 0x3F010)
      (leBytes 4 mb.pairShift.toNat ++ leBytes 4 (mb.zone.toNat + mb.pair.toNat * 2 ^ 18)) else s
    let t := t.store (tcmBase a + 0x3F000)
      (leBytes 8 mb.target.toNat ++ leBytes 2 w ++ leBytes 2 mb.seekSeq.toNat ++ leBytes 4 mb.deadline.toNat)
    let t := t.inc (K.actSeekCount a)
    let t := if mb.twin then
        let t := loadTarget t (2 * a) mb.target.toInt mb.head.val
        let t := loadTarget t (2 * a + 1) (mb.target.toInt + mb.pairShift.toInt) (mb.head.val + 1)
        t.setAct a { t.act a with twinShift := mb.pairShift.toInt, twinZone := mb.zone.toNat }
      else loadTarget t q mb.target.toInt mb.head.val
    exec (.seekMailboxWrite a mb) s = .next (t.setAct a { t.act a with
      seekIrqs := (t.act a).seekIrqs + 1, seekSeq := mb.seekSeq.toNat, seekSlot := b2n mb.slotB, seekWrite := mb.write, seeking := true,
      deadline := mb.deadline.toNat })) ∧
  (∀ (a : Act) (s : State),
    let x := s.act a
    let q := 2 * a.val + x.seekSlot
    x.seeking = true → onRead s q = false → onWrite' s q = false → twinOn s a = false →
    let t := (s.setAct a { x with seeking := false }).inc (K.actSeekTimeoutCount a)
    let t := actEvent raise t a 102 [x.seekSeq, cap32 (s.srv q).target, cap32 (s.srv q).lastX] (some q)
    exec (.seekTimeout a) s = .next (returnSlot raise t q 12)) ∧
  (∀ (a : Act) (n : BitVec 16) (s : State),
    let x := s.act a
    let q := 2 * a.val + x.seekSlot
    (if x.seekWrite then writeOk s q else onRead s q) = false →
    let t := s.inc (K.actSettleMissCount a)
    let t := t.setCh q { t.ch q with moved := (t.ch q).moved + n.toNat }
    exec (.settleMiss a n) s = .next (actEvent raise t a 103 [x.seekSeq, n.toNat] (some q))) ∧
  (∀ (x y z rot : BitVec 16) (s : State),
    exec (.accelSample x y z rot) s =
      .next ([0, 1].foldl (fun t a => shockAct t a (i16 x) (i16 y) (i16 z) (i16 rot)) s)) ∧
  (∀ (a : Act) (s : State), exec (.shockHoldoffExpiry a) s = .next (s.setAct a { s.act a with shock := false }))

/-- Loading and unloading the heads have their effect (spec/04 R88-R99): a load request with a motor model and a load permit enters
LOADING, an unload request leaves TRACKING or SEARCH, the limits of LOADING, SEARCH, UNLOADING and RETRACT pass, and a clear of
servo_degraded lets write_ok rise again. -/
def Obligations.LoadCommandsComplete : Prop :=
  (∀ (m : Master) (a : Act) (v : Word) (s : State), accepts s m (K.actLoadRequest a) v = true → v ≠ 0 →
    let t := wrote s m (K.actLoadRequest a) v
    t.nat (K.actActState a) = 0 → vcmModel t a = true → t.flag K.spinLoadPermit = true →
    exec (.loadRequest m a v) s =
      .next (actEnter (holdRes raise t (slotAHolder a) 0) a 1
        (driverMove t a (-outward t a (t.cfg (K.actLoadBemfMv a)))))) ∧
  (∀ (m : Master) (a : Act) (v : Word) (s : State), accepts s m (K.actUnloadRequest a) v = true → v ≠ 0 →
    let t := wrote s m (K.actUnloadRequest a) v
    t.nat (K.actActState a) ≠ 6 → exec (.unloadRequest m a v) s = .next (unloadNow raise t a)) ∧
  (∀ (a : Act) (s : State), s.nat (K.actActState a) = 1 →
    let t := (slotsOf a).foldl (fun u q => u.setSrv q { u.srv q with x1 := none, x2 := none, readRun := 0, decodeRun := 0 }) s
    let t := actEnter t a 2 .hold
    exec (.loadMsExpiry a) s = .next (if (s.act a).unloadHeld then unloadNow raise t a else t)) ∧
  (∀ (a : Act) (s : State), s.nat (K.actActState a) = 2 →
    exec (.loadSearchTimeout a) s = .next (unloadNow raise (loadFail raise s a 2) a)) ∧
  (∀ (a : Act) (s : State), s.nat (K.actActState a) = 4 →
    let u := s.inc (K.actUnloadCount a)
    let t := unholdRes raise (actEnter u a 0 (.parkHold (outward u a (u.cfg (K.actParkHoldMa a))))) (slotAHolder a)
    exec (.unloadComplete a) s = .next (loadEscalate raise (actEvent raise t a 97 [0] none) a)) ∧
  (∀ (a : Act) (s : State), s.nat (K.actActState a) = 4 → (s.act a).passed0 = false →
    let t := stopLink s a
    let t := t.setAct a { t.act a with unloadHeld := false, passed0 := false }
    let t := actEnter t a 5 (driverMove s a (outward s a (s.cfg (K.actRetractBemfMv a))))
    exec (.unloadTimeout a) s = .next (actEvent raise t a 100 [cap32 (s.srv (2 * a.val)).lastX] none)) ∧
  (∀ (a : Act) (s : State), s.nat (K.actActState a) = 5 →
    let u := s.inc (K.actRetractCount a)
    let t := unholdRes raise (actEnter u a 0 (.parkHold (outward u a (u.cfg (K.actParkHoldMa a))))) (slotAHolder a)
    exec (.retractExpiry a) s = .next (loadEscalate raise (actEvent raise t a 97 [1] none) a)) ∧
  (∀ (m : Master) (a : Act) (v : Word) (s : State), accepts s m (K.actServoDegraded a) v = true → v ≠ 0 →
    exec (.servoDegradedClear m a v) s = .next ((slotsOf a).foldl writeOkRise (wrote s m (K.actServoDegraded a) v)))

/-- The drivers and the concurrent heads have their effect (spec/04 R92-R95, spec/05 R102-R119): an overspeed brakes the coil, driver
faults open the driver or the element's output, map_valid, the capture of a shift map from its start to its table, and the assist
grants of one boundary in the order of their stamps. -/
def Obligations.ConcurrentHeadCommandsComplete : Prop :=
  (∀ (a : Act) (v : BitVec 16) (s : State),
    let st := s.nat (K.actActState a)
    (st = 1 ∨ st = 4 ∨ st = 5) → s.cfg (K.actOverspeedBemfMv a) < v.toNat →
    exec (.bemfOverspeed a v) s =
      .next (actEvent raise (s.setAct a { s.act a with vcm := .brake }) a 115 [v.toNat, st] none)) ∧
  (∀ (a : Act) (c : VcmCause) (s : State),
    exec (.vcmDriverFault a c) s = .next (actEvent raise (s.setAct a { s.act a with vcm := .highZ }) a 112
      [match c with | .overcurrent => 0 | .short => 1 | .undervoltage => 2] none)) ∧
  (∀ (a : Act) (h : Head) (c : BitVec 8) (s : State),
    let x := s.act a
    let t := s.setAct a { x with
      pztFault := x.pztFault ||| ((1 : BitVec 12) <<< h.val)
      pztOut := upd x.pztOut h 0, pztTarget := upd x.pztTarget h 0, pztCode := upd x.pztCode h 0 }
    let t := t.setI (K.actPztOutMv a h) 0
    let t := (slotsOf a).foldl (fun u q => if (u.srv q).head = h.val then writeOkFall raise u q .pztFault else u) t
    let t := if s.nat (K.actTwinPair a) = h.val / 2 then twinLeave raise t a 5 else t
    exec (.pztDriverFault a h c) s = .next (actEvent raise t a 114 [h.val, c.toNat] none)) ∧
  (∀ (m : Master) (a : Act) (v : Word) (s : State), accepts s m (K.actMapValid a) v = true →
    let t := wrote s m (K.actMapValid a) v
    exec (.mapValidWrite m a v) s =
      .next (if twinOn t a && !t.bit (K.actMapValid a) (t.nat (K.actTwinPair a)) then twinLeave raise t a 3 else t)) ∧
  (∀ (m : Master) (a : Act) (v : Word) (s : State), accepts s m (K.actCaptureStart a) v = true → v ≠ 0 →
    let t := wrote s m (K.actCaptureStart a) v
    captureReady t a = true →
    let u := (t.setN (K.actCaptureState a) 1).setN (K.actCaptureCause a) 0
    exec (.captureStart m a v) s = .next (u.setAct a { u.act a with
      capture := some { pair := u.nat (K.actCapturePair a), point := u.nat (K.actCapturePoint a) } })) ∧
  (∀ (a : Act) (c : MapCap) (s : State), (s.act a).capture = some c → s.nat (K.actCaptureState a) = 2 → c.moved = false →
    s.cfg (K.actCaptureRevs a) ≤ c.good →
    let base := rnd (c.sums.foldl (· + ·) 0) (512 * c.good)
    let deltas := c.sums.map fun x => rnd (x - base * c.good) (256 * c.good)
    (deltas.any fun d => 32767 < d.natAbs) = false →
    let t := writeCapture s a c.pair c.point base deltas
    let t := (t.setN (K.actCaptureState a) 3).setAct a { t.act a with capture := none }
    exec (.mapCaptureDone a) s = .next (actEvent raise t a 134 [c.pair, c.point, (base % 2 ^ 32).toNat] none)) ∧
  (∀ (reqs : List GrantReq) (s : State),
    let t := reqs.foldl grantBoundary s
    let l := (reqs.filter fun g => !grantIdle t g).foldr insertGrant []
    exec (.assistGrantRequest reqs) s = .next (l.foldl admitGrant (tieEvents t l))) ∧
  (∀ (m : Master) (v : Word) (s : State), accepts s m K.asstAssistBudgetMw v = true →
    exec (.assistBudgetWrite m v) s = .next (regrant (wrote s m K.asstAssistBudgetMw v)))

/-- What firmware and the write path send over the head-stack link is posted (spec/06 R126, R130-R134, R139-R146): a frame of its class, command,
head, register and data joins the queue of a link whose clock runs, and the link sends its next frame. -/
def Obligations.LinkPostsComplete : Prop :=
  (∀ (a : Act) (s : State), (s.link a).clock = true →
    let r := plainReq 2 0 15 0 0 (if s.flag (K.lnkLinkDegraded a) then .degradedNop else .monitor)
    exec (.linkNop a) s = .next (linkPump (s.setLink a { s.link a with queue := (s.link a).queue ++ [r] }) a)) ∧
  (∀ (a : Act) (h : BitVec 4) (r : Byte) (s : State), (s.link a).clock = true → r.toNat < 0x80 →
    exec (.linkRead a h r) s = .next (linkPump (s.setLink a { s.link a with
      queue := (s.link a).queue ++ [plainReq 3 1 h.toNat r.toNat 0 .poll] }) a)) ∧
  (∀ (q : Slot) (h : BitVec 4) (r : Byte) (d : BitVec 16) (due : Stamp) (s : State),
    let a := q.val / 2
    (s.link a).clock = true → r.toNat < 0x80 →
    exec (.linkWrite q h r d due) s = .next (linkPump (s.setLink a { s.link a with
      queue := (s.link a).queue ++ [{ plainReq 1 2 h.toNat r.toNat d.toNat .seq with
        slot := some q.val, due := some due.toNat }] }) a)) ∧
  (∀ (a : Act) (q : Slot) (h : BitVec 4) (r : Byte) (d : BitVec 16) (due : Stamp) (s : State), 0x80 ≤ r.toNat →
    exec (.linkRead a h r) s = .next s ∧ exec (.linkWrite q h r d due) s = .next s) ∧
  (∀ (q : Slot) (h : Head) (gate : Stamp) (s : State),
    let a := q.val / 2
    let due := gate.toNat - s.cfg (K.lnkPrebiasLeadCounts a)
    s.cfg (K.lnkAssistKind a) ≠ 0 → (at' s.grants q none).isSome = true →
    let t := if (s.wr q).assist = .off then levelWrites s q h due else s
    let t := t.setWr q { t.wr q with assist := .armed, assistHead := h.val, confirmed := false }
    exec (.assistArm q h gate) s =
      .next (linkPost t a { plainReq 1 3 h.val 0 0 .seq with slot := some q.val, due := some due })) ∧
  (∀ (q : Slot) (h : Head) (s : State),
    let a := q.val / 2
    (s.wr q).assist ≠ .off → (s.wr q).assist ≠ .stopping → (s.link a).clock = true → s.nat (K.lnkLinkState a) = 2 →
    let t := unpost (s.setWr q { s.wr q with assist := .stopping, confirmed := false, runOpen := false }) q [3]
    exec (.assistOff q h) s = .next (linkPost t a
      { cls := 1, cmd := 4, head := (t.wr q).assistHead, addr := 0, data := 0, who := .seq, slot := some q })) ∧
  (∀ (a : Act) (s : State), exec (.preampSafe a true) s = .next (stopLink s a)) ∧
  (∀ (a : Act) (s : State), (s.link a).clock = true →
    exec (.preampSafe a false) s = .next (linkPump (s.setLink a { s.link a with
      queue := (s.link a).queue ++ [plainReq 0 5 15 0 0 .safeKeep] }) a)) ∧
  (∀ (a : Act) (s : State), ((s.wr (2 * a.val)).assist = .prebias ∨ (s.wr (2 * a.val)).assist = .writing
      ∨ (s.wr (2 * a.val + 1)).assist = .prebias ∨ (s.wr (2 * a.val + 1)).assist = .writing) →
    exec (.monitorPoll a) s = .next (linkPost s a (plainReq 2 0 15 0 0 .monitor))) ∧
  (∀ (a : Act) (s : State),
    let sel := (s.link a).sel
    let heads := bitsOf sel 0 4 :: (if bitAt sel 8 then [bitsOf sel 4 4] else [])
    let reqs := heads.flatMap (fun h => [plainReq 3 1 h 0x1C 0 .poll, plainReq 3 1 h 0x1D 0 .poll])
    exec (.headTempPoll a) s = .next ((reqs ++ [plainReq 3 1 15 5 0 .poll]).foldl (fun t r => linkPost t a r) s)) ∧
  (∀ (m : Master) (a : Act) (s : State), accepts s m (K.lnkRegOp a) 1 = true →
    let t := wrote s m (K.lnkRegOp a) 1
    (t.link a).clock = true →
    exec (.regOpRead m a) s = .next (linkPost (t.setN (K.lnkRegResult a) 1) a
      (plainReq 4 1 (regHead t a) (regAddr t a) 0 .regOp))) ∧
  (∀ (m : Master) (a : Act) (s : State), accepts s m (K.lnkRegOp a) 2 = true →
    let t := wrote s m (K.lnkRegOp a) 2
    (t.link a).clock = true → regRefused t a = false →
    exec (.regOpWrite m a) s = .next (linkPost (t.setN (K.lnkRegResult a) 1) a
      (plainReq 4 2 (regHead t a) (regAddr t a) (t.nat (K.lnkRegData a)) .regOp)))

/-- What comes back over the head-stack link has its effect (spec/06 R127, R134-R146): an answer with a good CRC and status 0 completes its
frame and the next is sent, a missing answer fails it, link_degraded is cleared, the link starts, HS_FLT_L closes the write gates and asks
for the fault register, and an unconfirmed assist ends its part. -/
def Obligations.LinkAnswersComplete : Prop :=
  (∀ (a : Act) (st : Byte) (d sa sb : BitVec 16) (r : LinkReq) (s : State), (s.link a).cur = some r →
    st.toNat % 4 = 0 →
    let l := s.link a
    let t := s.setLink a { l with cur := none, failRun := 0, nopSince := l.nopSince || r.cmd == 0 }
    let t := monitorBits (safeStopBit (linkDone t a r d.toNat) a r) a st.toNat sa.toNat sb.toNat
    exec (.linkResponse a st d (responseCrc st d) true sa sb) s = .next (linkPump (degradedNops t a) a)) ∧
  (∀ (a : Act) (r : LinkReq) (s : State), (s.link a).cur = some r →
    exec (.linkResponseTimeout a) s = .next (linkFailed (s.inc (K.lnkTimeoutCount a)) a r 0)) ∧
  (∀ (m : Master) (a : Act) (v : Word) (s : State), accepts s m (K.lnkLinkDegraded a) v = true → v ≠ 0 →
    let t := wrote s m (K.lnkLinkDegraded a) v
    exec (.linkDegradedClear m a v) s =
      .next (if t.nat (K.lnkLinkState a) = 3 then t.setN (K.lnkLinkState a) 2 else t)) ∧
  (∀ (m : Master) (a : Act) (v : Word) (s : State), accepts s m (K.lnkLinkInit a) v = true → v ≠ 0 →
    let t := ((wrote s m (K.lnkLinkInit a) v).setN (K.lnkLinkState a) 1).setB (K.lnkLinkDegraded a) false
    let t := t.setLink a { t.link a with clock := true, failRun := 0, nopSince := false }
    exec (.linkInit m a v) s =
      .next (linkPost (t.setLink a { t.link a with init := 1 }) a (plainReq 0 5 15 0 0 .init))) ∧
  (∀ (a : Act) (s : State), (s.link a).fltLow = false →
    let t := s.setLink a { s.link a with fltLow := true, fltGates := gatesMask s, fltWait := true }
    let t := (slotsOf a).foldl (fun u q => if (u.wr q).gate.isSome then endPart raise u q 4 else u) t
    exec (.preampFaultLine a) s = .next (faultTick (linkPost t a (plainReq 0 1 15 3 0 .status)) a)) ∧
  (∀ (q : Slot) (s : State), (s.wr q).assist ≠ .off → (s.wr q).confirmed = true →
    exec (.monitorAgeExpiry q) s = .next (monitorFault s q))

/-- The read front end has its effect (spec/07 R150-R168): a read gate captures into a free entry and its close holds the entry with its
header stored, the defect detectors flag, clear, hold off and report long defects, a loop reaches its rail, ring formats and pins
are written. -/
def Obligations.ReadFrontCommandsComplete : Prop :=
  (∀ (q : Slot) (i : ReadGateIn) (s : State) (e : Nat),
    let s1 := boundaryIn s .sector (slotOwns q)
    s1.nat K.sunState = 3 → onRead s1 q = true → (s1.ch q).gate = none → (s1.ch q).inReset = false → twinHeld s1 q = false →
    let s2 := takeSurface s1 q i.head i.track.toNat
    let s2 := if s2.nat (K.slotBufPolicy q) = 1 then shed s2 q 16 else s2
    takeEntry (s2.ch q) = some e →
    let s3 := frontOpens s2 q
    let b := captureEntry s3 q i
    let c := s3.ch q
    let c := { c.setBuf e b with gate := some (Fin.ofNat 16 e), adcTrim := s3.power.adcTrim, last := e, railRaised := [],
                                 rise := c.rise.map fun r => (r.1, 0) }
    let t : State := { s3.store (entryAddr q e) (headerBytes e b) with freeCtr := s3.freeCtr + 0xE7C0 }
    exec (.readGateRequest q i) s = .next (rebuf (t.setCh q c) q)) ∧
  (∀ (q : Slot) (i : ReadCloseIn) (e : Fin 16) (s : State), (s.ch q).gate = some e →
    let c := s.ch q
    let bits := min i.bits.toNat 39552
    let b := bufAt c e
    let b := (List.range 4).foldl (fun x f => if bitAt (s.nat (K.slotDefectFlags q)) f then
      (match c.rise.find? fun r => r.1 == f with
        | some r => addDefect x f r.2 (bits - r.2)
        | none => x) else x) b
    let held := heldIntervals c bits
    let l := bitSamples s q bits held i.adc
    let z := equalise (liveSettings s q b held) (tapsOf c.taps) l
    let b := { b with st := .held, bits := bits, pred := i.predicted.toNat, complete := true, work := .live, freeBase := none,
                      gainRail := b.gainRail || i.gainRail, timingRail := b.timingRail || i.timingRail }
    let b := livePath s q b z
    let t := (s.store (entryAddr q e + 64) (sampleBytes l)).store (entryAddr q e) (headerBytes e b)
    let t := if c.holdFrom.isNone ∧ c.adaptFrom < bits then adaptLoops t q else t
    let t := t.setCh q { (t.ch q).setBuf e b with gate := none, frozenAtClose := s.flag (K.slotLoopsFrozen q), taps := tapsTo z.taps,
                                                  downAt := c.downAt - bits, freezes := [], adaptFrom := 0,
                                                  holdFrom := c.holdFrom.map fun _ => 0 }
    exec (.readGateClose q i) s = .next (twinSettle raise t (q / 2))) ∧
  (∀ (q : Slot) (f : Fin 4) (mean bit : BitVec 16) (s : State), readerInUse s q f = true →
    s.bit (K.slotDefectFlags q) f = false → meanPasses s q f mean.toInt false = true →
    let t := (s.setBitOf (K.slotDefectFlags q) f true).setBitOf (K.slotDefectFlags q) 4 false
    let t := if s.flag (K.slotLoopsFrozen q) then t else freezeLoops t q bit.toNat
    let early := decide (bit.toNat < s.cfg (K.slotAcqBits q))
    let c := t.ch q
    let c := match c.gate with
      | some e => c.setBuf e { bufAt c e with acqFrozen := (bufAt c e).acqFrozen || early }
      | none => c
    let t := t.setCh q { c with rise := (f.val, bit.toNat) :: c.rise.filter fun r => r.1 != f.val
                                longRaised := c.longRaised.filter fun x => x != f.val }
    exec (.defectDetect q f mean bit) s = .next (if f.val < 2
      then slotEvent (t.inc (K.slotTaCount q)) q 224 [f.val, mean.toNat, bit.toNat] (eventEntry c)
      else slotEvent (t.inc (K.slotDropoutCount q)) q 225 [f.val - 2, mean.toNat, bit.toNat] (eventEntry c))) ∧
  (∀ (q : Slot) (f : Fin 4) (mean bit : BitVec 16) (s : State), s.bit (K.slotDefectFlags q) f = true →
    meanPasses s q f mean.toInt true = true →
    let c := s.ch q
    let t := s.setBitOf (K.slotDefectFlags q) f false
    let down := decide (bitsOf (t.nat (K.slotDefectFlags q)) 0 4 = 0)
    let t := if down then t.setBitOf (K.slotDefectFlags q) 4 true else t
    let first := ((c.rise.find? fun r => r.1 == f.val).map (·.2)).getD 0
    let c := match c.gate with
      | some e => c.setBuf e (addDefect (bufAt c e) f first (bit.toNat - first))
      | none => c
    exec (.defectClear q f mean bit) s = .next (t.setCh q { c with
      rise := c.rise.filter fun r => r.1 != f.val, downAt := if down then (bit.toNat : Int) else c.downAt })) ∧
  (∀ (q : Slot) (s : State), s.bit (K.slotDefectFlags q) 4 = true →
    let t := (s.setBitOf (K.slotDefectFlags q) 4 false).setB (K.slotLoopsFrozen q) false
    let c := t.ch q
    let resume := (c.downAt + s.cfg (K.slotDefectHoldoffBits q)).toNat
    exec (.defectHoldoffExpiry q) s = .next (t.setCh q { c with
      freezes := c.freezes ++ [(c.holdFrom.getD 0, resume)], holdFrom := none, adaptFrom := resume })) ∧
  (∀ (q : Slot) (f : Fin 4) (s : State), s.bit (K.slotDefectFlags q) f = true → (s.ch q).longRaised.contains f.val = false →
    let c := s.ch q
    let t := (s.setCh q { c with longRaised := f.val :: c.longRaised }).inc (K.slotDefectLongCount q)
    exec (.defectLong q f) s = .next (slotEvent t q 226 [f.val / 2, f.val % 2, s.cfg (K.slotDefectMaxBits q)]
      (match c.gate with | some e => e.val | none => c.last))) ∧
  (∀ (q : Slot) (l : Fin 3) (held : BitVec 32) (s : State), (s.ch q).railRaised.contains l.val = false →
    let c := s.ch q
    let c := match c.gate with
      | some e =>
        let b := bufAt c e
        c.setBuf e (if l.val = 2 then { b with timingRail := true } else { b with gainRail := true })
      | none => c
    let t := s.setCh q { c with railRaised := l.val :: c.railRaised }
    let t := t.inc (if l.val = 2 then K.slotTimingRailCount q else K.slotGainRailCount q)
    exec (.loopRail q l held) s = .next (slotEvent t q 227 [l.val, held.toNat]
      (match c.gate with | some e => e.val | none => c.last))) ∧
  (∀ (m : Master) (a : Act) (n : Fin 64) (v : Word) (s : State), accepts s m (K.ringRingFormat a n) v = true →
    exec (.ringFormatWrite m a n v) s = .next (wrote s m (K.ringRingFormat a n) v)) ∧
  (∀ (m : Master) (q : Slot) (v : Word) (s : State), accepts s m (K.slotBufPin q) v = true →
    let t := wrote s m (K.slotBufPin q) v
    exec (.bufPinWrite m q v) s = .next (rebuf (t.setCh q ((List.range 16).foldl (pinEntry t q) (t.ch q))) q))

/-- Sector detection has its effect (spec/08 R181-R196): a live decode, the next mark trial, the next re-detection pass and a deep job
decode their entry with the detection the rules give, and deliver the sector where it passes or take it on to its next attempt; a
combination joins the deep queue, the outer code recovers up to two positions and is released, and a decoder fault is reported. -/
def Obligations.DetectionCommandsComplete : Prop :=
  (∀ (q : Slot) (e : Fin 16) (s : State),
    let b := bufAt (s.ch q) e
    b.st = .held → b.work = .live →
    let l := alignments b.pred (s.cfg (K.slotMarkOffsetRange q)) b.declared b.cands
    let al := l.headD (b.pred, 0, 0)
    let r := lineDecode s b (liveDetection s q b al.1) (lineIterMax s q)
    let ok := passes s q b r
    let b1 := { b.after r ok with aligns := l, tried := 1, bestAlign := some (r.unsat, al),
                                  passes := (List.range 4).filter (passRuns s q b) }
    let t := (putEntry s q e b1).on b.markMissed fun u => u.inc (K.slotSyncMissedCount q)
    let t := mismatch t q e 0 b r
    exec (.liveDecode q e) s = .next (if ok then decoded t q e 0 0 al r
      else if noSignal s q b then sectorEnds raise t q e 11 0 0 0 0 false else goesOn t q e)) ∧
  (∀ (q : Slot) (e : Fin 16) (al : Nat × Nat × Int) (s : State),
    let b := bufAt (s.ch q) e
    b.aligns[b.tried]? = some al → itsTurn s q e = true →
    let r := lineDecode s b (replay s q e b b.taps al.1 b.defects) (s.cfg (K.slotMarkTrialIters q))
    let ok := passes s q b r
    let better := match b.bestAlign with | some x => decide (r.unsat < x.1) | none => true
    let b1 := { b.after r ok with tried := b.tried + 1, bestAlign := if better then some (r.unsat, al) else b.bestAlign }
    let t := mismatch (putEntry s q e b1) q e b.tried b r
    exec (.markTrial q e) s = .next (if ok then decoded t q e 1 0 al r else goesOn t q e)) ∧
  (∀ (q : Slot) (e : Fin 16) (p : Fin 4) (s : State),
    let b := bufAt (s.ch q) e
    itsTurn s q e = true → b.aligns.length ≤ b.tried → b.passes.head? = some p.val →
    let al := bestOf b
    let d := passDetection s q e b p al.1
    let r := lineDecode s b d (s.cfg (K.slotRedetectIters q))
    let ok := passes s q b r
    let better := match b.det with | some x => decide (r.unsat < x.1) | none => true
    let b1 := { b.after r ok with passes := b.passes.tail, det := if better then some (r.unsat, d) else b.det }
    let t := mismatch (putEntry s q e b1) q e (p.val + 1) b r
    exec (.redetectPass q e p) s = .next (if ok then decoded t q e 2 (p.val + 1) al r else goesOn t q e)) ∧
  (∀ (j : DeepJob) (e : Fin 16) (s : State),
    let u := takeDeep s
    u.deep.run = some j → j.entry = some e →
    let r := deepRun u j
    let b := bufAt (u.ch j.q) e
    let ok := passes u j.q b r
    let t := mismatch ((u.inc K.detDeepJobCount).on (!ok) fun v => v.inc K.detDeepFailCount) j.q e 0 b r
    let t := putEntry t j.q e { b with deepIters := b.deepIters + r.iters, mismatch := b.mismatch || (r.converged && !ok),
                                       best := min b.best r.unsat }
    exec .deepJob s = .next (if ok then decoded t j.q e 3 0 (bestOf b) r else sectorEnds raise t j.q e 8 0 0 0 0 false)) ∧
  (∀ (m : Master) (q : Slot) (v : Word) (s : State), accepts s m (K.slotCombineStart q) v = true → v ≠ 0 →
    let t := wrote s m (K.slotCombineStart q) v
    t.nat (K.slotCombineState q) ≠ 1 → combineOk t q = true →
    let b := bufAt (t.ch q) (newestEntry t q)
    let job : DeepJob := { stamp := b.stamp, q := q, entry := none, since := t.now, code := b.codeRate, det := combineDetection t q }
    let u := ({ t with deep := { t.deep with queue := t.deep.queue ++ [job] } }).setN (K.slotCombineState q) 1
    exec (.combineStart m q v) s = .next (redeep (u.inc K.detCombineCount))) ∧
  (∀ (s : State), s.nat K.detOcState = 2 → (failedPos s).length ≤ 2 →
    exec .outerCodeSolve s =
      .next (if (failedPos s).all (fun i => decide (32 ≤ i) || (recovered s (failedPos s) i).crcOk) = true
        then ((failedPos s).foldl (fun t i => deliverOuter t (failedPos s) i) s).setN K.detOcState 3 else groupFails raise s)) ∧
  (∀ (m : Master) (v : Word) (s : State), accepts s m K.detOcRelease v = true → v ≠ 0 →
    let t := wrote s m K.detOcRelease v
    let t : State := { t with deep := { t.deep with ocDecoded := 0, ocFailed := 0, ocMem := [], ocEnts := [] } }
    exec (.ocRelease m v) s = .next ((t.setN K.detOcState 0).setN K.detOcFailedMap 0)) ∧
  (∀ (q : Slot) (u : DecoderUnit) (c : CheckCause) (s : State),
    exec (.decoderFault q u c) s = .next (raise s (slotEv q 234)
      [decoderUnitCode u, if c = .memory then 0 else 1, (s.srv q).head, s.nat (K.slotSlotRing q), (s.ch q).last]
      { slot := some q.val, deep := u == .deep || u == .solver }))

/-- The write path has its effect (spec/09 R202-R214): a sector is staged, a staging miss defers its part, a write gate opens when no
interlock, guard or assist condition holds it, reopens after a pause, closes after its sector, and an encoder fault ends the part. -/
def Obligations.WritePathCommandsComplete : Prop :=
  (∀ (q : Slot) (i : StageIn) (s : State), (s.wr q).staging.length < 8 →
    let w := s.wr q
    let bytes := if i.fetchFault then [] else sectorBytes s q i
    let e : StageEnt :=
      { tag := i.tag.toNat, sector := i.sector.toNat, kind := i.kind.toNat, lba := i.lba.toNat, complete := !i.fetchFault,
        src := some i, bits := stagedBits s q i.head i.sector.toNat, bytes := bytes, bad := i.fetchFault, stamp := s.stamp,
        frame := if i.fetchFault then [] else sectorFrame s (q / 2) (surfaceFmt s q i.head) i.sector.toNat bytes }
    let t := s.setWr q { w with staging := w.staging ++ [e], active := true, tag := i.tag.toNat }
    exec (.sectorStage q i) s = .next (refreshWrite t q)) ∧
  (∀ (q : Slot) (tag : BitVec 32) (sec : BitVec 10) (short : BitVec 24) (s : State),
    let t := (deferPart s q).inc (K.slotStagingMissCount q)
    exec (.stagingMiss q tag sec short) s = .next (raise t 346
      [sec.toNat, short.toNat, q, (t.srv q).head, tag.toNat] { slot := some q })) ∧
  (∀ (q : Slot) (i : GateIn) (e : StageEnt) (s : State),
    let b0 := boundaryIn s .sector (slotOwns q)
    let b := takeSurface b0 q i.head i.track.toNat
    let w := b.wr q
    let t := b.setWr q { w with active := true, tag := i.tag.toNat, twinB := i.twinB }
    let kind := b.cfg (K.lnkAssistKind (q.val / 2))
    i.reopening = false → (b0.wr q).gate = none → twinHeld b0 q = false → (b.link (q.val / 2)).preampSafe = false →
    stagedEnt w i.tag.toNat i.sector.toNat = some e → e.bad = false →
    requestCause t q i = none → stageShort b e i = 0 →
    (∀ z g p, requestGroup b i = some (z, g, p) → groupReady w z g p = true) →
    (kind = 0 ∨ ((at' b.grants q none).isSome = true ∧ w.confirmed = true ∧
      (w.runOpen = true ∨ b.cfg (K.lnkPrebiasMinCounts (q.val / 2)) ≤ i.lead.toNat))) →
    exec (.writeGateRequest q i) s = .next (twinSettle raise (gateOpens t q i) (q.val / 2))) ∧
  (∀ (q : Slot) (i : GateIn) (g : Gate) (s : State),
    let b := boundaryIn s .sector (slotOwns q)
    i.reopening = true → (b.wr q).gate = some g → g.paused = true →
    (causeOrder.find? fun c => c != 5 && !interlock b q c) = none →
    let kbps := scaledRate b (q.val / 2) (bitsOf (surfaceFmt b q g.head) 0 13)
    exec (.writeGateRequest q i) s =
      .next (twinSettle raise (refreshWrite (b.setWr q { b.wr q with gate := some { g with paused := false, kbps := kbps } }) q)
        (q.val / 2))) ∧
  (∀ (q : Slot) (descEnd runEnd : Bool) (g : Gate) (s : State), (s.wr q).gate = some g → g.paused = false →
    let t := sectorWritten s q g
    let t := if descEnd then endPartWith raise t q 0 runEnd else if runEnd then assistOff t q 1 else t
    exec (.writeGateClose q true descEnd runEnd) s =
      .next (twinSettle raise t (q.val / 2))) ∧
  (∀ (q : Slot) (descEnd runEnd : Bool) (g : Gate) (s : State), (s.wr q).gate = some g → g.paused = false →
    exec (.writeGateClose q false descEnd runEnd) s =
      .next (refreshWrite (s.setWr q { s.wr q with gate := some { g with paused := true } }) q)) ∧
  (∀ (q : Slot) (u : EncoderUnit) (c : CheckCause) (s : State),
    let t := closeGate raise s q 10
    let w := t.wr q
    let t := t.setWr q { w with encoderOk := !w.active, accHeld := false, accCount := 0, accData := [] }
    exec (.encoderFault q u c) s =
      .next (writeEvent raise t q 347 [encoderUnitCode u, if c = .memory then 0 else 1] (t.wr q).tag))

/-- Every microword executes at the address its sequencing operation gives (spec/10 R223, R224): NEXT, JUMP, BR_T, BR_F, DISP, CALL, CALL_T,
RET, RET_T, LOOP, WAIT, RETI, HALT and SKIP of an engine in RUN whose word no fault cause holds back. -/
def Obligations.MicrowordsExecute : Prop :=
  ∀ (n : Eng) (w : BitVec 40) (nano : BitVec 128) (fix : BitVec 2) (s : State),
    let e := s.eng n
    let pc := e.fetchAt
    let m := microOf (e.microAt pc w)
    let x := nanoOf (e.nanoAt m.nano nano)
    let u := storeFixed s n pc m.nano fix
    let c := condOf u n m.cond
    let l := (e.lcOf m.lc + 65535) % 65536 != 0
    let runs (op : Nat) (taken : Bool) (next : Nat) : Prop := m.op = op ∧ wordFault u n pc m x taken next = none
    let acts (taken : Bool) (next : Nat) : Host.Outcome State Fault Refusal := .next (wordActs u n pc m x taken next)
    trlState s n = 3 →
    (runs 0x0 false ((pc + 1) % 8192) → exec (.next n w nano fix) s = acts false ((pc + 1) % 8192)) ∧
    (runs 0x1 true m.target → exec (.jump n w nano fix) s = acts true m.target) ∧
    (runs 0x2 c (if c then m.target else (pc + 1) % 8192) → exec (.brT n w nano fix) s = acts c (if c then m.target else (pc + 1) % 8192)) ∧
    (runs 0x3 (!c) (if !c then m.target else (pc + 1) % 8192) → exec (.brF n w nano fix) s = acts (!c) (if !c then m.target else (pc + 1) % 8192)) ∧
    (runs 0x4 false (m.target - m.target % 4 + e.reg m.dreg % 4) → exec (.disp n w nano fix) s = acts false (m.target - m.target % 4 + e.reg m.dreg % 4)) ∧
    (runs 0x5 true m.target → exec (.call n w nano fix) s = acts true m.target) ∧
    (runs 0x6 c (if c then m.target else (pc + 1) % 8192) → exec (.callT n w nano fix) s = acts c (if c then m.target else (pc + 1) % 8192)) ∧
    (runs 0x7 true (e.cur.stack.headD 0) → exec (.ret n w nano fix) s = acts true (e.cur.stack.headD 0)) ∧
    (runs 0x8 c (if c then e.cur.stack.headD 0 else (pc + 1) % 8192) → exec (.retT n w nano fix) s = acts c (if c then e.cur.stack.headD 0 else (pc + 1) % 8192)) ∧
    (runs 0x9 l (if l then m.target else (pc + 1) % 8192) → exec (.loop n w nano fix) s = acts l (if l then m.target else (pc + 1) % 8192)) ∧
    (runs 0xA c (if c then (pc + 1) % 8192 else pc) → exec (.wait n w nano fix) s = acts c (if c then (pc + 1) % 8192 else pc)) ∧
    (runs 0xB false ((pc + 1) % 8192) → exec (.reti n w nano fix) s = acts false ((pc + 1) % 8192)) ∧
    (runs 0xC false ((pc + 1) % 8192) → exec (.halt n w nano fix) s = acts false ((pc + 1) % 8192)) ∧
    (runs 0xD c (if c then (pc + 2) % 8192 else (pc + 1) % 8192) → exec (.skip n w nano fix) s = acts c (if c then (pc + 2) % 8192 else (pc + 1) % 8192))

/-- The controls of the Trellis engines have their effect (spec/10 R227-R241): an answer of the fabric, a restart, a resume, a halt
request, a software interrupt, the loader's report and an error of a store. -/
def Obligations.TrellisControlsComplete : Prop :=
  (∀ (n : Eng) (err : Bool) (d : BitVec 32) (r : Option Nat) (s : State),
    let e := s.eng n
    e.fabric = some r →
    let bad := err || (Sp.get s.memory.errs (8 + n.val)).isSome
    let v := (((Sp.get s.rdata (8 + n.val)).map (·.toNat)).getD d.toNat) % 2 ^ 32
    let f := { e with fabric := none, fabReady := true, fabError := bad }
    let f := match r with | some x => if bad then f else f.setReg x v | none => f
    exec (.fabricResponse n err d) s = .next (trlShow (s.setEng n f) n)) ∧
  (∀ (m : Master) (n : Eng) (s : State), accepts s m (K.trlRun n) 1 = true →
    let t := wrote s m (K.trlRun n) 1
    (trlState t n = 2 ∨ trlState t n = 4) →
    exec (.runRestart m n) s = .next (trlShow ((t.setEng n (t.eng n).cleared).setN (K.trlState n) 3) n)) ∧
  (∀ (m : Master) (n : Eng) (c : TrlCtx) (irq : Option TrlCtx) (s : State), accepts s m (K.trlRun n) 2 = true →
    let t := wrote s m (K.trlRun n) 2
    (t.eng n).halt = some (c, irq) → trlState t n = 4 → (t.nat (K.trlHaltCause n) = 1 ∨ t.nat (K.trlHaltCause n) = 2) →
    exec (.runResume m n) s =
      .next (trlShow ((t.setEng n { t.eng n with cur := c, irq := irq, halt := none }).setN (K.trlState n) 3) n)) ∧
  (∀ (m : Master) (n : Eng) (v : Word) (s : State), accepts s m (K.trlHaltReq n) v = true → v ≠ 0 →
    let t := wrote s m (K.trlHaltReq n) v
    trlState t n = 3 → exec (.haltReq m n v) s = .next (t.setEng n { t.eng n with haltReq := true })) ∧
  (∀ (m : Master) (n : Eng) (v : Word) (s : State), accepts s m (K.trlSoftIrq n) v = true → v ≠ 0 →
    let t := wrote s m (K.trlSoftIrq n) v
    exec (.softIrq m n v) s =
      .next (t.setN (K.trlIrqPending n) (t.nat (K.trlIrqPending n) ||| (v.toNat % 256) * 2 ^ 16))) ∧
  (∀ (n : Eng) (r : LoadReport) (k c : BitVec 8) (s : State), trlState s n = 1 → s.eccFailed 14 = false →
    let t := r.rejected.foldl (fun u x => loaderReject u n x) s
    (∀ v, r.patch = some v → s.nat K.trlxPatchFloor ≤ v.toNat) → (r.patch = none → s.nat K.trlxPatchFloor = 0) →
    ((s.eng n).reload && !reloadSame s n r) = false →
    (r.customer = none ∨ n.val = 6 ∨ custFits r = true) → (r.patch = none ∨ patchFits r = true) →
    exec (.trellisLoadReport n (some r) k c) s = .next (sealDue (loadDone t n r))) ∧
  (∀ (n : Eng) (k c : BitVec 8) (s : State), trlState s n = 1 → s.eccFailed 14 = false →
    exec (.trellisLoadReport n none k c) s = .next (sealDue (loadFailed s n k.toNat c.toNat))) ∧
  (∀ (n : Eng) (st : TrlStore) (a : BitVec 13) (s : State), trlState s n = 3 → storeRegion st a.toNat ≠ 0 →
    let t := (s.setN (K.trlHaltCause n) 7).setN (K.trlHaltUpc n) (s.eng n).cur.upc
    let t := (t.setEng n { t.eng n with reload := true }).setN (K.trlLoadState n) 1
    exec (.storeError n st a) s =
      .next (leaveRun t n 1 (289 + 4 * n.val) [storeCode st, storeRegion st a.toNat, a.toNat])) ∧
  (∀ (n : Eng) (st : TrlStore) (a : BitVec 13) (s : State), trlState s n = 3 → storeRegion st a.toNat = 0 →
    let e := 289 + 4 * n.val
    let t := (s.setN (K.trlHaltCause n) 7).setN (K.trlHaltUpc n) (s.eng n).cur.upc
    exec (.storeError n st a) s = .next (safeNow raise (leaveRun t n 5 e [storeCode st, 0, a.toNat]) e))

/-- Formats, zones and their merges have their effect (spec/11 R244-R271): a format commit and its check, the enable of the zone hardware,
the host's zone actions on zones that are not busy, their reports, and a merge from its job to its end. -/
def Obligations.ZoneCommandsComplete : Prop :=
  (∀ (m : Master) (v : Word) (s : State), accepts s m K.zoneFormatCommit v = true → v ≠ 0 →
    exec (.formatCommit m v) s = .next ((wrote s m K.zoneFormatCommit v).setN K.zoneFormatState 1)) ∧
  (∀ (s : State), s.nat K.zoneFormatState = 1 → larderFailed s = false → formatScan s (listedZones s) 0 = none →
    let t := (List.range (zoneTotal s)).foldl (fun t z =>
      match withTracks t (t.ctx z) with
      | some c => t.store (ctxAddr z) (leBytes 32 c)
      | none => t) s
    exec .formatCheckDone s = .next (t.setN K.zoneFormatState 2)) ∧
  (∀ (z n : Nat) (s : State), s.nat K.zoneFormatState = 1 → larderFailed s = false →
    formatScan s (listedZones s) 0 = some (z, n) →
    let t := ((s.setN K.zoneFormatState 3).setN K.zoneFormatErrorZone z).setN K.zoneFormatErrorCause n
    exec .formatCheckDone s = .next (raise t 331 [z, n] {})) ∧
  (∀ (m : Master) (v : Word) (s : State), accepts s m K.zoneZoneHwEnable v = true → v ≠ 0 → s.flag K.zoneZoneHwEnable = false →
    let t := wrote s m K.zoneZoneHwEnable v
    let t := if t.zones.resolved then t
      else (listedZones t).foldl (fun u z => u.store (ctxAddr z) (leBytes 32 (u.ctx z).resolved)) t
    exec (.zoneHwEnable m v) s = .next (recountZones { t with zones := { t.zones with resolved := true } })) ∧
  (∀ (c : CmdRef) (zone : ZoneNo) (place : Option (BitVec 64)) (act : Nat) (e : CmdEnt) (s : State),
    sendEnt s c act = some e →
    let l := sendZones s e act zone.toNat
    s.nat K.pmMode ≠ 5 → e.zoneOpen = 0 → l ≠ [] → (∀ z ∈ l, z < s.nat K.zoneZoneCount ∧ (s.ctx z).busy = 0) →
    let t := s.setCmd { e with zoneOpen := l.length, zoneStatus := 0, heldZone := none }
    let acts (p : Option Nat) : Host.Outcome State Fault Refusal := .next (runCommits (l.foldl (fun u z => sendOne u e act z p) t))
    (act = 3 → exec (.zoneOpen c zone) s = acts none) ∧ (act = 1 → exec (.zoneClose c zone) s = acts none) ∧
    (act = 2 → exec (.zoneFinish c zone) s = acts none) ∧ (act = 5 → exec (.zoneOffline c zone) s = acts none) ∧
    (act = 4 → exec (.zoneReset c zone place) s = acts (place.map (·.toNat)))) ∧
  (∀ (c : CmdRef) (zone : ZoneNo) (e : CmdEnt) (s : State), sendEnt s c 0x10 = some e →
    exec (.zoneSetDescriptorExtension c zone) s = .next (complete raise s e.ref (stat 0 0x02) 0)) ∧
  (∀ (c : CmdRef) (e : CmdEnt) (s : State), activeEnt s.host.table (refOf c) false 0x7A = some e →
    bitsOf e.sqe.cdw13.toNat 0 8 ≤ 1 → bitsOf e.sqe.cdw13.toNat 8 8 ≤ 7 →
    exec (.zoneManagementReceive c) s = .next (complete raise (returnData s e.ref (zoneReport s e)) e.ref 0 0)) ∧
  (∀ (m : Master) (v : Word) (s : State), accepts s m K.zoneMergeStart v = true → v ≠ 0 →
    let t := wrote s m K.zoneMergeStart v
    let l := t.load (t.nat K.zoneMergeJob) 64
    let z := bitsOf (leNat (l.take 4)) 0 18
    let p := jobPlacement l
    let job : MergeJob := { zone := z, place := placementOf p, buffer := leNat ((l.drop 16).take 8), since := t.now }
    let u := (({ t with zones := { t.zones with job := some job } }.setN K.zoneMergeState 1).setN K.zoneMergeCause 0).setN
      K.zoneMergeProgress 0
    t.zones.job = none → mergeCheck u z p = true → u.nat K.pmMode ≠ 2 → u.nat K.pmMode ≠ 3 →
    exec (.mergeStart m v) s = .next ((u.putCtx z ((u.ctx z).setBusy 3)).setN K.zoneMergeConsumed (ptrAt u (headAt u z 0)))) ∧
  (∀ (j : MergeJob) (s : State), s.zones.job = some j →
    exec (.mergeEnd .committed) s = .next (moduleCommit (s.setN K.zoneMergeState 3) 5
      [placeAction j.zone (placementWord j.place)] .merge)) ∧
  (∀ (m : Master) (v : Word) (j : MergeJob) (s : State), accepts s m K.zoneMergeCancel v = true → v ≠ 0 →
    let t := wrote s m K.zoneMergeCancel v
    t.zones.job = some j → t.nat K.zoneMergeState ≠ 3 →
    exec (.mergeCancel m v) s = .next (mergeStops (t.drawn.setN K.zoneMergeProgress
      (t.free.toNat % ((t.ctx j.zone).capacity + 1))) 6 0)) ∧
  (∀ (zone : ZoneNo) (s : State),
    let z := zone.toNat
    exec (.contextUncorrectable zone) s = .next (raise (s.putCtx z ((s.ctx z).setBusy 5)) 329 [z, ctxAddr z] {}))

/-- The ports of allocation and of transactions have their effect (spec/11 R254; spec/13 R300-R305): an allocation and a rewind, a
transaction opened, appended to, committed and aborted, the grant of a freed slot, the commit that was waiting and the journal's release. -/
def Obligations.PortCommandsComplete : Prop :=
  (∀ (m : Master) (p : Fin 4) (v : Word) (s u : State), accepts s m (K.zoneAllocRequest p) v = true → v ≠ 0 →
    let t := wrote s m (K.zoneAllocRequest p) v
    let z := bitsOf v.toNat 0 18
    let off := if bitAt v.toNat 52 then none else some (bitsOf v.toNat 35 17)
    bitAt v.toNat 53 = false → allocCheck t z (bitsOf v.toNat 18 17) off = 0 → openLimits t z = (0, u) →
    let c := u.ctx z
    let c' := if c.st = 1 ∨ c.st = 4 then c.setSt 2 else c
    let u' := u.putCtx z (c'.setAp (c.ap + bitsOf v.toNat 18 17))
    let n := u'.zones.useSeq + 1
    let w : State := { u' with zones := { u'.zones with useSeq := n, lastUse := Sp.put u'.zones.lastUse z n } }
    let r := w.setN (K.zoneAllocResult p) (c.ap % 2 ^ 17 + 0 % 16 * 2 ^ 17 + 2 ^ 31)
    exec (.allocWrite m p v) s = .next r ∧ exec (.allocAppend m p v) s = .next r) ∧
  (∀ (m : Master) (p : Fin 4) (v : Word) (s : State), accepts s m (K.zoneAllocRequest p) v = true → v ≠ 0 →
    let t := wrote s m (K.zoneAllocRequest p) v
    let z := bitsOf v.toNat 0 18
    bitAt v.toNat 53 = true → z < zoneTotal t → t.flag K.zoneZoneHwEnable = true →
    let u := t.putCtx z ((t.ctx z).setAp (t.ctx z).wp)
    let r := u.setN (K.zoneAllocResult p) ((u.ctx z).ap % 2 ^ 17 + 0 % 16 * 2 ^ 17 + 2 ^ 31)
    exec (.allocRewind m p v) s = .next (runCommits (cascade r z))) ∧
  (∀ (m : Master) (p : Fin 6) (n : Nat) (s : State), (p.val < 4 → accepts s m (K.shfOp p) 1 = true) →
    let t := if p.val < 4 then wrote s m (K.shfOp p) 1 else s
    t.nat K.sheafSheafState ≠ 1 → freeSlot t = some n →
    let u := showOpen { t with sheaf := { t.sheaf with txns := Sp.put t.sheaf.txns n { port := p } } }
    exec (.sheafOpen m p) s = .next (portResult u p 0 n 0)) ∧
  (∀ (p n : Nat) (rest : List Nat) (s : State), s.sheaf.opens = p :: rest → freeSlot s = some n →
    (s.sheaf.commits.find? fun c => c.port == p && c.wait == 4) = none →
    exec .sheafSlotFreed s = .next (openTxn { s with sheaf := { s.sheaf with opens := rest } } p n)) ∧
  (∀ (m : Master) (p : Fin 6) (k : Byte) (act : BitVec 256) (x : Txn) (s : State),
    (p.val < 4 → accepts s m (K.shfOp p) 2 = true) →
    let t := if p.val < 4 then wrote s m (K.shfOp p) 2 else s
    let n := txnOf t p k
    let a := actionOf t p act
    ownTxn t p n = some x → x.actions.length < 64 → formOk t p a.toNat = true →
    let u := showOpen { t with sheaf := { t.sheaf with txns := Sp.put t.sheaf.txns n { x with actions := x.actions ++ [a] } } }
    exec (.sheafAppend m p k act) s = .next (portResult u p 0 n (x.actions.length + 1))) ∧
  (∀ (m : Master) (p : Fin 6) (k : Byte) (x : Txn) (s : State), (p.val < 4 → accepts s m (K.shfOp p) 3 = true) →
    let t := if p.val < 4 then wrote s m (K.shfOp p) 3 else s
    let n := txnOf t p k
    ownTxn t p n = some x → t.nat K.sheafSheafState ≠ 1 →
    let u := showOpen { t with sheaf := { t.sheaf with txns := Sp.del t.sheaf.txns n } }
    let u := if fwPort p then u.setN (K.shfResult p) (n * 2 ^ 8 + x.actions.length * 2 ^ 16) else u
    exec (.sheafCommit m p k) s = .next (runCommits { u with sheaf := { u.sheaf with
      commits := u.sheaf.commits ++ [{ port := p, slot := some n, actions := x.actions }] } })) ∧
  (∀ (s : State), exec .sheafCommitProceed s = .next (runCommits s)) ∧
  (∀ (m : Master) (p : Fin 6) (k : Byte) (x : Txn) (s : State), (p.val < 4 → accepts s m (K.shfOp p) 4 = true) →
    let t := if p.val < 4 then wrote s m (K.shfOp p) 4 else s
    let n := txnOf t p k
    ownTxn t p n = some x →
    let u := (showOpen { t with sheaf := { t.sheaf with txns := Sp.del t.sheaf.txns n } }).inc K.sheafAbortCount
    exec (.sheafAbort m p k) s = .next (portResult u p 0 n 0)) ∧
  (∀ (m : Master) (v : Word) (s : State), accepts s m K.sheafReleaseSeq v = true →
    let t := wrote s m K.sheafReleaseSeq v
    let gone := t.sheaf.recs.filter fun r => decide (r.1 ≤ v.toNat)
    let bytes := gone.foldl (fun n r => n + r.2) 0
    let u : State := { t with sheaf := { t.sheaf with recs := t.sheaf.recs.filter fun r => decide (v.toNat < r.1)
                                                      oldOff := (t.sheaf.oldOff + bytes) % journalSize } }
    exec (.releaseSeqWrite m v) s = .next (u.setN K.sheafJournalFree (journalFree u)))

/-- Power loss, the flush and recovery have their effect (spec/13 R311-R317): the power-loss signal starts the flush, a flush ends with
its image in the slot or fails, a lost hold-up and a request start one, and a recovery is loaded and its journal replayed. -/
def Obligations.FlushAndRecoveryComplete : Prop :=
  (∀ (i : PowerInput) (mv : BitVec 16) (s : State), s.power.loss = false →
    let t : State := { s with power := { s.power with loss := true } }
    let t := modeEvent raise t 4 [powerInputCode i, mv.toNat]
    let t := raise t 335 [t.nat K.sheafCommitSeq, t.nat K.sheafOpenCount, t.nat K.sheafPwcValid] {}
    let t := sheafQuiesce (mediaOff raise t 6 0)
    let t := t.setHost { t.host with quiet := true }
    let t := hoeStop (motorPowerLoss raise t) 1
    exec (.powerLossSignal i mv) s = .next (flushStart { t with sheaf := { t.sheaf with flush := none } } 1)) ∧
  (∀ (img : FlushSlot) (slot since : Nat) (s : State), s.sheaf.flush = some (img, slot, since) →
    let t : State := { s with sheaf := { s.sheaf with flush := none, slots := upd s.sheaf.slots slot (some img), changed := false } }
    let t := (((t.setN K.sheafFlushState 2).setN K.sheafFlushSeq img.seq).setN K.sheafFlushSlot slot).inc K.sheafFlushCount
    exec .flushDone s = .next (raise t 336 [img.cause, img.seq, slot, s.elapsed since] {})) ∧
  (∀ (img : FlushSlot) (slot since : Nat) (a : BitVec 32) (s : State), s.sheaf.flush = some (img, slot, since) → img.cause = 1 →
    let t : State := { s with sheaf := { s.sheaf with flush := none } }
    exec (.flushFail a) s =
      .next (raise ((t.setN K.sheafFlushState 3).inc K.sheafFlushFailCount) 337 [1, a.toNat] {})) ∧
  (∀ (s : State), holdUpOk s = false → s.flag K.sheafPwcArmed = true → s.sheaf.changed = true → s.sheaf.flush = none →
    exec .holdUpLost s = .next (flushStart (raise s 338 [motorState s, param32 (s.int K.spinSpeedCrpm)] {}) 3)) ∧
  (∀ (m : Master) (v : Word) (s : State), accepts s m K.sheafFlushNow v = true → v ≠ 0 →
    let t := wrote s m K.sheafFlushNow v
    t.sheaf.flush = none → exec (.flushNow m v) s = .next (flushStart t 2)) ∧
  (∀ (m : Master) (v : Word) (s : State), accepts s m K.sheafRecoverLoad v = true → v ≠ 0 →
    exec (.recoverLoad m v) s = .next ((wrote s m K.sheafRecoverLoad v).setN K.sheafRecoverState 1)) ∧
  (∀ (c0 c1 : Bool) (f : FlushSlot) (s : State), s.nat K.sheafRecoverState = 1 → chosenSlot s c0 c1 = some f →
    let base := s.cfg K.sheafPwcBase
    let t := loadRegion (loadRegion s journalBase journalSize f.journal) base cacheSize f.cache
    let t : State := { t with memory := { t.memory with poison := f.poison.foldl (fun p o => Sp.put p (base + o) ()) t.memory.poison },
                              sheaf := { t.sheaf with imageOff := f.oldestOff, imageOldest := f.oldestSeq, changed := false } }
    let t := ((((t.setN K.sheafRecoverState 2).setN K.sheafImageSeq f.seq).setN K.sheafImageCommitSeq f.commitSeq).setN
      K.sheafCommitSeq f.commitSeq).setN K.sheafPwcValid (countValid t)
    let t := t.setB K.sheafPwcArmed true
    exec (.recoveryLoaded c0 c1) s =
      .next (raise t 339 [t.nat K.sheafRecoverState, t.nat K.sheafImageSeq, t.nat K.sheafImageCommitSeq] {})) ∧
  (∀ (c0 c1 : Bool) (s : State), s.nat K.sheafRecoverState = 1 → chosenSlot s c0 c1 = none →
    let t := (s.setN K.sheafRecoverState (if (newestSlot s).isSome then 4 else 3)).setB K.sheafPwcArmed true
    exec (.recoveryLoaded c0 c1) s =
      .next (raise t 339 [t.nat K.sheafRecoverState, t.nat K.sheafImageSeq, t.nat K.sheafImageCommitSeq] {})) ∧
  (∀ (m : Master) (v : Word) (s : State), accepts s m K.sheafReplayStart v = true → v ≠ 0 →
    exec (.replayStart m v) s =
      .next (((wrote s m K.sheafReplayStart v).setN K.sheafReplayState 1).setN K.sheafSheafState 2)) ∧
  (∀ (torn : Bool) (s : State), s.nat K.sheafReplayState = 1 → s.nat K.sheafImageCommitSeq < s.nat K.sheafReplayFrom →
    let all := recordsFrom s 2731 s.sheaf.imageOff s.sheaf.imageOldest
    let l := if torn then all.dropLast else all
    let bytes := l.foldl (fun n r => n + recordSize r.actions.length) 0
    let t : State := { s with sheaf := { s.sheaf with
      recs := l.map fun (r : JRec) => (r.seq, recordSize r.actions.length), oldOff := s.sheaf.imageOff,
      nextOff := (s.sheaf.imageOff + bytes) % journalSize } }
    let t := t.setN K.sheafJournalFree (journalFree t)
    let t := (((t.setN K.sheafReplayState 2).setN K.sheafSheafState 0).setN K.sheafReplayApplied 0).setN K.sheafReplayDiscarded 0
    exec (.replayEnd torn) s = .next (raise t 340 [0, 0] {}))

/-- Accesses of the fabric, of the dictionary and of its counters have their effect (spec/01 R21; spec/17 R380-R401), and the host's transport and link
commands have theirs (spec/12 R274-R278, R293): the transport and the link's enable are written, a reset of the controller of each
cause ends its commands, CC.EN is set, a shutdown starts and ends, and the links go up and down. -/
def Obligations.FabricAndLinkCommandsComplete : Prop :=
  (∀ (fm : FabricMaster) (w : Bool) (a : Addr) (n : AccessSize) (d : Word) (arr : ArrayEcc) (s : State),
    exec (.fabricAccess fm w a n d arr) s = .next (fabricAccess s fm w a.toNat (sizeBytes n) d arr)) ∧
  (∀ (l : List DictStore) (s : State), exec (.objectWrite l) s = .next (servePorts s (storeCycle s l))) ∧
  (∀ (m : Master) (i : BitVec 16) (sub : Byte) (v : Word) (s : State), accepts s m (i.toNat * 256 + sub.toNat) v = true → v ≠ 0 →
    isClear (aliasIndex i.toNat) sub.toNat = true →
    exec (.countersClear m i sub v) s =
      .next (servePorts s (clearAct (aliasIndex i.toNat) (wrote s m (i.toNat * 256 + sub.toNat) v)))) ∧
  (∀ (m : Master) (v : Word) (s : State), accepts s m K.hostHostTransport v = true →
    exec (.hostTransportWrite m v) s = .next (onWrite s m K.hostHostTransport v (wrote s m K.hostHostTransport v))) ∧
  (∀ (m : Master) (v : Word) (s : State), accepts s m K.hostLinkEnable v = true → v ≠ 0 →
    let t := wrote s m K.hostLinkEnable v
    exec (.linkEnable m v) s = .next { t with power := { t.power with released := true } }) ∧
  (∀ (s : State), exec .perstAssert s = .next (controllerReset raise s 0 false) ∧
    exec .functionLevelReset s = .next (controllerReset raise s 1 false) ∧
    (s.host.ccEn = true → exec .ccEnClear s = .next (controllerReset raise s 2 false))) ∧
  (∀ (s : State), s.host.ccEn = false → s.flag K.hostLinkUp = true →
    let h := { s.host with ccEn := true, shst := 0, sqs := Sp.put s.host.sqs 0 { size := adminSize, cqid := 0 }
                           cqs := Sp.put s.host.cqs 0 { size := adminSize } }
    exec .ccEnSet s = .next ((s.setHost h).setN K.hostCtrlState 2)) ∧
  (∀ (s : State), s.host.ccEn = true →
    exec .shutdownNotification s = .next ((s.setHost { s.host with shst := 1 }).setN K.hostCtrlState 3)) ∧
  (∀ (s : State), s.nat K.hostCtrlState = 3 → s.nat K.sheafPwcValid = 0 → s.sheaf.commits = [] →
    exec .shutdownComplete s = .next ((s.setHost { s.host with shst := 2 }).setN K.hostCtrlState 4)) ∧
  (∀ (l : Byte) (s : State), s.nat K.hostHostTransport = 0 → s.flag K.hostLinkUp = true →
    exec (.pcieLinkDown l) s = .next (raise (linkDown s) 353 [s.host.lastSpeed, s.host.lastWidth, l.toNat] {})) ∧
  (∀ (g : BitVec 3) (w : BitVec 2) (s : State), s.nat K.hostHostTransport = 0 → s.flag K.hostLinkEnable = true →
    1 ≤ g.toNat → g.toNat ≤ 5 → 1 ≤ w.toNat → w.toNat ≤ 2 →
    let t := ((s.setN K.hostLinkSpeed g.toNat).setN K.hostLinkWidth w.toNat).setB K.hostLinkUp true
    let t := t.setHost { t.host with lastSpeed := g.toNat, lastWidth := w.toNat }
    exec (.pcieLinkTrained g w) s =
      .next (if g.toNat < 5 ∨ w.toNat < 2 then raise t 354 [g.toNat, w.toNat] {} else t)) ∧
  (∀ (d : BitVec 32) (s : State), s.nat K.hostHostTransport = 1 → s.flag K.hostLinkEnable = true →
    let t := ((s.setN K.hostLinkSpeed 6).setN K.hostLinkWidth 1).setB K.hostLinkUp true
    exec (.ethLinkChange true d) s = .next (raise t 384 [6, d.toNat] {}) ∧
    exec (.ethLinkChange false d) s = .next (raise (linkDown s) 385 [d.toNat] {}))

/-- The commands of the host's queues have their effect (spec/12 R278-R297): doorbells, a fetch and its failure, transport errors, a
completion and its posting, an abort past its budget, an ordered queue's restart and mask, connections and the keep-alive timer. -/
def Obligations.HostQueueCommandsComplete : Prop :=
  (∀ (h : BitVec 64) (n : BitVec 16) (src : BitVec 32) (s : State), s.nat K.hostHostTransport = 1 → s.flag K.hostLinkUp = true →
    s.host.assoc = none →
    let t := s.setHost { s.host with assoc := some (h.toNat, n.toNat), conns := [0]
                                     sqs := Sp.put s.host.sqs 0 { size := adminSize, cqid := 0 }
                                     cqs := Sp.put s.host.cqs 0 { size := adminSize } }
    exec (.fabricsConnect 0 h n src) s =
      .next (raise (t.drawn.setN K.hostAssocState 1) 386 [t.free.toNat % 2 ^ 32, 1] {})) ∧
  (∀ (q : BitVec 16) (h : BitVec 64) (n : BitVec 16) (src : BitVec 32) (s : State), s.nat K.hostHostTransport = 1 →
    s.flag K.hostLinkUp = true → s.host.assoc = some (h.toNat, n.toNat) → 0 < q.toNat → q.toNat ≤ 32 →
    (s.subQ q.toNat).isSome = false → s.host.ccEn = true →
    let t := boundary s .queueCreation
    let t := t.setHost { t.host with conns := q.toNat :: t.host.conns, cqs := Sp.put t.host.cqs q.toNat { size := 4096 } }
    exec (.fabricsConnect q h n src) s =
      .next (showOq ((t.setSubQ q.toNat (newSubQ t q.toNat 4096)).setN K.hostAssocState 2) q.toNat)) ∧
  (∀ (c code : BitVec 16) (p : Byte) (w : BitVec 2) (s : State), s.host.conns.contains c.toNat = true →
    let t := violate raise s.drawn 21 c.toNat 0xFFFF s.free.toNat
    let t := if w = 1 then raise t.drawn 389 [c.toNat, t.free.toNat % 2] {} else t
    exec (.tcpPduError c p code w) s = .next (endAssociation (raise t 390 [c.toNat, p.toNat, code.toNat] {}))) ∧
  (∀ (c : BitVec 16) (s : State), s.host.conns.contains c.toNat = true →
    exec (.tcpConnectionClose c) s = .next (connectionClosed s c.toNat)) ∧
  (∀ (v : Nat) (s : State), s.host.assoc.isSome = true → Sp.get s.host.features 0x0F = some v →
    exec .keepAliveTimeout s = .next (controllerReset raise (raise s.drawn 388 [v] {}) 3 false)) ∧
  (∀ (q : BitVec 16) (v : BitVec 32) (x : SubQ) (s : State), s.subQ q.toNat = some x → v.toNat < x.size →
    exec (.sqTailDoorbell q v) s = .next (s.setSubQ q.toNat { x with tail := v.toNat })) ∧
  (∀ (q : BitVec 16) (v : BitVec 32) (x : ComplQ) (s : State), Sp.get s.host.cqs q.toNat = some x → v.toNat < x.size →
    (v.toNat + x.size - x.head) % x.size ≤ x.used →
    exec (.cqHeadDoorbell q v) s =
      .next (s.setHost { s.host with cqs := Sp.put s.host.cqs q.toNat { x with head := v.toNat } })) ∧
  (∀ (qid : BitVec 16) (e : Sqe) (x : SubQ) (s : State),
    let q := qid.toNat
    s.subQ q = some x → fetchWanted s x = true → s.host.table.length < 1024 →
    (queueEnts s q).length < s.nat K.hostSqInflightMax → cqRoom s q x = true →
    let bad := fetchCheck s q e
    let ent : CmdEnt := { sqid := q, sqe := e, order := s.host.orderSeq, qpos := x.fetched, covered := x.covering.isSome
                          bad := if x.covering = some true then none else bad }
    let t := (s.drawn.setHost { s.host with table := s.host.table ++ [ent], orderSeq := s.host.orderSeq + 1
                                            stalled := false }).inc K.hostCommandsCount
    let t := t.setSubQ q { x with head := (x.head + 1) % (if x.size = 0 then 1 else x.size), fetched := x.fetched + 1
                                  fetchFails := 0, cqStop := false }
    let t := t.on (decide (q ≠ 0)) hostWakes
    let t := if x.covering = some true then discards raise t q else t
    let t := advance t q
    let t := match t.host.table.find? fun f => f.order == ent.order with
      | some f => if f.st = .fetched ∧ x.ordered = true then t.setCmd { f with st := .held } else t
      | none => t
    let t := restartCheck raise t q
    exec (.commandFetch qid e) s = .next (settle raise (showOq t q))) ∧
  (∀ (q : BitVec 16) (c : XferCause) (x : SubQ) (s : State), s.subQ q.toNat = some x →
    let t := violate raise s 6 q.toNat 0xFFFF (xferCode c)
    (x.fetchFails = 0 → exec (.sqFetchError q c) s = .next (t.setSubQ q.toNat { x with fetchFails := 1 })) ∧
    (x.fetchFails ≠ 0 →
      let u := asyncEvent raise (t.setSubQ q.toNat { x with fetchFails := 2, fetchStopped := true }) 7 0xC3 0xC3
      exec (.sqFetchError q c) s = .next (raise u 361 [q.toNat, xferCode c] {}))) ∧
  (∀ (d : BitVec 32) (a : BitVec 16) (s : State),
    exec (.tlpReceive (.malformed d)) s = .next (aerEvent (badTlp s 0 d.toNat 0) d.toNat) ∧
    exec (.tlpReceive (.poisonedWrite d a)) s = .next (aerEvent (badTlp s 1 d.toNat a.toNat) d.toNat) ∧
    exec (.tlpReceive (.readMisaligned d a)) s = .next (aerEvent (badTlp s 2 d.toNat a.toNat) d.toNat) ∧
    exec (.tlpReceive (.writeReserved d a)) s = .next (badTlp s 3 d.toNat a.toNat) ∧
    exec (.tlpReceive (.good d a)) s = .next s) ∧
  (∀ (c : CmdRef) (k : XferCause) (st : BitVec 15) (d : BitVec 32) (e : CmdEnt) (s : State),
    (s.host.table.find? fun e => e.ref == refOf c && (e.st == .active || e.st == .aborting)) = some e →
    exec (.dataTransferError c k) s = .next (runCommits (complete raise
      (violate raise s 7 e.sqid e.sqe.cid.toNat (xferCode k)) e.ref (stat 0 0x04) 0)) ∧
    exec (.completionWrite c st d) s = .next (runCommits (complete raise s e.ref st.toNat d.toNat))) ∧
  (∀ (q : BitVec 16) (e : CmdEnt) (x : ComplQ) (s : State), oldestCommit s q.toNat = some e →
    Sp.get s.host.cqs q.toNat = some x → ¬ postWaits s e → x.used + 1 < x.size →
    let h := { s.host with table := s.host.table.filter fun f => f.order != e.order
                           cqs := Sp.put s.host.cqs q.toNat { x with tail := (x.tail + 1) % x.size }
                           posted := (q.toNat, e.sqid, e.sqe.cid.toNat, e.status, e.dw0) :: s.host.posted }
    exec (.cqePost q) s = .next (s.setHost h)) ∧
  (∀ (a : Act) (l : List Desc) (s : State),
    let u := postFresh (boundaryIn s .command (actOwns a)) a l
    let t := twinSettle raise u a
    trlState u a = 3 → mayPick (admitPool t a) a = true →
    exec (.descriptorPick a l) s = .next (onePick (admitPool t a) a)) ∧
  (∀ (c : CmdRef) (e : CmdEnt) (s : State), s.cmd (refOf c) = some e → e.st = .aborting →
    exec (.abortBudgetExpiry c) s = .next (raise s.drawn 364 [1, s.free.toNat % 1024] {})) ∧
  (∀ (c : CmdRef) (e : CmdEnt) (x : SubQ) (s : State), activeEnt s.host.table (refOf c) true 0xC4 = some e →
    let w := e.sqe.cdw10.toNat
    let q := bitsOf w 0 16
    s.subQ q = some x → x.restart = none → restartStatus s e = 0 →
    let t := beginRestart s e q x (bitAt w 16)
    let t := if bitAt w 16 then discards raise t q else advance t q
    exec (.orderedQueueRestart c) s = .next (settle raise (restartCheck raise (showOq t q) q))) ∧
  (∀ (m : Master) (v : Word) (s : State), exec (.orderedMaskWrite m v) s = .next (wrote s m K.hostOrderedMask v))

/-- The host's commands on namespaces have their effect where the command is active and the module is not in Safe (spec/11 R254, R261, R262, R267, R268;
spec/12 R278): a read of blocks that need no media answers them, a write asks for an allocation, a flush waits for
what is cached, and a deallocation asks for its commit. -/
def Obligations.HostIoCommandsComplete : Prop :=
  (∀ (c : CmdRef) (e : CmdEnt) (s : State), activeEnt s.host.table (refOf c) false 0x02 = some e → s.nat K.pmMode ≠ 5 →
    let ns := e.sqe.nsid.toNat
    let seq := ns == 1 && s.nat K.zoneZoneMode == 1
    let zs := if seq then zonesOf e else []
    let bs := (List.range (e.sqe.nlb.toNat + 1)).map fun i => resolveBlock s ns (e.sqe.slba.toNat + i)
    let fast := seq && fastRead s e
    let t := s.setCmd { e with heldZone := none, fast := fast }
    let t := t.on (fast && !e.fast) fun u => u.inc K.zoneFastPathCount
    (∀ z, (zs.find? fun z => zoneHolds s e z) = some z → exec (.read c) s = .next (s.setCmd { e with st := .held, heldZone := some z })) ∧
    ((∀ z ∈ zs, zoneHolds s e z = false ∧ (s.ctx z).st ≠ 0xF) → exec (.read c) s = .next (readBlocks t e (fast && !e.fast) bs))) ∧
  (∀ (e : CmdEnt) (post : Bool) (bs : List BlockSrc) (s : State), s.flag K.zoneDulbe = false → bs.contains .media = false →
    let t := s.on (bs.all fun b => b == .zeros || b == .unwritten) fun u => u.inc K.zoneZeroReadCount
    readBlocks s e post bs = complete raise (returnData t e.ref (bs.flatMap (blockData s))) e.ref 0 0) ∧
  (∀ (c : CmdRef) (e : CmdEnt) (s : State), s.nat K.pmMode ≠ 5 → e.sqe.nsid = 1 → s.nat K.zoneZoneMode = 1 → e.alloc = none →
    let z := e.sqe.slba.toNat / 65536
    let o := e.sqe.slba.toNat % 65536
    let n := e.sqe.nlb.toNat + 1
    (activeEnt s.host.table (refOf c) false 0x01 = some e → exec (.write c) s = .next (allocFor s e z n (some o))) ∧
    (activeEnt s.host.table (refOf c) false 0x08 = some e → exec (.writeZeroes c) s = .next (allocFor s e z n (some o))) ∧
    (activeEnt s.host.table (refOf c) false 0x7D = some e → o = 0 → exec (.zoneAppend c) s = .next (allocFor s e z n none)) ∧
    (activeEnt s.host.table (refOf c) false 0x7D = some e → o ≠ 0 →
      exec (.zoneAppend c) s = .next (complete raise s e.ref (stat 0 0x02) 0))) ∧
  (∀ (c : CmdRef) (e : CmdEnt) (s : State), activeEnt s.host.table (refOf c) false 0x00 = some e → s.nat K.pmMode ≠ 5 →
    e.flushSlots = [] →
    (validSlots s = [] → exec (.flush c) s = .next (complete raise s e.ref 0 0)) ∧
    (validSlots s ≠ [] → exec (.flush c) s = .next (s.setCmd { e with flushSlots := validSlots s }))) ∧
  (∀ (c : CmdRef) (l : List (BitVec 64 × BitVec 32)) (e : CmdEnt) (s : State),
    activeEnt s.host.table (refOf c) false 0x09 = some e → s.nat K.pmMode ≠ 5 →
    (s.sheaf.commits.any fun q => q.cont == .completes e.ref) = false →
    (bitAt e.sqe.cdw11.toNat 2 = false → exec (.datasetManagement c l) s = .next (complete raise s e.ref 0 0)) ∧
    (let rs := l.map fun r => (r.1.toNat, r.2.toNat)
     let size := (nsBlocks s 1).getD 0
     bitAt e.sqe.cdw11.toNat 2 = true → (rs.any fun r => decide (size < r.1 + r.2)) = false →
     (rs.findSome? fun r => lockedRange s true 1 r.1 r.2) = none →
     let x := rs.foldl (fun (acc : State × List Action × Nat) r =>
       let (u, l, n) := deallocActions acc.1 r.1 r.2 acc.2.2
       (u, acc.2.1 ++ l, n)) (s, ([] : List Action), 0)
     exec (.datasetManagement c l) s = .next (if x.2.1.isEmpty then complete raise x.1 e.ref 0 0
       else runCommits (askAll x.1 e (x.2.1.length + 1) x.2.1))))

/-- The Admin commands have their effect where the command is active (spec/12 R278-R292; spec/18 R407, R420 and spec/19 R447 for the
log pages and the images): abort, the creation and deletion of queues, log pages, identification, features, asynchronous events,
images, self-test and keep-alive. -/
def Obligations.AdminCommandsComplete : Prop :=
  (∀ (c : CmdRef) (e f : CmdEnt) (s : State), activeEnt s.host.table (refOf c) true 0x08 = some e →
    (s.host.table.any fun g => g.aborter == some e.ref && g.st != .committed) = false →
    (((s.host.table.filter fun g => g.ref == namedRef e && g.order != e.order).find? fun g => g.st != .committed) = some f →
      exec (.abort c) s = .next (if f.st = .aborting then notAborted s e else abortEnt s e f)) ∧
    ((s.host.table.filter fun g => g.ref == namedRef e && g.order != e.order) = [] →
      exec (.abort c) s = .next (notAborted (s.inc K.hostAbortMissedCount) e))) ∧
  (∀ (c : CmdRef) (e : CmdEnt) (s : State), activeEnt s.host.table (refOf c) true 0x01 = some e →
    let q := bitsOf e.sqe.cdw10.toNat 0 16
    let size := bitsOf e.sqe.cdw10.toNat 16 16 + 1
    1 ≤ q → q ≤ 32 → (s.subQ q).isSome = false → 2 ≤ size → size ≤ 4096 → bitsOf e.sqe.cdw11.toNat 16 16 = q →
    (Sp.get s.host.cqs q).isNone = false →
    let t := boundary s .queueCreation
    exec (.createIoSq c) s = .next (complete raise (showOq (t.setSubQ q (newSubQ t q size)) q) e.ref 0 0)) ∧
  (∀ (c : CmdRef) (e : CmdEnt) (s : State), activeEnt s.host.table (refOf c) true 0x05 = some e →
    let q := bitsOf e.sqe.cdw10.toNat 0 16
    let size := bitsOf e.sqe.cdw10.toNat 16 16 + 1
    let iv := bitsOf e.sqe.cdw11.toNat 16 16
    1 ≤ q → q ≤ 32 → (Sp.get s.host.cqs q).isSome = false → 2 ≤ size → size ≤ 4096 → iv ≤ 32 →
    exec (.createIoCq c) s =
      .next (complete raise (s.setHost { s.host with cqs := Sp.put s.host.cqs q { size := size, vector := iv } }) e.ref 0 0)) ∧
  (∀ (c : CmdRef) (e : CmdEnt) (s : State), activeEnt s.host.table (refOf c) true 0x00 = some e →
    let q := bitsOf e.sqe.cdw10.toNat 0 16
    q ≠ 0 → (s.subQ q).isNone = false →
    let t := endQueue s q
    let t := showOq (t.setHost { t.host with sqs := Sp.del t.host.sqs q }) q
    exec (.deleteIoSq c) s = .next (runCommits (complete raise t e.ref 0 0))) ∧
  (∀ (c : CmdRef) (e : CmdEnt) (s : State), activeEnt s.host.table (refOf c) true 0x04 = some e →
    let q := bitsOf e.sqe.cdw10.toNat 0 16
    q ≠ 0 → (Sp.get s.host.cqs q).isNone = false → (s.subQ q).isSome = false →
    let h := { s.host with cqs := Sp.del s.host.cqs q, table := s.host.table.filter fun f => f.sqid != q }
    exec (.deleteIoCq c) s = .next (complete raise (s.setHost h) e.ref 0 0)) ∧
  (∀ (c : CmdRef) (e : CmdEnt) (l : List Byte) (s : State), activeEnt s.host.table (refOf c) true 0x02 = some e →
    let w := e.sqe.cdw10.toNat
    let n := 4 * (bitsOf w 16 16 + bitsOf e.sqe.cdw11.toNat 0 16 * 2 ^ 16 + 1)
    let off := e.sqe.cdw12.toNat + e.sqe.cdw13.toNat * 2 ^ 32
    logPage s (bitsOf w 0 8) (bitsOf w 8 7) (bitsOf e.sqe.cdw11.toNat 16 16) off n = some l →
    let t := returnData { s with freeCtr := s.freeCtr + off + n } e.ref l
    let t := t.on (decide (bitsOf w 0 8 = 0xC3) && !bitAt w 15 && off == 0 && decide (1088 ≤ n)) fun u =>
      u.setHost { u.host with viols := [] }
    exec (.getLogPage c) s = .next (complete raise t e.ref 0 0)) ∧
  (∀ (c : CmdRef) (e : CmdEnt) (s : State), activeEnt s.host.table (refOf c) true 0x06 = some e →
    let cns := bitsOf e.sqe.cdw10.toNat 0 8
    let csi := bitsOf e.sqe.cdw11.toNat 24 8
    let ns := e.sqe.nsid.toNat
    let page :=
      if cns = 0 then (if (nsBlocks s ns).isSome then identNamespace s ns else List.replicate 4096 0)
      else if cns = 1 then identController s
      else if cns = 2 then padTo 4096 ((activeNs s ns).flatMap (leBytes 4))
      else if cns = 5 ∧ csi = 2 then identZoned s
      else if cns = 6 ∧ csi = 2 then overlay (freePage s 4096) 0 (leBytes 1 9)
      else freePage s 4096
    exec (.identify c) s =
      .next (complete raise (returnData { s with freeCtr := s.freeCtr + 4096 } e.ref page) e.ref 0 0)) ∧
  (∀ (c : CmdRef) (e : CmdEnt) (s : State), activeEnt s.host.table (refOf c) true 0x09 = some e →
    let fid := bitsOf e.sqe.cdw10.toNat 0 8
    let v := e.sqe.cdw11.toNat
    (fid = 0x02 → bitsOf v 0 5 ≤ 4) →
    exec (.setFeatures c) s =
      .next (complete raise (setFeature s fid v) e.ref 0 (if fid = 0x07 then 31 + 31 * 2 ^ 16 else 0))) ∧
  (∀ (c : CmdRef) (e : CmdEnt) (s : State), activeEnt s.host.table (refOf c) true 0x0A = some e →
    let fid := bitsOf e.sqe.cdw10.toNat 0 8
    let kept := match Sp.get s.host.features fid with | some v => v | none => s.free.toNat % 2 ^ 32
    let v := if fid = 0x02 then s.nat K.pmHostPs else if fid = 0x04 then s.power.tempThresh
      else if fid = 0x05 then b2n (s.flag K.zoneDulbe) * 2 ^ 16 else if fid = 0x07 then 31 + 31 * 2 ^ 16 else kept
    exec (.getFeatures c) s = .next (complete raise s.drawn e.ref 0 v)) ∧
  (∀ (c : CmdRef) (e : CmdEnt) (ty info log : Nat) (r : List (Nat × Nat × Nat)) (s : State),
    activeEnt s.host.table (refOf c) true 0x0C = some e → s.host.asyncs = (ty, info, log) :: r →
    exec (.asynchronousEventRequest c) s =
      .next (complete raise (s.setHost { s.host with asyncs := r }) e.ref 0 (ty + info * 2 ^ 8 + log * 2 ^ 16))) ∧
  (∀ (c : CmdRef) (l : List Byte) (e : CmdEnt) (s : State), activeEnt s.host.table (refOf c) true 0x11 = some e →
    let x := l.foldl (fun (acc : Sp Byte × Nat) b => (Sp.put acc.1 acc.2 b, acc.2 + 1)) (s.host.download, 4 * e.sqe.cdw11.toNat)
    exec (.firmwareImageDownload c l) s = .next (complete raise (s.setHost { s.host with download := x.1 }) e.ref 0 0)) ∧
  (∀ (c : CmdRef) (chk : ImageCheck) (e : CmdEnt) (s : State), activeEnt s.host.table (refOf c) true 0x10 = some e →
    let slot := bitsOf e.sqe.cdw10.toNat 0 3
    let act := bitsOf e.sqe.cdw10.toNat 3 3
    let v := chk.version.toNat
    act ≤ 2 → 1 ≤ slot → slot ≤ 2 → slot ≠ s.strong.running → commitImageFault s slot chk = none →
    let u := storeImage s slot
    let t := { u with strong := { u.strong with staged := Sp.put u.strong.staged slot (v, chk.hash) } }
    let t := measureRuntime (t.setN (imageKey slot) v) (imageEntry 4 v chk.hash)
    exec (.firmwareCommit c chk) s = .next (complete raise
      (if act = 2 then setTrial s slot else if act = 1 then setTrial t slot else t) e.ref 0 0)) ∧
  (∀ (c : CmdRef) (e : CmdEnt) (s : State),
    (activeEnt s.host.table (refOf c) true 0x14 = some e → exec (.deviceSelfTest c) s = .next (complete raise s e.ref 0 0)) ∧
    (activeEnt s.host.table (refOf c) true 0x18 = some e → exec (.keepAlive c) s = .next (complete raise s e.ref 0 0)))

/-- The memories have their effect (spec/14 R321-R343; spec/15 R346-R356): accesses and the filling of the Cellar, its refresh rate, the
cache's switch, ways and maintenance, a line's zeroing and fill, the trackers, the Hoe's pass, and the Pantry's queues. -/
def Obligations.MemoryCommandsComplete : Prop :=
  (∀ (r : CellarReq) (a : Addr) (op : CellarOp) (e : Ecc) (arr : ArrayEcc) (s : State),
    exec (.cellarAccess r a op e arr) s = .next (cellarAccess s r a.toNat op e arr)) ∧
  (∀ (s : State), s.nat K.memCellarState = 2 →
    let t := (s.setN K.memCellarState 3).setN K.memFillPointer cellarEnd
    let t := memEventFree t 403 [s.elapsed s.memory.fillSince] 0
    exec .cellarFillDone s = .next (serveWaits t)) ∧
  (∀ (mult : BitVec 3) (hot : Bool) (s : State),
    let m := mult.toNat
    let old := s.nat K.memRefreshMultiplier
    let t := if m = 1 ∨ m = 2 ∨ m = 4 then s.setN K.memRefreshMultiplier m else s
    let t := if t.nat K.memRefreshMultiplier ≠ old ∧ 1 < t.nat K.memRefreshMultiplier then
        memEventFree t 412 [t.nat K.memRefreshMultiplier] 0 else t
    let rises := hot && !t.power.cellarHot
    let t := { t with power := { t.power with cellarHot := hot } }
    exec (.refreshRateIndication mult hot) s = .next (if rises then modeEvent raise t 41 [m] else t)) ∧
  (∀ (m : Master) (v : Word) (s : State), accepts s m K.memCacheEnable v = true →
    exec (.cacheEnableWrite m v) s = .next (cacheSwitch (s.flag K.memCacheEnable) (wrote s m K.memCacheEnable v))) ∧
  (∀ (s : State), s.flag K.memCleanInProgress = true →
    let held := s.memory.enableHeld
    let dirty := (s.memory.lines.filter fun p => p.2.dirty).map (·.1) ++ s.memory.evict.map fun (e : Evict) => e.line
    let t := dirty.foldl lineWritten s
    let t := { t with memory := { t.memory with lines := [], evict := [], enableHeld := false } }
    let t := (t.setB K.memCleanInProgress false).setB K.memCacheEnable held
    exec .llcCleanDone s = .next (serveWaits (memEventFree t 408 [s.memory.cleanLines, s.elapsed s.memory.cleanSince] 2))) ∧
  (∀ (m : Master) (v : Word) (s : State), accepts s m K.memScratchWays v = true →
    let t := wrote s m K.memScratchWays v
    let old := s.nat K.memScratchWays
    let new := t.nat K.memScratchWays
    let lo := min old new
    exec (.scratchWaysWrite m v) s =
      .next ((clearBytes t (0x50000000 + lo * 0x40000) ((max old new - lo) * 0x40000)).setN K.memScratchBytes (new * 262144))) ∧
  (∀ (a : Addr) (s : State), exec (.cacheClean a) s = .next (maintenance s a.toNat .clean) ∧
    exec (.cacheFlush a) s = .next (maintenance s a.toNat .flush) ∧
    exec (.cacheInvalidate a) s = .next (maintenance s a.toNat .invalidate) ∧
    (inCellar (lineOf a.toNat) = true → exec (.zeroLine a) s =
      .next (coreAccess s { master := 2, write := true, addr := lineOf a.toNat, size := 64, data := 0, since := s.now }))) ∧
  (∀ (addr : Addr) (x : CoreAcc) (l : List CoreAcc) (ms : List Maint) (arr : ArrayEcc) (s : State),
    let a := lineOf addr.toNat
    Sp.get s.memory.fills a = some (x :: l, ms) → fillStalls s a = false → cellarServes s = true →
    let t := { s with memory := { s.memory with fills := Sp.del s.memory.fills a } }
    badCause s a .clean = none → exec (.lineFill addr .clean arr) s =
      .next (ms.foldl (fun u k => maintain u a k) ((x :: l).foldl coreHit (allocLine t a { way := 0, dirty := false, data := [] } arr)))) ∧
  (∀ (addr : Addr) (x : CoreAcc) (l : List CoreAcc) (ms : List Maint) (ecc : Ecc) (arr : ArrayEcc) (n : Nat) (s : State),
    let a := lineOf addr.toNat
    Sp.get s.memory.fills a = some (x :: l, ms) → fillStalls s a = false → cellarServes s = true →
    let t := { s with memory := { s.memory with fills := Sp.del s.memory.fills a } }
    badCause s a ecc = some n → exec (.lineFill addr ecc arr) s =
      .next (ms.foldl (fun u k => maintain u a k) ((x :: l).foldl (fun u y => errorTo u y.master) (lineBad t a n x.master)))) ∧
  (∀ (m : Master) (v : Word) (s : State), accepts s m K.memTrackerClear v = true → v ≠ 0 →
    exec (.trackerClear m v) s = .next (trackerClearAct v (wrote s m K.memTrackerClear v))) ∧
  (∀ (m : Master) (v : Word) (s : State), accepts s m K.memHoeStart v = true → v ≠ 0 →
    let t := wrote s m K.memHoeStart v
    hoeRangeOk t (t.nat K.memHoeBase) (t.nat K.memHoeLength) = true → t.nat K.memCellarState ≠ 2 → t.memory.hoeRun = false →
    t.nat K.pmMode ≠ 2 → t.nat K.pmMode ≠ 3 →
    let u := (t.setN K.memHoeState 1).setN K.memHoeProgress 0
    exec (.hoeStart m v) s = .next { u.zero K.memCeFound 7 with memory := { u.memory with hoeRun := true, hoeSince := t.now } }) ∧
  (∀ (m : Master) (v : Word) (s : State), accepts s m K.memHoeCancel v = true → v ≠ 0 →
    exec (.hoeCancel m v) s = .next (hoeStop (wrote s m K.memHoeCancel v) 0)) ∧
  (∀ (correctable uncorrectable : List Addr) (s : State), s.memory.hoeRun = true →
    let b := s.nat K.memHoeBase
    let n := s.nat K.memHoeLength
    let bad := linesOf (uncorrectable.map (·.toNat) ++ s.memory.poison.map (·.1)) b n
    let good := (linesOf (correctable.map (·.toNat)) b n).filter fun a => !bad.contains a
    let fails := good ++ bad
    let hits := (fails.filter (tracked s)).length
    let rewrite := decide (s.nat K.memHoeMode = 1)
    let t := good.foldl (fun u a => if inCellar a then corrected u.drawn a (u.free.toNat % 2 ^ 32) (reqCode .hoe) else u) s
    let t := if rewrite then good.foldl (fun u a => (lineUnits a).foldl (fun x k => untrack x (hoeMemory a) k) u) t else t
    let re := if rewrite then good.length else 0
    let t := ((t.setN K.memHoeState 2).setN K.memHoeProgress n).setN K.memCeFound good.length
    let t := ((t.setN K.memUeFound bad.length).setN K.memFirstFailAddr (listMin fails)).setN K.memLastFailAddr (listMax fails)
    let t := ((t.setN K.memTrackerHits hits).setN K.memRewritten re).setN K.memPassUs (sat32 (s.elapsed s.memory.hoeSince))
    let t := { t with memory := { t.memory with hoeRun := false } }
    exec (.hoePassEnd correctable uncorrectable) s =
      .next (memEvent t 409 [good.length, bad.length, re] (hoeMemory b) (listMin fails))) ∧
  (∀ (p : FabricMaster) (n : Eng) (q : BitVec 9) (tag : BitVec 16) (e : PantryEcc) (s : State),
    exec (.pantryPush (.fabric p) q tag e) s = .next (fabricPush s (portNum (.fabric p)) q.toNat tag.toNat e) ∧
    exec (.pantryPush (.trellis n) q tag e) s =
      .next (pantryPush raise s (portNum (.trellis n)) q.toNat tag.toNat (regPayload (s.eng n)) e) ∧
    exec (.pantryPop (.fabric p) q e) s = .next (fabricPop s (portNum (.fabric p)) q.toNat e) ∧
    exec (.pantryPop (.trellis n) q e) s = .next (enginePop s n q.toNat e).2) ∧
  (∀ (m : Master) (q : BitVec 9) (v : Word) (s : State), accepts s m (K.panQueueReset q.toNat) v = true → v ≠ 0 →
    exec (.queueReset m q v) s = .next (queueEmptied (wrote s m (K.panQueueReset q.toNat) v) q.toNat 0)) ∧
  (∀ (q : BitVec 9) (s : State), (s.queue q.toNat).sweep = true →
    let x := s.queue q.toNat
    let n := (List.range 4).foldl (fun n e => if e = x.epoch % 4 then n else n + at' x.stale e 0) 0
    let kept := upd (Vector.replicate 4 0) (x.epoch % 4) (at' x.stale (x.epoch % 4) 0)
    let t := s.setQueue q.toNat { x with sweep := false, stale := kept, since := 0 }
    let t := setFlag (setUsed t (t.pan.used - n)) q.toNat 4 false
    exec (.sweepDone q) s = .next (raise (t.addN K.poolReclaimedCount n) 434 [q.toNat, n, s.elapsed x.since] {}))

/-- The Sieve has its effect (spec/16 R361-R379): programs are loaded and activated, memory range sets created and deleted, runs placed,
data copied, firmware runs started and stopped, and a run starts, calls out, faults, times out and is withdrawn. -/
def Obligations.SieveCommandsComplete : Prop :=
  (∀ (c : CmdRef) (slot : BitVec 4) (img : ProgImage) (e : CmdEnt) (s : State), activeEnt s.host.table (refOf c) true 0x22 = some e →
    4 ≤ slot.toNat →
    (rejectCause s slot.toNat img = none →
      exec (.loadProgram c slot img) s = .next (complete raise (acceptProgram s slot.toNat img) e.ref 0 0)) ∧
    (∀ k, rejectCause s slot.toNat img = some k →
      exec (.loadProgram c slot img) s = .next (sieveRefused (rejectProgram s slot.toNat k) e))) ∧
  (∀ (c : CmdRef) (slot : BitVec 4) (up : Bool) (e : CmdEnt) (s : State), activeEnt s.host.table (refOf c) true 0x23 = some e →
    slotLoaded s slot.toNat = true → (up = false → slotBusy s slot.toNat = false) →
    exec (.programActivationManagement c slot up) s =
      .next (complete raise (s.setBitOf (K.sivProgramSlot slot.toNat) 1 up) e.ref 0 0)) ∧
  (∀ (c : CmdRef) (set : BitVec 4) (l : List (BitVec 32 × BitVec 32)) (i : Nat) (e : CmdEnt) (s : State),
    activeEnt s.host.table (refOf c) true 0x21 = some e →
    ((List.range 16).find? fun i => (Sp.get s.sieve.sets i).isNone) = some i → l.length ≤ 8 → l.all (rangeOk s) = true →
    exec (.memoryRangeSetManagement c true set l) s = .next (complete raise
      (putSets s (Sp.put s.sieve.sets i (l.map fun r => (r.1.toNat, r.2.toNat)))) e.ref 0 i)) ∧
  (∀ (c : CmdRef) (set : BitVec 4) (l : List (BitVec 32 × BitVec 32)) (e : CmdEnt) (s : State),
    activeEnt s.host.table (refOf c) true 0x21 = some e → (Sp.get s.sieve.sets set.toNat).isNone = false →
    exec (.memoryRangeSetManagement c false set l) s =
      .next (complete raise (putSets s (Sp.del s.sieve.sets set.toNat)) e.ref 0 0)) ∧
  (∀ (c : CmdRef) (slot set : BitVec 4) (a b : Word) (e : CmdEnt) (s : State), sieveEnt s (refOf c) 3 = some e → s.nat K.pmMode ≠ 5 →
    slotActive s slot.toNat = true → (Sp.get s.sieve.sets set.toNat).isNone = false →
    (s.sieve.waiting.any fun w => w.1 == e.ref) = false →
    ((List.range 8).any fun n => match (s.sieveEng n).run with
      | some x => x.owner == .host e.ref
      | none => false) = false →
    exec (.executeProgram c slot set a b) s = .next (placeRuns { s with sieve := { s.sieve with
      waiting := s.sieve.waiting ++ [(e.ref, slot.toNat, set.toNat, a.toNat, b.toNat)] } })) ∧
  (∀ (c : CmdRef) (d : BitVec 32) (e : CmdEnt) (blocks : Nat) (s : State), sieveEnt s (refOf c) 4 = some e → s.nat K.pmMode ≠ 5 →
    let ns := e.sqe.cdw13.toNat
    let first := e.sqe.slba.toNat
    let count := e.sqe.nlb.toNat + 1
    let bs := (List.range count).map fun i => resolveBlock s ns (first + i)
    nsBlocks s ns = some blocks → first + count ≤ blocks → slmOk s d.toNat (4096 * count) = true →
    lockedRange s false ns first count = none → bs.contains .media = false →
    exec (.memoryCopy c d) s =
      .next (complete raise (s.store (s.nat K.sivSlmBase + d.toNat) (bs.flatMap (blockData s))) e.ref 0 0)) ∧
  (∀ (c : CmdRef) (o n : BitVec 32) (l : List Byte) (e : CmdEnt) (s : State), sieveEnt s (refOf c) 4 = some e → s.nat K.pmMode ≠ 5 →
    (slmOk s o.toNat n.toNat = true → exec (.slmRead c o n) s =
      .next (complete raise (returnData s e.ref (s.load (s.nat K.sivSlmBase + o.toNat) n.toNat)) e.ref 0 0)) ∧
    (slmOk s o.toNat l.length = true → exec (.slmWrite c o l) s =
      .next (complete raise (s.store (s.nat K.sivSlmBase + o.toNat) l) e.ref 0 0))) ∧
  (∀ (m : Master) (n : Fin 8) (v : Word) (s : State), accepts s m (K.engFwStart n) v = true → v ≠ 0 →
    let t := wrote s m (K.engFwStart n) v
    let slot := t.nat (K.engFwSlot n)
    let f := fwRanges t (t.nat (K.engFwRanges n))
    t.flag K.sivSieveEnable = true → slotActive t slot = true →
    exec (.fwStart m n v) s = .next (beginRun t n { slot := slot, owner := .firmware, cparam1 := t.nat (K.engFwCparam1 n),
                                                    cparam2 := t.nat (K.engFwCparam2 n), ranges := f.1, queue := f.2 })) ∧
  (∀ (m : Master) (n : Fin 8) (v : Word) (s : State), accepts s m (K.engFwStop n) v = true → v ≠ 0 →
    exec (.fwStop m n v) s = .next (fwStopAct n (wrote s m (K.engFwStop n) v))) ∧
  (∀ (n : Fin 8) (x : Run) (s : State), (s.sieveEng n).run = some x → mayStart s n = true → deviceFault x = none →
    let a := localBase n
    let t := clearBytes s a 0x40000
    let t := match Sp.get t.sieve.progs x.slot with
      | some p => t.store a p.payload
      | none => t
    let t := t.store (a + 0x3F000) (execBlock x)
    let t := (t.setN (K.engEngineState n) 3).inc K.sivRunCount
    let t := t.setSieveEng n { t.sieveEng n with runSince := t.now, pausedFor := 0 }
    exec (.programStart n) s = .next (sieveEvent raise t n 450 [n, x.slot, x.owner.code])) ∧
  (∀ (n : Fin 8) (a0 runUs : BitVec 32) (x : Run) (s : State), runningRun s n = some x →
    let d := if x.slot < 4 then deviceOutput s x else (s, a0.toNat)
    let t := (runEnds d.1 n 1 d.2 0).setN (K.engRunUs n) runUs.toNat
    exec (.ecallExit n a0 runUs) s = .next (afterRun (sieveEvent raise t n 451 [n, d.2, runUs.toNat]))) ∧
  (∀ (n : Fin 8) (a : BitVec 18) (tag : BitVec 16) (x : Run) (s : State), runningRun s n = some x →
    (a.toNat + 60 ≤ 0x3F000 → dataEnd s x ≤ a.toNat → x.queue ≠ 0x1FF →
      let p := pantryPop raise s x.queue .ok
      exec (.ecallPop n a) s =
        .next ((p.2.2.store (localBase n + a.toNat) p.2.1).deliver (17 + n.val) (BitVec.ofNat 64 p.1))) ∧
    (a.toNat + 60 ≤ 0x3F000 → dataEnd s x ≤ a.toNat → x.queue = 0x1FF →
      exec (.ecallPop n a) s = .next (s.deliver (17 + n.val) 0)) ∧
    (a.toNat + 60 ≤ 0x40000 → x.queue ≠ 0x1FF →
      exec (.ecallPush n a tag) s = .next (pantryPush raise s (portNum (.fabric (.sieve n))) ((x.queue + 1) % 512) tag.toNat
        (s.load (localBase n + a.toNat) 60) .ok))) ∧
  (∀ (n : Fin 8) (x : Run) (mcause : BitVec 32) (pc : Word) (a : Addr) (s : State), runningRun s n = some x →
    exec (.programFault n mcause pc a) s = .next (faultRun s n mcause.toNat pc.toNat a.toNat) ∧
    exec (.execTimeout n pc) s = .next (afterRun
      (sieveEvent raise (runEnds (s.inc K.sivTimeoutCount) n 2 0 (stat 1 0xC2)) n 453 [n, x.slot, pc.toNat]))) ∧
  (∀ (n : Fin 8) (x : Run) (r : Ref) (s : State), (s.sieveEng n).run = some x → x.owner = .host r → engState s n = 2 →
    x.granted = false →
    let t := runEnds s n 4 0 (stat 1 0xC4)
    exec (.grantWaitExpiry n) s = .next (afterRun (sieveEvent raise t n 458 [x.slot, t.nat K.pmEnvelopeNowMw]))) ∧
  (∀ (n : Fin 8) (s : State), engState s n = 4 → exec (.pauseLimitExpiry n) s = .next (afterRun (withdrawRun raise s n)))

/-- Frames, locks, the dictionary store and the management link have their effect (spec/17 R380-R402): a frame runs from its port or
from the management bus, a lock entry is taken and given back, an error of the store returns a value to its default, and the management
link answers, is configured, is reset and takes its addresses. -/
def Obligations.ManagementCommandsComplete : Prop :=
  (∀ (c : Fin 4) (l : List Byte) (s : State),
    (∀ n, frameHead l = some (1, n) → exec (.frameWrite (.port c) l) s = .next (portRun s c.val l)) ∧
    (∀ n, frameHead l = some (2, n) → exec (.frameRead (.port c) l) s = .next (portRun s c.val l)) ∧
    (∀ n, frameHead l = some (3, n) → exec (.frameDescribe (.port c) l) s = .next (portRun s c.val l))) ∧
  (∀ (l : List Byte) (f : FrameRun) (s : State), runFrame s 15 l = some f →
    (∀ n, frameHead l = some (1, n) → exec (.frameWrite .mgmtBus l) s = .next (answer f.state 0 (response f 4096))) ∧
    (∀ n, frameHead l = some (2, n) → exec (.frameRead .mgmtBus l) s = .next (answer f.state 0 (response f 4096))) ∧
    (∀ n, frameHead l = some (3, n) → exec (.frameDescribe .mgmtBus l) s = .next (answer f.state 0 (response f 4096)))) ∧
  (∀ (m : Master) (i : Fin 16) (v : Word) (s : State), accepts s m (K.dictLock i) v = true →
    let t := wrote s m (K.dictLock i) v
    let u := t.setN (K.dictLock i) (lockWord m v.toNat)
    let u := if s.obj (K.dictLock i) = t.obj (K.dictLock i) then u else objectChanged u 0x1040 (i.val + 1)
    exec (.lockAcquire m i v) s = .next u ∧ exec (.lockRelease m i v) s = .next u) ∧
  (∀ (i : BitVec 16) (sub : Byte) (r : ObjRow) (s : State),
    let k := aliasIndex i.toNat * 256 + sub.toNat
    objNow s (aliasIndex i.toNat) sub.toNat = some r → unitAbsent s.variant i.toNat = false → r.acc = .rw →
    let t := { s.set k (defaultOf s.variant k) with edge := Sp.del s.edge k, blobs := Sp.del s.blobs k }
    exec (.dictStoreError i sub) s = .next (raise t 492 [i.toNat, sub.toNat] {})) ∧
  (∀ (d : Byte) (b : Bool) (s : State), miBusy s = false →
    exec (.readNvmeMiDataStructure d) s = .next (answer s.drawn 0 (leBytes 8 s.free.toNat)) ∧
    exec (.nvmSubsystemHealthStatusPoll b) s = .next (answer s.drawn 0 (leBytes 8 s.free.toNat)) ∧
    exec .controllerHealthStatusPoll s = .next (answer s.drawn 0 (leBytes 8 s.free.toNat))) ∧
  (∀ (c : Byte) (v : BitVec 32) (s : State), miBusy s = false → miConfig c = true →
    exec (.configurationSet c v) s =
      .next (answer { s with mgmt := { s.mgmt with config := Sp.put s.mgmt.config c.toNat v.toNat } } 0 []) ∧
    (∀ x, Sp.get s.mgmt.config c.toNat = some x → exec (.configurationGet c) s = .next (answer s 0 (leBytes 4 x)))) ∧
  (∀ (s : State), exec (.mgmtLinkReset .timeout) s = .next (mgmtLinkReset s 0) ∧
    exec (.mgmtLinkReset .targetReset) s = .next (mgmtLinkReset s 1) ∧
    exec (.mgmtLinkReset .reselection) s = .next (mgmtLinkReset s 2)) ∧
  (∀ (m : Master) (v : Word) (s : State), accepts s m K.mgmtMgmtReset v = true → v ≠ 0 →
    exec (.mgmtReset m v) s = .next (onWrite s m K.mgmtMgmtReset v (wrote s m K.mgmtMgmtReset v))) ∧
  (∀ (a : BitVec 7) (e : Byte) (s : State),
    let static := s.cfg K.mgmtMctpEid
    exec (.mctpControlMessage (.dynamicAddress a)) s =
      .next ({ s with mgmt := { s.mgmt with address := some a.toNat, eid := if static = 0 then none else some static } }.setN
        K.mgmtMgmtLinkState (if static = 0 then 1 else 2)) ∧
    exec (.mctpControlMessage (.endpointId e)) s =
      .next ({ s with mgmt := { s.mgmt with eid := some (if static = 0 then e.toNat else static) } }.setN K.mgmtMgmtLinkState 2))

/-- Strongroom has its effect (spec/18 R404-R425): an entry to Boot, the measurement command and the seal, confirmation and rollback, the
answers to attestation, keys, reverts and locks, the end of an erase, and a fault. -/
def Obligations.StrongroomCommandsComplete : Prop :=
  (∀ (i : BootIn) (s : State), s.nat K.pmMode = 0 → s.nat K.srSrState = 0 → s.power.loss = false →
    let t := lockRanges (bootStart s i)
    let t := showStore (showRecord (t.on (decide (t.nat K.srErasePending ≠ 0)) fun u => srEvent u 476 [u.nat K.srErasePending]))
    let t := if t.variant = .xe ∨ t.variant = .xp then
        (List.range 4).foldl (fun u j => u.setN (K.sivProgramSlot j) 9) t else t
    let t := firstStage t i
    exec (.bootEntry i) s = .next (if t.nat K.srSrState = 2 then reloadPrograms t else t)) ∧
  (∀ (m : Master) (v : Word) (s : State), accepts s m K.srMeasGo v = true → v ≠ 0 →
    let t := wrote s m K.srMeasGo v
    t.strong.entries.length < 57 →
    let e : LedgerEnt := { kind := 7, index := t.nat K.srMeasIndex, flags := 1, version := t.nat K.srMeasVersion,
                           component := t.nat K.srMeasComponent,
                           digest := Config.sha384 (t.load (t.nat K.srMeasAddr) (t.nat K.srMeasLen)) }
    exec (.measGo m v) s = .next ((measure t e).setN K.srMeasState 2)) ∧
  (∀ (m : Master) (v : Word) (b : Bool) (s : State), accepts s m K.srSealRequest v = true → v ≠ 0 →
    let t := wrote s m K.srSealRequest v
    exec (.sealRequest m v b) s = .next (if trlLoading t
      then { t with strong := { t.strong with sealWait := some (false, b) } } else sealLedger t false b)) ∧
  (∀ (b : Bool) (s : State), s.strong.sealed = false → s.strong.sealWait = none → s.nat K.srSrState = 2 →
    exec (.sealTimeout b) s = .next (if trlLoading s
      then { s with strong := { s.strong with sealWait := some (true, b) } } else sealLedger s true b)) ∧
  (∀ (m : Master) (v : Word) (s : State), accepts s m K.srFwConfirm v = true → v ≠ 0 →
    let t := wrote s m K.srFwConfirm v
    let x := t.strong
    x.running ≠ 0 → x.running = x.trialImage →
    exec (.fwConfirm m v) s = .next (measureRuntime
      (showRecord { t with strong := { x with confirmed := x.running, bootSelect := x.running, trialImage := 0 } })
      (imageEntry 1 x.runVersion x.runHash))) ∧
  (∀ (m : Master) (v : Word) (s : State), accepts s m K.srRollbackAdvance v = true → v ≠ 0 →
    let t := wrote s m K.srRollbackAdvance v
    let t := advanceFloor t K.srFwFloor 0 t.strong.runVersion
    let t := match leastVersion t K.trlPatchVersion with | some n => advanceFloor t K.trlxPatchFloor 1 n | none => t
    let t := match leastVersion t K.trlCustomerVersion with | some n => advanceFloor t K.trlxCustomerFloor 2 n | none => t
    let other := 3 - t.strong.running
    exec (.rollbackAdvance m v) s = .next
      (if t.nat (imageKey other) < t.nat K.srFwFloor then t.setN (imageKey other) 0xFFFFFFFF else t)) ∧
  (∀ (p : SpdmPath) (o n : BitVec 16) (c : BitVec 256) (s : State), s.flag K.srSpdmEnable = true → s.strong.sealed = true →
    let l := padTo 48 (Config.sha384 (Config.certificate 0))
    exec (.getVersion p) s = .next (spdmAnswer s p 0x84 0 [0x12]) ∧
    exec (.getCapabilities p) s = .next (spdmAnswer s p 0xE1 0 (leBytes 4 (2 + 4 + 16))) ∧
    exec (.negotiateAlgorithms p true) s = .next (spdmAnswer s p 0xE3 0 (leBytes 4 0x80 ++ leBytes 4 2)) ∧
    exec (.getDigests p) s = .next (spdmAnswer s p 0x81 0 l) ∧
    exec (.getCertificate p 0 o n) s = .next (spdmAnswer s p 0x82 0 (((Config.certificate 0).drop o.toNat).take n.toNat)) ∧
    exec (.challenge p 0 c) s = .next (spdmAnswer s p 0x83 0 (l ++ aliasSign s l c)) ∧
    exec (.getMeasurements p 0 true c) s = .next (spdmAnswer s p 0xE0 0
      (leBytes 1 (allBlocks s).length ++ aliasSign s (leBytes 1 (allBlocks s).length) c)) ∧
    (∀ (i : Byte) (b : Nat × List Byte), 0 < i.toNat → i.toNat < 255 → measBlock s i.toNat = some b →
      exec (.getMeasurements p i false c) s = .next (spdmAnswer s p 0xE0 0 (blockBytes i.toNat b)))) ∧
  (∀ (r : Fin 17) (s : State), eraseHeld s = false →
    let t := beginErase s allRanges .revert
    let t := { t with strong := { t.strong with ranges := Vector.replicate 17 {} } }
    let t := ((t.setN K.srOpalState 0).setN K.srReadLocked 0).setN K.srWriteLocked 0
    exec (.genkey r true) s = .next (beginErase s [r.val] .genkey) ∧ exec (.revert true) s = .next t ∧
    exec (.revertsp true) s = .next t ∧ exec (.psidRevert true) s = .next t) ∧
  (∀ (r : Fin 17) (rl wl : Bool) (s : State),
    exec (.opalLockChange r rl wl true) s = .next ((s.setBitOf K.srReadLocked r rl).setBitOf K.srWriteLocked r wl)) ∧
  (∀ (m : Master) (v : Word) (x : EraseSource) (s : State), accepts s m K.srEraseDone v = true → v ≠ 0 →
    let t := wrote s m K.srEraseDone v
    t.nat K.srErasePending ≠ 0 → t.strong.erase = some x → (x = .genkey ∨ x = .revert) →
    let u := ({ t.drawn with strong := { t.strong with erase := none } }).setN K.srErasePending 0
    exec (.eraseDone m v) s = .next (srEvent u 475 [t.nat K.srErasePending, x.code])) ∧
  (∀ (c : SrFault) (s : State), c ≠ .keyStore →
    let t := { s with strong := { s.strong with failed := true } }.setN K.srSrState 6
    exec (.strongroomFault c) s = .next (safeNow raise (srEvent t 478 [srFaultCode c]) 478))

/-- The events and the Almanac have their effect (spec/19 R427-R445): resets of a unit and the end of their blanking, the fault pulse and
hold, latched bits and captures, the event table and an injection, and the records' writes, windows, releases and persisting. -/
def Obligations.EventCommandsComplete : Prop :=
  (∀ (u : Fin 20) (c : Fin 512) (s : State), exec (.blockReset u c) s = .next (blockReset (faultDetected s u c) u c)) ∧
  (∀ (u : Fin 20) (l : List (Fin 512)) (x : Blank) (s : State), at' s.ev.blank u none = some x →
    let t := { s with ev := { s.ev with blank := upd s.ev.blank u none } }
    let slots := if u.val < 4 then [u.val] else if u.val < 6 then slotsOf (u.val - 4) else []
    let t := slots.foldl (fun x q => if (at' x.ev.blank q none).isSome || (at' x.ev.blank (4 + q / 2) none).isSome then x
      else x.setCh q { x.ch q with inReset := false }) t
    exec (.blankingEnd u l) s = .next ((List.range 512).foldl (fun x e =>
      if l.any (fun f => f.val == e) then
        (match (unitOccs u).find? (dependentRaw u e ·) with | some occ => raise x e [] occ | none => x)
      else x) t)) ∧
  (∀ (s : State), exec .faultPulseEnd s = .next { s with ev := { s.ev with pulse := false } }) ∧
  (∀ (m : Master) (v : Word) (s : State),
    exec (.faultHoldWrite m v) s = .next (wrote s m K.evtFaultHold v)) ∧
  (∀ (m : Master) (b : Fin 20) (hi : Bool) (v : Word) (s : State),
    let k := if hi then K.statLatchedHi b else K.statLatchedLo b
    accepts s m k v = true → v ≠ 0 →
    let t := wrote s m k v
    let x := t.ev.blk b
    let bits : BitVec 64 := BitVec.ofNat 64 (v.toNat % 2 ^ 32)
    let c := if hi then bits <<< 32 else bits
    exec (.latchedClear m b hi v) s = .next
      (setBlk t b { x with latched := x.latched &&& ~~~c, pending := x.pending &&& ~~~c, conseq := x.conseq &&& ~~~c })) ∧
  (∀ (m : Master) (b : Fin 20) (v : Word) (s : State), accepts s m (K.statCaptureRelease b) v = true → v ≠ 0 →
    let t := wrote s m (K.statCaptureRelease b) v
    exec (.captureRelease m b v) s = .next (setBlk t b (t.ev.blk b).released)) ∧
  (∀ (m : Master) (v : Word) (s : State), accepts s m K.evtCaptureMode v = true →
    let t := wrote s m K.evtCaptureMode v
    exec (.captureModeWrite m v) s = .next { t with ev := { t.ev with blks := t.ev.blks.map StatBlk.released } }) ∧
  (∀ (m : Master) (e : Fin 512) (v : Word) (s : State),
    exec (.eventCfgWrite m e v) s = .next (wrote s m (K.evtEventCfg e) v)) ∧
  (∀ (m : Master) (v : Word) (s : State), accepts s m K.injInjectGo v = true → v ≠ 0 →
    let t := wrote s m K.injInjectGo v
    let e := t.nat K.injInjectEvent
    let ps := (List.range 3).map fun i => t.nat (K.injInjectParam i)
    let named : Occ := if inRange e 450 459 && !inRange e 454 455 && !inRange e 457 458 then { engine := some (ps.headD 0) }
      else if 96 ≤ e ∧ e < 224 ∧ (e - 96) % 64 = 23 then { slot := some (ps.headD 0) } else {}
    exec (.injectGo m v) s = .next (raise (raise t e ps { named with master := 0, injected := true }) 496 [e, m] {})) ∧
  (∀ (p : Fin 3) (r : Rec) (rest : List Rec) (s : State), (s.ev.part p).ingress = r :: rest →
    let x := s.ev.part p
    exec (.almanacRecordWrite p) s =
      .next (queueGap { s with ev := s.ev.setPart p { x with ingress := rest, recs := x.recs ++ [r] } } p)) ∧
  (∀ (m : Master) (v : Word) (s : State), accepts s m K.fwrFwWrite v = true → v ≠ 0 →
    let t := wrote s m K.fwrFwWrite v
    exec (.fwWrite m v) s = .next (fwRecord t m (t.nat K.fwrFwPartition) (t.nat K.fwrFwCode)
      ((List.range 3).map fun i => t.nat (K.fwrFwParam i)))) ∧
  (∀ (m : Master) (p : Fin 3) (bad : Bool) (s : State),
    let s' := if bad then recordBad s p else s
    let t := (recordStatus s' m (0xA040 + p) 4 .ok).deliver m (BitVec.ofNat 64 (windowWord (s'.ev.part p) 3))
    exec (.window3Read m p bad) s = .next (windowAdvance t p)) ∧
  (∀ (m : Master) (p : Fin 3) (v : Word) (s : State), accepts s m (K.almCursor p) v = true →
    let t := wrote s m (K.almCursor p) v
    exec (.cursorWrite m p v) s =
      .next { t with ev := t.ev.setPart p { t.ev.part p with cursor := v.toNat % 2 ^ 24 } }) ∧
  (∀ (m : Master) (p : Fin 3) (v : Word) (s : State), accepts s m (K.almRelease p) v = true → v ≠ 0 →
    let t := wrote s m (K.almRelease p) v
    let x := t.ev.part p
    let n := (x.cursor + 2 ^ 24 - x.oldest) % 2 ^ 24
    exec (.partitionRelease m p v) s =
      .next (queueGap { t with ev := t.ev.setPart p { x with recs := x.recs.drop n, oldest := x.cursor, full := false } } p)) ∧
  (∀ (m : Master) (p : Fin 3) (v : Word) (s : State), accepts s m (K.almPersistGo p) v = true → v ≠ 0 →
    exec (.persistGo m p v) s = .next ((wrote s m (K.almPersistGo p) v).setN (K.almPersistState p) 1)) ∧
  (∀ (p : Fin 3) (a : BitVec 32) (s : State), s.nat (K.almPersistState p) = 1 →
    let x := s.ev.part p
    let slot := s.ev.nextSeg % 1024
    let seg := segmentBytes p x (s.nat K.srBootCounter) s.now (s.ev.nextSeg + 1)
    let t := { s with ev := { s.ev with segs := Sp.put s.ev.segs slot seg, nextSeg := s.ev.nextSeg + 1 } }
    let t := (t.setN (K.almPersistState p) 2).setN (K.almPersistSlot p) slot
    exec (.persistEnd p true a) s = .next (raise t 482 [p.val, slot, x.recs.length] {}) ∧
    exec (.persistEnd p false a) s = .next (raise (s.setN (K.almPersistState p) 3) 483 [p.val, 0, a.toNat] {}))

/-- The power management has its effect (spec/20 R450-R466): the mode's tick and rows, Safe and the restarts, the supplies, Standby, the
domains, reservations and the envelope, and what ends a park hold, the debug port's use and a fault line. -/
def Obligations.PowerCommandsComplete : Prop :=
  (∀ (s : State), s.nat K.pmMode ≠ 5 →
    (∀ c, s.ev.safeReq = some c → exec .modeTick s = .next (safeEnter raise s c false)) ∧
    (s.ev.safeReq = none → s.power.loss = false → s.power.trip.isSome = false → exec .modeTick s = .next (manageMode s))) ∧
  (∀ (row : Nat) (s : State), s.power.row = some row →
    (rowDone s row = true → exec .modeRowComplete s = .next (endRow s row)) ∧
    (s.power.rowLate = false → exec .modeRowTimeout s =
      .next (modeEvent raise { s with power := { s.power with rowLate := true } } 10 [row, s.nat K.pmMode]))) ∧
  (∀ (m : Master) (v : Word) (s : State), exec (.mgmtRequestWrite m v) s = .next (wrote s m K.pmMgmtRequest v)) ∧
  (∀ (c : Fin 512) (s : State), exec (.safeEntry c true) s = .next (safeEnter raise s c true) ∧
    (∀ n, s.ev.safeReq = some n → exec (.safeEntry c false) s = .next (safeEnter raise s n false))) ∧
  (∀ (m : Master) (v : Word) (s : State), accepts s m K.pmSafeRestart v = true → v ≠ 0 →
    let t := wrote s m K.pmSafeRestart v
    exec (.safeRestart m v) s =
      .next (if flushIdle t then warmReset t 4 0 else { t with power := { t.power with restart := true } })) ∧
  (∀ (mv : BitVec 16) (s : State),
    (10200 ≤ mv.toNat → mv.toNat < 10800 → exec (.supplyOutOfRange 0 mv) s = .next (modeEvent raise s 2 [0, mv.toNat])) ∧
    (13200 < mv.toNat → exec (.supplyOutOfRange 0 mv) s = .next (modeEvent raise s 3 [0, mv.toNat])) ∧
    (4500 ≤ mv.toNat → mv.toNat < 4750 → exec (.supplyOutOfRange 1 mv) s = .next (modeEvent raise s 2 [1, mv.toNat])) ∧
    (5250 < mv.toNat → exec (.supplyOutOfRange 1 mv) s = .next (modeEvent raise s 3 [1, mv.toNat]))) ∧
  (∀ (b : Bool) (s : State), exec (.powerOnReset b) s = .next ((afterReset s false).setN K.pmResetCause (b2n b))) ∧
  (∀ (s : State), flushIdle s = true →
    (s.power.loss = true → sequenceDone s = true → exec (.warmReset .powerLoss) s = .next (warmReset s 2 0)) ∧
    (s.power.trip.isSome = true →
      exec (.warmReset .thermalTrip) s = .next (warmReset s 3 (s.elapsed s.power.tripSince / 1000))) ∧
    (s.nat K.pmMode = 5 → s.power.restart = true → exec (.warmReset .safeRestart) s = .next (warmReset s 4 0))) ∧
  (∀ (c : WakeCause) (b : Bool) (s : State), s.nat K.pmMode = 4 → s.power.electronicsWake = false →
    let t := modeEvent raise { s with power := { s.power with electronicsWake := true } } 11 [wakeCode c, b2n b]
    exec (.standbyWake c b) s = .next (wakeDomains.foldl (fun u d => domainGo u d 1) t)) ∧
  (∀ (s : State), s.nat K.pmMode = 4 → s.power.electronicsWake = true → s.power.row = none → (modeTargetOf s).1 = 4 →
    (s.host.table.all fun e => e.st == .committed) = true → exec .standbyIdleExpiry s = .next
      (wakeDomains.foldl (fun u d => domainGo u d 2) { s with power := { s.power with electronicsWake := false } })) ∧
  (∀ (m : Master) (d : Fin 52) (v : Word) (s : State), accepts s m (K.pmDomainRequest d) v = true → d ≠ 19 →
    let t := wrote s m (K.pmDomainRequest d) v
    let t := (domainGroup d).foldl (fun u x => u.setN (K.pmDomainRequest x) v.toNat) t
    exec (.domainRequest m d v) s = .next ((domainGroup d).foldl (fun u x => domainGo u x v.toNat) t)) ∧
  (∀ (d : Fin 52) (ok : Bool) (s : State),
    let goal := (Sp.get s.power.goal d).getD 0
    let t := { s with power := { s.power with goal := Sp.del s.power.goal d } }
    (s.nat (K.pmDomainState d) = 2 → goal ≠ 3 → exec (.domainTransitionDone d ok) s =
      .next (cellarFollows ((freshUp (testDomain t d ok) d).setN (K.pmDomainState d) 3) d 3)) ∧
    (s.nat (K.pmDomainState d) = 2 → goal = 3 → exec (.domainTransitionDone d ok) s =
      .next (cellarFollows (t.setN (K.pmDomainState d) 3) d 3)) ∧
    (s.nat (K.pmDomainState d) = 5 → goal ≠ 2 → exec (.domainTransitionDone d ok) s =
      .next ((domainOff t d).setN (K.pmDomainState d) 1)) ∧
    (s.nat (K.pmDomainState d) = 5 → goal = 2 → d.val ≠ 14 → exec (.domainTransitionDone d ok) s =
      .next (cellarFollows (t.setN (K.pmDomainState d) 4) d 4))) ∧
  (∀ (d : Fin 52) (s : State), s.nat (K.pmDomainState d) = 2 ∨ s.nat (K.pmDomainState d) = 5 →
    exec (.domainTimeout d) s = .next (modeEvent raise (s.setN (K.pmDomainState d) 6) 10 [d, 6])) ∧
  (∀ (n : Fin 8) (s : State), engState s n = 2 → (s.sieveEng n).run.isSome = true →
    exec (.reservationRequest (.sieve n)) s = .next (requestRes raise s (.sieve n))) ∧
  (∀ (h : Holder) (s : State), (∀ n, h ≠ .sieve n) → exec (.reservationRequest h) s = .next (requestRes raise s h)) ∧
  (∀ (h : Holder) (s : State), exec (.reservationRelease h) s = .next (releaseRes raise s h)) ∧
  (∀ (a : Act) (s : State), slotState s (2 * a.val + 1) ≤ 1 →
    exec (.slotReleaseExpiry a) s = .next (releaseRes raise s (slotBHolder a))) ∧
  (∀ (m : Master) (v : Word) (s : State), accepts s m K.pmEnvelopeMw v = true →
    exec (.envelopeWrite m v) s = .next (reEnvelope raise (wrote s m K.pmEnvelopeMw v))) ∧
  (∀ (a : Act) (ma : Int) (s : State), (s.act a).vcm = .parkHold ma →
    exec (.parkHoldExpiry a) s = .next (s.setAct a { s.act a with vcm := .off })) ∧
  (∀ (s : State), exec (.debugPortActive .jtag) s = .next (raise (domainGo s 15 1) 497 [0] {}) ∧
    exec (.debugPortActive .trace) s = .next (raise (domainGo s 15 1) 497 [1] {})) ∧
  (∀ (a : Act) (s : State), exec (.hsFltLRelease a) s = .next (s.setLink a { s.link a with fltLow := false }))

/-- Measurement and heat have their effect (spec/20 R463-R475): a power measurement within the envelope or past it, a sensor's sample, the
steps down of the throttle, the hold of a substitution, the hardware trip and its recovery, and the compensation. -/
def Obligations.ThermalCommandsComplete : Prop :=
  (∀ (mw : BitVec 16) (s : State),
    let t := s.setN K.pmMeasuredMw mw.toNat
    let t := if t.nat K.pmMeasuredPeakMw < mw.toNat then t.setN K.pmMeasuredPeakMw mw.toNat else t
    let env := t.nat K.pmEnvelopeNowMw
    let n := t.power.overRun + 1
    let u := { t with power := { t.power with overRun := if n < 11 then n else 11 } }
    (mw.toNat ≤ env → exec (.powerMeasurement mw) s = .next { t with power := { t.power with overRun := 0 } }) ∧
    (env < mw.toNat → n < 10 → exec (.powerMeasurement mw) s = .next u) ∧
    (env < mw.toNat → n = 10 → exec (.powerMeasurement mw) s = .next (modeEvent raise u 6 [mw.toNat, env])) ∧
    (env < mw.toNat → 10 < n → exec (.powerMeasurement mw) s = .next ((withdrawOne raise u 0 2).getD u))) ∧
  (∀ (i : Fin 40) (t : BitVec 16) (s : State),
    let x := t.toInt
    let before := s.nat K.pmLevel
    let fault := if sensorBad s i then none else sensorFault s i x
    let u := match fault with
      | some c => keepReading (sensorFails s i c x) i x
      | none => keepReading s i x
    let valid := !sensorBad u i
    let u := if valid then { u with power := { u.power with seen := Sp.put u.power.seen i false } } else u
    let u := newTj (followSubst u)
    let u := if valid && u.nat K.pmHottest == i.val then { u with power := { u.power with seen := Sp.put u.power.seen i true } } else u
    exec (.sensorSample i t) s = .next (followWarning (followSubst (followStep (followLevel u) before)))) ∧
  (∀ (s : State), 0 < s.nat K.pmThrottleStep → s.nat K.pmLevel < 2 → s.power.substHold = false →
    s.nat K.pmStepDownMs * 1000 ≤ s.elapsed s.power.stepAt → s.nat K.pmStepDownMs * 1000 ≤ s.elapsed s.power.fallAt →
    exec .throttleStepDown s = .next (followSubst (setStep s (s.nat K.pmThrottleStep - 1)))) ∧
  (∀ (s : State), s.power.substHold = true →
    exec .substitutionHoldExpiry s = .next { s with power := { s.power with substHold := false, fallAt := s.now } }) ∧
  (∀ (mask : Byte) (s : State), mask ≠ 0 → s.power.trip = none →
    let t := { s with power := { s.power with trip := some mask.toNat, tripSince := s.now } }
    let t := sheafQuiesce (mediaOff raise t 7 1)
    let t := t.on (t.flag K.sheafPwcArmed) fun u => flushAsk u 3
    let t := (t.setHost { t.host with cfs := true }).setN K.hostCtrlState 5
    exec (.thermalTrip mask) s = .next (applySets t)) ∧
  (∀ (mask : Byte) (m : Nat) (s : State), s.power.trip = some m →
    exec (.thermalTrip mask) s = .next { s with power := { s.power with trip := some (m ||| mask.toNat) } }) ∧
  (∀ (ms : BitVec 32) (s : State), s.power.trip.isSome = true → flushIdle s = true →
    exec (.tripRecovery ms) s = .next (warmReset s 3 ms.toNat)) ∧
  (∀ (o : BitVec 3) (s : State), s.flag K.pmCompEnable = false →
    exec (.compensationUpdate o) s = .next
      ({ s with power := { s.power with refTrim := compensation 1 0, adcTrim := compensation 2 0 } }.setI K.pmXtalPpb 0)) ∧
  (∀ (o : BitVec 3) (s : State), s.flag K.pmCompEnable = true →
    let x := reading s 39 - 400
    let old := s.int K.pmXtalPpb
    let ok (j : Nat) : Bool := o.getLsbD j
    let t := if ok 0 then s.setI K.pmXtalPpb (old + clamp (-100) 100 (compensation 0 x - old)) else s
    let t := { t with power := { t.power with refTrim := if ok 1 then compensation 1 x else t.power.refTrim
                                              adcTrim := if ok 2 then compensation 2 x else t.power.adcTrim } }
    let was := s.nat K.pmCompStatus
    let t := t.setN K.pmCompStatus o.toNat
    exec (.compensationUpdate o) s =
      .next (if (List.range 3).any fun j => bitAt was j && !ok j then modeEvent raise t 12 [o.toNat] else t))

/-- The Admin commands that reach Strongroom and the dictionary have their effect where the command is active (spec/12 R296; spec/17 R395-R397;
spec/18 R421-R424): an erase by Format NVM and by Sanitize, the security protocols, the management frames of NVMe-MI and the two dictionary
commands. The opaque functions of the security protocols stand for what the spec leaves to them (log entries 4 and 21). -/
def Obligations.SecurityAndDictionaryCommandsComplete : Prop :=
  (∀ (c : CmdRef) (e : CmdEnt) (s : State), activeEnt s.host.table (refOf c) true 0x80 = some e →
    (e.sqe.nsid.toNat = 1 ∨ e.sqe.nsid.toNat = 2 ∨ e.sqe.nsid.toNat = 0xFFFFFFFF) →
    exec (.formatNvm c) s = .next (hostErase s e (decide (bitsOf e.sqe.cdw10.toNat 9 3 = 2)) (.format e.ref))) ∧
  (∀ (c : CmdRef) (e : CmdEnt) (s : State), activeEnt s.host.table (refOf c) true 0x84 = some e →
    exec (.sanitize c) s = .next (hostErase s e (decide (bitsOf e.sqe.cdw10.toNat 0 3 = 4)) (.sanitize e.ref))) ∧
  (∀ (c : CmdRef) (l : List Byte) (e : CmdEnt) (s : State), activeEnt s.host.table (refOf c) true 0x81 = some e →
    ((secProtocol e).1 = 1 ∨ (secProtocol e).1 = 2) → (secProtocol e).2 = 0x1000 →
    let ranges := Vector.ofFn fun (r : Fin 17) => tcgRange l r (at' s.strong.ranges r {})
    let t := { s with strong := { s.strong with ranges := ranges } }
    let t := t.setN K.srOpalState (Config.tcgState l (t.nat K.srOpalState) % 2)
    exec (.securitySend c l) s = .next (complete raise (t.setHost { t.host with tcg := Config.tcgAnswer l }) e.ref 0 0)) ∧
  (∀ (c : CmdRef) (e : CmdEnt) (s : State), activeEnt s.host.table (refOf c) true 0x82 = some e →
    let n := e.sqe.cdw11.toNat
    ((secProtocol e).1 = 0 → exec (.securityReceive c) s =
      .next (complete raise (returnData { s with freeCtr := s.freeCtr + n } e.ref (freeBytes s n)) e.ref 0 0)) ∧
    (((secProtocol e).1 = 1 ∨ (secProtocol e).1 = 2) → (secProtocol e).2 = 0x1000 →
      exec (.securityReceive c) s = .next (complete raise (returnData s e.ref (s.host.tcg.take n)) e.ref 0 0))) ∧
  (∀ (c : CmdRef) (l : List Byte) (f : FrameRun) (e : CmdEnt) (s : State), activeEnt s.host.table (refOf c) true 0x1D = some e →
    runFrame s 16 l = some f → exec (.nvmeMiSend c l) s =
      .next (complete raise (f.state.setHost { f.state.host with miReply := response f 4096 }) e.ref 0 0)) ∧
  (∀ (c : CmdRef) (e : CmdEnt) (s : State), activeEnt s.host.table (refOf c) true 0x1E = some e →
    exec (.nvmeMiReceive c) s = .next (complete raise (returnData s e.ref s.host.miReply) e.ref 0 0)) ∧
  (∀ (c : CmdRef) (l : List Byte) (n : Nat) (f : FrameRun) (e : CmdEnt) (s : State),
    activeEnt s.host.table (refOf c) true 0xC1 = some e → e.sqe.cdw10.toNat = l.length → 4 ≤ l.length → l.length ≤ 4096 →
    frameHead l = some (1, n) → runFrame s 16 l = some f →
    let w := firstFailure f.replies 1
    exec (.dictionaryWrite c l) s = .next (complete raise (raise f.state 366 [0xC1, w % 256] {}) e.ref 0 w)) ∧
  (∀ (c : CmdRef) (e : CmdEnt) (s : State), activeEnt s.host.table (refOf c) true 0xC2 = some e →
    let w := e.sqe.cdw10.toNat
    bitsOf w 24 8 ≠ 0 → 4 ≤ e.sqe.cdw11.toNat → e.sqe.cdw11.toNat ≤ 4096 →
    let x := runReads s 16 false (entryObjs (bitsOf w 0 16, bitsOf w 16 8, bitsOf w 24 8))
    let t := raise x.2 366 [0xC2, firstFailure x.1 1 % 256] {}
    exec (.dictionaryRead c) s =
      .next (complete raise (returnData t e.ref (response ⟨2, x.1, x.2⟩ e.sqe.cdw11.toNat)) e.ref 0 0))

/-- A step takes the command at the front of the queue and carries it out with the rest of the queue waiting: every statement about exec
reaches a run through this one. -/
def Obligations.StepRunsTheFrontCommand : Prop :=
  ∀ (c : Instr) (rest : List Instr) (s : State), s.pending = c :: rest → step s = exec c { s with pending := rest }

/-- With no command waiting a microsecond passes: the microsecond counter moves by one and wraps after 2^48, in every mode and every state
of Sundial (spec/02 R33). That the tick is what an empty queue gives is the model's choice (log entry 41). -/
def Obligations.EmptyQueuePassesAMicrosecond : Prop :=
  State.reset.now = 0 ∧
  (∀ (s : State), s.pending = [] → step s =
    let t := slewTick (tickAngle (tickUs s))
    let t := [0, 1].foldl (fun u a => twinSettle raise (faultTick (linkTick u a) a) a) t
    .next (sealDue (placeRuns (evictTick (fillTick (takeDeep t)))))) ∧
  (∀ (s : State), (tickUs s).now = (s.now + 1) % 2 ^ 48 ∧ (tickAngle (tickUs s)).now = (s.now + 1) % 2 ^ 48) ∧
  (∀ (s : State), (tickAngle s).sun.rev = s.sun.rev ∧ s.sun.frac.toNat ≤ (tickAngle s).sun.frac.toNat ∧
    (s.nat K.sunState = 0 → (tickAngle s).sun.frac = s.sun.frac))

/-- The state after reset is sound, holds no waiting command, and has the values the spec gives it: mode Boot, Sundial INVALID, every
object at its default (spec/02 R33, R40; spec/17 R394; spec/20 R450, R458). -/
def Obligations.ResetIsSound : Prop :=
  State.reset.Sound ∧ State.reset.pending = [] ∧ State.reset.mem = [] ∧
  (∀ k, State.reset.obj k = defaultOf State.reset.variant k) ∧
  State.reset.nat K.pmMode = 0 ∧ State.reset.nat K.sunState = 0 ∧ State.reset.now = 0 ∧
  State.reset.ev.blks = Vector.replicate 20 {}

/-- Every command completes: whatever the state, carrying out a command answers a next state. -/
def Obligations.EveryCommandAnswers : Prop :=
  ∀ (c : Instr) (s : State), ∃ t, exec c s = .next t

/-- A command leaves the queue and the part's variant as they are (spec/00 R3, R4), and keeps the state sound. -/
def Obligations.CommandsKeepQueueAndVariant : Prop :=
  ∀ (c : Instr) (s t : State), s.Sound → exec c s = .next t → t.Sound ∧ t.pending = s.pending ∧ t.variant = s.variant

/-- Every step keeps the state sound, a command's and an idle one: the addressed memory, the dictionary and the values in force stay in
their canonical form, so that equal contents are equal data, whatever commands arrive and in whatever order; a run of any length from a
sound state is safe. -/
def Obligations.StepsKeepSoundness : Prop :=
  (∀ (s t : State), s.Sound → step s = .next t → t.Sound) ∧ (∀ (n : Nat) (s : State), s.Sound → SafeRun n s)

/-- The last access of a master (spec/17 R389): after a write and after a read of any object by master m, the object 0x1050:(m+1) holds the
access's status in bits [7:0] and index × 256 + subindex in bits [31:8]. -/
def Obligations.LastAccessIsRecorded : Prop :=
  (∀ (m : Master) (i : BitVec 16) (sub : Byte) (v : Word) (s : State),
    let x := (wrote s m (i.toNat * 256 + sub.toNat) v).nat (K.dictDictLastStatus m)
    x % 256 = (writeStatus s m i.toNat sub.toNat v true).code ∧ x / 256 = i.toNat * 256 + sub.toNat) ∧
  (∀ (m : Master) (i : BitVec 16) (sub : Byte) (s : State),
    let x := (readAccess s m i.toNat sub.toNat).2.2.nat (K.dictDictLastStatus m)
    x % 256 = (readStatus s i.toNat sub.toNat).code ∧ x / 256 = i.toNat * 256 + sub.toNat)

/-- The access codes (spec/17 R382), with their encodings 0 to 4: a write of an RO object is "access denied", an
accepted write of an RW object is what it reads next, each 1 written to a W1C object clears that bit, each 1 written to a W1S object
starts its action, and bits written 0 to these two have no effect. -/
def Obligations.AccessCodesActAsStated : Prop :=
  ([Acc.ro, Acc.rw, Acc.wo, Acc.w1c, Acc.w1s].map Acc.code = [0, 1, 2, 3, 4]) ∧
  (∀ (m : Master) (i sub : Nat) (v : Word) (r : ObjRow) (s : State), unitAbsent s.variant i = false →
    objNow s (aliasIndex i) sub = some r → r.acc = .ro → writeStatus s m i sub v true = .accessDenied) ∧
  (∀ (m : Master) (i sub : Nat) (v : Word) (r : ObjRow) (s : State), sub < 256 → writeStatus s m i sub v true = .ok →
    objNow s (aliasIndex i) sub = some r →
    let k := aliasIndex i * 256 + sub
    (r.acc = .rw → (wrote s m (i * 256 + sub) v).obj k = r.ty.word v) ∧
    (r.acc = .w1c → v ≠ 0 → ∀ j, ((wrote s m (i * 256 + sub) v).obj k).getLsbD j = ((s.obj k).getLsbD j && !v.getLsbD j)) ∧
    (r.acc = .w1s → v ≠ 0 → ∀ f : State → State, kwrite s m (i * 256 + sub) v f = f (wrote s m (i * 256 + sub) v)) ∧
    (r.acc = .w1s ∨ r.acc = .w1c → v = 0 → ∀ f : State → State, kwrite s m (i * 256 + sub) v f = wrote s m (i * 256 + sub) v ∧
      (wrote s m (i * 256 + sub) v).obj k = s.obj k))

/-- What a write without an action leaves unchanged (spec/17 R382, R389, R392): nothing but the dictionary, the values in force and the held
words differ; every object but the one written, the master's last status and its violation counter reads as before; and a write that is
not accepted leaves the object and the values in force as they were. -/
def Obligations.WritesFrameTheState : Prop :=
  ∀ (m : Master) (k : Key) (v : Word) (s : State),
    let t := wrote s m k v
    let j := aliasIndex (k / 256) * 256 + k % 256
    t = { s with dict := t.dict, edge := t.edge, held := t.held } ∧
    SameObjects (fun x => x == j || x == K.dictDictLastStatus m || x == K.dictViolationCount m) s t ∧
    SameBytes 0 0 s t ∧
    (accepts s m k v = false → t.edge = s.edge ∧ ∀ f : State → State, kwrite s m k v f = t ∧
      SameObjects (fun x => x == K.dictDictLastStatus m || x == K.dictViolationCount m) s t)

/-- When a write takes effect (spec/17 R390): an accepted write of an EDGE object is what the object reads next while the value in force
stays, the last value accepted is in force after the object's boundary, a value written before it never is, and an EDGE (revolution)
object written while Sundial is INVALID is in force at once. -/
def Obligations.EdgeValuesWaitForTheirBoundary : Prop :=
  (∀ (k : Key) (v : Word) (r : ObjRow) (b : Boundary) (s : State), r.apply = .edge b → (b ≠ .revolution ∨ s.nat K.sunState ≠ 0) →
    let t := storeObj s r k v
    t.obj k = r.ty.word v ∧ t.inForce k = s.inForce k ∧
    (∀ j, j ≠ k → t.obj j = s.obj j ∧ t.inForce j = s.inForce j) ∧
    (objRow (k / 256) (k % 256) = some r → (boundary t b).obj k = r.ty.word v ∧ (boundary t b).inForce k = r.ty.word v ∧
      ∀ w, (boundary (storeObj t r k w) b).inForce k = r.ty.word w)) ∧
  (∀ (k : Key) (v : Word) (r : ObjRow) (s : State), r.apply = .edge .revolution → s.nat K.sunState = 0 →
    (storeObj s r k v).obj k = r.ty.word v ∧ (storeObj s r k v).inForce k = r.ty.word v) ∧
  (∀ (b c : Boundary) (k : Key) (r : ObjRow) (s : State), objRow (k / 256) (k % 256) = some r → r.apply = .edge c → b ≠ c →
    (boundary s b).inForce k = s.inForce k)

/-- The status of a write (spec/17 R385): when a write meets more than one cause, its status is the first that applies in the order no object,
object absent, access denied, type mismatch, staged only, block active, invalid value; with none of them it is ok, and only ok has an
effect. Conflict is no status of a write's own checks: only a write that passes them all can lose its cycle. -/
def Obligations.WriteStatusesInOrder : Prop :=
  ([DStatus.ok, .objectAbsent, .invalidValue, .blockActive, .accessDenied, .conflict, .noObject, .typeMismatch, .stagedOnly].map
    DStatus.code = [0, 1, 2, 3, 4, 5, 6, 7, 8]) ∧
  (∀ (m i sub : Nat) (v : Word) (ty : Bool) (s : State),
    let d := writeStatus s m i sub v ty
    let k := aliasIndex i * 256 + sub
    (unitAbsent s.variant i = true → d = if (objNow s i sub).isSome then .objectAbsent else .noObject) ∧
    (unitAbsent s.variant i = false → objNow s (aliasIndex i) sub = none → d = .noObject) ∧
    (∀ r, unitAbsent s.variant i = false → objNow s (aliasIndex i) sub = some r →
      let denied := r.acc = .ro ∨ bitAt (objMask r (aliasIndex i) sub) m = false ∨ lockedOut s m (aliasIndex i) = true ∨
        lockEntryDenied s m (aliasIndex i) sub = true
      let active := (∃ o, r.apply = .halt o ∧ ownerRuns s o (aliasIndex i) = true) ∨ ruleActive s k v = true
      let bad := chkOk r v = false ∨ ruleInvalid s m k v = true
      (denied → d = .accessDenied) ∧
      (¬denied → ty = false → d = .typeMismatch) ∧
      (¬denied → ty = true → r.apply = .staged → d = .stagedOnly) ∧
      (¬denied → ty = true → r.apply ≠ .staged → active → d = .blockActive) ∧
      (¬denied → ty = true → r.apply ≠ .staged → ¬active → bad → d = .invalidValue) ∧
      (¬denied → ty = true → r.apply ≠ .staged → ¬active → ¬bad → d = .ok))) ∧
  (∀ (m : Nat) (k : Key) (v : Word) (f g : State → State) (s : State), accepts s m k v = false → kwrite s m k v f = kwrite s m k v g) ∧
  (∀ (m i sub : Nat) (v : Word) (ty : Bool) (s : State), writeStatus s m i sub v ty ≠ .conflict) ∧
  (∀ (x : DictStore) (s : State), writes s x = true → judge s x = .ok)

/-- A pop (spec/15 R349): it takes the item at the head of the queue and frees its cell, its tag word holds the item's tag in [15:0], valid in
[16], poison in [17] and last in [18] with the bits above zero, and a pop of an empty queue answers the tag word 0 at once and changes
nothing, so that it raises no event and counts nothing. -/
def Obligations.PopTakesTheHead : Prop :=
  (∀ (q : Nat) (it : PanItem) (rest : List PanItem) (bad : Bool) (s : State), s.flag K.poolPantryDegraded = false →
    (s.queue q).items = it :: rest →
    let r := pantryPop raise s q (if bad then .payloadBad else .ok)
    let t := setUsed (s.setQueue q { s.queue q with items := rest }) (s.pan.used - 1)
    r = (r.1, it.payload, lowCross raise (if bad then cellError raise (t.inc K.poolPoisonCount) q 0 else t) q) ∧
    r.1 % 65536 = it.tag % 65536 ∧ bitAt r.1 16 = true ∧ bitAt r.1 17 = bad ∧ bitAt r.1 18 = rest.isEmpty ∧ r.1 < 2 ^ 19 ∧
    (t.queue q).items = rest ∧ t.pan.used = s.pan.used - 1 ∧ ∀ p, p ≠ q → t.queue p = s.queue p) ∧
  (∀ (q : Nat) (s : State), (s.queue q).items = [] → pantryPop raise s q .ok = (0, List.replicate 60 0, s))

/-- Pushes and full queues (spec/15 R350, R351): a push to a queue that is not full goes behind the items waiting and takes one cell; a queue
is full at its depth, and at its reserve where the pool has no cell beyond those held back; a push to a full queue takes no cell, leaves
every item, sets the queue's overrun bit and counts. -/
def Obligations.PushFillsOrOverruns : Prop :=
  (∀ (q port tag : Nat) (l : List Byte) (s : State), s.flag K.poolPantryDegraded = false →
    (s.queue q).items.length < s.nat (K.panDepthMax q) →
    ((s.queue q).items.length < s.nat (K.panReserve q) ∨ heldBack s < poolCells - s.pan.used) →
    let t := setUsed (s.setQueue q { s.queue q with items := (s.queue q).items ++ [{ tag := tag, payload := l }] }) (s.pan.used + 1)
    pantryPush raise s port q tag l .ok = highCross raise (notEmptyRise t q) q ∧
    (t.queue q).items = (s.queue q).items ++ [{ tag := tag, payload := l }] ∧ t.pan.used = s.pan.used + 1 ∧
    ∀ p, p ≠ q → t.queue p = s.queue p) ∧
  (∀ (q port tag : Nat) (l : List Byte) (s : State), s.flag K.poolPantryDegraded = false →
    (s.nat (K.panDepthMax q) ≤ (s.queue q).items.length →
      pantryPush raise s port q tag l .ok = overrun raise s q port 0) ∧
    ((s.queue q).items.length < s.nat (K.panDepthMax q) → s.nat (K.panReserve q) ≤ (s.queue q).items.length →
      poolCells - s.pan.used ≤ heldBack s → pantryPush raise s port q tag l .ok = overrun raise s q port 1)) ∧
  (∀ (q port : Nat) (s : State), s.bit (K.panFlags q) 1 = true →
    let t := overrun raise s q port 0
    t = (setFlag s q 1 true).inc K.poolOverrunCount ∧ t.pan = s.pan ∧ t.mem = s.mem)

/-- The capture mode (spec/19 R432): an accepted write of capture_mode selects native capture with 0 and CA3100 capture with 1 for every status
object, and clears every capture record, first_source, capture_overflow and capture_missed, which arms every block as after a release. -/
def Obligations.CaptureModeClearsAndSelects : Prop :=
  (∀ (m : Master) (v : Word) (s : State), accepts s m K.evtCaptureMode v = true →
    ∃ t, exec (.captureModeWrite m v) s = .next t ∧ (v = 0 ∨ v = 1) ∧ t.evCtx.native = decide (v = 0) ∧
      ∀ b : Fin 20, t.ev.blk b = { s.ev.blk b with capture := none, missed := 0, first := none, overflow := false }) ∧
  (∀ (b : StatBlk) (c : EvCtx) (e i cls : Nat) (cq en : Bool) (cap : Capture),
    b.capture = none → b.missed = 0 → b.first = none → b.overflow = false →
    let x := b.latch c e i cls cq en cap
    (c.native = true → x.capture = some cap ∧ x.first = none ∧ x.missed = 0) ∧
    (c.native = false → x.capture = none ∧ x.first = some e ∧ x.overflow = false)) ∧
  (∀ (b : StatBlk) (c : EvCtx) (e f i cls : Nat) (cq en : Bool) (cap old : Capture),
    let x := b.latch c e i cls cq en cap
    (c.native = true → b.capture = some old → b.missed ≤ 255 → x.capture = some old ∧ x.missed = min 255 (b.missed + 1)) ∧
    (c.native = false → b.first = some f → x.first = some f ∧ x.overflow = (b.overflow || f != e)))

/-- An occurrence in its cycle (spec/19 R427-R431): a raised event that the part has sets its source's latched bit and no other source's, keeps
the block's enables, and is pending where it is not consequential, of class notify or higher, and enabled. -/
def Obligations.RaisedEventsLatch : Prop :=
  (∀ (e : Fin 512) (ps : List Nat) (o : Occ) (s : State), eventDefined e = true → eventAbsent s.variant e = false →
    (((raiseBase s e ps o).ev.blk (eventBlock e)).latched.getLsbD (e - blockFirst (eventBlock e)) = true) ∧
    raiseBase s e ps o = { s with ev := (raiseBase s e ps o).ev }) ∧
  (∀ (e : Fin 512) (ps : List Nat) (o : Occ) (s : State), eventDefined e = false ∨ eventAbsent s.variant e = true →
    raiseBase s e ps o = s ∧ raise s e ps o = s) ∧
  (∀ (b : StatBlk) (c : EvCtx) (e i j cls : Nat) (cq en : Bool) (cap : Capture), i < 64 → j < 64 →
    let x := b.latch c e i cls cq en cap
    x.latched.getLsbD j = (b.latched.getLsbD j || j == i) ∧
    x.conseq.getLsbD j = (if j = i then cq else b.conseq.getLsbD j) ∧
    x.pending.getLsbD j = (b.pending.getLsbD j || (j == i && !cq && decide (1 ≤ cls) && en)))

/-- The Almanac's window (spec/19 R445): a window word is the eight bytes of the record whose sequence number is the cursor, and zero where the
cursor is next; a read of window3 answers its word and moves the cursor by one and on past invalid records (the model's reading of R449,
log 53), or leaves it where it is next; a read that finds the record bad answers its word as invalid; an accepted write of the
cursor and a release move only the cursor, and the oldest record with what lies below. -/
def Obligations.AlmanacWindowMovesTheCursor : Prop :=
  (∀ (p : Partition) (r : Rec) (j : Nat), p.recs[(p.cursor + 2 ^ 24 - p.oldest) % 2 ^ 24]? = some r →
    windowWord p j = leNat (((recBytes r p.cursor).drop (8 * j)).take 8)) ∧
  (∀ (p : Partition) (j : Nat), p.recs.length < 2 ^ 24 → p.oldest < 2 ^ 24 → p.cursor = p.next → windowWord p j = 0) ∧
  (∀ (p : Fin 3) (s : State), let x := s.ev.part p
    let bad := ((x.recs.drop ((x.cursor + 2 ^ 24 - x.oldest) % 2 ^ 24 + 1)).takeWhile fun r => !r.valid).length
    (x.cursor = x.next → windowAdvance s p = s) ∧
    (x.cursor ≠ x.next → windowAdvance s p = { s with ev := (windowAdvance s p).ev } ∧
      (windowAdvance s p).ev.part p = { x with cursor := (x.cursor + 1 + bad) % 2 ^ 24 } ∧
      ∀ o : Fin 3, o ≠ p → (windowAdvance s p).ev.part o = s.ev.part o)) ∧
  (∀ (m : Master) (p : Fin 3) (s : State), let x := s.ev.part p
    let bad := ((x.recs.drop ((x.cursor + 2 ^ 24 - x.oldest) % 2 ^ 24 + 1)).takeWhile fun r => !r.valid).length
    ∃ t, exec (.window3Read m p false) s = .next t ∧
    Sp.get t.rdata m = some (BitVec.ofNat 64 (windowWord (s.ev.part p) 3)) ∧ t.mem = s.mem ∧
    t.ev.part p = { x with
      cursor := if x.cursor = x.next then x.cursor else (x.cursor + 1 + bad) % 2 ^ 24 }) ∧
  (∀ (m : Master) (p : Fin 3) (s : State), ∃ t, exec (.window3Read m p true) s = .next t ∧
    Sp.get t.rdata m = some (BitVec.ofNat 64 (windowWord ((recordBad s p).ev.part p) 3))) ∧
  (∀ (m : Master) (p : Fin 3) (v : Word) (s : State), accepts s m (K.almCursor p) v = true →
    ∃ t, exec (.cursorWrite m p v) s = .next t ∧ t.ev.part p = { s.ev.part p with cursor := v.toNat % 2 ^ 24 } ∧
      (v.toNat + 2 ^ 24 - (s.ev.part p).oldest) % 2 ^ 24 ≤ (s.ev.part p).recs.length)

/-- The addressed memory (spec/01 R20; spec/14 R329): a byte stored is read back, every byte outside a store reads as before, and nothing but
the memory and the poison of the units stored to differs. A fabric write that reaches the Sieve's memories or the journal stores its bytes
little-endian at its address and leaves every other byte; a clean fabric read there answers the bytes stored, and leaves every byte. -/
def Obligations.MemoryReadsWhatWasStored : Prop :=
  (∀ (a : Nat) (l : List Byte) (s : State),
    let t := s.store a l
    t.load a l.length = l ∧ SameBytes a l.length s t ∧ t = { s with mem := t.mem, memory := t.memory }) ∧
  (∀ (fm : FabricMaster) (a : Addr) (n : AccessSize) (d : Word) (ecc : ArrayEcc) (s : State),
    (regionOf a.toNat (sizeBytes n) = .sieve ∧ hasSieve s.variant = true) ∨
      (regionOf a.toNat (sizeBytes n) = .journal ∧ fm = .sheafUnit) →
    ∃ t, exec (.fabricAccess fm true a n d ecc) s = .next t ∧
      t.load a.toNat (sizeBytes n) = leBytes (sizeBytes n) (d.toNat % 2 ^ (8 * sizeBytes n)) ∧
      SameBytes a.toNat (sizeBytes n) s t) ∧
  (∀ (fm : FabricMaster) (a : Addr) (n : AccessSize) (d : Word) (s : State),
    regionOf a.toNat (sizeBytes n) = .journal ∨ (regionOf a.toNat (sizeBytes n) = .sieve ∧ hasSieve s.variant = true) →
    ∃ t, exec (.fabricAccess fm false a n d .clean) s = .next t ∧
      Sp.get t.rdata (fabricKey fm) = some (BitVec.ofNat 64 (leNat (s.load a.toNat (sizeBytes n)) % 2 ^ (8 * sizeBytes n)))) ∧
  (∀ (fm : FabricMaster) (a : Addr) (n : AccessSize) (d : Word) (s : State),
    regionOf a.toNat (sizeBytes n) = .sieve ∨ regionOf a.toNat (sizeBytes n) = .journal ∨ regionOf a.toNat (sizeBytes n) = .context →
    ∃ t, exec (.fabricAccess fm false a n d .clean) s = .next t ∧ SameBytes 0 0 s t)

/-- A write gate needs LOCKED_WEDGE (spec/02 R42; spec/09 R206, R207, R212): with Sundial in any other state, whatever any object holds, a request, its
sector staged or not, ends its part with the first of the causes power loss 6, trip 7, Safe 8 and Sundial 1 that holds, and a paused gate
that asks to open again ends its part so too. The first clause is of a preamp out of its safe state and of no twin exit that waits, in
which the model requests no gate (log 47, log 49), and of no staged entry that fetched bad data, which is cause 10. -/
def Obligations.WriteGateNeedsLockedWedge : Prop :=
  (∀ (q : Slot) (i : GateIn) (s : State),
    let b := takeSurface (boundaryIn s .sector (slotOwns q)) q i.head i.track.toNat
    let c := if b.power.loss then 6 else if b.power.trip.isSome then 7 else if b.nat K.pmMode = 5 then 8 else 1
    b.nat K.sunState ≠ 3 → i.reopening = false → (s.wr q).gate = none → twinHeld s q = false →
    (b.link (q / 2)).preampSafe = false →
    (∀ e, stagedEnt (b.wr q) i.tag.toNat i.sector.toNat = some e → e.bad = false) →
    exec (.writeGateRequest q i) s = .next (twinSettle raise
      (endPart raise (b.setWr q { b.wr q with active := true, tag := i.tag.toNat, twinB := i.twinB }) q c) (q / 2))) ∧
  (∀ (q : Slot) (i : GateIn) (g : Gate) (s : State),
    let c := if s.power.loss then 6 else if s.power.trip.isSome then 7 else if s.nat K.pmMode = 5 then 8 else 1
    s.nat K.sunState ≠ 3 → i.reopening = true → (s.wr q).gate = some g → g.paused = true →
    exec (.writeGateRequest q i) s = .next (twinSettle raise (endPart raise (boundaryIn s .sector (slotOwns q)) q c) (q / 2)))

/-- Locks (spec/17 R393): while an entry is held, a write by any master but its owner and Strongroom to an object whose index lies in the range
is "access denied", as is a write to the entry itself; the index 0x1040 lies outside every lock, and Strongroom is never locked out. -/
def Obligations.LocksShutOthersOut : Prop :=
  (∀ (e : Fin 16) (m : Master) (i sub : Nat) (v : Word) (r : ObjRow) (s : State),
    let w := s.nat (K.dictLock e)
    lockHeld w = true → lockOwner w ≠ m.val → m ≠ 0 → aliasIndex i ≠ 0x1040 → lockFirst w ≤ aliasIndex i → aliasIndex i ≤ lockLast w →
    unitAbsent s.variant i = false → objNow s (aliasIndex i) sub = some r → sub < 256 →
    writeStatus s m i sub v true = .accessDenied ∧
    ∀ f : State → State, kwrite s m (i * 256 + sub) v f = violation (recordStatus (dropHeld s m (aliasIndex i * 256 + sub) false) m i sub
      .accessDenied) m) ∧
  (∀ (e : Fin 16) (m : Master) (v : Word) (s : State), lockHeld (s.nat (K.dictLock e)) = true → lockOwner (s.nat (K.dictLock e)) ≠ m.val →
    m ≠ 0 → accepts s m (K.dictLock e) v = false) ∧
  (∀ (m i : Nat) (s : State), lockedOut s m 0x1040 = false ∧ lockedOut s 0 i = false) ∧
  (∀ (m : Master) (v : Word), v.toNat < 2 ^ 38 →
    let w := lockWord m v.toNat
    lockHeld w = lockHeld v.toNat ∧ lockFirst w = lockFirst v.toNat ∧ lockLast w = lockLast v.toNat ∧
    lockOwner w = if lockHeld v.toNat then m.val else 0)

/-- Where a host's command is turned away (spec/12 R291 kinds 4 and 5; spec/20 R456): an I/O command that is active in Safe
completes with Namespace Not Ready (SCT 0, 0x82) and no other effect, a doorbell of a queue that does not exist records kind 4, a tail or
head out of range records kind 5, and each doorbell so refused leaves the queue as it was. -/
def Obligations.HostCommandsTurnedAway : Prop :=
  (∀ (c : CmdRef) (l : List (BitVec 64 × BitVec 32)) (s : State), s.nat K.pmMode = 5 →
    (∀ e, activeEnt s.host.table (refOf c) false 0x02 = some e → exec (.read c) s = .next (complete raise s e.ref 0x82 0)) ∧
    (∀ e, activeEnt s.host.table (refOf c) false 0x01 = some e → exec (.write c) s = .next (complete raise s e.ref 0x82 0)) ∧
    (∀ e, activeEnt s.host.table (refOf c) false 0x7D = some e → exec (.zoneAppend c) s = .next (complete raise s e.ref 0x82 0)) ∧
    (∀ e, activeEnt s.host.table (refOf c) false 0x08 = some e → exec (.writeZeroes c) s = .next (complete raise s e.ref 0x82 0)) ∧
    (∀ e, activeEnt s.host.table (refOf c) false 0x00 = some e → exec (.flush c) s = .next (complete raise s e.ref 0x82 0)) ∧
    (∀ e, activeEnt s.host.table (refOf c) false 0x09 = some e →
      exec (.datasetManagement c l) s = .next (complete raise s e.ref 0x82 0))) ∧
  (∀ (q : BitVec 16) (v : BitVec 32) (s : State),
    (s.subQ q.toNat = none → exec (.sqTailDoorbell q v) s = .next (badDoorbell s 4 q.toNat v.toNat 0)) ∧
    (Sp.get s.host.cqs q.toNat = none → exec (.cqHeadDoorbell q v) s = .next (badDoorbell s 4 q.toNat v.toNat 0)) ∧
    (∀ x, s.subQ q.toNat = some x → x.size ≤ v.toNat →
      exec (.sqTailDoorbell q v) s = .next (badDoorbell s 5 q.toNat v.toNat 1)) ∧
    (∀ x, Sp.get s.host.cqs q.toNat = some x → x.size ≤ v.toNat →
      exec (.cqHeadDoorbell q v) s = .next (badDoorbell s 5 q.toNat v.toNat 1)))

/-- The frame of the host's queue commands (spec/12 R278-R281): a tail doorbell in range, a head doorbell in range and the posting of a completion
change nothing but the host link's own state, so that every object, every byte of memory, every event and every engine is as before; a tail
doorbell leaves every other queue, and a posting leaves the completion queue's head. -/
def Obligations.QueueCommandsTouchOnlyQueues : Prop :=
  (∀ (q : BitVec 16) (v : BitVec 32) (x : SubQ) (s t : State), s.subQ q.toNat = some x → v.toNat < x.size →
    exec (.sqTailDoorbell q v) s = .next t →
    t = { s with host := t.host } ∧ t.subQ q.toNat = some { x with tail := v.toNat } ∧ (∀ p, p ≠ q.toNat → t.subQ p = s.subQ p) ∧
    t.host.table = s.host.table ∧ t.host.cqs = s.host.cqs) ∧
  (∀ (q : BitVec 16) (v : BitVec 32) (x : ComplQ) (s t : State), Sp.get s.host.cqs q.toNat = some x → v.toNat < x.size →
    (v.toNat + x.size - x.head) % x.size ≤ x.used → exec (.cqHeadDoorbell q v) s = .next t →
    t = { s with host := t.host } ∧ Sp.get t.host.cqs q.toNat = some { x with head := v.toNat } ∧
    t.host.table = s.host.table ∧ t.host.sqs = s.host.sqs) ∧
  (∀ (q : BitVec 16) (s t : State), exec (.cqePost q) s = .next t →
    t = { s with host := t.host } ∧ t.host.sqs = s.host.sqs ∧ t.host.table.length ≤ s.host.table.length ∧
    (t = s ∨ ∃ e ∈ s.host.table, e ∉ t.host.table ∧ t.host.posted.head? = some (q.toNat, e.sqid, e.sqe.cid.toNat, e.status, e.dw0)))

/-- Counters saturate (spec/02 R52 and the counters of every chapter's table): an increment moves a counter by one below 0xFFFFFFFF and leaves it
there at 0xFFFFFFFF, and leaves every other object and everything but the dictionary. -/
def Obligations.CountersSaturate : Prop :=
  ∀ (k : Key) (n : Nat) (s : State),
    (s.nat k < 0xFFFFFFFF → (s.inc k).nat k = s.nat k + 1) ∧ (0xFFFFFFFF ≤ s.nat k → (s.inc k).nat k = 0xFFFFFFFF) ∧
    (s.addN k n).nat k = min 0xFFFFFFFF (s.nat k + n) ∧ SameObjects (fun x => x == k) s (s.inc k) ∧
    s.inc k = { s with dict := (s.inc k).dict }

/-- The datapath's operations (spec/10 R227): the ALU's results of the operations 1 to 12 on 32-bit values, the carry of an addition, and what a
register file and the local memory answer after a write; register 0 reads zero and discards a write. -/
def Obligations.DatapathComputes : Prop :=
  (∀ (a b : BitVec 32),
    let r (op : Nat) : Nat := (aluOf op a.toNat b.toNat).1
    r 1 = a.toNat ∧ r 2 = (a + b).toNat ∧ r 3 = (a - b).toNat ∧ r 4 = (a &&& b).toNat ∧ r 5 = (a ||| b).toNat ∧ r 6 = (a ^^^ b).toNat ∧
    r 7 = (a <<< (b.toNat % 32)).toNat ∧ r 8 = (a >>> (b.toNat % 32)).toNat ∧ r 9 = (a.sshiftRight (b.toNat % 32)).toNat ∧
    r 10 = (a - b).toNat ∧ r 11 = min a.toNat b.toNat ∧ r 12 = max a.toNat b.toNat ∧
    (aluOf 2 a.toNat b.toNat).2.1 = some (decide (2 ^ 32 ≤ a.toNat + b.toNat)) ∧
    ∀ op, 1 ≤ op → op ≤ 12 → r op < 2 ^ 32) ∧
  (∀ (e : Engine) (i j v : Nat), (e.setReg 0 v = e ∧ e.reg 0 = 0) ∧
    (0 < i → i < 32 → (e.setReg i v).reg i = v % 2 ^ 32) ∧ (j ≠ i → (e.setReg i v).reg j = e.reg j)) ∧
  (∀ (e : Engine) (a c v : Nat), (e.localWrite a v).localRead a = v % 2 ^ 32 ∧
    (c / 4 ≠ a / 4 → (e.localWrite a v).localRead c = e.localRead c))

/-- Frames of commands of one shape: what each named command, accepted or not, can change. The writes and set commands of the first two groups
leave all memory, every event and every engine but their own, and every object but those they name, the master's last status and its
violation counter (spec/17 R389, R392); the others leave everything but the named component (spec/02 R34; spec/10 R231; spec/11 R251;
spec/13 R315; spec/19 R428-R446; spec/20 R455). -/
def Obligations.CommandsFrameByGroup : Prop :=
  (∀ (m : Master) (p : Fin 3) (n : Eng) (v : Word) (s t : State),
    let own (l : List Key) (x : Key) : Bool := l.contains x || x == K.dictDictLastStatus m || x == K.dictViolationCount m
    let only (l : List Key) : Prop := t = { s with dict := t.dict, edge := t.edge, held := t.held } ∧ SameObjects (own l) s t
    (exec (.snapshot m v) s = .next t → only [K.sunSnapAngle, K.sunSnapUs]) ∧
    (exec (.formatCommit m v) s = .next t → only [K.zoneFormatState]) ∧
    (exec (.recoverLoad m v) s = .next t → only [K.sheafRecoverState]) ∧
    (exec (.replayStart m v) s = .next t → only [K.sheafReplayState, K.sheafSheafState]) ∧
    (exec (.persistGo m p v) s = .next t → only [K.almPersistState p]) ∧
    (exec (.softIrq m n v) s = .next t → only [K.trlIrqPending n]) ∧
    (exec (.faultHoldWrite m v) s = .next t → only [K.evtFaultHold]) ∧
    (exec (.orderedMaskWrite m v) s = .next t → only [K.hostOrderedMask]) ∧
    (exec (.mgmtRequestWrite m v) s = .next t → only [K.pmMgmtRequest])) ∧
  (∀ (m : Master) (e : Fin 512) (a : Fin 256) (r : Fin 64) (c : Act) (b : Fin 20) (p : Fin 3) (n : Eng) (hi : Bool) (v : Word) (s t : State),
    let only : Prop := t = { s with dict := t.dict, edge := t.edge, held := t.held }
    let events : Prop := t = { s with dict := t.dict, edge := t.edge, held := t.held, ev := t.ev }
    (exec (.eventCfgWrite m e v) s = .next t → only) ∧ (exec (.alarmWordWrite m a v) s = .next t → only) ∧
    (exec (.ringFormatWrite m c r v) s = .next t → only) ∧
    (exec (.latchedClear m b hi v) s = .next t → events) ∧ (exec (.captureRelease m b v) s = .next t → events) ∧
    (exec (.captureModeWrite m v) s = .next t → events) ∧ (exec (.cursorWrite m p v) s = .next t → events) ∧
    (exec (.haltReq m n v) s = .next t →
      t = { s with dict := t.dict, edge := t.edge, held := t.held, engines := t.engines })) ∧
  (∀ (q : Slot) (a : Act) (c : Byte) (v : BitVec 32) (x : MctpMsg) (s t : State),
    (exec .faultPulseEnd s = .next t → t = { s with ev := t.ev } ∧ t.ev.blks = s.ev.blks ∧ t.ev.parts = s.ev.parts) ∧
    (exec (.parkHoldExpiry a) s = .next t → t = { s with acts := t.acts } ∧ ∀ b : Act, b ≠ a → t.act b = s.act b) ∧
    (exec (.hsFltLRelease a) s = .next t → t = { s with links := t.links } ∧ ∀ b : Act, b ≠ a → t.link b = s.link b) ∧
    (exec .substitutionHoldExpiry s = .next t → t = { s with power := t.power }) ∧
    (exec (.defectHoldoffExpiry q) s = .next t → t = { s with chan := t.chan, dict := t.dict } ∧ ∀ p : Slot, p ≠ q → t.ch p = s.ch p) ∧
    (exec .shutdownNotification s = .next t → t = { s with host := t.host, dict := t.dict }) ∧
    (exec .ccEnSet s = .next t → t = { s with host := t.host, dict := t.dict } ∧ t.host.table = s.host.table) ∧
    (exec (.configurationSet c v) s = .next t → t = { s with mgmt := t.mgmt }) ∧
    (exec (.configurationGet c) s = .next t → t = { s with mgmt := t.mgmt, freeCtr := t.freeCtr }) ∧
    (exec (.mctpControlMessage x) s = .next t → t = { s with mgmt := t.mgmt, dict := t.dict }))

/-- Writes that meet (spec/17 R391): of the writes of one dictionary cycle to one object that pass their checks exactly one does not lose, the one
of the highest rank and, between equal ranks, of the lower master id; a write that meets a cause takes no part. -/
def Obligations.OneWriteOfACycleWins : Prop :=
  (∀ (l : List DictStore) (x : DictStore) (n : Nat) (s : State), l[n]? = some x → writes s x = true →
    ∃ (w : Nat) (y : DictStore), l[w]? = some y ∧ writes s y = true ∧ storeKey y = storeKey x ∧ loses s l w y = false ∧
      (∀ (j : Nat) (z : DictStore), l[j]? = some z → writes s z = true → storeKey z = storeKey x → j ≠ w → loses s l j z = true) ∧
      (∀ (j : Nat) (z : DictStore), l[j]? = some z → writes s z = true → storeKey z = storeKey x →
        rankOf y.master < rankOf z.master ∨ (rankOf y.master = rankOf z.master ∧ y.master.val ≤ z.master.val))) ∧
  (∀ (x y : DictStore) (s : State), writes s x = true → writes s y = true → storeKey x = storeKey y → beats x y = true →
    loses s [x, y] 0 x = false ∧ loses s [x, y] 1 y = true ∧ loses s [y, x] 0 y = true ∧ loses s [y, x] 1 x = false) ∧
  (∀ (l : List DictStore) (x : DictStore) (n : Nat) (s : State), (∀ y ∈ l, writes s y = true → storeKey y ≠ storeKey x) →
    loses s l n x = false)
end

