-- ==== Sys2Proof/Laws/Canon.lean ====
section
/-! SUPPORT. The canonical form of the listed data (memory, dictionary, values in force) and what keeps it: sparse maps and the
named operations of Machine/Ops. -/

namespace Sys2Proof.Machine

-- Elaborated one after another: the package as one text must fit the memory its check allows.
set_option Elab.async false

set_option linter.unusedTactic false
set_option linter.unreachableTactic false
set_option linter.unusedVariables false

/-- A state of a variant with a queue, its memory, dictionary and values in force in canonical form. -/
structure Canon (v : Variant) (q : List Instr) (s : State) : Prop where
  variant : s.variant = v
  pending : s.pending = q
  mem : Memory.wf s.mem = true
  dict : dictWf v s.dict = true
  edge : sortedKeys s.edge = true

/-- An outcome is a next state of that kind. -/
def Ends (v : Variant) (q : List Instr) (o : Host.Outcome State Fault Refusal) : Prop :=
  match o with
  | .next t => Canon v q t
  | _ => False

/-- A raiser keeps the canonical form. -/
abbrev RaisesCanon (v : Variant) (q : List Instr) (r : Raiser) : Prop := ∀ s e l o, Canon v q s → Canon v q (r s e l o)

variable {v : Variant} {q : List Instr} {s t : State}

/-- The canonical form speaks of five components. -/
theorem canon_mk_iff (x0 : List Instr) (x1 : Variant) (x2 : Sp Word) (x3 : Sp Word) (x4 : Vector (Option (Nat × BitVec 32)) 17) (x5 : Sp (List Byte)) (x6 : EvState) (x7 : Sundial) (x8 : Motor) (x9 : Vector ActSt 2) (x10 : Vector Link 2) (x11 : Vector SlotServo 4) (x12 : Vector Chan 4) (x13 : Vector WriteSt 4) (x14 : Vector (Option (Nat × Nat)) 4) (x15 : Deep) (x16 : Vector Engine 7) (x17 : Pantry) (x18 : Zones) (x19 : HostSt) (x20 : Vector PickSt 2) (x21 : Sheaf) (x22 : MemSt) (x23 : Sieve) (x24 : Strong) (x25 : Power) (x26 : Mgmt) (x27 : List Host.Cell) (x28 : Sp Byte) (x29 : LocalMem) (x30 : Sp Word) (x31 : Nat) :
    Canon v q (State.mk x0 x1 x2 x3 x4 x5 x6 x7 x8 x9 x10 x11 x12 x13 x14 x15 x16 x17 x18 x19 x20 x21 x22 x23 x24 x25 x26 x27 x28 x29 x30 x31) ↔
      x1 = v ∧ x0 = q ∧ Memory.wf x27 = true ∧ dictWf v x2 = true ∧ sortedKeys x3 = true :=
  ⟨fun h => ⟨h.variant, h.pending, h.mem, h.dict, h.edge⟩, fun h => ⟨h.1, h.2.1, h.2.2.1, h.2.2.2.1, h.2.2.2.2⟩⟩

theorem canon_parts (h : Canon v q s) :
    s.variant = v ∧ s.pending = q ∧ Memory.wf s.mem = true ∧ dictWf v s.dict = true ∧ sortedKeys s.edge = true :=
  ⟨h.variant, h.pending, h.mem, h.dict, h.edge⟩

theorem ends_next_canon (h : Canon v q t) : Ends v q (.next t) := h

/-! ### Sparse maps -/

/-- Every key of a map is above a bound. -/
def KeysAbove {α : Type} (k : Nat) (m : Sp α) : Prop := ∀ p ∈ m, k < p.1

theorem sortedKeys_cons {α : Type} (p : Nat × α) (m : Sp α) :
    sortedKeys (p :: m) = true ↔ KeysAbove p.1 m ∧ sortedKeys m = true := by
  induction m generalizing p with
  | nil => simp [sortedKeys, KeysAbove]
  | cons a r ih =>
    have h := ih a
    constructor
    · intro hp
      have h1 : p.1 < a.1 ∧ sortedKeys (a :: r) = true := by simpa [sortedKeys] using hp
      refine ⟨fun b hb => ?_, h1.2⟩
      rcases List.mem_cons.1 hb with rfl | hb
      · exact h1.1
      · exact lt_trans h1.1 ((h.1 h1.2).1 b hb)
    · rintro ⟨h1, h2⟩
      have h3 := h1 a (List.mem_cons_self ..)
      simpa [sortedKeys, h3] using h2

theorem sortedKeys_filter {α : Type} (m : Sp α) (p : Nat × α → Bool) (h : sortedKeys m = true) :
    sortedKeys (m.filter p) = true := by
  induction m with
  | nil => simp [sortedKeys]
  | cons a r ih =>
    have h1 := (sortedKeys_cons a r).1 h
    by_cases ha : p a
    · rw [List.filter_cons_of_pos ha, sortedKeys_cons]
      exact ⟨fun b hb => h1.1 b (List.mem_filter.1 hb).1, ih h1.2⟩
    · rw [List.filter_cons_of_neg ha]; exact ih h1.2

theorem sp_put_mem {α : Type} (m : Sp α) (k : Nat) (x : α) (p : Nat × α) (h : p ∈ Sp.put m k x) : p = (k, x) ∨ p ∈ m := by
  induction m with
  | nil => simpa [Sp.put] using h
  | cons a r ih =>
    unfold Sp.put at h
    split at h
    · rcases List.mem_cons.1 h with rfl | h
      · exact .inr (List.mem_cons_self ..)
      · exact (ih h).imp_right (List.mem_cons_of_mem _)
    · split at h
      · exact (List.mem_cons.1 h).imp_right (List.mem_cons_of_mem _)
      · exact List.mem_cons.1 h

theorem sortedKeys_put {α : Type} (m : Sp α) (k : Nat) (x : α) (h : sortedKeys m = true) : sortedKeys (Sp.put m k x) = true := by
  induction m with
  | nil => simp [Sp.put, sortedKeys]
  | cons a r ih =>
    have h1 := (sortedKeys_cons a r).1 h
    unfold Sp.put
    split
    · rename_i hk
      rw [sortedKeys_cons]
      refine ⟨fun b hb => ?_, ih h1.2⟩
      rcases sp_put_mem r k x b hb with rfl | hb
      · exact hk
      · exact h1.1 b hb
    · split
      · rename_i hk; subst hk
        exact (sortedKeys_cons _ _).2 h1
      · rename_i h2 h3
        rw [sortedKeys_cons]
        refine ⟨fun b hb => ?_, h⟩
        rcases List.mem_cons.1 hb with rfl | hb
        · omega
        · exact lt_trans (by omega) (h1.1 b hb)

/-- A read after a write of the same key gives the value written. -/
@[simp] theorem sp_get_put_self {α : Type} (m : Sp α) (k : Nat) (x : α) : Sp.get (Sp.put m k x) k = some x := by
  induction m with
  | nil => simp [Sp.put, Sp.get]
  | cons a r ih =>
    unfold Sp.put
    split
    · rename_i h; rw [Sp.get, if_neg (by omega)]; exact ih
    · split <;> simp [Sp.get]

/-- A write leaves every other key alone. -/
theorem sp_get_put_ne {α : Type} (m : Sp α) (k j : Nat) (x : α) (h : j ≠ k) : Sp.get (Sp.put m k x) j = Sp.get m j := by
  induction m with
  | nil => simp [Sp.put, Sp.get, Ne.symm h]
  | cons a r ih =>
    unfold Sp.put
    split
    · simp only [Sp.get, ih]
    · split
      · rename_i h2; subst h2; simp [Sp.get, Ne.symm h]
      · simp [Sp.get, Ne.symm h]

@[simp] theorem sp_get_del_self {α : Type} (m : Sp α) (k : Nat) : Sp.get (Sp.del m k) k = none := by
  induction m with
  | nil => simp [Sp.del, Sp.get]
  | cons a r ih =>
    by_cases h : a.1 = k
    · rw [Sp.del, List.filter_cons_of_neg (by simp [h])]; exact ih
    · rw [Sp.del, List.filter_cons_of_pos (by simp [h]), Sp.get, if_neg h]; exact ih

theorem sp_get_del_ne {α : Type} (m : Sp α) (k j : Nat) (h : j ≠ k) : Sp.get (Sp.del m k) j = Sp.get m j := by
  induction m with
  | nil => simp [Sp.del, Sp.get]
  | cons a r ih =>
    by_cases h2 : a.1 = k
    · rw [Sp.del, List.filter_cons_of_neg (by simp [h2]), Sp.get, if_neg (by omega)]; exact ih
    · rw [Sp.del, List.filter_cons_of_pos (by simp [h2]), Sp.get, Sp.get]; split
      · rfl
      · exact ih

/-! ### Dictionary and memory -/

theorem dictWf_iff (d : Sp Word) : dictWf v d = true ↔ sortedKeys d = true ∧ ∀ p ∈ d, p.2 ≠ defaultOf v p.1 := by
  simp [dictWf]

theorem dictWf_filter (d : Sp Word) (p : Nat × Word → Bool) (h : dictWf v d = true) : dictWf v (d.filter p) = true := by
  rw [dictWf_iff] at h ⊢
  exact ⟨sortedKeys_filter _ _ h.1, fun a ha => h.2 a (List.mem_filter.1 ha).1⟩

theorem dictWf_dictPut (d : Sp Word) (k : Key) (w : Word) (h : dictWf v d = true) : dictWf v (dictPut v d k w) = true := by
  unfold dictPut
  split
  · exact dictWf_filter _ _ h
  · rename_i hw
    rw [dictWf_iff] at h ⊢
    refine ⟨sortedKeys_put _ _ _ h.1, fun p hp => ?_⟩
    rcases sp_put_mem _ _ _ _ hp with rfl | hp
    · exact hw
    · exact h.2 p hp

theorem memoryWf_iff (m : List Host.Cell) : Memory.wf m = true ↔ sortedKeys m = true ∧ ∀ p ∈ m, p.2 ≠ 0 := by
  simp [Memory.wf]

theorem memoryWf_filter (m : List Host.Cell) (p : Host.Cell → Bool) (h : Memory.wf m = true) : Memory.wf (m.filter p) = true := by
  rw [memoryWf_iff] at h ⊢
  exact ⟨sortedKeys_filter _ _ h.1, fun a ha => h.2 a (List.mem_filter.1 ha).1⟩

theorem memoryWf_write (m : List Host.Cell) (a : Nat) (b : Byte) (h : Memory.wf m = true) : Memory.wf (Memory.write m a b) = true := by
  unfold Memory.write
  split
  · exact memoryWf_filter _ _ h
  · rename_i hb
    rw [memoryWf_iff] at h ⊢
    refine ⟨sortedKeys_put _ _ _ h.1, fun p hp => ?_⟩
    rcases sp_put_mem _ _ _ _ hp with rfl | hp
    · exact hb
    · exact h.2 p hp

theorem memoryWf_writeAll (m : List Host.Cell) (a : Nat) (l : List Byte) (h : Memory.wf m = true) :
    Memory.wf (Memory.writeAll m a l) = true := by
  induction l generalizing m a with
  | nil => exact h
  | cons b r ih => exact ih _ _ (memoryWf_write m a b h)

/-- A byte read after it is written is the byte written. -/
@[simp] theorem memory_read_write_self (m : List Host.Cell) (a : Nat) (b : Byte) : Memory.read (Memory.write m a b) a = b := by
  unfold Memory.read Memory.write
  split
  · rename_i h; subst h; simp
  · simp

/-- A write of a byte leaves every other byte alone. -/
theorem memory_read_write_ne (m : List Host.Cell) (a c : Nat) (b : Byte) (h : c ≠ a) :
    Memory.read (Memory.write m a b) c = Memory.read m c := by
  unfold Memory.read Memory.write
  split
  · rw [sp_get_del_ne _ _ _ h]
  · rw [sp_get_put_ne _ _ _ _ h]

/-- Bytes outside those written read as before. -/
theorem memory_read_writeAll_out (m : List Host.Cell) (a c : Nat) (l : List Byte) (h : c < a ∨ a + l.length ≤ c) :
    Memory.read (Memory.writeAll m a l) c = Memory.read m c := by
  induction l generalizing m a with
  | nil => rfl
  | cons b r ih =>
    have hl : (b :: r).length = r.length + 1 := rfl
    rw [Memory.writeAll, ih _ _ (by omega), memory_read_write_ne _ _ _ _ (by omega)]

/-- Bytes written read as written. -/
theorem memory_read_writeAll_in (m : List Host.Cell) (a i : Nat) (l : List Byte) (h : i < l.length) :
    Memory.read (Memory.writeAll m a l) (a + i) = l[i] := by
  induction l generalizing m a i with
  | nil => exact absurd h (by simp)
  | cons b r ih =>
    cases i with
    | zero => rw [Memory.writeAll, memory_read_writeAll_out _ _ _ _ (by omega)]; simp
    | succ n =>
      have h2 : n < r.length := by simpa using h
      rw [Memory.writeAll, show a + (n + 1) = (a + 1) + n by omega, ih _ _ _ h2]; rfl

/-! ### Folds -/

theorem foldl_canon {α : Type} {f : State → α → State} {l : List α} (hf : ∀ t x, Canon v q t → Canon v q (f t x))
    (h : Canon v q s) : Canon v q (l.foldl f s) := by
  induction l generalizing s with
  | nil => exact h
  | cons a r ih => exact ih (hf _ _ h)

theorem fold_canon {n : Nat} {f : (i : Nat) → i < n → State → State} (hf : ∀ i hi t, Canon v q t → Canon v q (f i hi t))
    (h : Canon v q s) : Canon v q (n.fold f s) := by
  induction n with
  | zero => exact h
  | succ m ih => rw [Nat.fold_succ]; exact hf _ _ _ (ih fun i hi t ht => hf _ _ _ ht)

/-- A fold that carries a state first. -/
theorem foldl_fst_canon {α β : Type} {f : State × α → β → State × α} {l : List β} {a : State × α}
    (hf : ∀ a x, Canon v q a.1 → Canon v q (f a x).1) (h : Canon v q a.1) : Canon v q (l.foldl f a).1 := by
  induction l generalizing a with
  | nil => exact h
  | cons b r ih => exact ih (hf _ _ h)

theorem foldl_fst_canon_eq {α β : Type} {f : State × α → β → State × α} {l : List β} {a : State × α} {b : α}
    (he : l.foldl f a = (t, b)) (hf : ∀ a x, Canon v q a.1 → Canon v q (f a x).1) (h : Canon v q a.1) : Canon v q t := by
  have h0 := foldl_fst_canon (l := l) hf h
  rw [he] at h0; exact h0

theorem ite_canon {c : Prop} [Decidable c] (ha : Canon v q s) (hb : Canon v q t) : Canon v q (if c then s else t) := by
  split
  · exact ha
  · exact hb

theorem ite_ends {c : Prop} [Decidable c] {a b : Host.Outcome State Fault Refusal} (ha : Ends v q a) (hb : Ends v q b) :
    Ends v q (if c then a else b) := by
  split
  · exact ha
  · exact hb

theorem id_canon (h : Canon v q s) : Canon v q (id s) := h

end Sys2Proof.Machine
end

