-- ==== Sys2Proof/Laws/CanonOps.lean ====
section
/-! SUPPORT. What keeps the canonical form: the named operations over registers, links, channels, gates, operands, queues, actuators, hosts and power. One lemma per operation and per meaning. -/

namespace Sys2Proof.Machine

-- Elaborated one after another: the package as one text must fit the memory its check allows.
set_option Elab.async false

set_option linter.unusedTactic false
set_option linter.unreachableTactic false
set_option linter.unusedVariables false

variable {v : Variant} {q : List Instr} {s t : State} {r : Raiser}

/-! ### Machine/Ops -/

theorem State.set_canon {k : Key} {w : Word} (hs : Canon v q s) : Canon v q (s.set k w) :=
  ⟨hs.variant, hs.pending, hs.mem, by rw [← hs.variant]; exact dictWf_dictPut _ _ _ (by rw [hs.variant]; exact hs.dict), hs.edge⟩

theorem State.setN_canon {k : Key} {n : Nat} (hs : Canon v q s) : Canon v q (State.setN s k n) := by
  unfold State.setN
  repeat' first
    | (with_reducible assumption) | intro x
    | (with_reducible first | apply State.set_canon)

theorem State.setI_canon {k : Key} {i : Int} (hs : Canon v q s) : Canon v q (State.setI s k i) := by
  unfold State.setI
  repeat' first
    | (with_reducible assumption) | intro x
    | (with_reducible first | apply State.set_canon)

theorem State.setB_canon {k : Key} {b : Bool} (hs : Canon v q s) : Canon v q (State.setB s k b) := by
  unfold State.setB
  repeat' first
    | (with_reducible assumption) | intro x
    | (with_reducible first | apply ite_canon | apply State.set_canon)
    | split

theorem State.addN_canon {k : Key} {n : Nat} (hs : Canon v q s) : Canon v q (State.addN s k n) := by
  unfold State.addN
  repeat' first
    | (with_reducible assumption) | intro x
    | (with_reducible first | apply State.setN_canon)

theorem State.inc_canon {k : Key} (hs : Canon v q s) : Canon v q (State.inc s k) := by
  unfold State.inc
  repeat' first
    | (with_reducible assumption) | intro x
    | (with_reducible first | apply State.addN_canon)

theorem State.setBitOf_canon {k : Key} {i : Nat} {b : Bool} (hs : Canon v q s) : Canon v q (State.setBitOf s k i b) := by
  unfold State.setBitOf
  repeat' first
    | (with_reducible assumption) | intro x
    | (with_reducible first | apply State.setN_canon)

theorem State.zero_canon {k n : Nat} (hs : Canon v q s) : Canon v q (s.zero k n) :=
  fold_canon (fun _ _ _ ht => State.set_canon ht) hs

theorem State.takeEdge_canon {p : Key → Bool} (hs : Canon v q s) : Canon v q (s.takeEdge p) :=
  ⟨hs.variant, hs.pending, hs.mem, hs.dict, sortedKeys_filter _ _ hs.edge⟩

theorem State.store_canon {a : Nat} {l : List Byte} (hs : Canon v q s) : Canon v q (s.store a l) :=
  ⟨hs.variant, hs.pending, memoryWf_writeAll _ _ _ hs.mem, hs.dict, hs.edge⟩

theorem State.setAct_canon {a : Nat} {x : ActSt} (hs : Canon v q s) : Canon v q (State.setAct s a x) := by
  unfold State.setAct
  repeat' first
    | (with_reducible assumption) | intro x
    | (simp only [canon_mk_iff]; apply canon_parts)

theorem State.setLink_canon {a : Nat} {x : Link} (hs : Canon v q s) : Canon v q (State.setLink s a x) := by
  unfold State.setLink
  repeat' first
    | (with_reducible assumption) | intro x
    | (simp only [canon_mk_iff]; apply canon_parts)

theorem State.setSrv_canon {j : Nat} {x : SlotServo} (hs : Canon v q s) : Canon v q (State.setSrv s j x) := by
  unfold State.setSrv
  repeat' first
    | (with_reducible assumption) | intro x
    | (simp only [canon_mk_iff]; apply canon_parts)

theorem State.setCh_canon {j : Nat} {x : Chan} (hs : Canon v q s) : Canon v q (State.setCh s j x) := by
  unfold State.setCh
  repeat' first
    | (with_reducible assumption) | intro x
    | (simp only [canon_mk_iff]; apply canon_parts)

theorem State.setWr_canon {j : Nat} {x : WriteSt} (hs : Canon v q s) : Canon v q (State.setWr s j x) := by
  unfold State.setWr
  repeat' first
    | (with_reducible assumption) | intro x
    | (simp only [canon_mk_iff]; apply canon_parts)

theorem State.setEng_canon {n : Nat} {x : Engine} (hs : Canon v q s) : Canon v q (State.setEng s n x) := by
  unfold State.setEng
  repeat' first
    | (with_reducible assumption) | intro x
    | (simp only [canon_mk_iff]; apply canon_parts)

theorem State.setPick_canon {a : Nat} {x : PickSt} (hs : Canon v q s) : Canon v q (State.setPick s a x) := by
  unfold State.setPick
  repeat' first
    | (with_reducible assumption) | intro x
    | (simp only [canon_mk_iff]; apply canon_parts)

theorem State.setSieveEng_canon {n : Nat} {x : SieveEng} (hs : Canon v q s) : Canon v q (State.setSieveEng s n x) := by
  unfold State.setSieveEng
  repeat' first
    | (with_reducible assumption) | intro x
    | (simp only [canon_mk_iff]; apply canon_parts)

theorem State.drawn_canon (hs : Canon v q s) : Canon v q (State.drawn s) := by
  unfold State.drawn
  repeat' first
    | (with_reducible assumption) | intro x
    | (simp only [canon_mk_iff]; apply canon_parts)

theorem State.deliver_canon {m : Nat} {w : Word} (hs : Canon v q s) : Canon v q (State.deliver s m w) := by
  unfold State.deliver
  repeat' first
    | (with_reducible assumption) | intro x
    | (simp only [canon_mk_iff]; apply canon_parts)

theorem State.on_canon {c : Bool} {f : State → State} (hs : Canon v q s) (hf : ∀ t, Canon v q t → Canon v q (f t)) :
    Canon v q (s.on c f) := by
  unfold State.on; split
  · exact hf _ hs
  · exact hs

/-! ### Machine/Flags -/

theorem raiseBase_canon {e : Nat} {ps : List Nat} {o : Occ} (hs : Canon v q s) : Canon v q (raiseBase s e ps o) := by
  unfold raiseBase
  repeat' first
    | (with_reducible assumption) | intro x
    | (simp only [canon_mk_iff]; apply canon_parts)

theorem sysRecord_canon {code : Nat} {ps : List Nat} (hs : Canon v q s) : Canon v q (sysRecord s code ps) := by
  unfold sysRecord
  repeat' first
    | (with_reducible assumption) | intro x
    | (extract_lets +onlyGivenNames t; first
        | (refine (fun (ht : Canon v q t) => ?_) ?_ <;> [clear_value t; (unfold t; clear t)])
        | clear_value t)
    | (with_reducible first | apply ite_canon | apply raiseBase_canon)
    | split | (simp only [canon_mk_iff]; apply canon_parts)

theorem fwRecord_canon {m p code : Nat} {ps : List Nat} (hs : Canon v q s) : Canon v q (fwRecord s m p code ps) := by
  unfold fwRecord
  repeat' first
    | (with_reducible assumption) | intro x
    | (extract_lets +onlyGivenNames t; first
        | (refine (fun (ht : Canon v q t) => ?_) ?_ <;> [clear_value t; (unfold t; clear t)])
        | clear_value t)
    | (with_reducible first | apply ite_canon | apply raiseBase_canon)
    | split | (simp only [canon_mk_iff]; apply canon_parts)

theorem queueGap_canon {p : Nat} (hs : Canon v q s) : Canon v q (queueGap s p) := by
  unfold queueGap
  repeat' first
    | (with_reducible assumption) | intro x
    | (extract_lets +onlyGivenNames t; first
        | (refine (fun (ht : Canon v q t) => ?_) ?_ <;> [clear_value t; (unfold t; clear t)])
        | clear_value t)
    | (with_reducible first | apply ite_canon | apply raiseBase_canon)
    | split | (simp only [canon_mk_iff]; apply canon_parts)

theorem startBlank_canon {u cause : Nat} {inFault : Bool} (hs : Canon v q s) : Canon v q (startBlank s u cause inFault) := by
  unfold startBlank
  repeat' first
    | (with_reducible assumption) | intro x
    | (extract_lets +onlyGivenNames t; first
        | (refine (fun (ht : Canon v q t) => ?_) ?_ <;> [clear_value t; (unfold t; clear t)])
        | clear_value t)
    | (with_reducible first | apply State.inc_canon)
    | (simp only [canon_mk_iff]; apply canon_parts)

/-! ### Machine/LinkOps -/

theorem linkSend_canon {a : Nat} {r : LinkReq} (hs : Canon v q s) : Canon v q (linkSend s a r) := by
  unfold linkSend
  repeat' first
    | (with_reducible assumption) | intro x
    | (with_reducible first | apply State.inc_canon | apply State.setLink_canon)
    | (simp only [canon_mk_iff]; apply canon_parts)

theorem linkPump_canon {a : Nat} (hs : Canon v q s) : Canon v q (linkPump s a) := by
  unfold linkPump
  repeat' first
    | (with_reducible assumption) | intro x
    | (extract_lets +onlyGivenNames t; first
        | (refine (fun (ht : Canon v q t) => ?_) ?_ <;> [clear_value t; (unfold t; clear t)])
        | clear_value t)
    | (with_reducible first | apply ite_canon | apply State.setLink_canon | apply linkSend_canon)
    | split | (simp only [canon_mk_iff]; apply canon_parts)

theorem linkTick_canon {a : Nat} (hs : Canon v q s) : Canon v q (linkTick s a) := by
  unfold linkTick
  repeat' first
    | (with_reducible assumption) | intro x
    | (extract_lets +onlyGivenNames t; first
        | (refine (fun (ht : Canon v q t) => ?_) ?_ <;> [clear_value t; (unfold t; clear t)])
        | clear_value t)
    | (with_reducible first
        | apply ite_canon | apply State.inc_canon | apply State.setLink_canon | apply linkSend_canon | apply linkPump_canon)
    | split | (simp only [canon_mk_iff]; apply canon_parts)

theorem linkPost_canon {a : Nat} {r : LinkReq} (hs : Canon v q s) : Canon v q (linkPost s a r) := by
  unfold linkPost
  repeat' first
    | (with_reducible assumption) | intro x
    | (extract_lets +onlyGivenNames t; first
        | (refine (fun (ht : Canon v q t) => ?_) ?_ <;> [clear_value t; (unfold t; clear t)])
        | clear_value t)
    | (with_reducible first | apply ite_canon | apply State.setLink_canon | apply linkPump_canon)
    | split | (simp only [canon_mk_iff]; apply canon_parts)

theorem regrant_canon (hs : Canon v q s) : Canon v q (regrant s) := by
  unfold regrant
  repeat' first
    | (with_reducible assumption) | intro x
    | (extract_lets +onlyGivenNames t; first
        | (refine (fun (ht : Canon v q t) => ?_) ?_ <;> [clear_value t; (unfold t; clear t)])
        | clear_value t)
    | (with_reducible first | apply ite_canon | apply foldl_canon | apply State.setN_canon | apply State.setB_canon)
    | split

theorem endGrant_canon {j : Nat} (hs : Canon v q s) : Canon v q (endGrant s j) := by
  unfold endGrant
  repeat' first
    | (with_reducible assumption) | intro x
    | (with_reducible first | apply regrant_canon)
    | (simp only [canon_mk_iff]; apply canon_parts)

theorem unpost_canon {j : Nat} {cmds : List Nat} (hs : Canon v q s) : Canon v q (unpost s j cmds) := by
  unfold unpost
  repeat' first
    | (with_reducible assumption) | intro x
    | (extract_lets +onlyGivenNames t; first
        | (refine (fun (ht : Canon v q t) => ?_) ?_ <;> [clear_value t; (unfold t; clear t)])
        | clear_value t)
    | (with_reducible first | apply State.setLink_canon)
    | (simp only [canon_mk_iff]; apply canon_parts)

theorem assistEnded_canon {j : Nat} (hs : Canon v q s) : Canon v q (assistEnded s j) := by
  unfold assistEnded
  repeat' first
    | (with_reducible assumption) | intro x
    | (with_reducible first | apply State.setWr_canon | apply endGrant_canon | apply unpost_canon)
    | (simp only [canon_mk_iff]; apply canon_parts)

theorem assistOff_canon {j cls : Nat} (hs : Canon v q s) : Canon v q (assistOff s j cls) := by
  unfold assistOff
  repeat' first
    | (with_reducible assumption) | intro x
    | (extract_lets +onlyGivenNames t; first
        | (refine (fun (ht : Canon v q t) => ?_) ?_ <;> [clear_value t; (unfold t; clear t)])
        | clear_value t)
    | (with_reducible first
        | apply ite_canon | apply State.setLink_canon | apply State.setWr_canon | apply linkPost_canon | apply unpost_canon
        | apply assistEnded_canon)
    | split | (simp only [canon_mk_iff]; apply canon_parts)

theorem stopLink_canon {a : Nat} (hs : Canon v q s) : Canon v q (stopLink s a) := by
  unfold stopLink
  repeat' first
    | (with_reducible assumption) | intro x
    | (extract_lets +onlyGivenNames t; first
        | (refine (fun (ht : Canon v q t) => ?_) ?_ <;> [clear_value t; (unfold t; clear t)])
        | clear_value t)
    | (with_reducible first
        | apply ite_canon | apply foldl_canon | apply State.setN_canon | apply State.setB_canon | apply State.inc_canon
        | apply State.setLink_canon | apply State.on_canon | apply assistEnded_canon)
    | split | (simp only [canon_mk_iff]; apply canon_parts)

/-! ### Machine/HeatOps -/

theorem setHeater_canon {j h0 level due : Nat} (hs : Canon v q s) : Canon v q (setHeater s j h0 level due) := by
  unfold setHeater
  repeat' first
    | (with_reducible assumption) | intro x
    | (extract_lets +onlyGivenNames t; first
        | (refine (fun (ht : Canon v q t) => ?_) ?_ <;> [clear_value t; (unfold t; clear t)])
        | clear_value t)
    | (with_reducible first | apply ite_canon | apply linkPost_canon)
    | split | (simp only [canon_mk_iff]; apply canon_parts)

theorem heaterIdle_canon {j h0 : Nat} (hs : Canon v q s) : Canon v q (heaterIdle s j h0) := by
  unfold heaterIdle
  repeat' first
    | (with_reducible assumption) | intro x
    | (extract_lets +onlyGivenNames t; first
        | (refine (fun (ht : Canon v q t) => ?_) ?_ <;> [clear_value t; (unfold t; clear t)])
        | clear_value t)
    | (with_reducible first | apply ite_canon | apply setHeater_canon)
    | split

/-! ### Machine/ChanOps -/

theorem rebuf_canon {j : Nat} (hs : Canon v q s) : Canon v q (rebuf s j) := by
  unfold rebuf
  repeat' first
    | (with_reducible assumption) | intro x
    | (extract_lets +onlyGivenNames t; first
        | (refine (fun (ht : Canon v q t) => ?_) ?_ <;> [clear_value t; (unfold t; clear t)])
        | clear_value t)
    | (with_reducible first | apply ite_canon | apply State.setN_canon)
    | split

theorem releaseEntry_canon {j e : Nat} (hs : Canon v q s) : Canon v q (releaseEntry s j e) := by
  unfold releaseEntry
  repeat' first
    | (with_reducible assumption) | intro x
    | (extract_lets +onlyGivenNames t; first
        | (refine (fun (ht : Canon v q t) => ?_) ?_ <;> [clear_value t; (unfold t; clear t)])
        | clear_value t)
    | (with_reducible first | apply ite_canon | apply State.setCh_canon | apply rebuf_canon)
    | split | (simp only [canon_mk_iff]; apply canon_parts)

theorem adaptLoops_canon {j : Nat} (hs : Canon v q s) : Canon v q (adaptLoops s j) := by
  unfold adaptLoops
  repeat' first
    | (with_reducible assumption) | intro x
    | (extract_lets +onlyGivenNames t; first
        | (refine (fun (ht : Canon v q t) => ?_) ?_ <;> [clear_value t; (unfold t; clear t)])
        | clear_value t)
    | (with_reducible first | apply State.setN_canon | apply State.setI_canon | apply State.on_canon)
    | (simp only [canon_mk_iff]; apply canon_parts)

theorem adaptTaps_canon {j : Nat} (hs : Canon v q s) : Canon v q (adaptTaps s j) := by
  unfold adaptTaps
  repeat' first
    | (with_reducible assumption) | intro x
    | (extract_lets +onlyGivenNames t; first
        | (refine (fun (ht : Canon v q t) => ?_) ?_ <;> [clear_value t; (unfold t; clear t)])
        | clear_value t)
    | (with_reducible first | apply ite_canon | apply State.setCh_canon)
    | split | (simp only [canon_mk_iff]; apply canon_parts)

theorem hrStore_canon {j h0 n : Nat} (hs : Canon v q s) : Canon v q (hrStore s j h0 n) := by
  unfold hrStore
  repeat' first
    | (with_reducible assumption) | intro x
    | (extract_lets +onlyGivenNames t; first
        | (refine (fun (ht : Canon v q t) => ?_) ?_ <;> [clear_value t; (unfold t; clear t)])
        | clear_value t)
    | (with_reducible first | apply State.inc_canon | apply State.store_canon)

theorem hrEnd_canon {j h0 : Nat} {done : Bool} (hs : Canon v q s) : Canon v q (hrEnd s j h0 done) := by
  unfold hrEnd
  repeat' first
    | (with_reducible assumption) | intro x
    | (extract_lets +onlyGivenNames t; first
        | (refine (fun (ht : Canon v q t) => ?_) ?_ <;> [clear_value t; (unfold t; clear t)])
        | clear_value t)
    | (with_reducible first | apply ite_canon | apply State.inc_canon | apply hrStore_canon)
    | split

theorem wordTo_canon {a tag word : Nat} (hs : Canon v q s) : Canon v q (wordTo s a tag word) := by
  unfold wordTo
  repeat' first
    | (with_reducible assumption) | intro x
    | (with_reducible first | apply State.setPick_canon)
    | (simp only [canon_mk_iff]; apply canon_parts)

theorem readWordTo_canon {j tag word : Nat} (hs : Canon v q s) : Canon v q (readWordTo s j tag word) := by
  unfold readWordTo
  repeat' first
    | (with_reducible assumption) | intro x
    | (extract_lets +onlyGivenNames t; first
        | (refine (fun (ht : Canon v q t) => ?_) ?_ <;> [clear_value t; (unfold t; clear t)])
        | clear_value t)
    | (with_reducible first | apply State.setN_canon | apply State.inc_canon | apply State.setCh_canon | apply wordTo_canon)
    | (simp only [canon_mk_iff]; apply canon_parts)

theorem abandonRead_canon {j : Nat} (hs : Canon v q s) : Canon v q (abandonRead s j) := by
  unfold abandonRead
  repeat' first
    | (with_reducible assumption) | intro x
    | (extract_lets +onlyGivenNames t; first
        | (refine (fun (ht : Canon v q t) => ?_) ?_ <;> [clear_value t; (unfold t; clear t)])
        | clear_value t)
    | (with_reducible first
        | apply ite_canon | apply State.store_canon | apply State.setCh_canon | apply State.drawn_canon | apply rebuf_canon
        | apply adaptLoops_canon | apply adaptTaps_canon | apply readWordTo_canon)
    | split | (simp only [canon_mk_iff]; apply canon_parts)

/-! ### Machine/Gates -/

theorem actEvent_canon {a k : Nat} {items : List Nat} {slot : Option Nat} (hr : RaisesCanon v q r) (hs : Canon v q s)
    : Canon v q (actEvent r s a k items slot) := by
  unfold actEvent
  repeat' first
    | (with_reducible assumption) | intro x
    | (extract_lets +onlyGivenNames t; first
        | (refine (fun (ht : Canon v q t) => ?_) ?_ <;> [clear_value t; (unfold t; clear t)])
        | clear_value t)
    | (with_reducible first | apply hr)
    | (simp only [canon_mk_iff]; apply canon_parts)

theorem restage_canon {j : Nat} (hs : Canon v q s) : Canon v q (restage s j) := by
  unfold restage
  repeat' first
    | (with_reducible assumption) | intro x
    | (with_reducible first | apply State.setN_canon)

theorem refreshWrite_canon {j : Nat} (hs : Canon v q s) : Canon v q (refreshWrite s j) := by
  unfold refreshWrite
  repeat' first
    | (with_reducible assumption) | intro x
    | (with_reducible first | apply State.setN_canon | apply restage_canon)

theorem writeEvent_canon {j e : Nat} {items : List Nat} {tag : Nat} (hr : RaisesCanon v q r) (hs : Canon v q s) : Canon v q
    (writeEvent r s j e items tag) := by
  unfold writeEvent
  repeat' first
    | (with_reducible assumption) | intro x
    | (with_reducible first | apply hr)
    | (simp only [canon_mk_iff]; apply canon_parts)

theorem endPartWith_canon {j cause : Nat} {off : Bool} (hr : RaisesCanon v q r) (hs : Canon v q s) : Canon v q
    (endPartWith r s j cause off) := by
  unfold endPartWith
  repeat' first
    | (with_reducible assumption) | intro x
    | (extract_lets +onlyGivenNames t; first
        | (refine (fun (ht : Canon v q t) => ?_) ?_ <;> [clear_value t; (unfold t; clear t)])
        | clear_value t)
    | (with_reducible first
        | apply ite_canon | apply State.setN_canon | apply State.inc_canon | apply State.setCh_canon
        | apply State.setWr_canon | apply State.on_canon | apply assistOff_canon | apply heaterIdle_canon
        | apply wordTo_canon | apply refreshWrite_canon | apply writeEvent_canon | apply hr)
    | split | (simp only [canon_mk_iff]; apply canon_parts)

theorem endPart_canon {j cause : Nat} (hr : RaisesCanon v q r) (hs : Canon v q s) : Canon v q (endPart r s j cause) := by
  unfold endPart
  repeat' first
    | (with_reducible assumption) | intro x
    | (with_reducible first | apply endPartWith_canon | apply hr)

theorem closeGate_canon {j cause : Nat} (hr : RaisesCanon v q r) (hs : Canon v q s) : Canon v q (closeGate r s j cause) := by
  unfold closeGate
  repeat' first
    | (with_reducible assumption) | intro x
    | (with_reducible first | apply ite_canon | apply endPart_canon | apply hr)
    | split

theorem closeGates_canon {qs : List Nat} {cause : Nat} (hr : RaisesCanon v q r) (hs : Canon v q s) : Canon v q
    (closeGates r s qs cause) := by
  unfold closeGates
  repeat' first
    | (with_reducible assumption) | intro x
    | (with_reducible first | apply foldl_canon | apply closeGate_canon | apply hr)

theorem deferPart_canon {j : Nat} (hs : Canon v q s) : Canon v q (deferPart s j) := by
  unfold deferPart
  repeat' first
    | (with_reducible assumption) | intro x
    | (extract_lets +onlyGivenNames t; first
        | (refine (fun (ht : Canon v q t) => ?_) ?_ <;> [clear_value t; (unfold t; clear t)])
        | clear_value t)
    | (with_reducible first | apply ite_canon | apply State.inc_canon | apply State.setWr_canon | apply refreshWrite_canon)
    | split | (simp only [canon_mk_iff]; apply canon_parts)

/-! ### Machine/SunOps -/

theorem setSync_canon {st : Nat} (hs : Canon v q s) : Canon v q (setSync s st) := by
  unfold setSync
  repeat' first
    | (with_reducible assumption) | intro x
    | (extract_lets +onlyGivenNames t; first
        | (refine (fun (ht : Canon v q t) => ?_) ?_ <;> [clear_value t; (unfold t; clear t)])
        | clear_value t)
    | (with_reducible first | apply ite_canon | apply State.setN_canon | apply State.setB_canon)
    | split

theorem syncCheck_canon (hs : Canon v q s) : Canon v q (syncCheck s) := by
  unfold syncCheck
  repeat' first
    | (with_reducible assumption) | intro x
    | (extract_lets +onlyGivenNames t; first
        | (refine (fun (ht : Canon v q t) => ?_) ?_ <;> [clear_value t; (unfold t; clear t)])
        | clear_value t)
    | (with_reducible first | apply ite_canon | apply State.setN_canon | apply setSync_canon)
    | split

theorem boundaryIn_canon {b : Boundary} {own : Nat → Bool} (hs : Canon v q s) : Canon v q (boundaryIn s b own) := by
  unfold boundaryIn
  repeat' first
    | (with_reducible assumption) | intro x
    | (with_reducible first | apply State.takeEdge_canon)
    | split | (simp only [canon_mk_iff]; apply canon_parts)

theorem boundary_canon {b : Boundary} (hs : Canon v q s) : Canon v q (boundary s b) := by
  unfold boundary
  repeat' first
    | (with_reducible assumption) | intro x
    | (with_reducible first | apply boundaryIn_canon)

theorem sunEvent_canon {before e : Nat} {items : List Nat} {o : Occ} (hr : RaisesCanon v q r) (hs : Canon v q s) : Canon v q
    (sunEvent r s before e items o) := by
  unfold sunEvent
  repeat' first
    | (with_reducible assumption) | intro x
    | (with_reducible first | apply hr)

theorem observerAngle_canon {ang : Nat} (hs : Canon v q s) : Canon v q (observerAngle s ang) := by
  unfold observerAngle
  repeat' first
    | (with_reducible assumption) | intro x
    | (extract_lets +onlyGivenNames t; first
        | (refine (fun (ht : Canon v q t) => ?_) ?_ <;> [clear_value t; (unfold t; clear t)])
        | clear_value t)
    | (with_reducible first | apply ite_canon)
    | split | (simp only [canon_mk_iff]; apply canon_parts)

theorem sunEnter_canon {st : Nat} (hr : RaisesCanon v q r) (hs : Canon v q s) : Canon v q (sunEnter r s st) := by
  unfold sunEnter
  repeat' first
    | (with_reducible assumption) | intro x
    | (extract_lets +onlyGivenNames t; first
        | (refine (fun (ht : Canon v q t) => ?_) ?_ <;> [clear_value t; (unfold t; clear t)])
        | clear_value t)
    | (with_reducible first
        | apply ite_canon | apply State.setN_canon | apply State.on_canon | apply sunEvent_canon | apply hr)
    | split | (simp only [canon_mk_iff]; apply canon_parts)

theorem lockLost_canon {mask : Nat} (hr : RaisesCanon v q r) (hs : Canon v q s) : Canon v q (lockLost r s mask) := by
  unfold lockLost
  repeat' first
    | (with_reducible assumption) | intro x
    | (extract_lets +onlyGivenNames t; first
        | (refine (fun (ht : Canon v q t) => ?_) ?_ <;> [clear_value t; (unfold t; clear t)])
        | clear_value t)
    | (with_reducible first
        | apply foldl_canon | apply State.inc_canon | apply State.setBitOf_canon | apply State.on_canon
        | apply abandonRead_canon | apply endPart_canon | apply hr)
    | (simp only [canon_mk_iff]; apply canon_parts)

theorem sunDrop_canon {cause : Nat} (hr : RaisesCanon v q r) (hs : Canon v q s) : Canon v q (sunDrop r s cause) := by
  unfold sunDrop
  repeat' first
    | (with_reducible assumption) | intro x
    | (extract_lets +onlyGivenNames t; first
        | (refine (fun (ht : Canon v q t) => ?_) ?_ <;> [clear_value t; (unfold t; clear t)])
        | clear_value t)
    | (with_reducible first
        | apply ite_canon | apply State.setN_canon | apply State.setB_canon | apply syncCheck_canon | apply sunEvent_canon
        | apply sunEnter_canon | apply lockLost_canon | apply hr)
    | split | (simp only [canon_mk_iff]; apply canon_parts)

theorem sunInvalid_canon {cause : Nat} (hr : RaisesCanon v q r) (hs : Canon v q s) : Canon v q (sunInvalid r s cause) := by
  unfold sunInvalid
  repeat' first
    | (with_reducible assumption) | intro x
    | (extract_lets +onlyGivenNames t; first
        | (refine (fun (ht : Canon v q t) => ?_) ?_ <;> [clear_value t; (unfold t; clear t)])
        | clear_value t)
    | (with_reducible first
        | apply ite_canon | apply State.setN_canon | apply State.setB_canon | apply State.on_canon | apply syncCheck_canon
        | apply sunEvent_canon | apply sunEnter_canon | apply lockLost_canon | apply hr)
    | split | (simp only [canon_mk_iff]; apply canon_parts)

theorem observerCheck_canon (hr : RaisesCanon v q r) (hs : Canon v q s) : Canon v q (observerCheck r s) := by
  unfold observerCheck
  repeat' first
    | (with_reducible assumption) | intro x
    | (extract_lets +onlyGivenNames t; first
        | (refine (fun (ht : Canon v q t) => ?_) ?_ <;> [clear_value t; (unfold t; clear t)])
        | clear_value t)
    | (with_reducible first
        | apply ite_canon | apply State.setN_canon | apply State.setB_canon | apply State.setBitOf_canon
        | apply syncCheck_canon | apply sunEvent_canon | apply sunEnter_canon | apply hr)
    | split | (simp only [canon_mk_iff]; apply canon_parts)

theorem readersCheck_canon (hs : Canon v q s) : Canon v q (readersCheck s) := by
  unfold readersCheck
  repeat' first
    | (with_reducible assumption) | intro x
    | (with_reducible first | apply ite_canon)
    | split | (simp only [canon_mk_iff]; apply canon_parts)

/-! ### Machine/Operands -/

theorem recordStatus_canon {m i sub : Nat} {d : DStatus} (hs : Canon v q s) : Canon v q (recordStatus s m i sub d) := by
  unfold recordStatus
  repeat' first
    | (with_reducible assumption) | intro x
    | (with_reducible first | apply State.setN_canon)

theorem violation_canon {m : Nat} (hs : Canon v q s) : Canon v q (violation s m) := by
  unfold violation
  repeat' first
    | (with_reducible assumption) | intro x
    | (with_reducible first | apply State.inc_canon)

theorem storeObj_canon {r : ObjRow} {k : Key} {w : Word} (hs : Canon v q s) : Canon v q (storeObj s r k w) := by
  unfold storeObj
  repeat' first
    | (with_reducible assumption) | intro x
    | (extract_lets +onlyGivenNames t; first
        | (refine (fun (ht : Canon v q t) => ?_) ?_ <;> [clear_value t; (unfold t; clear t)])
        | clear_value t)
    | exact ⟨ht.variant, ht.pending, ht.mem, ht.dict, sortedKeys_filter _ _ hs.edge⟩
    | exact ⟨ht.variant, ht.pending, ht.mem, ht.dict, sortedKeys_put _ _ _ hs.edge⟩
    | (with_reducible first | apply ite_canon | apply State.set_canon)
    | split | (simp only [canon_mk_iff]; apply canon_parts)

theorem acceptStore_canon {r : ObjRow} {k : Key} {w : Word} (hs : Canon v q s) : Canon v q (acceptStore s r k w) := by
  unfold acceptStore
  repeat' first
    | (with_reducible assumption) | intro x
    | (with_reducible first | apply ite_canon | apply State.set_canon | apply storeObj_canon)
    | split | (simp only [canon_mk_iff]; apply canon_parts)

theorem dropHeld_canon {m : Nat} {k : Key} {written : Bool} (hs : Canon v q s) : Canon v q (dropHeld s m k written) := by
  unfold dropHeld
  repeat' first
    | (with_reducible assumption) | intro x
    | (with_reducible first | apply ite_canon)
    | split | (simp only [canon_mk_iff]; apply canon_parts)

theorem finishWrite_canon {m i sub : Nat} {w : Word} {d : DStatus} {eff : State → State} (hs : Canon v q s) (heff
    : ∀ t, Canon v q t → Canon v q (eff t)) : Canon v q (finishWrite s m i sub w d eff) := by
  unfold finishWrite
  repeat' first
    | (with_reducible assumption) | intro x
    | (extract_lets +onlyGivenNames t; first
        | (refine (fun (ht : Canon v q t) => ?_) ?_ <;> [clear_value t; (unfold t; clear t)])
        | clear_value t)
    | (with_reducible first
        | apply ite_canon | apply recordStatus_canon | apply violation_canon | apply acceptStore_canon | apply dropHeld_canon
        | apply heff)
    | split | (simp only [canon_mk_iff]; apply canon_parts)

theorem dwrite_canon {m i sub : Nat} {w : Word} {eff : State → State} (hs : Canon v q s) (heff : ∀ t, Canon v q t → Canon v q
    (eff t)) : Canon v q (dwrite s m i sub w eff) := by
  unfold dwrite
  repeat' first
    | (with_reducible assumption) | intro x
    | (with_reducible first | apply finishWrite_canon | apply heff)

theorem kwrite_canon {m : Nat} {k : Key} {w : Word} {eff : State → State} (hs : Canon v q s) (heff
    : ∀ t, Canon v q t → Canon v q (eff t)) : Canon v q (kwrite s m k w eff) := by
  unfold kwrite
  repeat' first
    | (with_reducible assumption) | intro x
    | (with_reducible first | apply dwrite_canon | apply heff)

/-! ### Machine/PantryOps -/

theorem State.setQueue_canon {j : Nat} {x : PanQueue} (hs : Canon v q s) : Canon v q (State.setQueue s j x) := by
  unfold State.setQueue
  repeat' first
    | (with_reducible assumption) | intro x
    | (with_reducible first | apply ite_canon | apply State.setN_canon)
    | split | (simp only [canon_mk_iff]; apply canon_parts)

theorem setUsed_canon {n : Nat} (hs : Canon v q s) : Canon v q (setUsed s n) := by
  unfold setUsed
  repeat' first
    | (with_reducible assumption) | intro x
    | (extract_lets +onlyGivenNames t; first
        | (refine (fun (ht : Canon v q t) => ?_) ?_ <;> [clear_value t; (unfold t; clear t)])
        | clear_value t)
    | (with_reducible first | apply ite_canon | apply State.setN_canon | apply State.setB_canon)
    | split | (simp only [canon_mk_iff]; apply canon_parts)

theorem setFlag_canon {j i : Nat} {b : Bool} (hs : Canon v q s) : Canon v q (setFlag s j i b) := by
  unfold setFlag
  repeat' first
    | (with_reducible assumption) | intro x
    | (with_reducible first | apply State.setBitOf_canon)

theorem incU8_canon {k : Key} (hs : Canon v q s) : Canon v q (incU8 s k) := by
  unfold incU8
  repeat' first
    | (with_reducible assumption) | intro x
    | (with_reducible first | apply ite_canon | apply State.setN_canon)
    | split

theorem highCross_canon {j : Nat} (hr : RaisesCanon v q r) (hs : Canon v q s) : Canon v q (highCross r s j) := by
  unfold highCross
  repeat' first
    | (with_reducible assumption) | intro x
    | (extract_lets +onlyGivenNames t; first
        | (refine (fun (ht : Canon v q t) => ?_) ?_ <;> [clear_value t; (unfold t; clear t)])
        | clear_value t)
    | (with_reducible first | apply ite_canon | apply State.on_canon | apply setFlag_canon | apply incU8_canon | apply hr)
    | split | (simp only [canon_mk_iff]; apply canon_parts)

theorem lowCross_canon {j : Nat} (hr : RaisesCanon v q r) (hs : Canon v q s) : Canon v q (lowCross r s j) := by
  unfold lowCross
  repeat' first
    | (with_reducible assumption) | intro x
    | (extract_lets +onlyGivenNames t; first
        | (refine (fun (ht : Canon v q t) => ?_) ?_ <;> [clear_value t; (unfold t; clear t)])
        | clear_value t)
    | (with_reducible first | apply ite_canon | apply State.on_canon | apply setFlag_canon | apply incU8_canon | apply hr)
    | split | (simp only [canon_mk_iff]; apply canon_parts)

theorem notEmptyRise_canon {j : Nat} (hs : Canon v q s) : Canon v q (notEmptyRise s j) := by
  unfold notEmptyRise
  repeat' first
    | (with_reducible assumption) | intro x
    | (with_reducible first | apply ite_canon | apply State.setBitOf_canon)
    | split

theorem queueEmptied_canon {j lost : Nat} (hs : Canon v q s) : Canon v q (queueEmptied s j lost) := by
  unfold queueEmptied
  repeat' first
    | (with_reducible assumption) | intro x
    | (extract_lets +onlyGivenNames t; first
        | (refine (fun (ht : Canon v q t) => ?_) ?_ <;> [clear_value t; (unfold t; clear t)])
        | clear_value t)
    | (with_reducible first | apply State.setQueue_canon | apply setFlag_canon)
    | (simp only [canon_mk_iff]; apply canon_parts)

theorem pointerMismatch_canon {j lost : Nat} (hr : RaisesCanon v q r) (hs : Canon v q s) : Canon v q
    (pointerMismatch r s j lost) := by
  unfold pointerMismatch
  repeat' first
    | (with_reducible assumption) | intro x
    | (extract_lets +onlyGivenNames t; first
        | (refine (fun (ht : Canon v q t) => ?_) ?_ <;> [clear_value t; (unfold t; clear t)])
        | clear_value t)
    | (with_reducible first | apply State.inc_canon | apply queueEmptied_canon | apply hr)
    | split | (simp only [canon_mk_iff]; apply canon_parts)

theorem cellError_canon {j part : Nat} (hr : RaisesCanon v q r) (hs : Canon v q s) : Canon v q (cellError r s j part) := by
  unfold cellError
  repeat' first
    | (with_reducible assumption) | intro x
    | (extract_lets +onlyGivenNames t; first
        | (refine (fun (ht : Canon v q t) => ?_) ?_ <;> [clear_value t; (unfold t; clear t)])
        | clear_value t)
    | (with_reducible first | apply State.drawn_canon | apply hr)
    | (simp only [canon_mk_iff]; apply canon_parts)

theorem loseCell_canon (hs : Canon v q s) : Canon v q (loseCell s) := by
  unfold loseCell
  repeat' first
    | (with_reducible assumption) | intro x
    | (with_reducible first | apply State.setN_canon)

theorem overrun_canon {j port cause : Nat} (hr : RaisesCanon v q r) (hs : Canon v q s) : Canon v q (overrun r s j port cause)
    := by
  unfold overrun
  repeat' first
    | (with_reducible assumption) | intro x
    | (extract_lets +onlyGivenNames t; first
        | (refine (fun (ht : Canon v q t) => ?_) ?_ <;> [clear_value t; (unfold t; clear t)])
        | clear_value t)
    | (with_reducible first
        | apply ite_canon | apply State.setB_canon | apply State.inc_canon | apply State.on_canon | apply setFlag_canon
        | apply hr)
    | split | (simp only [canon_mk_iff]; apply canon_parts)

theorem pantryPush_canon {port j tag : Nat} {payload : List Byte} {ecc : PantryEcc} (hr : RaisesCanon v q r) (hs
    : Canon v q s) : Canon v q (pantryPush r s port j tag payload ecc) := by
  unfold pantryPush
  repeat' first
    | (with_reducible assumption) | intro x
    | (extract_lets +onlyGivenNames t; first
        | (refine (fun (ht : Canon v q t) => ?_) ?_ <;> [clear_value t; (unfold t; clear t)])
        | clear_value t)
    | (with_reducible first
        | apply ite_canon | apply State.setQueue_canon | apply setUsed_canon | apply highCross_canon
        | apply notEmptyRise_canon | apply pointerMismatch_canon | apply cellError_canon | apply loseCell_canon
        | apply overrun_canon | apply hr)
    | split | (simp only [canon_mk_iff]; apply canon_parts)

theorem pantryPop_canon {j : Nat} {ecc : PantryEcc} (hr : RaisesCanon v q r) (hs : Canon v q s) : Canon v q
    ((pantryPop r s j ecc)).2.2 := by
  unfold pantryPop
  repeat' first
    | (with_reducible assumption) | intro x
    | (extract_lets +onlyGivenNames t; first
        | (refine (fun (ht : Canon v q t) => ?_) ?_ <;> [clear_value t; (unfold t; clear t)])
        | clear_value t)
    | (with_reducible first
        | apply ite_canon | apply State.inc_canon | apply State.on_canon | apply State.setQueue_canon | apply setUsed_canon
        | apply lowCross_canon | apply pointerMismatch_canon | apply cellError_canon | apply loseCell_canon | apply hr)
    | split | dsimp only | (simp only [canon_mk_iff]; apply canon_parts)

theorem pantryPop_canon_eq {j : Nat} {ecc : PantryEcc} {x1 : Nat} {x2 : List Byte} {t : State} (he : pantryPop r s j ecc =
    (x1, x2, t)) (hr : RaisesCanon v q r) (hs : Canon v q s) : Canon v q t := by
  have h0 := pantryPop_canon (r := r) (s := s) (j := j) (ecc := ecc) hr hs
  rw [he] at h0; exact h0

theorem pantryClear_canon (hs : Canon v q s) : Canon v q (pantryClear s) := by
  unfold pantryClear
  repeat' first
    | (with_reducible assumption) | intro x
    | (extract_lets +onlyGivenNames t; first
        | (refine (fun (ht : Canon v q t) => ?_) ?_ <;> [clear_value t; (unfold t; clear t)])
        | clear_value t)
    | (with_reducible first | apply foldl_canon | apply State.set_canon | apply State.setN_canon | apply State.setB_canon)
    | (simp only [canon_mk_iff]; apply canon_parts)

/-! ### Machine/Frame -/



/-! ### Machine/FrontEnd -/



/-! ### Machine/ActOps -/

theorem regovern_canon (hr : RaisesCanon v q r) (hs : Canon v q s) : Canon v q (regovern r s) := by
  unfold regovern
  repeat' first
    | (with_reducible assumption) | intro x
    | (extract_lets +onlyGivenNames t; first
        | (refine (fun (ht : Canon v q t) => ?_) ?_ <;> [clear_value t; (unfold t; clear t)])
        | clear_value t)
    | (with_reducible first
        | apply ite_canon | apply foldl_canon | apply State.setN_canon | apply State.setB_canon | apply hr)
    | split | (simp only [canon_mk_iff]; apply canon_parts)

theorem holdRes_canon {h0 : Holder} {cls : Nat} (hr : RaisesCanon v q r) (hs : Canon v q s) : Canon v q (holdRes r s h0 cls)
    := by
  unfold holdRes
  repeat' first
    | (with_reducible assumption) | intro x
    | (with_reducible first | apply ite_canon | apply regovern_canon | apply hr)
    | split | (simp only [canon_mk_iff]; apply canon_parts)

theorem unholdRes_canon {h0 : Holder} (hr : RaisesCanon v q r) (hs : Canon v q s) : Canon v q (unholdRes r s h0) := by
  unfold unholdRes
  repeat' first
    | (with_reducible assumption) | intro x
    | (with_reducible first | apply ite_canon | apply regovern_canon | apply hr)
    | split | (simp only [canon_mk_iff]; apply canon_parts)

theorem setOnTrack_canon {j : Nat} {write val : Bool} (hr : RaisesCanon v q r) (hs : Canon v q s) : Canon v q
    (setOnTrack r s j write val) := by
  unfold setOnTrack
  repeat' first
    | (with_reducible assumption) | intro x
    | (extract_lets +onlyGivenNames t; first
        | (refine (fun (ht : Canon v q t) => ?_) ?_ <;> [clear_value t; (unfold t; clear t)])
        | clear_value t)
    | (with_reducible first | apply ite_canon | apply State.setBitOf_canon | apply actEvent_canon | apply hr)
    | split

theorem writeOkFall_canon {j : Nat} {why : OkFall} (hr : RaisesCanon v q r) (hs : Canon v q s) : Canon v q
    (writeOkFall r s j why) := by
  unfold writeOkFall
  repeat' first
    | (with_reducible assumption) | intro x
    | (extract_lets +onlyGivenNames t; first
        | (refine (fun (ht : Canon v q t) => ?_) ?_ <;> [clear_value t; (unfold t; clear t)])
        | clear_value t)
    | (with_reducible first
        | apply ite_canon | apply State.inc_canon | apply State.setBitOf_canon | apply State.setSrv_canon
        | apply State.on_canon | apply actEvent_canon | apply closeGate_canon | apply setOnTrack_canon | apply hr)
    | split | (simp only [canon_mk_iff]; apply canon_parts)

theorem writeOkFallAct_canon {a : Nat} {why : OkFall} (hr : RaisesCanon v q r) (hs : Canon v q s) : Canon v q
    (writeOkFallAct r s a why) := by
  unfold writeOkFallAct
  repeat' first
    | (with_reducible assumption) | intro x
    | (with_reducible first | apply foldl_canon | apply writeOkFall_canon | apply hr)

theorem returnSlot_canon {j cause : Nat} (hr : RaisesCanon v q r) (hs : Canon v q s) : Canon v q (returnSlot r s j cause) := by
  unfold returnSlot
  repeat' first
    | (with_reducible assumption) | intro x
    | (extract_lets +onlyGivenNames t; first
        | (refine (fun (ht : Canon v q t) => ?_) ?_ <;> [clear_value t; (unfold t; clear t)])
        | clear_value t)
    | (with_reducible first
        | apply ite_canon | apply State.setCh_canon | apply State.setPick_canon | apply heaterIdle_canon | apply hrEnd_canon
        | apply endPart_canon | apply hr)
    | split | (simp only [canon_mk_iff]; apply canon_parts)

theorem twinExit_canon {a cause : Nat} (hr : RaisesCanon v q r) (hs : Canon v q s) : Canon v q (twinExit r s a cause) := by
  unfold twinExit
  repeat' first
    | (with_reducible assumption) | intro x
    | (extract_lets +onlyGivenNames t; first
        | (refine (fun (ht : Canon v q t) => ?_) ?_ <;> [clear_value t; (unfold t; clear t)])
        | clear_value t)
    | (with_reducible first
        | apply ite_canon | apply foldl_canon | apply State.setB_canon | apply State.setBitOf_canon
        | apply State.setAct_canon | apply State.setCh_canon | apply hrEnd_canon | apply actEvent_canon | apply endPart_canon
        | apply returnSlot_canon | apply hr)
    | split | (simp only [canon_mk_iff]; apply canon_parts)

theorem twinBoundary_canon {a : Nat} (hr : RaisesCanon v q r) (hs : Canon v q s) : Canon v q (twinBoundary r s a) := by
  unfold twinBoundary
  repeat' first
    | (with_reducible assumption) | intro x
    | (extract_lets +onlyGivenNames t; first
        | (refine (fun (ht : Canon v q t) => ?_) ?_ <;> [clear_value t; (unfold t; clear t)])
        | clear_value t)
    | (with_reducible first | apply ite_canon | apply twinExit_canon | apply hr)
    | split | (simp only [canon_mk_iff]; apply canon_parts)

theorem twinSettle_canon {a : Nat} (hr : RaisesCanon v q r) (hs : Canon v q s) : Canon v q (twinSettle r s a) := by
  unfold twinSettle
  repeat' first
    | (with_reducible assumption) | intro x
    | (extract_lets +onlyGivenNames t; first
        | (refine (fun (ht : Canon v q t) => ?_) ?_ <;> [clear_value t; (unfold t; clear t)])
        | clear_value t)
    | (with_reducible first | apply ite_canon | apply twinExit_canon | apply twinBoundary_canon | apply hr)
    | split

theorem twinLeave_canon {a cause : Nat} (hr : RaisesCanon v q r) (hs : Canon v q s) : Canon v q (twinLeave r s a cause) := by
  unfold twinLeave
  repeat' first
    | (with_reducible assumption) | intro x
    | (extract_lets +onlyGivenNames t; first
        | (refine (fun (ht : Canon v q t) => ?_) ?_ <;> [clear_value t; (unfold t; clear t)])
        | clear_value t)
    | (with_reducible first | apply ite_canon | apply State.setAct_canon | apply twinBoundary_canon | apply hr)
    | split | (simp only [canon_mk_iff]; apply canon_parts)

theorem leaveTracking_canon {a : Nat} (hr : RaisesCanon v q r) (hs : Canon v q s) : Canon v q (leaveTracking r s a) := by
  unfold leaveTracking
  repeat' first
    | (with_reducible assumption) | intro x
    | (extract_lets +onlyGivenNames t; first
        | (refine (fun (ht : Canon v q t) => ?_) ?_ <;> [clear_value t; (unfold t; clear t)])
        | clear_value t)
    | (with_reducible first
        | apply ite_canon | apply foldl_canon | apply State.setAct_canon | apply State.setSrv_canon | apply setOnTrack_canon
        | apply writeOkFallAct_canon | apply twinExit_canon | apply hr)
    | split | (simp only [canon_mk_iff]; apply canon_parts)

theorem pztZero_canon {a : Nat} (hs : Canon v q s) : Canon v q (pztZero s a) := by
  unfold pztZero
  repeat' first
    | (with_reducible assumption) | intro x
    | (extract_lets +onlyGivenNames t; first
        | (refine (fun (ht : Canon v q t) => ?_) ?_ <;> [clear_value t; (unfold t; clear t)])
        | clear_value t)
    | (with_reducible first | apply foldl_canon | apply State.setI_canon | apply State.setAct_canon)
    | (simp only [canon_mk_iff]; apply canon_parts)

theorem actEnter_canon {a st : Nat} {w : VcmOut} (hs : Canon v q s) : Canon v q (actEnter s a st w) := by
  unfold actEnter
  repeat' first
    | (with_reducible assumption) | intro x
    | (extract_lets +onlyGivenNames t; first
        | (refine (fun (ht : Canon v q t) => ?_) ?_ <;> [clear_value t; (unfold t; clear t)])
        | clear_value t)
    | (with_reducible first
        | apply State.setN_canon | apply State.setAct_canon | apply State.on_canon | apply readersCheck_canon
        | apply pztZero_canon)
    | (simp only [canon_mk_iff]; apply canon_parts)

theorem retractNow_canon {a cause : Nat} (hr : RaisesCanon v q r) (hs : Canon v q s) : Canon v q (retractNow r s a cause) := by
  unfold retractNow
  repeat' first
    | (with_reducible assumption) | intro x
    | (extract_lets +onlyGivenNames t; first
        | (refine (fun (ht : Canon v q t) => ?_) ?_ <;> [clear_value t; (unfold t; clear t)])
        | clear_value t)
    | (with_reducible first
        | apply State.setAct_canon | apply stopLink_canon | apply actEvent_canon | apply leaveTracking_canon
        | apply actEnter_canon | apply hr)
    | (simp only [canon_mk_iff]; apply canon_parts)

theorem retract_canon {a cause : Nat} (hr : RaisesCanon v q r) (hs : Canon v q s) : Canon v q (retract r s a cause) := by
  unfold retract
  repeat' first
    | (with_reducible assumption) | intro x
    | (extract_lets +onlyGivenNames t; first
        | (refine (fun (ht : Canon v q t) => ?_) ?_ <;> [clear_value t; (unfold t; clear t)])
        | clear_value t)
    | (with_reducible first | apply ite_canon | apply retractNow_canon | apply hr)
    | split

theorem stopLinks_canon (hs : Canon v q s) : Canon v q (stopLinks s) := by
  unfold stopLinks
  repeat' first
    | (with_reducible assumption) | intro x
    | (with_reducible first | apply stopLink_canon)

theorem loadFail_canon {a cause : Nat} (hr : RaisesCanon v q r) (hs : Canon v q s) : Canon v q (loadFail r s a cause) := by
  unfold loadFail
  repeat' first
    | (with_reducible assumption) | intro x
    | (extract_lets +onlyGivenNames t; first
        | (refine (fun (ht : Canon v q t) => ?_) ?_ <;> [clear_value t; (unfold t; clear t)])
        | clear_value t)
    | (with_reducible first | apply State.inc_canon | apply State.setAct_canon | apply actEvent_canon | apply hr)
    | (simp only [canon_mk_iff]; apply canon_parts)

theorem loadEscalate_canon {a : Nat} (hr : RaisesCanon v q r) (hs : Canon v q s) : Canon v q (loadEscalate r s a) := by
  unfold loadEscalate
  repeat' first
    | (with_reducible assumption) | intro x
    | (extract_lets +onlyGivenNames t; first
        | (refine (fun (ht : Canon v q t) => ?_) ?_ <;> [clear_value t; (unfold t; clear t)])
        | clear_value t)
    | (with_reducible first | apply ite_canon | apply actEvent_canon | apply actEnter_canon | apply hr)
    | split

theorem unloadNow_canon {a : Nat} (hr : RaisesCanon v q r) (hs : Canon v q s) : Canon v q (unloadNow r s a) := by
  unfold unloadNow
  repeat' first
    | (with_reducible assumption) | intro x
    | (extract_lets +onlyGivenNames t; first
        | (refine (fun (ht : Canon v q t) => ?_) ?_ <;> [clear_value t; (unfold t; clear t)])
        | clear_value t)
    | (with_reducible first
        | apply ite_canon | apply State.setAct_canon | apply leaveTracking_canon | apply actEnter_canon | apply hr)
    | split | (simp only [canon_mk_iff]; apply canon_parts)

theorem slewPzt_canon {a h0 : Nat} (hs : Canon v q s) : Canon v q (slewPzt s a h0) := by
  unfold slewPzt
  repeat' first
    | (with_reducible assumption) | intro x
    | (extract_lets +onlyGivenNames t; first
        | (refine (fun (ht : Canon v q t) => ?_) ?_ <;> [clear_value t; (unfold t; clear t)])
        | clear_value t)
    | (with_reducible first | apply State.setI_canon | apply State.setAct_canon)
    | (simp only [canon_mk_iff]; apply canon_parts)

theorem slewTick_canon (hs : Canon v q s) : Canon v q (slewTick s) := by
  unfold slewTick
  repeat' first
    | (with_reducible assumption) | intro x
    | (with_reducible first | apply ite_canon | apply foldl_canon | apply slewPzt_canon)
    | split

theorem setDegraded_canon {a : Nat} (hr : RaisesCanon v q r) (hs : Canon v q s) : Canon v q (setDegraded r s a) := by
  unfold setDegraded
  repeat' first
    | (with_reducible assumption) | intro x
    | (with_reducible first | apply State.setB_canon | apply writeOkFallAct_canon | apply hr)

/-! ### Machine/SpinOps -/

theorem motorEnter_canon {st : Nat} (hs : Canon v q s) : Canon v q (motorEnter s st) := by
  unfold motorEnter
  repeat' first
    | (with_reducible assumption) | intro x
    | (extract_lets +onlyGivenNames t; first
        | (refine (fun (ht : Canon v q t) => ?_) ?_ <;> [clear_value t; (unfold t; clear t)])
        | clear_value t)
    | (with_reducible first
        | apply ite_canon | apply State.setN_canon | apply State.setB_canon | apply State.inc_canon
        | apply State.setBitOf_canon | apply State.on_canon)
    | split | (simp only [canon_mk_iff]; apply canon_parts)

theorem enterBrake_canon {cause : Nat} (hs : Canon v q s) : Canon v q (enterBrake s cause) := by
  unfold enterBrake
  repeat' first
    | (with_reducible assumption) | intro x
    | (with_reducible first | apply State.setN_canon | apply motorEnter_canon)

theorem spinEvent_canon {before e : Nat} {items : List Nat} (hr : RaisesCanon v q r) (hs : Canon v q s) : Canon v q
    (spinEvent r s before e items) := by
  unfold spinEvent
  repeat' first
    | (with_reducible assumption) | intro x
    | (with_reducible first | apply hr)
    | (simp only [canon_mk_iff]; apply canon_parts)

theorem motorPowerLoss_canon (hr : RaisesCanon v q r) (hs : Canon v q s) : Canon v q (motorPowerLoss r s) := by
  unfold motorPowerLoss
  repeat' first
    | (with_reducible assumption) | intro x
    | (extract_lets +onlyGivenNames t; first
        | (refine (fun (ht : Canon v q t) => ?_) ?_ <;> [clear_value t; (unfold t; clear t)])
        | clear_value t)
    | (with_reducible first
        | apply ite_canon | apply State.setN_canon | apply motorEnter_canon | apply spinEvent_canon | apply hr)
    | split | (simp only [canon_mk_iff]; apply canon_parts)

theorem motorReset_canon (hr : RaisesCanon v q r) (hs : Canon v q s) : Canon v q (motorReset r s) := by
  unfold motorReset
  repeat' first
    | (with_reducible assumption) | intro x
    | (extract_lets +onlyGivenNames t; first
        | (refine (fun (ht : Canon v q t) => ?_) ?_ <;> [clear_value t; (unfold t; clear t)])
        | clear_value t)
    | (with_reducible first | apply ite_canon | apply observerCheck_canon | apply motorEnter_canon | apply hr)
    | split | (simp only [canon_mk_iff]; apply canon_parts)

/-! ### Machine/DetOps -/

theorem slotEventBy_canon {j k : Nat} {items : List Nat} {entry : Nat} (hr : RaisesCanon v q r) (hs : Canon v q s)
    : Canon v q (slotEventBy r s j k items entry) := by
  unfold slotEventBy
  repeat' first
    | (with_reducible assumption) | intro x
    | (with_reducible first | apply hr)
    | (simp only [canon_mk_iff]; apply canon_parts)

theorem redeep_canon (hs : Canon v q s) : Canon v q (redeep s) := by
  unfold redeep
  repeat' first
    | (with_reducible assumption) | intro x
    | (with_reducible first | apply State.setN_canon)
    | split | (simp only [canon_mk_iff]; apply canon_parts)

theorem tapPush_canon {b : BufEntry} {result : Nat} (hr : RaisesCanon v q r) (hs : Canon v q s) : Canon v q
    (tapPush r s b result) := by
  unfold tapPush
  repeat' first
    | (with_reducible assumption) | intro x
    | (extract_lets +onlyGivenNames t; first
        | (refine (fun (ht : Canon v q t) => ?_) ?_ <;> [clear_value t; (unfold t; clear t)])
        | clear_value t)
    | (with_reducible first
        | apply ite_canon | apply State.inc_canon | apply State.setBitOf_canon | apply pantryPush_canon | apply hr)
    | split | (simp only [canon_mk_iff]; apply canon_parts)

theorem readDescEnd_canon {j : Nat} (hr : RaisesCanon v q r) (hs : Canon v q s) : Canon v q (readDescEnd r s j) := by
  unfold readDescEnd
  repeat' first
    | (with_reducible assumption) | intro x
    | (extract_lets +onlyGivenNames t; first
        | (refine (fun (ht : Canon v q t) => ?_) ?_ <;> [clear_value t; (unfold t; clear t)])
        | clear_value t)
    | (with_reducible first
        | apply ite_canon | apply State.setCh_canon | apply heaterIdle_canon | apply hrEnd_canon | apply twinExit_canon
        | apply hr)
    | split | (simp only [canon_mk_iff]; apply canon_parts)

theorem sectorCounted_canon {j : Nat} {b : BufEntry} {result : Nat} (hr : RaisesCanon v q r) (hs : Canon v q s) : Canon v q
    (sectorCounted r s j b result) := by
  unfold sectorCounted
  repeat' first
    | (with_reducible assumption) | intro x
    | (extract_lets +onlyGivenNames t; first
        | (refine (fun (ht : Canon v q t) => ?_) ?_ <;> [clear_value t; (unfold t; clear t)])
        | clear_value t)
    | (with_reducible first | apply ite_canon | apply State.setCh_canon | apply readDescEnd_canon | apply hr)
    | split | (simp only [canon_mk_iff]; apply canon_parts)

theorem groupMark_canon {b : BufEntry} {e word : Nat} {ok : Bool} (hs : Canon v q s) : Canon v q (groupMark s b e word ok) := by
  unfold groupMark
  repeat' first
    | (with_reducible assumption) | intro x
    | (extract_lets +onlyGivenNames t; first
        | (refine (fun (ht : Canon v q t) => ?_) ?_ <;> [clear_value t; (unfold t; clear t)])
        | clear_value t)
    | (with_reducible first | apply ite_canon | apply State.setN_canon)
    | split | (simp only [canon_mk_iff]; apply canon_parts)

theorem sectorEnds_canon {j e result cand offset pass stage : Nat} {moved : Bool} (hr : RaisesCanon v q r) (hs : Canon v q s)
    : Canon v q (sectorEnds r s j e result cand offset pass stage moved) := by
  unfold sectorEnds
  repeat' first
    | (with_reducible assumption) | intro x
    | (extract_lets +onlyGivenNames t; first
        | (refine (fun (ht : Canon v q t) => ?_) ?_ <;> [clear_value t; (unfold t; clear t)])
        | clear_value t)
    | (with_reducible first
        | apply ite_canon | apply foldl_canon | apply State.inc_canon | apply State.setBitOf_canon | apply State.on_canon
        | apply releaseEntry_canon | apply readWordTo_canon | apply slotEventBy_canon | apply redeep_canon
        | apply tapPush_canon | apply sectorCounted_canon | apply groupMark_canon | apply hr)
    | split | (simp only [canon_mk_iff]; apply canon_parts)

theorem combineEnds_canon {j st word : Nat} (hs : Canon v q s) : Canon v q (combineEnds s j st word) := by
  unfold combineEnds
  repeat' first
    | (with_reducible assumption) | intro x
    | (extract_lets +onlyGivenNames t; first
        | (refine (fun (ht : Canon v q t) => ?_) ?_ <;> [clear_value t; (unfold t; clear t)])
        | clear_value t)
    | (with_reducible first | apply State.setN_canon | apply redeep_canon)
    | (simp only [canon_mk_iff]; apply canon_parts)

theorem groupWord_canon {tag word : Nat} (hs : Canon v q s) : Canon v q (groupWord s tag word) := by
  unfold groupWord
  repeat' first
    | (with_reducible assumption) | intro x
    | (extract_lets +onlyGivenNames t; first
        | (refine (fun (ht : Canon v q t) => ?_) ?_ <;> [clear_value t; (unfold t; clear t)])
        | clear_value t)
    | (with_reducible first | apply State.setN_canon | apply State.setCh_canon | apply wordTo_canon)
    | (simp only [canon_mk_iff]; apply canon_parts)

theorem groupLost_canon {i : Nat} (hr : RaisesCanon v q r) (hs : Canon v q s) : Canon v q (groupLost r s i) := by
  unfold groupLost
  repeat' first
    | (with_reducible assumption) | intro x
    | (extract_lets +onlyGivenNames t; first
        | (refine (fun (ht : Canon v q t) => ?_) ?_ <;> [clear_value t; (unfold t; clear t)])
        | clear_value t)
    | (with_reducible first | apply slotEventBy_canon | apply groupWord_canon | apply hr)

theorem groupFails_canon (hr : RaisesCanon v q r) (hs : Canon v q s) : Canon v q (groupFails r s) := by
  unfold groupFails
  repeat' first
    | (with_reducible assumption) | intro x
    | (with_reducible first | apply foldl_canon | apply State.setN_canon | apply groupLost_canon | apply hr)

theorem deepReset_canon (hr : RaisesCanon v q r) (hs : Canon v q s) : Canon v q (deepReset r s) := by
  unfold deepReset
  repeat' first
    | (with_reducible assumption) | intro x
    | (extract_lets +onlyGivenNames t; first
        | (refine (fun (ht : Canon v q t) => ?_) ?_ <;> [clear_value t; (unfold t; clear t)])
        | clear_value t)
    | (with_reducible first
        | apply ite_canon | apply foldl_canon | apply redeep_canon | apply sectorEnds_canon | apply combineEnds_canon
        | apply groupFails_canon | apply hr)
    | split | (simp only [canon_mk_iff]; apply canon_parts)

/-! ### Machine/TrlOps -/

theorem trlShow_canon {n : Nat} (hs : Canon v q s) : Canon v q (trlShow s n) := by
  unfold trlShow
  repeat' first
    | (with_reducible assumption) | intro x
    | (extract_lets +onlyGivenNames t; first
        | (refine (fun (ht : Canon v q t) => ?_) ?_ <;> [clear_value t; (unfold t; clear t)])
        | clear_value t)
    | (with_reducible first | apply State.setN_canon)

theorem trlEvent_canon {n k : Nat} {items : List Nat} (hr : RaisesCanon v q r) (hs : Canon v q s) : Canon v q
    (trlEvent r s n k items) := by
  unfold trlEvent
  repeat' first
    | (with_reducible assumption) | intro x
    | (with_reducible first | apply hr)
    | (simp only [canon_mk_iff]; apply canon_parts)

theorem trlRestart_canon {n : Nat} (hs : Canon v q s) : Canon v q (trlRestart s n) := by
  unfold trlRestart
  repeat' first
    | (with_reducible assumption) | intro x
    | (with_reducible first | apply State.setN_canon | apply State.setEng_canon | apply trlShow_canon)

theorem trlBlockReset_canon {n : Nat} (hs : Canon v q s) : Canon v q (trlBlockReset s n) := by
  unfold trlBlockReset
  repeat' first
    | (with_reducible assumption) | intro x
    | (extract_lets +onlyGivenNames t; first
        | (refine (fun (ht : Canon v q t) => ?_) ?_ <;> [clear_value t; (unfold t; clear t)])
        | clear_value t)
    | (with_reducible first | apply ite_canon | apply State.setN_canon | apply trlRestart_canon)
    | split

theorem returnDescs_canon {a cause : Nat} (hs : Canon v q s) : Canon v q (returnDescs s a cause) := by
  unfold returnDescs
  repeat' first
    | (with_reducible assumption) | intro x
    | (extract_lets +onlyGivenNames t; first
        | (refine (fun (ht : Canon v q t) => ?_) ?_ <;> [clear_value t; (unfold t; clear t)])
        | clear_value t)
    | (with_reducible first | apply State.setPick_canon)
    | (simp only [canon_mk_iff]; apply canon_parts)

theorem slotReset_canon {j : Nat} (hr : RaisesCanon v q r) (hs : Canon v q s) : Canon v q (slotReset r s j) := by
  unfold slotReset
  repeat' first
    | (with_reducible assumption) | intro x
    | (extract_lets +onlyGivenNames t; first
        | (refine (fun (ht : Canon v q t) => ?_) ?_ <;> [clear_value t; (unfold t; clear t)])
        | clear_value t)
    | (with_reducible first
        | apply foldl_canon | apply State.setN_canon | apply State.setCh_canon | apply State.setWr_canon
        | apply assistOff_canon | apply abandonRead_canon | apply refreshWrite_canon | apply endPart_canon
        | apply sectorEnds_canon | apply hr)
    | (simp only [canon_mk_iff]; apply canon_parts)

theorem trlQuiet_canon {n : Nat} (hs : Canon v q s) : Canon v q (trlQuiet s n) := by
  unfold trlQuiet
  repeat' first
    | (with_reducible assumption) | intro x
    | (with_reducible first | apply State.setEng_canon)
    | (simp only [canon_mk_iff]; apply canon_parts)

/-! ### Machine/HostOps -/

theorem State.setHost_canon {h0 : HostSt} (hs : Canon v q s) : Canon v q (State.setHost s h0) := by
  unfold State.setHost
  repeat' first
    | (with_reducible assumption) | intro x
    | (simp only [canon_mk_iff]; apply canon_parts)

theorem returnData_canon {c : Ref} {l : List Byte} (hs : Canon v q s) : Canon v q (returnData s c l) := by
  unfold returnData
  repeat' first
    | (with_reducible assumption) | intro x
    | (with_reducible first | apply State.setHost_canon)
    | (simp only [canon_mk_iff]; apply canon_parts)

theorem State.setCmd_canon {e : CmdEnt} (hs : Canon v q s) : Canon v q (State.setCmd s e) := by
  unfold State.setCmd
  repeat' first
    | (with_reducible assumption) | intro x
    | (with_reducible first | apply ite_canon | apply State.setHost_canon)
    | split | (simp only [canon_mk_iff]; apply canon_parts)

theorem State.setSubQ_canon {j : Nat} {x : SubQ} (hs : Canon v q s) : Canon v q (State.setSubQ s j x) := by
  unfold State.setSubQ
  repeat' first
    | (with_reducible assumption) | intro x
    | (with_reducible first | apply State.setHost_canon)
    | (simp only [canon_mk_iff]; apply canon_parts)

theorem showOq_canon {j : Nat} (hs : Canon v q s) : Canon v q (showOq s j) := by
  unfold showOq
  repeat' first
    | (with_reducible assumption) | intro x
    | (with_reducible first | apply ite_canon | apply State.setN_canon)
    | split | (simp only [canon_mk_iff]; apply canon_parts)

theorem violate_canon {kind sqid cid detail : Nat} (hr : RaisesCanon v q r) (hs : Canon v q s) : Canon v q
    (violate r s kind sqid cid detail) := by
  unfold violate
  repeat' first
    | (with_reducible assumption) | intro x
    | (extract_lets +onlyGivenNames t; first
        | (refine (fun (ht : Canon v q t) => ?_) ?_ <;> [clear_value t; (unfold t; clear t)])
        | clear_value t)
    | (with_reducible first | apply ite_canon | apply State.inc_canon | apply State.setHost_canon | apply hr)
    | split | (simp only [canon_mk_iff]; apply canon_parts)

theorem freeze_canon {j : Nat} {x : SubQ} {e : CmdEnt} (hr : RaisesCanon v q r) (hs : Canon v q s) : Canon v q
    (freeze r s j x e) := by
  unfold freeze
  repeat' first
    | (with_reducible assumption) | intro x
    | (extract_lets +onlyGivenNames t; first
        | (refine (fun (ht : Canon v q t) => ?_) ?_ <;> [clear_value t; (unfold t; clear t)])
        | clear_value t)
    | (with_reducible first
        | apply ite_canon | apply State.inc_canon | apply State.setHost_canon | apply State.setSubQ_canon
        | apply showOq_canon | apply hr)
    | split | (simp only [canon_mk_iff]; apply canon_parts)

theorem advance_canon {j : Nat} (hs : Canon v q s) : Canon v q (advance s j) := by
  unfold advance
  repeat' first
    | (with_reducible assumption) | intro x
    | (extract_lets +onlyGivenNames t; first
        | (refine (fun (ht : Canon v q t) => ?_) ?_ <;> [clear_value t; (unfold t; clear t)])
        | clear_value t)
    | (with_reducible first | apply ite_canon | apply foldl_canon | apply State.setCmd_canon | apply showOq_canon)
    | split | (simp only [canon_mk_iff]; apply canon_parts)

theorem commitBase_canon {e : CmdEnt} {status dw0 : Nat} (hr : RaisesCanon v q r) (hs : Canon v q s) : Canon v q
    (commitBase r s e status dw0) := by
  unfold commitBase
  repeat' first
    | (with_reducible assumption) | intro x
    | (extract_lets +onlyGivenNames t; first
        | (refine (fun (ht : Canon v q t) => ?_) ?_ <;> [clear_value t; (unfold t; clear t)])
        | clear_value t)
    | (with_reducible first
        | apply ite_canon | apply State.setHost_canon | apply State.setCmd_canon | apply freeze_canon | apply hr)
    | split | (simp only [canon_mk_iff]; apply canon_parts)

theorem releaseAborter_canon {e : CmdEnt} (hr : RaisesCanon v q r) (hs : Canon v q s) : Canon v q (releaseAborter r s e) := by
  unfold releaseAborter
  repeat' first
    | (with_reducible assumption) | intro x
    | (with_reducible first
        | apply ite_canon | apply State.inc_canon | apply advance_canon | apply commitBase_canon | apply hr)
    | split | (simp only [canon_mk_iff]; apply canon_parts)

theorem restartCheck_canon {j : Nat} (hr : RaisesCanon v q r) (hs : Canon v q s) : Canon v q (restartCheck r s j) := by
  unfold restartCheck
  repeat' first
    | (with_reducible assumption) | intro x
    | (extract_lets +onlyGivenNames t; first
        | (refine (fun (ht : Canon v q t) => ?_) ?_ <;> [clear_value t; (unfold t; clear t)])
        | clear_value t)
    | (with_reducible first
        | apply ite_canon | apply State.setSubQ_canon | apply advance_canon | apply commitBase_canon | apply hr)
    | split | (simp only [canon_mk_iff]; apply canon_parts)

theorem commitEnt_canon {e : CmdEnt} {status dw0 : Nat} (hr : RaisesCanon v q r) (hs : Canon v q s) : Canon v q
    (commitEnt r s e status dw0) := by
  unfold commitEnt
  repeat' first
    | (with_reducible assumption) | intro x
    | (extract_lets +onlyGivenNames t; first
        | (refine (fun (ht : Canon v q t) => ?_) ?_ <;> [clear_value t; (unfold t; clear t)])
        | clear_value t)
    | (with_reducible first
        | apply advance_canon | apply commitBase_canon | apply releaseAborter_canon | apply restartCheck_canon | apply hr)

theorem answerBad_canon {e : CmdEnt} {kind detail : Nat} (hr : RaisesCanon v q r) (hs : Canon v q s) : Canon v q
    (answerBad r s e kind detail) := by
  unfold answerBad
  repeat' first
    | (with_reducible assumption) | intro x
    | (with_reducible first | apply ite_canon | apply State.inc_canon | apply violate_canon | apply hr)
    | split | (simp only [canon_mk_iff]; apply canon_parts)

theorem settleBad_canon {fuel : Nat} (hr : RaisesCanon v q r) (hs : Canon v q s) : Canon v q (settleBad r s fuel) := by
  induction fuel generalizing s with
  | zero => exact hs
  | succ n ih =>
    unfold settleBad
    repeat' first
      | (with_reducible assumption) | intro x
      | (extract_lets +onlyGivenNames t; first
          | (refine (fun (ht : Canon v q t) => ?_) ?_ <;> [clear_value t; (unfold t; clear t)])
          | clear_value t)
      | (with_reducible first | apply ih | apply commitEnt_canon | apply answerBad_canon | apply hr)
      | split | (simp only [canon_mk_iff]; apply canon_parts)

theorem settle_canon (hr : RaisesCanon v q r) (hs : Canon v q s) : Canon v q (settle r s) := by
  unfold settle
  repeat' first
    | (with_reducible assumption) | intro x
    | (with_reducible first | apply settleBad_canon | apply hr)

theorem discardRun_canon {j fuel : Nat} (hr : RaisesCanon v q r) (hs : Canon v q s) : Canon v q (discardRun r s j fuel) := by
  induction fuel generalizing s j with
  | zero => exact hs
  | succ n ih =>
    unfold discardRun
    repeat' first
      | (with_reducible assumption) | intro x
      | (with_reducible first | apply ih | apply ite_canon | apply commitEnt_canon | apply hr)
      | split | (simp only [canon_mk_iff]; apply canon_parts)

theorem discards_canon {j : Nat} (hr : RaisesCanon v q r) (hs : Canon v q s) : Canon v q (discards r s j) := by
  unfold discards
  repeat' first
    | (with_reducible assumption) | intro x
    | (with_reducible first | apply discardRun_canon | apply hr)

theorem completeCore_canon {c : Ref} {status dw0 : Nat} (hr : RaisesCanon v q r) (hs : Canon v q s) : Canon v q
    (completeCore r s c status dw0) := by
  unfold completeCore
  repeat' first
    | (with_reducible assumption) | intro x
    | (with_reducible first
        | apply ite_canon | apply State.setCmd_canon | apply advance_canon | apply commitEnt_canon | apply discards_canon
        | apply hr)
    | split | (simp only [canon_mk_iff]; apply canon_parts)

theorem complete_canon {c : Ref} {status dw0 : Nat} (hr : RaisesCanon v q r) (hs : Canon v q s) : Canon v q
    (complete r s c status dw0) := by
  unfold complete
  repeat' first
    | (with_reducible assumption) | intro x
    | (with_reducible first | apply settle_canon | apply completeCore_canon | apply hr)

theorem asyncEvent_canon {ty info log : Nat} (hr : RaisesCanon v q r) (hs : Canon v q s) : Canon v q
    (asyncEvent r s ty info log) := by
  unfold asyncEvent
  repeat' first
    | (with_reducible assumption) | intro x
    | (with_reducible first | apply State.setHost_canon | apply complete_canon | apply hr)
    | split | (simp only [canon_mk_iff]; apply canon_parts)

theorem releaseLocks_canon {m cause : Nat} (hr : RaisesCanon v q r) (hs : Canon v q s) : Canon v q (releaseLocks r s m cause)
    := by
  unfold releaseLocks
  repeat' first
    | (with_reducible assumption) | intro x
    | (extract_lets +onlyGivenNames t; first
        | (refine (fun (ht : Canon v q t) => ?_) ?_ <;> [clear_value t; (unfold t; clear t)])
        | clear_value t)
    | (with_reducible first | apply ite_canon | apply foldl_canon | apply State.set_canon | apply hr)
    | split | (simp only [canon_mk_iff]; apply canon_parts)

/-! ### Machine/SheafOps -/

theorem sheafEvent_canon {e : Nat} {items : List Nat} {port : Nat} (hr : RaisesCanon v q r) (hs : Canon v q s) : Canon v q
    (sheafEvent r s e items port) := by
  unfold sheafEvent
  repeat' first
    | (with_reducible assumption) | intro x
    | (with_reducible first | apply hr)
    | (simp only [canon_mk_iff]; apply canon_parts)

theorem portResult_canon {p status slot count : Nat} (hs : Canon v q s) : Canon v q (portResult s p status slot count) := by
  unfold portResult
  repeat' first
    | (with_reducible assumption) | intro x
    | (with_reducible first | apply ite_canon | apply State.setN_canon)
    | split

theorem showOpen_canon (hs : Canon v q s) : Canon v q (showOpen s) := by
  unfold showOpen
  repeat' first
    | (with_reducible assumption) | intro x
    | (with_reducible first | apply State.setN_canon)

theorem persistAbandon_canon (hs : Canon v q s) : Canon v q (persistAbandon s) := by
  unfold persistAbandon
  repeat' first
    | (with_reducible assumption) | intro x
    | (with_reducible first
        | apply ite_canon | apply foldl_canon | apply State.setN_canon | apply State.drawn_canon | apply raiseBase_canon)
    | split | (simp only [canon_mk_iff]; apply canon_parts)

theorem flushStart_canon {cause : Nat} (hs : Canon v q s) : Canon v q (flushStart s cause) := by
  unfold flushStart
  repeat' first
    | (with_reducible assumption) | intro x
    | (extract_lets +onlyGivenNames t; first
        | (refine (fun (ht : Canon v q t) => ?_) ?_ <;> [clear_value t; (unfold t; clear t)])
        | clear_value t)
    | (with_reducible first | apply ite_canon | apply State.setN_canon | apply persistAbandon_canon)
    | split | (simp only [canon_mk_iff]; apply canon_parts)

theorem flushAsk_canon {cause : Nat} (hs : Canon v q s) : Canon v q (flushAsk s cause) := by
  unfold flushAsk
  repeat' first
    | (with_reducible assumption) | intro x
    | (with_reducible first | apply ite_canon | apply flushStart_canon)
    | split

theorem sheafQuiesce_canon (hs : Canon v q s) : Canon v q (sheafQuiesce s) := by
  unfold sheafQuiesce
  repeat' first
    | (with_reducible assumption) | intro x
    | (extract_lets +onlyGivenNames t; first
        | (refine (fun (ht : Canon v q t) => ?_) ?_ <;> [clear_value t; (unfold t; clear t)])
        | clear_value t)
    | (with_reducible first | apply foldl_canon | apply State.setN_canon | apply portResult_canon | apply showOpen_canon)
    | (simp only [canon_mk_iff]; apply canon_parts)

/-! ### Machine/SieveOps -/

theorem sieveEvent_canon {n e : Nat} {items : List Nat} (hr : RaisesCanon v q r) (hs : Canon v q s) : Canon v q
    (sieveEvent r s n e items) := by
  unfold sieveEvent
  repeat' first
    | (with_reducible assumption) | intro x
    | (with_reducible first | apply hr)
    | (simp only [canon_mk_iff]; apply canon_parts)

theorem endRun_canon {n code result status : Nat} (hr : RaisesCanon v q r) (hs : Canon v q s) : Canon v q
    (endRun r s n code result status) := by
  unfold endRun
  repeat' first
    | (with_reducible assumption) | intro x
    | (extract_lets +onlyGivenNames t; first
        | (refine (fun (ht : Canon v q t) => ?_) ?_ <;> [clear_value t; (unfold t; clear t)])
        | clear_value t)
    | (with_reducible first
        | apply ite_canon | apply State.setN_canon | apply State.setSieveEng_canon | apply State.on_canon
        | apply unholdRes_canon | apply complete_canon | apply hr)
    | split | (simp only [canon_mk_iff]; apply canon_parts)

theorem stopRun_canon {n status : Nat} (hr : RaisesCanon v q r) (hs : Canon v q s) : Canon v q (stopRun r s n status) := by
  unfold stopRun
  repeat' first
    | (with_reducible assumption) | intro x
    | (with_reducible first | apply endRun_canon | apply hr)

theorem withdrawRun_canon {n : Nat} (hr : RaisesCanon v q r) (hs : Canon v q s) : Canon v q (withdrawRun r s n) := by
  unfold withdrawRun
  repeat' first
    | (with_reducible assumption) | intro x
    | (extract_lets +onlyGivenNames t; first
        | (refine (fun (ht : Canon v q t) => ?_) ?_ <;> [clear_value t; (unfold t; clear t)])
        | clear_value t)
    | (with_reducible first | apply State.inc_canon | apply sieveEvent_canon | apply endRun_canon | apply hr)
    | split | (simp only [canon_mk_iff]; apply canon_parts)

theorem setPaused_canon {n : Nat} {p : Bool} (hr : RaisesCanon v q r) (hs : Canon v q s) : Canon v q (setPaused r s n p) := by
  unfold setPaused
  repeat' first
    | (with_reducible assumption) | intro x
    | (with_reducible first | apply ite_canon | apply regovern_canon | apply hr)
    | split | (simp only [canon_mk_iff]; apply canon_parts)

theorem pauseOne_canon {n : Nat} (hr : RaisesCanon v q r) (hs : Canon v q s) : Canon v q (pauseOne r s n) := by
  unfold pauseOne
  repeat' first
    | (with_reducible assumption) | intro x
    | (extract_lets +onlyGivenNames t; first
        | (refine (fun (ht : Canon v q t) => ?_) ?_ <;> [clear_value t; (unfold t; clear t)])
        | clear_value t)
    | (with_reducible first
        | apply State.setN_canon | apply State.inc_canon | apply State.setSieveEng_canon | apply setPaused_canon | apply hr)
    | (simp only [canon_mk_iff]; apply canon_parts)

theorem resumeOne_canon {n : Nat} (hr : RaisesCanon v q r) (hs : Canon v q s) : Canon v q (resumeOne r s n) := by
  unfold resumeOne
  repeat' first
    | (with_reducible assumption) | intro x
    | (extract_lets +onlyGivenNames t; first
        | (refine (fun (ht : Canon v q t) => ?_) ?_ <;> [clear_value t; (unfold t; clear t)])
        | clear_value t)
    | (with_reducible first | apply State.setN_canon | apply State.setSieveEng_canon | apply setPaused_canon | apply hr)
    | (simp only [canon_mk_iff]; apply canon_parts)

theorem pauseEngines_canon {l : List Nat} {thermal : Bool} (hr : RaisesCanon v q r) (hs : Canon v q s) : Canon v q
    (pauseEngines r s l thermal) := by
  unfold pauseEngines
  repeat' first
    | (with_reducible assumption) | intro x
    | (extract_lets +onlyGivenNames t; first
        | (refine (fun (ht : Canon v q t) => ?_) ?_ <;> [clear_value t; (unfold t; clear t)])
        | clear_value t)
    | (with_reducible first | apply ite_canon | apply foldl_canon | apply pauseOne_canon | apply hr)
    | split | (simp only [canon_mk_iff]; apply canon_parts)

theorem sieveControllerReset_canon (hr : RaisesCanon v q r) (hs : Canon v q s) : Canon v q (sieveControllerReset r s) := by
  unfold sieveControllerReset
  repeat' first
    | (with_reducible assumption) | intro x
    | (extract_lets +onlyGivenNames t; first
        | (refine (fun (ht : Canon v q t) => ?_) ?_ <;> [clear_value t; (unfold t; clear t)])
        | clear_value t)
    | (with_reducible first | apply foldl_canon | apply stopRun_canon | apply hr)
    | split | (simp only [canon_mk_iff]; apply canon_parts)

theorem endWork_canon (hs : Canon v q s) : Canon v q (endWork s) := by
  unfold endWork
  repeat' first
    | (with_reducible assumption) | intro x
    | (simp only [canon_mk_iff]; apply canon_parts)

theorem controllerReset_canon {cause : Nat} {fatal : Bool} (hr : RaisesCanon v q r) (hs : Canon v q s) : Canon v q
    (controllerReset r s cause fatal) := by
  unfold controllerReset
  repeat' first
    | (with_reducible assumption) | intro x
    | (extract_lets +onlyGivenNames t; first
        | (refine (fun (ht : Canon v q t) => ?_) ?_ <;> [clear_value t; (unfold t; clear t)])
        | clear_value t)
    | (with_reducible first
        | apply ite_canon | apply foldl_canon | apply State.set_canon | apply State.setN_canon | apply State.setHost_canon
        | apply releaseLocks_canon | apply sieveControllerReset_canon | apply endWork_canon | apply hr)
    | split | (simp only [canon_mk_iff]; apply canon_parts)

/-! ### Machine/PowerOps -/

theorem modeEvent_canon {e : Nat} {items : List Nat} (hr : RaisesCanon v q r) (hs : Canon v q s) : Canon v q
    (modeEvent r s e items) := by
  unfold modeEvent
  repeat' first
    | (with_reducible assumption) | intro x
    | (with_reducible first | apply hr)
    | (simp only [canon_mk_iff]; apply canon_parts)

theorem domainGo_canon {d goal : Nat} (hs : Canon v q s) : Canon v q (domainGo s d goal) := by
  unfold domainGo
  repeat' first
    | (with_reducible assumption) | intro x
    | (extract_lets +onlyGivenNames t; first
        | (refine (fun (ht : Canon v q t) => ?_) ?_ <;> [clear_value t; (unfold t; clear t)])
        | clear_value t)
    | (with_reducible first | apply ite_canon | apply State.setN_canon)
    | split | (simp only [canon_mk_iff]; apply canon_parts)

theorem applySets_canon (hs : Canon v q s) : Canon v q (applySets s) := by
  unfold applySets
  repeat' first
    | (with_reducible assumption) | intro x
    | (with_reducible first | apply foldl_canon | apply domainGo_canon)
    | split | (simp only [canon_mk_iff]; apply canon_parts)

theorem withdrawnEvent_canon {h0 : Holder} {cls cause : Nat} (hr : RaisesCanon v q r) (hs : Canon v q s) : Canon v q
    (withdrawnEvent r s h0 cls cause) := by
  unfold withdrawnEvent
  repeat' first
    | (with_reducible assumption) | intro x
    | (with_reducible first | apply modeEvent_canon | apply hr)

theorem withdrawSlotB_canon {a cause : Nat} (hr : RaisesCanon v q r) (hs : Canon v q s) : Canon v q
    (withdrawSlotB r s a cause) := by
  unfold withdrawSlotB
  repeat' first
    | (with_reducible assumption) | intro x
    | (extract_lets +onlyGivenNames t; first
        | (refine (fun (ht : Canon v q t) => ?_) ?_ <;> [clear_value t; (unfold t; clear t)])
        | clear_value t)
    | (with_reducible first
        | apply ite_canon | apply unholdRes_canon | apply twinLeave_canon | apply withdrawnEvent_canon | apply hr)
    | split | (simp only [canon_mk_iff]; apply canon_parts)

theorem withdrawOne_canon {r : Raiser} {s t : State} {cls cause : Nat} (he : withdrawOne r s cls cause = some t)
    (hr : ∀ s e l o, Canon v q s → Canon v q (r s e l o)) (hs : Canon v q s) : Canon v q t := by
  unfold withdrawOne at he
  repeat' split at he
  all_goals first
    | cases he
    | skip
  · exact withdrawnEvent_canon hr (pauseEngines_canon hr hs)
  · exact withdrawSlotB_canon hr hs
  · exact withdrawSlotB_canon hr hs

theorem withdrawOne_getD_canon {r : Raiser} {cls cause : Nat} (hr : ∀ s e l o, Canon v q s → Canon v q (r s e l o))
    (hs : Canon v q s) : Canon v q ((withdrawOne r s cls cause).getD s) := by
  rcases he : withdrawOne r s cls cause with _ | t
  · exact hs
  · exact withdrawOne_canon he hr hs

theorem makeRoom_canon {fuel mw cls cause : Nat} (hr : RaisesCanon v q r) (hs : Canon v q s) : Canon v q
    (makeRoom r s fuel mw cls cause) := by
  induction fuel generalizing s mw cls cause with
  | zero => exact hs
  | succ n ih =>
    unfold makeRoom
    repeat' first
      | (with_reducible assumption) | intro x
      | (with_reducible first
          | apply ih | apply ite_canon | refine withdrawOne_canon (by with_reducible assumption) ?_ ?_ | apply hr)
      | split | (simp only [canon_mk_iff]; apply canon_parts)

theorem grantRun_canon {h0 : Holder} (hs : Canon v q s) : Canon v q (grantRun s h0) := by
  unfold grantRun
  repeat' first
    | (with_reducible assumption) | intro x
    | (extract_lets +onlyGivenNames t; first
        | (refine (fun (ht : Canon v q t) => ?_) ?_ <;> [clear_value t; (unfold t; clear t)])
        | clear_value t)
    | (with_reducible first | apply State.setSieveEng_canon)
    | split | (simp only [canon_mk_iff]; apply canon_parts)

theorem grantWaiting_canon {fuel : Nat} (hr : RaisesCanon v q r) (hs : Canon v q s) : Canon v q (grantWaiting r s fuel) := by
  induction fuel generalizing s with
  | zero => exact hs
  | succ n ih =>
    unfold grantWaiting
    repeat' first
      | (with_reducible assumption) | intro x
      | (extract_lets +onlyGivenNames t; first
          | (refine (fun (ht : Canon v q t) => ?_) ?_ <;> [clear_value t; (unfold t; clear t)])
          | clear_value t)
      | (with_reducible first
          | apply ih | apply ite_canon | apply foldl_canon | apply holdRes_canon | apply grantRun_canon | apply hr)
      | split | (simp only [canon_mk_iff]; apply canon_parts)

theorem resumeEngines_canon (hr : RaisesCanon v q r) (hs : Canon v q s) : Canon v q (resumeEngines r s) := by
  unfold resumeEngines
  repeat' first
    | (with_reducible assumption) | intro x
    | (extract_lets +onlyGivenNames t; first
        | (refine (fun (ht : Canon v q t) => ?_) ?_ <;> [clear_value t; (unfold t; clear t)])
        | clear_value t)
    | (with_reducible first
        | refine foldl_fst_canon_eq (by with_reducible assumption) ?_ ?_ | apply foldl_fst_canon | apply ite_canon
        | apply foldl_canon | apply resumeOne_canon | apply hr)
    | split | dsimp only | (simp only [canon_mk_iff]; apply canon_parts)

theorem regrantAll_canon (hr : RaisesCanon v q r) (hs : Canon v q s) : Canon v q (regrantAll r s) := by
  unfold regrantAll
  repeat' first
    | (with_reducible assumption) | intro x
    | (with_reducible first | apply regovern_canon | apply grantWaiting_canon | apply resumeEngines_canon | apply hr)

theorem envelopeLowered_canon (hr : RaisesCanon v q r) (hs : Canon v q s) : Canon v q (envelopeLowered r s) := by
  unfold envelopeLowered
  repeat' first
    | (with_reducible assumption) | intro x
    | (with_reducible first | apply regovern_canon | apply makeRoom_canon | apply hr)

theorem reEnvelope_canon (hr : RaisesCanon v q r) (hs : Canon v q s) : Canon v q (reEnvelope r s) := by
  unfold reEnvelope
  repeat' first
    | (with_reducible assumption) | intro x
    | (extract_lets +onlyGivenNames t; first
        | (refine (fun (ht : Canon v q t) => ?_) ?_ <;> [clear_value t; (unfold t; clear t)])
        | clear_value t)
    | (with_reducible first
        | apply ite_canon | apply State.setN_canon | apply regrantAll_canon | apply envelopeLowered_canon | apply hr)
    | split

theorem mediaOff_canon {gateCause retractCause : Nat} (hr : RaisesCanon v q r) (hs : Canon v q s) : Canon v q
    (mediaOff r s gateCause retractCause) := by
  unfold mediaOff
  repeat' first
    | (with_reducible assumption) | intro x
    | (extract_lets +onlyGivenNames t; first
        | (refine (fun (ht : Canon v q t) => ?_) ?_ <;> [clear_value t; (unfold t; clear t)])
        | clear_value t)
    | (with_reducible first | apply closeGates_canon | apply retract_canon | apply stopLinks_canon | apply hr)

theorem safeEnter_canon {cause : Nat} {hw : Bool} (hr : RaisesCanon v q r) (hs : Canon v q s) : Canon v q
    (safeEnter r s cause hw) := by
  unfold safeEnter
  repeat' first
    | (with_reducible assumption) | intro x
    | (extract_lets +onlyGivenNames t; first
        | (refine (fun (ht : Canon v q t) => ?_) ?_ <;> [clear_value t; (unfold t; clear t)])
        | clear_value t)
    | (with_reducible first
        | apply ite_canon | apply foldl_canon | apply State.setN_canon | apply State.on_canon | apply complete_canon
        | apply flushAsk_canon | apply withdrawRun_canon | apply modeEvent_canon | apply applySets_canon
        | apply withdrawSlotB_canon | apply mediaOff_canon | apply hr)
    | split | (simp only [canon_mk_iff]; apply canon_parts)

end Sys2Proof.Machine
end

