-- ==== Sys2Proof/Laws/CanonEvents.lean ====
section
/-! SUPPORT. What keeps the canonical form: resets, reactions to events, the almanac and every event report. One lemma per operation and per meaning. -/

namespace Sys2Proof.Machine

-- Elaborated one after another: the package as one text must fit the memory its check allows.
set_option Elab.async false

set_option linter.unusedTactic false
set_option linter.unreachableTactic false
set_option linter.unusedVariables false

variable {v : Variant} {q : List Instr} {s t : State} {r : Raiser}

/-! ### Machine/Reset -/

theorem actReset_canon {a : Nat} (hr : RaisesCanon v q r) (hs : Canon v q s) : Canon v q (actReset r s a) := by
  unfold actReset
  repeat' first
    | (with_reducible assumption) | intro x
    | (with_reducible first | apply State.setAct_canon | apply retractNow_canon | apply hr)
    | (simp only [canon_mk_iff]; apply canon_parts)

theorem ethReset_canon (hs : Canon v q s) : Canon v q (ethReset s) := by
  unfold ethReset
  repeat' first
    | (with_reducible assumption) | intro x
    | (with_reducible first | apply State.setN_canon | apply State.setHost_canon)
    | (simp only [canon_mk_iff]; apply canon_parts)

theorem unitEffect_canon {u : Nat} {engine : Bool} (hr : RaisesCanon v q r) (hs : Canon v q s) : Canon v q
    (unitEffect r s u engine) := by
  unfold unitEffect
  repeat' first
    | (with_reducible assumption) | intro x
    | (extract_lets +onlyGivenNames t; first
        | (refine (fun (ht : Canon v q t) => ?_) ?_ <;> [clear_value t; (unfold t; clear t)])
        | clear_value t)
    | (with_reducible first
        | apply ite_canon | apply foldl_canon | apply State.drawn_canon | apply motorReset_canon | apply deepReset_canon
        | apply trlBlockReset_canon | apply slotReset_canon | apply stopRun_canon | apply controllerReset_canon
        | apply actReset_canon | apply ethReset_canon | apply hr)
    | split

theorem escalate_canon {u cause : Nat} (hs : Canon v q s) : Canon v q (escalate s u cause) := by
  unfold escalate
  repeat' first
    | (with_reducible assumption) | intro x
    | (extract_lets +onlyGivenNames t; first
        | (refine (fun (ht : Canon v q t) => ?_) ?_ <;> [clear_value t; (unfold t; clear t)])
        | clear_value t)
    | (with_reducible first | apply ite_canon | apply raiseBase_canon)
    | split | (simp only [canon_mk_iff]; apply canon_parts)

theorem resetUnit_canon {u cause : Nat} {inFault engine : Bool} (hs : Canon v q s) : Canon v q
    (resetUnit s u cause inFault engine) := by
  unfold resetUnit
  repeat' first
    | (with_reducible assumption) | intro x
    | (with_reducible first | apply raiseBase_canon | apply startBlank_canon | apply unitEffect_canon | apply escalate_canon)

theorem blockReset_canon {u cause : Nat} (hs : Canon v q s) : Canon v q (blockReset s u cause) := by
  unfold blockReset
  repeat' first
    | (with_reducible assumption) | intro x
    | (with_reducible first | apply resetUnit_canon)

/-! ### Machine/React -/

theorem degradeAction_canon {e : Nat} (hs : Canon v q s) : Canon v q (degradeAction s e) := by
  unfold degradeAction
  repeat' first
    | (with_reducible assumption) | intro x
    | (with_reducible first | apply ite_canon | apply raiseBase_canon | apply unloadNow_canon | apply setDegraded_canon)
    | split

theorem raise_canon {e : Nat} {ps : List Nat} {o : Occ} (hs : Canon v q s) : Canon v q (raise s e ps o) := by
  unfold raise
  repeat' first
    | (with_reducible assumption) | intro x
    | (extract_lets +onlyGivenNames t; first
        | (refine (fun (ht : Canon v q t) => ?_) ?_ <;> [clear_value t; (unfold t; clear t)])
        | clear_value t)
    | (with_reducible first | apply ite_canon | apply raiseBase_canon | apply blockReset_canon | apply degradeAction_canon)
    | split | (simp only [canon_mk_iff]; apply canon_parts)

theorem safeNow_canon {cause : Nat} (hr : RaisesCanon v q r) (hs : Canon v q s) : Canon v q (safeNow r s cause) := by
  unfold safeNow
  repeat' first
    | (with_reducible assumption) | intro x
    | (with_reducible first | apply safeEnter_canon | apply hr)

/-! ### Machine/PartOps -/

theorem selectHead_canon {j h0 : Nat} (hs : Canon v q s) : Canon v q (selectHead s j h0) := by
  unfold selectHead
  repeat' first
    | (with_reducible assumption) | intro x
    | (extract_lets +onlyGivenNames t; first
        | (refine (fun (ht : Canon v q t) => ?_) ?_ <;> [clear_value t; (unfold t; clear t)])
        | clear_value t)
    | (with_reducible first | apply ite_canon | apply linkPost_canon | apply setHeater_canon)
    | split | (simp only [canon_mk_iff]; apply canon_parts)

theorem loadLoops_canon {j h0 n : Nat} {ignore : Bool} (hs : Canon v q s) : Canon v q (loadLoops s j h0 n ignore) := by
  unfold loadLoops
  repeat' first
    | (with_reducible assumption) | intro x
    | (extract_lets +onlyGivenNames t; first
        | (refine (fun (ht : Canon v q t) => ?_) ?_ <;> [clear_value t; (unfold t; clear t)])
        | clear_value t)
    | (with_reducible first | apply ite_canon | apply State.setN_canon | apply State.setI_canon | apply State.setCh_canon)
    | split | (simp only [canon_mk_iff]; apply canon_parts)

theorem startPart_canon {j n cnt : Nat} {other : Option Nat} {d : Desc} (hs : Canon v q s) : Canon v q
    (startPart s j n cnt other d) := by
  unfold startPart
  repeat' first
    | (with_reducible assumption) | intro x
    | (extract_lets +onlyGivenNames t; first
        | (refine (fun (ht : Canon v q t) => ?_) ?_ <;> [clear_value t; (unfold t; clear t)])
        | clear_value t)
    | (with_reducible first
        | apply ite_canon | apply State.setN_canon | apply State.inc_canon | apply State.setCh_canon
        | apply State.setWr_canon | apply setHeater_canon | apply refreshWrite_canon | apply selectHead_canon
        | apply loadLoops_canon)
    | split | (simp only [canon_mk_iff]; apply canon_parts)

theorem takeSurface_canon {j h0 track : Nat} (hs : Canon v q s) : Canon v q (takeSurface s j h0 track) := by
  unfold takeSurface
  repeat' first
    | (with_reducible assumption) | intro x
    | (extract_lets +onlyGivenNames t; first
        | (refine (fun (ht : Canon v q t) => ?_) ?_ <;> [clear_value t; (unfold t; clear t)])
        | clear_value t)
    | (with_reducible first
        | apply ite_canon | apply State.setN_canon | apply State.setCh_canon | apply setHeater_canon | apply hrEnd_canon
        | apply selectHead_canon | apply loadLoops_canon)
    | split | (simp only [canon_mk_iff]; apply canon_parts)

/-! ### Machine/Almanac -/



/-! ### Machine/Events -/

theorem faultDetected_canon {u e : Nat} (hs : Canon v q s) : Canon v q (faultDetected s u e) := by
  unfold faultDetected
  repeat' first
    | (with_reducible assumption) | intro x
    | (extract_lets +onlyGivenNames t; first
        | (refine (fun (ht : Canon v q t) => ?_) ?_ <;> [clear_value t; (unfold t; clear t)])
        | clear_value t)
    | (with_reducible first | apply ite_canon | apply raiseBase_canon)
    | split | (simp only [canon_mk_iff]; apply canon_parts)

theorem execBlockReset_canon {u : Fin 20} {cause : Fin 512} (hs : Canon v q s) : Ends v q (execBlockReset u cause s) := by
  unfold execBlockReset
  repeat' first
    | (with_reducible assumption) | intro x
    | (with_reducible first | apply ends_next_canon | apply blockReset_canon | apply faultDetected_canon)

theorem execBlankingEnd_canon {u : Fin 20} {still : List (Fin 512)} (hs : Canon v q s) : Ends v q (execBlankingEnd u still s)
    := by
  unfold execBlankingEnd
  repeat' first
    | (with_reducible assumption) | intro x
    | (extract_lets +onlyGivenNames t; first
        | (refine (fun (ht : Canon v q t) => ?_) ?_ <;> [clear_value t; (unfold t; clear t)])
        | clear_value t)
    | (with_reducible first
        | apply ends_next_canon | apply ite_ends | apply ite_canon | apply foldl_canon | apply State.setCh_canon
        | apply raise_canon)
    | split | (simp only [canon_mk_iff]; apply canon_parts)

theorem execFaultPulseEnd_canon (hs : Canon v q s) : Ends v q (execFaultPulseEnd s) := by
  unfold execFaultPulseEnd
  repeat' first
    | (with_reducible assumption) | intro x
    | (with_reducible first | apply ends_next_canon)
    | (simp only [canon_mk_iff]; apply canon_parts)

theorem execFaultHoldWrite_canon {m : Master} {w : Word} (hs : Canon v q s) : Ends v q (execFaultHoldWrite m w s) := by
  unfold execFaultHoldWrite
  repeat' first
    | (with_reducible assumption) | intro x
    | (with_reducible first | apply ends_next_canon | apply id_canon | apply kwrite_canon)

theorem setBlk_canon {b : Nat} {x : StatBlk} (hs : Canon v q s) : Canon v q (setBlk s b x) := by
  unfold setBlk
  repeat' first
    | (with_reducible assumption) | intro x
    | (simp only [canon_mk_iff]; apply canon_parts)

theorem latchedClearAct_canon {blk : Nat} {hi : Bool} {w : Word} (ht : Canon v q t) : Canon v q (latchedClearAct blk hi w t)
    := by
  unfold latchedClearAct
  repeat' first
    | (with_reducible assumption) | intro x
    | (extract_lets +onlyGivenNames t; first
        | (refine (fun (ht : Canon v q t) => ?_) ?_ <;> [clear_value t; (unfold t; clear t)])
        | clear_value t)
    | (with_reducible first | apply ite_canon | apply setBlk_canon)
    | split | (simp only [canon_mk_iff]; apply canon_parts)

theorem execLatchedClear_canon {m : Master} {blk : Fin 20} {hi : Bool} {w : Word} (hs : Canon v q s) : Ends v q
    (execLatchedClear m blk hi w s) := by
  unfold execLatchedClear
  repeat' first
    | (with_reducible assumption) | intro x
    | (with_reducible first
        | apply ends_next_canon | apply ite_ends | apply ite_canon | apply kwrite_canon | apply latchedClearAct_canon)
    | split

theorem captureReleaseAct_canon {blk : Nat} (ht : Canon v q t) : Canon v q (captureReleaseAct blk t) := by
  unfold captureReleaseAct
  repeat' first
    | (with_reducible assumption) | intro x
    | (with_reducible first | apply setBlk_canon)

theorem execCaptureRelease_canon {m : Master} {blk : Fin 20} {w : Word} (hs : Canon v q s) : Ends v q
    (execCaptureRelease m blk w s) := by
  unfold execCaptureRelease
  repeat' first
    | (with_reducible assumption) | intro x
    | (with_reducible first | apply ends_next_canon | apply kwrite_canon | apply captureReleaseAct_canon)

theorem captureModeWriteAct_canon (ht : Canon v q t) : Canon v q (captureModeWriteAct t) := by
  unfold captureModeWriteAct
  repeat' first
    | (with_reducible assumption) | intro x
    | (simp only [canon_mk_iff]; apply canon_parts)

theorem execCaptureModeWrite_canon {m : Master} {w : Word} (hs : Canon v q s) : Ends v q (execCaptureModeWrite m w s) := by
  unfold execCaptureModeWrite
  repeat' first
    | (with_reducible assumption) | intro x
    | (with_reducible first | apply ends_next_canon | apply kwrite_canon | apply captureModeWriteAct_canon)

theorem execEventCfgWrite_canon {m : Master} {e : Fin 512} {w : Word} (hs : Canon v q s) : Ends v q
    (execEventCfgWrite m e w s) := by
  unfold execEventCfgWrite
  repeat' first
    | (with_reducible assumption) | intro x
    | (with_reducible first | apply ends_next_canon | apply id_canon | apply kwrite_canon)

theorem injectGoAct_canon {m : Nat} (ht : Canon v q t) : Canon v q (injectGoAct m t) := by
  unfold injectGoAct
  repeat' first
    | (with_reducible assumption) | intro x
    | (extract_lets +onlyGivenNames t; first
        | (refine (fun (ht : Canon v q t) => ?_) ?_ <;> [clear_value t; (unfold t; clear t)])
        | clear_value t)
    | (with_reducible first | apply ite_canon | apply raise_canon)
    | split | (simp only [canon_mk_iff]; apply canon_parts)

theorem execInjectGo_canon {m : Master} {w : Word} (hs : Canon v q s) : Ends v q (execInjectGo m w s) := by
  unfold execInjectGo
  repeat' first
    | (with_reducible assumption) | intro x
    | (with_reducible first | apply ends_next_canon | apply kwrite_canon | apply injectGoAct_canon)

theorem execAlmanacRecordWrite_canon {p : Fin 3} (hs : Canon v q s) : Ends v q (execAlmanacRecordWrite p s) := by
  unfold execAlmanacRecordWrite
  repeat' first
    | (with_reducible assumption) | intro x
    | (extract_lets +onlyGivenNames t; first
        | (refine (fun (ht : Canon v q t) => ?_) ?_ <;> [clear_value t; (unfold t; clear t)])
        | clear_value t)
    | (with_reducible first | apply ends_next_canon | apply queueGap_canon)
    | split | (simp only [canon_mk_iff]; apply canon_parts)

theorem fwWriteAct_canon {m : Nat} (ht : Canon v q t) : Canon v q (fwWriteAct m t) := by
  unfold fwWriteAct
  repeat' first
    | (with_reducible assumption) | intro x
    | (with_reducible first | apply fwRecord_canon)

theorem execFwWrite_canon {m : Master} {w : Word} (hs : Canon v q s) : Ends v q (execFwWrite m w s) := by
  unfold execFwWrite
  repeat' first
    | (with_reducible assumption) | intro x
    | (with_reducible first | apply ends_next_canon | apply kwrite_canon | apply fwWriteAct_canon)

theorem windowAdvance_canon {p : Nat} (hs : Canon v q s) : Canon v q (windowAdvance s p) := by
  unfold windowAdvance
  repeat' first
    | (with_reducible assumption) | intro x
    | (extract_lets +onlyGivenNames t; first
        | (refine (fun (ht : Canon v q t) => ?_) ?_ <;> [clear_value t; (unfold t; clear t)])
        | clear_value t)
    | (with_reducible first | apply ite_canon)
    | split | (simp only [canon_mk_iff]; apply canon_parts)

theorem recordBad_canon {p : Nat} (hs : Canon v q s) : Canon v q (recordBad s p) := by
  unfold recordBad
  repeat' first
    | (with_reducible assumption) | intro x
    | (extract_lets +onlyGivenNames t; first
        | (refine (fun (ht : Canon v q t) => ?_) ?_ <;> [clear_value t; (unfold t; clear t)])
        | clear_value t)
    | (with_reducible first | apply ite_canon | apply State.set_canon | apply raise_canon)
    | split | (simp only [canon_mk_iff]; apply canon_parts)

theorem execWindow3Read_canon {m : Master} {p : Fin 3} {bad : Bool} (hs : Canon v q s) : Ends v q (execWindow3Read m p bad s)
    := by
  unfold execWindow3Read
  repeat' first
    | (with_reducible assumption) | intro x
    | (extract_lets +onlyGivenNames t; first
        | (refine (fun (ht : Canon v q t) => ?_) ?_ <;> [clear_value t; (unfold t; clear t)])
        | clear_value t)
    | (with_reducible first
        | apply ends_next_canon | apply ite_ends | apply ite_canon | apply State.deliver_canon | apply recordStatus_canon
        | apply windowAdvance_canon | apply recordBad_canon)
    | split

theorem cursorWriteAct_canon {p : Nat} {w : Word} (ht : Canon v q t) : Canon v q (cursorWriteAct p w t) := by
  unfold cursorWriteAct
  repeat' first
    | (with_reducible assumption) | intro x
    | (simp only [canon_mk_iff]; apply canon_parts)

theorem execCursorWrite_canon {m : Master} {p : Fin 3} {w : Word} (hs : Canon v q s) : Ends v q (execCursorWrite m p w s) := by
  unfold execCursorWrite
  repeat' first
    | (with_reducible assumption) | intro x
    | (with_reducible first | apply ends_next_canon | apply kwrite_canon | apply cursorWriteAct_canon)

theorem partitionReleaseAct_canon {p : Nat} (ht : Canon v q t) : Canon v q (partitionReleaseAct p t) := by
  unfold partitionReleaseAct
  repeat' first
    | (with_reducible assumption) | intro x
    | (extract_lets +onlyGivenNames t; first
        | (refine (fun (ht : Canon v q t) => ?_) ?_ <;> [clear_value t; (unfold t; clear t)])
        | clear_value t)
    | (with_reducible first | apply queueGap_canon)
    | (simp only [canon_mk_iff]; apply canon_parts)

theorem execPartitionRelease_canon {m : Master} {p : Fin 3} {w : Word} (hs : Canon v q s) : Ends v q
    (execPartitionRelease m p w s) := by
  unfold execPartitionRelease
  repeat' first
    | (with_reducible assumption) | intro x
    | (with_reducible first | apply ends_next_canon | apply kwrite_canon | apply partitionReleaseAct_canon)

theorem persistGoAct_canon {p : Nat} (ht : Canon v q t) : Canon v q (persistGoAct p t) := by
  unfold persistGoAct
  repeat' first
    | (with_reducible assumption) | intro x
    | (with_reducible first | apply State.setN_canon)

theorem execPersistGo_canon {m : Master} {p : Fin 3} {w : Word} (hs : Canon v q s) : Ends v q (execPersistGo m p w s) := by
  unfold execPersistGo
  repeat' first
    | (with_reducible assumption) | intro x
    | (with_reducible first | apply ends_next_canon | apply kwrite_canon | apply persistGoAct_canon)

theorem execPersistEnd_canon {p : Fin 3} {ok : Bool} {flashAddr : BitVec 32} (hs : Canon v q s) : Ends v q
    (execPersistEnd p ok flashAddr s) := by
  unfold execPersistEnd
  repeat' first
    | (with_reducible assumption) | intro x
    | (extract_lets +onlyGivenNames t; first
        | (refine (fun (ht : Canon v q t) => ?_) ?_ <;> [clear_value t; (unfold t; clear t)])
        | clear_value t)
    | (with_reducible first
        | apply ends_next_canon | apply ite_ends | apply ite_canon | apply State.setN_canon | apply raise_canon)
    | split | (simp only [canon_mk_iff]; apply canon_parts)

end Sys2Proof.Machine
end

