-- ==== Sys2Proof/Laws/CanonRead.lean ====
section
/-! SUPPORT. What keeps the canonical form: the read front end. One lemma per operation and per meaning. -/

namespace Sys2Proof.Machine

-- Elaborated one after another: the package as one text must fit the memory its check allows.
set_option Elab.async false

set_option linter.unusedTactic false
set_option linter.unreachableTactic false
set_option linter.unusedVariables false

variable {v : Variant} {q : List Instr} {s t : State} {r : Raiser}

/-! ### Machine/ReadFront -/

theorem slotEvent_canon {j k : Nat} {items : List Nat} {entry : Nat} (hs : Canon v q s) : Canon v q
    (slotEvent s j k items entry) := by
  unfold slotEvent
  repeat' first
    | (with_reducible assumption) | intro x
    | (with_reducible first | apply slotEventBy_canon | apply raise_canon)

theorem shed_canon {j fuel : Nat} (hs : Canon v q s) : Canon v q (shed s j fuel) := by
  induction fuel generalizing s j with
  | zero => exact hs
  | succ n ih =>
    unfold shed
    repeat' first
      | (with_reducible assumption) | intro x
      | (with_reducible first | apply ih | apply ite_canon | apply sectorEnds_canon | apply raise_canon)
      | split | (simp only [canon_mk_iff]; apply canon_parts)

theorem frontOpens_canon {j : Nat} (hs : Canon v q s) : Canon v q (frontOpens s j) := by
  unfold frontOpens
  repeat' first
    | (with_reducible assumption) | intro x
    | (extract_lets +onlyGivenNames t; first
        | (refine (fun (ht : Canon v q t) => ?_) ?_ <;> [clear_value t; (unfold t; clear t)])
        | clear_value t)
    | (with_reducible first | apply ite_canon | apply State.setI_canon | apply State.setCh_canon)
    | split | (simp only [canon_mk_iff]; apply canon_parts)

theorem execReadGateRequest_canon {j : Slot} {i : ReadGateIn} (hs : Canon v q s) : Ends v q (execReadGateRequest j i s) := by
  unfold execReadGateRequest
  repeat' first
    | (with_reducible assumption) | intro x
    | (extract_lets +onlyGivenNames t; first
        | (refine (fun (ht : Canon v q t) => ?_) ?_ <;> [clear_value t; (unfold t; clear t)])
        | clear_value t)
    | (with_reducible first
        | apply ends_next_canon | apply ite_ends | apply ite_canon | apply State.inc_canon | apply State.store_canon
        | apply State.setCh_canon | apply rebuf_canon | apply boundaryIn_canon | apply takeSurface_canon
        | apply slotEvent_canon | apply shed_canon | apply frontOpens_canon)
    | split | (simp only [canon_mk_iff]; apply canon_parts)

theorem execReadGateClose_canon {j : Slot} {i : ReadCloseIn} (hs : Canon v q s) : Ends v q (execReadGateClose j i s) := by
  unfold execReadGateClose
  repeat' first
    | (with_reducible assumption) | intro x
    | (extract_lets +onlyGivenNames t; first
        | (refine (fun (ht : Canon v q t) => ?_) ?_ <;> [clear_value t; (unfold t; clear t)])
        | clear_value t)
    | (with_reducible first
        | apply ends_next_canon | apply ite_ends | apply ite_canon | apply foldl_canon | apply State.store_canon
        | apply State.setCh_canon | apply adaptLoops_canon | apply twinSettle_canon | apply complete_canon
        | apply raise_canon)
    | split | (simp only [canon_mk_iff]; apply canon_parts)

theorem freezeLoops_canon {j bit : Nat} (hs : Canon v q s) : Canon v q (freezeLoops s j bit) := by
  unfold freezeLoops
  repeat' first
    | (with_reducible assumption) | intro x
    | (extract_lets +onlyGivenNames t; first
        | (refine (fun (ht : Canon v q t) => ?_) ?_ <;> [clear_value t; (unfold t; clear t)])
        | clear_value t)
    | (with_reducible first
        | apply ite_canon | apply foldl_canon | apply State.setB_canon | apply State.setCh_canon | apply adaptLoops_canon)
    | split | (simp only [canon_mk_iff]; apply canon_parts)

theorem execDefectDetect_canon {j : Slot} {flag : Fin 4} {mean : BitVec 16} {bit : BitVec 16} (hs : Canon v q s) : Ends v q
    (execDefectDetect j flag mean bit s) := by
  unfold execDefectDetect
  repeat' first
    | (with_reducible assumption) | intro x
    | (extract_lets +onlyGivenNames t; first
        | (refine (fun (ht : Canon v q t) => ?_) ?_ <;> [clear_value t; (unfold t; clear t)])
        | clear_value t)
    | (with_reducible first
        | apply ends_next_canon | apply ite_ends | apply ite_canon | apply State.inc_canon | apply State.setBitOf_canon
        | apply State.setCh_canon | apply slotEvent_canon | apply freezeLoops_canon)
    | split | (simp only [canon_mk_iff]; apply canon_parts)

theorem execDefectClear_canon {j : Slot} {flag : Fin 4} {mean : BitVec 16} {bit : BitVec 16} (hs : Canon v q s) : Ends v q
    (execDefectClear j flag mean bit s) := by
  unfold execDefectClear
  repeat' first
    | (with_reducible assumption) | intro x
    | (extract_lets +onlyGivenNames t; first
        | (refine (fun (ht : Canon v q t) => ?_) ?_ <;> [clear_value t; (unfold t; clear t)])
        | clear_value t)
    | (with_reducible first
        | apply ends_next_canon | apply ite_ends | apply ite_canon | apply State.setBitOf_canon | apply State.setCh_canon)
    | split | (simp only [canon_mk_iff]; apply canon_parts)

theorem execDefectHoldoffExpiry_canon {j : Slot} (hs : Canon v q s) : Ends v q (execDefectHoldoffExpiry j s) := by
  unfold execDefectHoldoffExpiry
  repeat' first
    | (with_reducible assumption) | intro x
    | (extract_lets +onlyGivenNames t; first
        | (refine (fun (ht : Canon v q t) => ?_) ?_ <;> [clear_value t; (unfold t; clear t)])
        | clear_value t)
    | (with_reducible first
        | apply ends_next_canon | apply ite_ends | apply ite_canon | apply State.setB_canon | apply State.setBitOf_canon
        | apply State.setCh_canon)
    | split | (simp only [canon_mk_iff]; apply canon_parts)

theorem execDefectLong_canon {j : Slot} {flag : Fin 4} (hs : Canon v q s) : Ends v q (execDefectLong j flag s) := by
  unfold execDefectLong
  repeat' first
    | (with_reducible assumption) | intro x
    | (extract_lets +onlyGivenNames t; first
        | (refine (fun (ht : Canon v q t) => ?_) ?_ <;> [clear_value t; (unfold t; clear t)])
        | clear_value t)
    | (with_reducible first
        | apply ends_next_canon | apply ite_ends | apply ite_canon | apply State.inc_canon | apply State.setCh_canon
        | apply slotEvent_canon)
    | split | (simp only [canon_mk_iff]; apply canon_parts)

theorem execLoopRail_canon {j : Slot} {loop : Fin 3} {held : BitVec 32} (hs : Canon v q s) : Ends v q
    (execLoopRail j loop held s) := by
  unfold execLoopRail
  repeat' first
    | (with_reducible assumption) | intro x
    | (extract_lets +onlyGivenNames t; first
        | (refine (fun (ht : Canon v q t) => ?_) ?_ <;> [clear_value t; (unfold t; clear t)])
        | clear_value t)
    | (with_reducible first
        | apply ends_next_canon | apply ite_ends | apply ite_canon | apply State.inc_canon | apply State.setCh_canon
        | apply slotEvent_canon)
    | split | (simp only [canon_mk_iff]; apply canon_parts)

theorem execRingFormatWrite_canon {m : Master} {a : Act} {n : Fin 64} {w : Word} (hs : Canon v q s) : Ends v q
    (execRingFormatWrite m a n w s) := by
  unfold execRingFormatWrite
  repeat' first
    | (with_reducible assumption) | intro x
    | (with_reducible first | apply ends_next_canon | apply id_canon | apply kwrite_canon)

theorem bufPinWriteAct_canon {j : Nat} (ht : Canon v q t) : Canon v q (bufPinWriteAct j t) := by
  unfold bufPinWriteAct
  repeat' first
    | (with_reducible assumption) | intro x
    | (with_reducible first | apply foldl_canon | apply State.setCh_canon | apply rebuf_canon)

theorem execBufPinWrite_canon {m : Master} {j : Slot} {w : Word} (hs : Canon v q s) : Ends v q (execBufPinWrite m j w s) := by
  unfold execBufPinWrite
  repeat' first
    | (with_reducible assumption) | intro x
    | (with_reducible first | apply ends_next_canon | apply kwrite_canon | apply bufPinWriteAct_canon)

end Sys2Proof.Machine
end

