-- ==== Sys2Proof/Laws/CanonWrite.lean ====
section
/-! SUPPORT. What keeps the canonical form: the zone operations, sector detection, the commit operations and the write path. One lemma per operation and per meaning. -/

namespace Sys2Proof.Machine

-- Elaborated one after another: the package as one text must fit the memory its check allows.
set_option Elab.async false

set_option linter.unusedTactic false
set_option linter.unreachableTactic false
set_option linter.unusedVariables false

variable {v : Variant} {q : List Instr} {s t : State} {r : Raiser}

/-! ### Machine/ZoneOps -/

theorem State.putCtx_canon {z : Nat} {c : Ctx} (hs : Canon v q s) : Canon v q (State.putCtx s z c) := by
  unfold State.putCtx
  repeat' first
    | (with_reducible assumption) | intro x
    | (extract_lets +onlyGivenNames t; first
        | (refine (fun (ht : Canon v q t) => ?_) ?_ <;> [clear_value t; (unfold t; clear t)])
        | clear_value t)
    | (with_reducible first | apply State.setN_canon | apply State.store_canon)

theorem zoneEvent_canon {e : Nat} {items : List Nat} {z : Nat} (hs : Canon v q s) : Canon v q (zoneEvent s e items z) := by
  unfold zoneEvent
  repeat' first
    | (with_reducible assumption) | intro x
    | (with_reducible first | apply raise_canon)
    | (simp only [canon_mk_iff]; apply canon_parts)

theorem actionRefused_canon {what z : Nat} (hs : Canon v q s) : Canon v q (actionRefused s what z) := by
  unfold actionRefused
  repeat' first
    | (with_reducible assumption) | intro x
    | (extract_lets +onlyGivenNames t; first
        | (refine (fun (ht : Canon v q t) => ?_) ?_ <;> [clear_value t; (unfold t; clear t)])
        | clear_value t)
    | (with_reducible first | apply raise_canon)
    | (simp only [canon_mk_iff]; apply canon_parts)

theorem postFresh_canon {a : Nat} {fresh : List Desc} (hs : Canon v q s) : Canon v q (postFresh s a fresh) := by
  unfold postFresh
  repeat' first
    | (with_reducible assumption) | intro x
    | (extract_lets +onlyGivenNames t; first
        | (refine (fun (ht : Canon v q t) => ?_) ?_ <;> [clear_value t; (unfold t; clear t)])
        | clear_value t)
    | (with_reducible first | apply State.setPick_canon)
    | (simp only [canon_mk_iff]; apply canon_parts)

theorem closeZone_canon {z : Nat} (hs : Canon v q s) : Canon v q (closeZone s z) := by
  unfold closeZone
  repeat' first
    | (with_reducible assumption) | intro x
    | (extract_lets +onlyGivenNames t; first
        | (refine (fun (ht : Canon v q t) => ?_) ?_ <;> [clear_value t; (unfold t; clear t)])
        | clear_value t)
    | (with_reducible first | apply ite_canon | apply State.putCtx_canon)
    | split

theorem openLimits_canon {z : Nat} (hs : Canon v q s) : Canon v q ((openLimits s z)).2 := by
  unfold openLimits
  repeat' first
    | (with_reducible assumption) | intro x
    | (extract_lets +onlyGivenNames t; first
        | (refine (fun (ht : Canon v q t) => ?_) ?_ <;> [clear_value t; (unfold t; clear t)])
        | clear_value t)
    | (with_reducible first
        | apply ite_canon | apply State.inc_canon | apply raise_canon | apply zoneEvent_canon | apply closeZone_canon)
    | split | dsimp only | (simp only [canon_mk_iff]; apply canon_parts)

theorem openLimits_canon_eq {z : Nat} {x1 : Nat} {t : State} (he : openLimits s z = (x1, t)) (hs : Canon v q s) : Canon v q t
    := by
  have h0 := openLimits_canon (s := s) (z := z) hs
  rw [he] at h0; exact h0

theorem allocRefused_canon {z status : Nat} {offset : Option Nat} (hs : Canon v q s) : Canon v q
    (allocRefused s z status offset) := by
  unfold allocRefused
  repeat' first
    | (with_reducible assumption) | intro x
    | (extract_lets +onlyGivenNames t; first
        | (refine (fun (ht : Canon v q t) => ?_) ?_ <;> [clear_value t; (unfold t; clear t)])
        | clear_value t)
    | (with_reducible first | apply ite_canon | apply State.inc_canon | apply zoneEvent_canon)
    | split | (simp only [canon_mk_iff]; apply canon_parts)

theorem allocate_canon {z count : Nat} {offset : Option Nat} (hs : Canon v q s) : Canon v q ((allocate s z count offset)).2.2
    := by
  unfold allocate
  repeat' first
    | (with_reducible assumption) | intro x
    | (extract_lets +onlyGivenNames t; first
        | (refine (fun (ht : Canon v q t) => ?_) ?_ <;> [clear_value t; (unfold t; clear t)])
        | clear_value t)
    | (with_reducible first
        | apply ite_canon | refine openLimits_canon_eq (by with_reducible assumption) ?_ | apply State.inc_canon
        | apply State.putCtx_canon | apply openLimits_canon | apply allocRefused_canon)
    | split | dsimp only | (simp only [canon_mk_iff]; apply canon_parts)

theorem allocate_canon_eq {z count : Nat} {offset : Option Nat} {x1 : Nat} {x2 : Nat} {t : State} (he
    : allocate s z count offset = (x1, x2, t)) (hs : Canon v q s) : Canon v q t := by
  have h0 := allocate_canon (s := s) (z := z) (count := count) (offset := offset) hs
  rw [he] at h0; exact h0

theorem rewindZone_canon {z : Nat} (hs : Canon v q s) : Canon v q ((rewindZone s z)).2 := by
  unfold rewindZone
  repeat' first
    | (with_reducible assumption) | intro x
    | (extract_lets +onlyGivenNames t; first
        | (refine (fun (ht : Canon v q t) => ?_) ?_ <;> [clear_value t; (unfold t; clear t)])
        | clear_value t)
    | (with_reducible first | apply ite_canon | apply State.inc_canon | apply State.putCtx_canon)
    | split | dsimp only

theorem rewindZone_canon_eq {z : Nat} {x1 : Nat} {t : State} (he : rewindZone s z = (x1, t)) (hs : Canon v q s) : Canon v q t
    := by
  have h0 := rewindZone_canon (s := s) (z := z) hs
  rw [he] at h0; exact h0

theorem guardSweep_canon (hs : Canon v q s) : Canon v q (guardSweep s) := by
  unfold guardSweep
  repeat' first
    | (with_reducible assumption) | intro x
    | (with_reducible first | apply ite_canon | apply foldl_canon | apply closeGate_canon | apply raise_canon)
    | split | (simp only [canon_mk_iff]; apply canon_parts)

/-! ### Machine/Detect -/

theorem detEvent_canon {j k : Nat} {items : List Nat} {e : Nat} (hs : Canon v q s) : Canon v q (detEvent s j k items e) := by
  unfold detEvent
  repeat' first
    | (with_reducible assumption) | intro x
    | (with_reducible first | apply slotEventBy_canon | apply raise_canon)

theorem putEntry_canon {j e : Nat} {b : BufEntry} (hs : Canon v q s) : Canon v q (putEntry s j e b) := by
  unfold putEntry
  repeat' first
    | (with_reducible assumption) | intro x
    | (with_reducible first | apply State.setCh_canon)

theorem deliverSector_canon {dest lba range kind : Nat} {data : List Byte} (hs : Canon v q s) : Canon v q
    (deliverSector s dest lba range kind data) := by
  unfold deliverSector
  repeat' first
    | (with_reducible assumption) | intro x
    | (with_reducible first | apply ite_canon | apply State.store_canon)
    | split

theorem returnFirmware_canon {j : Nat} {l : List Byte} (hs : Canon v q s) : Canon v q (returnFirmware s j l) := by
  unfold returnFirmware
  repeat' first
    | (with_reducible assumption) | intro x
    | (with_reducible first | apply State.setCh_canon)
    | (simp only [canon_mk_iff]; apply canon_parts)

theorem groupKeep_canon {b : BufEntry} {x : Sector} (hs : Canon v q s) : Canon v q (groupKeep s b x) := by
  unfold groupKeep
  repeat' first
    | (with_reducible assumption) | intro x
    | (with_reducible first | apply ite_canon)
    | split | (simp only [canon_mk_iff]; apply canon_parts)

theorem mismatch_canon {j e at_ : Nat} {b : BufEntry} {r : DecodeRun} (hs : Canon v q s) : Canon v q (mismatch s j e at_ b r)
    := by
  unfold mismatch
  repeat' first
    | (with_reducible assumption) | intro x
    | (extract_lets +onlyGivenNames t; first
        | (refine (fun (ht : Canon v q t) => ?_) ?_ <;> [clear_value t; (unfold t; clear t)])
        | clear_value t)
    | (with_reducible first | apply ite_canon | apply State.inc_canon | apply detEvent_canon)
    | split

theorem syncRetry_canon {j e : Nat} {b : BufEntry} {moved : Bool} {place : Nat} (hs : Canon v q s) : Canon v q
    (syncRetry s j e b moved place) := by
  unfold syncRetry
  repeat' first
    | (with_reducible assumption) | intro x
    | (extract_lets +onlyGivenNames t; first
        | (refine (fun (ht : Canon v q t) => ?_) ?_ <;> [clear_value t; (unfold t; clear t)])
        | clear_value t)
    | (with_reducible first | apply State.inc_canon | apply State.on_canon | apply detEvent_canon)

theorem decoded_canon {j e result pass : Nat} {al : Nat × Nat × Int} {r : DecodeRun} (hs : Canon v q s) : Canon v q
    (decoded s j e result pass al r) := by
  unfold decoded
  repeat' first
    | (with_reducible assumption) | intro x
    | (extract_lets +onlyGivenNames t; first
        | (refine (fun (ht : Canon v q t) => ?_) ?_ <;> [clear_value t; (unfold t; clear t)])
        | clear_value t)
    | (with_reducible first
        | apply ite_canon | apply State.on_canon | apply sectorEnds_canon | apply raise_canon | apply deliverSector_canon
        | apply returnFirmware_canon | apply groupKeep_canon | apply syncRetry_canon)
    | split

theorem toDeep_canon {j : Slot} {e : Fin 16} (hs : Canon v q s) : Canon v q (toDeep s j e) := by
  unfold toDeep
  repeat' first
    | (with_reducible assumption) | intro x
    | (extract_lets +onlyGivenNames t; first
        | (refine (fun (ht : Canon v q t) => ?_) ?_ <;> [clear_value t; (unfold t; clear t)])
        | clear_value t)
    | (with_reducible first
        | apply ite_canon | apply redeep_canon | apply sectorEnds_canon | apply raise_canon | apply putEntry_canon
        | apply syncRetry_canon)
    | split | (simp only [canon_mk_iff]; apply canon_parts)

theorem goesOn_canon {j : Slot} {e : Fin 16} (hs : Canon v q s) : Canon v q (goesOn s j e) := by
  unfold goesOn
  repeat' first
    | (with_reducible assumption) | intro x
    | (extract_lets +onlyGivenNames t; first
        | (refine (fun (ht : Canon v q t) => ?_) ?_ <;> [clear_value t; (unfold t; clear t)])
        | clear_value t)
    | (with_reducible first | apply ite_canon | apply putEntry_canon | apply toDeep_canon)
    | split | (simp only [canon_mk_iff]; apply canon_parts)

theorem execLiveDecode_canon {j : Slot} {e : Fin 16} (hs : Canon v q s) : Ends v q (execLiveDecode j e s) := by
  unfold execLiveDecode
  repeat' first
    | (with_reducible assumption) | intro x
    | (extract_lets +onlyGivenNames t; first
        | (refine (fun (ht : Canon v q t) => ?_) ?_ <;> [clear_value t; (unfold t; clear t)])
        | clear_value t)
    | (with_reducible first
        | apply ends_next_canon | apply ite_ends | apply ite_canon | apply State.inc_canon | apply State.on_canon
        | apply sectorEnds_canon | apply raise_canon | apply putEntry_canon | apply mismatch_canon | apply decoded_canon
        | apply goesOn_canon)
    | split | (simp only [canon_mk_iff]; apply canon_parts)

theorem execMarkTrial_canon {j : Slot} {e : Fin 16} (hs : Canon v q s) : Ends v q (execMarkTrial j e s) := by
  unfold execMarkTrial
  repeat' first
    | (with_reducible assumption) | intro x
    | (extract_lets +onlyGivenNames t; first
        | (refine (fun (ht : Canon v q t) => ?_) ?_ <;> [clear_value t; (unfold t; clear t)])
        | clear_value t)
    | (with_reducible first
        | apply ends_next_canon | apply ite_ends | apply ite_canon | apply putEntry_canon | apply mismatch_canon
        | apply decoded_canon | apply goesOn_canon)
    | split | (simp only [canon_mk_iff]; apply canon_parts)

theorem execRedetectPass_canon {j : Slot} {e : Fin 16} {pass : Fin 4} (hs : Canon v q s) : Ends v q
    (execRedetectPass j e pass s) := by
  unfold execRedetectPass
  repeat' first
    | (with_reducible assumption) | intro x
    | (extract_lets +onlyGivenNames t; first
        | (refine (fun (ht : Canon v q t) => ?_) ?_ <;> [clear_value t; (unfold t; clear t)])
        | clear_value t)
    | (with_reducible first
        | apply ends_next_canon | apply ite_ends | apply ite_canon | apply putEntry_canon | apply mismatch_canon
        | apply decoded_canon | apply goesOn_canon)
    | split | (simp only [canon_mk_iff]; apply canon_parts)

theorem takeDeep_canon (hs : Canon v q s) : Canon v q (takeDeep s) := by
  unfold takeDeep
  repeat' first
    | (with_reducible assumption) | intro x
    | (extract_lets +onlyGivenNames t; first
        | (refine (fun (ht : Canon v q t) => ?_) ?_ <;> [clear_value t; (unfold t; clear t)])
        | clear_value t)
    | (with_reducible first | apply redeep_canon | apply putEntry_canon)
    | split | (simp only [canon_mk_iff]; apply canon_parts)

theorem execDeepJob_canon (hs : Canon v q s) : Ends v q (execDeepJob s) := by
  unfold execDeepJob
  repeat' first
    | (with_reducible assumption) | intro x
    | (extract_lets +onlyGivenNames t; first
        | (refine (fun (ht : Canon v q t) => ?_) ?_ <;> [clear_value t; (unfold t; clear t)])
        | clear_value t)
    | (with_reducible first
        | apply ends_next_canon | apply ite_ends | apply ite_canon | apply State.inc_canon | apply State.on_canon
        | apply sectorEnds_canon | apply combineEnds_canon | apply raise_canon | apply detEvent_canon | apply putEntry_canon
        | apply deliverSector_canon | apply returnFirmware_canon | apply mismatch_canon | apply decoded_canon
        | apply takeDeep_canon)
    | split | (simp only [canon_mk_iff]; apply canon_parts)

theorem combineStartAct_canon {j : Slot} (ht : Canon v q t) : Canon v q (combineStartAct j t) := by
  unfold combineStartAct
  repeat' first
    | (with_reducible assumption) | intro x
    | (extract_lets +onlyGivenNames t; first
        | (refine (fun (ht : Canon v q t) => ?_) ?_ <;> [clear_value t; (unfold t; clear t)])
        | clear_value t)
    | (with_reducible first | apply ite_canon | apply State.setN_canon | apply State.inc_canon | apply redeep_canon)
    | split | (simp only [canon_mk_iff]; apply canon_parts)

theorem execCombineStart_canon {m : Master} {j : Slot} {w : Word} (hs : Canon v q s) : Ends v q (execCombineStart m j w s) := by
  unfold execCombineStart
  repeat' first
    | (with_reducible assumption) | intro x
    | (with_reducible first | apply ends_next_canon | apply kwrite_canon | apply combineStartAct_canon)

theorem deliverOuter_canon {bad : List Nat} {i : Nat} (hs : Canon v q s) : Canon v q (deliverOuter s bad i) := by
  unfold deliverOuter
  repeat' first
    | (with_reducible assumption) | intro x
    | (extract_lets +onlyGivenNames t; first
        | (refine (fun (ht : Canon v q t) => ?_) ?_ <;> [clear_value t; (unfold t; clear t)])
        | clear_value t)
    | (with_reducible first
        | apply ite_canon | apply State.inc_canon | apply tapPush_canon | apply groupWord_canon | apply raise_canon
        | apply deliverSector_canon | apply returnFirmware_canon)
    | split

theorem execOuterCodeSolve_canon (hs : Canon v q s) : Ends v q (execOuterCodeSolve s) := by
  unfold execOuterCodeSolve
  repeat' first
    | (with_reducible assumption) | intro x
    | (extract_lets +onlyGivenNames t; first
        | (refine (fun (ht : Canon v q t) => ?_) ?_ <;> [clear_value t; (unfold t; clear t)])
        | clear_value t)
    | (with_reducible first
        | apply ends_next_canon | apply ite_ends | apply ite_canon | apply foldl_canon | apply State.setN_canon
        | apply groupFails_canon | apply raise_canon | apply deliverOuter_canon)
    | split

theorem ocReleaseAct_canon (ht : Canon v q t) : Canon v q (ocReleaseAct t) := by
  unfold ocReleaseAct
  repeat' first
    | (with_reducible assumption) | intro x
    | (with_reducible first | apply State.setN_canon)
    | (simp only [canon_mk_iff]; apply canon_parts)

theorem execOcRelease_canon {m : Master} {w : Word} (hs : Canon v q s) : Ends v q (execOcRelease m w s) := by
  unfold execOcRelease
  repeat' first
    | (with_reducible assumption) | intro x
    | (with_reducible first | apply ends_next_canon | apply kwrite_canon | apply ocReleaseAct_canon)

theorem execDecoderFault_canon {j : Slot} {unit : DecoderUnit} {cause : CheckCause} (hs : Canon v q s) : Ends v q
    (execDecoderFault j unit cause s) := by
  unfold execDecoderFault
  repeat' first
    | (with_reducible assumption) | intro x
    | (extract_lets +onlyGivenNames t; first
        | (refine (fun (ht : Canon v q t) => ?_) ?_ <;> [clear_value t; (unfold t; clear t)])
        | clear_value t)
    | (with_reducible first | apply ends_next_canon | apply ite_ends | apply ite_canon | apply raise_canon)
    | split | (simp only [canon_mk_iff]; apply canon_parts)

/-! ### Machine/CommitOps -/

theorem setPtr_canon {addr e : Nat} (hs : Canon v q s) : Canon v q (setPtr s addr e) := by
  unfold setPtr
  repeat' first
    | (with_reducible assumption) | intro x
    | (with_reducible first | apply State.store_canon)

theorem insertEntry_canon {z l e : Nat} (hs : Canon v q s) : Canon v q (insertEntry s z l e) := by
  unfold insertEntry
  repeat' first
    | (with_reducible assumption) | intro x
    | (extract_lets +onlyGivenNames t; first
        | (refine (fun (ht : Canon v q t) => ?_) ?_ <;> [clear_value t; (unfold t; clear t)])
        | clear_value t)
    | (with_reducible first | apply setPtr_canon)

theorem trimEntry_canon {e first countM1 : Nat} (hs : Canon v q s) : Canon v q (trimEntry s e first countM1) := by
  unfold trimEntry
  repeat' first
    | (with_reducible assumption) | intro x
    | (extract_lets +onlyGivenNames t; first
        | (refine (fun (ht : Canon v q t) => ?_) ?_ <;> [clear_value t; (unfold t; clear t)])
        | clear_value t)
    | (with_reducible first | apply State.store_canon)

theorem setGranules_canon {first count : Nat} {b : Bool} (hs : Canon v q s) : Canon v q (setGranules s first count b) := by
  unfold setGranules
  repeat' first
    | (with_reducible assumption) | intro x
    | (extract_lets +onlyGivenNames t; first
        | (refine (fun (ht : Canon v q t) => ?_) ?_ <;> [clear_value t; (unfold t; clear t)])
        | clear_value t)
    | (with_reducible first | apply foldl_canon | apply State.store_canon)

theorem setSlot_canon {d : Nat} {b : Bool} (hs : Canon v q s) : Canon v q (setSlot s d b) := by
  unfold setSlot
  repeat' first
    | (with_reducible assumption) | intro x
    | (extract_lets +onlyGivenNames t; first
        | (refine (fun (ht : Canon v q t) => ?_) ?_ <;> [clear_value t; (unfold t; clear t)])
        | clear_value t)
    | (with_reducible first | apply State.setN_canon | apply State.store_canon)

theorem zoneApply_canon {a : Action} (hs : Canon v q s) : Canon v q (zoneApply s a) := by
  unfold zoneApply
  repeat' first
    | (with_reducible assumption) | intro x
    | (extract_lets +onlyGivenNames t; first
        | (refine (fun (ht : Canon v q t) => ?_) ?_ <;> [clear_value t; (unfold t; clear t)])
        | clear_value t)
    | (with_reducible first | apply ite_canon | apply State.putCtx_canon)
    | split | (simp only [canon_mk_iff]; apply canon_parts)

theorem applyAction_canon {seq : Nat} {a : Action} (hs : Canon v q s) : Canon v q (applyAction seq s a) := by
  unfold applyAction
  repeat' first
    | (with_reducible assumption) | intro x
    | (extract_lets +onlyGivenNames t; first
        | (refine (fun (ht : Canon v q t) => ?_) ?_ <;> [clear_value t; (unfold t; clear t)])
        | clear_value t)
    | (with_reducible first
        | apply ite_canon | apply foldl_canon | apply State.set_canon | apply State.store_canon | apply State.putCtx_canon
        | apply setPtr_canon | apply insertEntry_canon | apply trimEntry_canon | apply setGranules_canon
        | apply setSlot_canon | apply zoneApply_canon)
    | split | (simp only [canon_mk_iff]; apply canon_parts)

theorem journalPut_canon {off : Nat} {l : List Byte} (hs : Canon v q s) : Canon v q (journalPut s off l) := by
  induction l generalizing s off with
  | nil => exact hs
  | cons a r ih =>
    unfold journalPut
    repeat' first
      | (with_reducible assumption) | intro x
      | (with_reducible first | apply ih | apply State.store_canon)
      | split | (simp only [canon_mk_iff]; apply canon_parts)

theorem writeRecord_canon {seq port : Nat} {l : List Action} (hs : Canon v q s) : Canon v q (writeRecord s seq port l) := by
  unfold writeRecord
  repeat' first
    | (with_reducible assumption) | intro x
    | (extract_lets +onlyGivenNames t; first
        | (refine (fun (ht : Canon v q t) => ?_) ?_ <;> [clear_value t; (unfold t; clear t)])
        | clear_value t)
    | (with_reducible first | apply State.setN_canon | apply journalPut_canon)
    | (simp only [canon_mk_iff]; apply canon_parts)

theorem waitBegins_canon {e : Nat} {items : List Nat} {port : Nat} (hs : Canon v q s) : Canon v q (waitBegins s e items port)
    := by
  unfold waitBegins
  repeat' first
    | (with_reducible assumption) | intro x
    | (with_reducible first | apply State.inc_canon | apply sheafEvent_canon | apply raise_canon)

theorem askCommit_canon {port : Nat} {l : List Action} {cont : Cont} (hs : Canon v q s) : Canon v q (askCommit s port l cont)
    := by
  unfold askCommit
  repeat' first
    | (with_reducible assumption) | intro x
    | (extract_lets +onlyGivenNames t; first
        | (refine (fun (ht : Canon v q t) => ?_) ?_ <;> [clear_value t; (unfold t; clear t)])
        | clear_value t)
    | (with_reducible first | apply waitBegins_canon)
    | split | (simp only [canon_mk_iff]; apply canon_parts)

theorem scanCommits_canon {l done : List CommitReq} (hs : Canon v q s) : Canon v q ((scanCommits s l done)).1 := by
  induction l generalizing s done with
  | nil => exact hs
  | cons a r ih =>
    unfold scanCommits
    repeat' first
      | (with_reducible assumption) | intro x
      | (extract_lets +onlyGivenNames t; first
          | (refine (fun (ht : Canon v q t) => ?_) ?_ <;> [clear_value t; (unfold t; clear t)])
          | clear_value t)
      | (with_reducible first
          | apply ih | refine canon_proj_eq (by with_reducible assumption) ?_ | apply ite_canon | apply waitBegins_canon)
      | split | dsimp only | (simp only [canon_mk_iff]; apply canon_parts)

theorem scanCommits_canon_eq {l done : List CommitReq} {t : State} {x2 : Option CommitReq} {x3 : List CommitReq} (he
    : scanCommits s l done = (t, x2, x3)) (hs : Canon v q s) : Canon v q t := by
  have h0 := scanCommits_canon (s := s) (l := l) (done := done) hs
  rw [he] at h0; exact h0

theorem actionDone_canon {a : Action} (hs : Canon v q s) : Canon v q (actionDone s a) := by
  unfold actionDone
  repeat' first
    | (with_reducible assumption) | intro x
    | (extract_lets +onlyGivenNames t; first
        | (refine (fun (ht : Canon v q t) => ?_) ?_ <;> [clear_value t; (unfold t; clear t)])
        | clear_value t)
    | (with_reducible first | apply ite_canon | apply State.drawn_canon | apply zoneEvent_canon)
    | split | (simp only [canon_mk_iff]; apply canon_parts)

theorem ffCommitted_canon {l : List Action} (hs : Canon v q s) : Canon v q (ffCommitted s l) := by
  unfold ffCommitted
  repeat' first
    | (with_reducible assumption) | intro x
    | (with_reducible first | apply ite_canon | apply foldl_canon | apply actEvent_canon | apply raise_canon)
    | split

theorem demoteSettled_canon {a z : Nat} (hs : Canon v q s) : Canon v q (demoteSettled s a z) := by
  unfold demoteSettled
  repeat' first
    | (with_reducible assumption) | intro x
    | (with_reducible first | apply State.setAct_canon)
    | (simp only [canon_mk_iff]; apply canon_parts)

theorem releaseHolds_canon (hs : Canon v q s) : Canon v q (releaseHolds s) := by
  unfold releaseHolds
  repeat' first
    | (with_reducible assumption) | intro x
    | (extract_lets +onlyGivenNames t; first
        | (refine (fun (ht : Canon v q t) => ?_) ?_ <;> [clear_value t; (unfold t; clear t)])
        | clear_value t)
    | (with_reducible first
        | apply ite_canon | apply foldl_canon | apply State.setCmd_canon | apply advance_canon | apply settle_canon
        | apply raise_canon)
    | split | (simp only [canon_mk_iff]; apply canon_parts)

theorem mergeStops_canon {st cause : Nat} (hs : Canon v q s) : Canon v q (mergeStops s st cause) := by
  unfold mergeStops
  repeat' first
    | (with_reducible assumption) | intro x
    | (extract_lets +onlyGivenNames t; first
        | (refine (fun (ht : Canon v q t) => ?_) ?_ <;> [clear_value t; (unfold t; clear t)])
        | clear_value t)
    | (with_reducible first
        | apply ite_canon | apply State.setN_canon | apply State.inc_canon | apply State.putCtx_canon | apply zoneEvent_canon
        | apply releaseHolds_canon)
    | split | (simp only [canon_mk_iff]; apply canon_parts)

theorem mergeDone_canon (hs : Canon v q s) : Canon v q (mergeDone s) := by
  unfold mergeDone
  repeat' first
    | (with_reducible assumption) | intro x
    | (extract_lets +onlyGivenNames t; first
        | (refine (fun (ht : Canon v q t) => ?_) ?_ <;> [clear_value t; (unfold t; clear t)])
        | clear_value t)
    | (with_reducible first | apply State.setN_canon | apply State.inc_canon | apply zoneEvent_canon | apply setPtr_canon)
    | split | (simp only [canon_mk_iff]; apply canon_parts)

theorem zoneSettled_canon {e : CmdEnt} {status : Nat} (hs : Canon v q s) : Canon v q (zoneSettled s e status) := by
  unfold zoneSettled
  repeat' first
    | (with_reducible assumption) | intro x
    | (extract_lets +onlyGivenNames t; first
        | (refine (fun (ht : Canon v q t) => ?_) ?_ <;> [clear_value t; (unfold t; clear t)])
        | clear_value t)
    | (with_reducible first | apply ite_canon | apply State.setCmd_canon | apply complete_canon | apply raise_canon)
    | split | (simp only [canon_mk_iff]; apply canon_parts)

theorem continued_canon {c : CommitReq} {ok : Bool} (hs : Canon v q s) : Canon v q (continued s c ok) := by
  unfold continued
  repeat' first
    | (with_reducible assumption) | intro x
    | (extract_lets +onlyGivenNames t; first
        | (refine (fun (ht : Canon v q t) => ?_) ?_ <;> [clear_value t; (unfold t; clear t)])
        | clear_value t)
    | (with_reducible first
        | apply ite_canon | apply State.inc_canon | apply actEvent_canon | apply State.setCmd_canon | apply complete_canon
        | apply raise_canon | apply askCommit_canon | apply demoteSettled_canon | apply mergeStops_canon
        | apply mergeDone_canon | apply zoneSettled_canon)
    | split | (simp only [canon_mk_iff]; apply canon_parts)

theorem settleFlushes_canon {l : List Action} (hs : Canon v q s) : Canon v q (settleFlushes s l) := by
  unfold settleFlushes
  repeat' first
    | (with_reducible assumption) | intro x
    | (extract_lets +onlyGivenNames t; first
        | (refine (fun (ht : Canon v q t) => ?_) ?_ <;> [clear_value t; (unfold t; clear t)])
        | clear_value t)
    | (with_reducible first
        | apply ite_canon | apply foldl_canon | apply State.setCmd_canon | apply complete_canon | apply raise_canon)
    | split | (simp only [canon_mk_iff]; apply canon_parts)

theorem refuseCommit_canon {c : CommitReq} {i : Nat} (hs : Canon v q s) : Canon v q (refuseCommit s c i) := by
  unfold refuseCommit
  repeat' first
    | (with_reducible assumption) | intro x
    | (extract_lets +onlyGivenNames t; first
        | (refine (fun (ht : Canon v q t) => ?_) ?_ <;> [clear_value t; (unfold t; clear t)])
        | clear_value t)
    | (with_reducible first
        | apply ite_canon | apply State.inc_canon | apply sheafEvent_canon | apply portResult_canon | apply raise_canon
        | apply actionRefused_canon | apply continued_canon)
    | split

theorem serveCommit_canon {c : CommitReq} (hs : Canon v q s) : Canon v q (serveCommit s c) := by
  unfold serveCommit
  repeat' first
    | (with_reducible assumption) | intro x
    | (extract_lets +onlyGivenNames t; first
        | (refine (fun (ht : Canon v q t) => ?_) ?_ <;> [clear_value t; (unfold t; clear t)])
        | clear_value t)
    | (with_reducible first
        | apply ite_canon | apply foldl_canon | apply State.setN_canon | apply State.inc_canon | apply portResult_canon
        | apply guardSweep_canon | apply applyAction_canon | apply writeRecord_canon | apply actionDone_canon
        | apply ffCommitted_canon | apply continued_canon | apply settleFlushes_canon | apply refuseCommit_canon)
    | split | (simp only [canon_mk_iff]; apply canon_parts)

theorem dropActs_canon {e : CmdEnt} (hs : Canon v q s) : Canon v q (dropActs s e) := by
  unfold dropActs
  repeat' first
    | (with_reducible assumption) | intro x
    | (with_reducible first | apply foldl_canon | apply askCommit_canon | apply zoneSettled_canon)
    | split | (simp only [canon_mk_iff]; apply canon_parts)

theorem dropCommit_canon {c : CommitReq} {e : CmdEnt} (hs : Canon v q s) : Canon v q (dropCommit s c e) := by
  unfold dropCommit
  repeat' first
    | (with_reducible assumption) | intro x
    | (with_reducible first | apply complete_canon | apply raise_canon | apply askCommit_canon | apply zoneSettled_canon)
    | split | (simp only [canon_mk_iff]; apply canon_parts)

theorem settleActs_canon {e : CmdEnt} (hs : Canon v q s) : Canon v q (settleActs s e) := by
  unfold settleActs
  repeat' first
    | (with_reducible assumption) | intro x
    | (extract_lets +onlyGivenNames t; first
        | (refine (fun (ht : Canon v q t) => ?_) ?_ <;> [clear_value t; (unfold t; clear t)])
        | clear_value t)
    | (with_reducible first
        | apply ite_canon | apply foldl_canon | apply State.setCmd_canon | apply askCommit_canon | apply dropActs_canon)
    | split | (simp only [canon_mk_iff]; apply canon_parts)

theorem settleOrphans_canon (hs : Canon v q s) : Canon v q (settleOrphans s) := by
  unfold settleOrphans
  repeat' first
    | (with_reducible assumption) | intro x
    | (with_reducible first | apply foldl_canon | apply askCommit_canon)
    | (simp only [canon_mk_iff]; apply canon_parts)

theorem settleZones_canon (hs : Canon v q s) : Canon v q (settleZones s) := by
  unfold settleZones
  repeat' first
    | (with_reducible assumption) | intro x
    | (with_reducible first
        | apply foldl_canon | apply releaseHolds_canon | apply settleActs_canon | apply settleOrphans_canon)

theorem serveCommits_canon {fuel : Nat} (hs : Canon v q s) : Canon v q (serveCommits fuel s) := by
  induction fuel generalizing s with
  | zero => exact hs
  | succ n ih =>
    unfold serveCommits
    repeat' first
      | (with_reducible assumption) | intro x
      | (extract_lets +onlyGivenNames t; first
          | (refine (fun (ht : Canon v q t) => ?_) ?_ <;> [clear_value t; (unfold t; clear t)])
          | clear_value t)
      | (with_reducible first
          | apply ih | apply ite_canon | refine scanCommits_canon_eq (by with_reducible assumption) ?_ | apply askCommit_canon
          | apply scanCommits_canon | apply serveCommit_canon | apply dropCommit_canon | apply settleZones_canon)
      | split | (simp only [canon_mk_iff]; apply canon_parts)

theorem runCommits_canon (hs : Canon v q s) : Canon v q (runCommits s) := by
  unfold runCommits
  repeat' first
    | (with_reducible assumption) | intro x
    | (with_reducible first | apply serveCommits_canon)

theorem moduleCommit_canon {port : Nat} {l : List Action} {cont : Cont} (hs : Canon v q s) : Canon v q
    (moduleCommit s port l cont) := by
  unfold moduleCommit
  repeat' first
    | (with_reducible assumption) | intro x
    | (with_reducible first | apply ite_canon | apply askCommit_canon | apply runCommits_canon)
    | split

/-! ### Machine/WritePath -/

theorem execSectorStage_canon {j : Slot} {i : StageIn} (hs : Canon v q s) : Ends v q (execSectorStage j i s) := by
  unfold execSectorStage
  repeat' first
    | (with_reducible assumption) | intro x
    | (extract_lets +onlyGivenNames t; first
        | (refine (fun (ht : Canon v q t) => ?_) ?_ <;> [clear_value t; (unfold t; clear t)])
        | clear_value t)
    | (with_reducible first
        | apply ends_next_canon | apply ite_ends | apply ite_canon | apply State.setWr_canon | apply refreshWrite_canon
        | apply complete_canon)
    | split | (simp only [canon_mk_iff]; apply canon_parts)

theorem stageMissed_canon {j tag sector short : Nat} (hs : Canon v q s) : Canon v q (stageMissed s j tag sector short) := by
  unfold stageMissed
  repeat' first
    | (with_reducible assumption) | intro x
    | (with_reducible first | apply State.inc_canon | apply writeEvent_canon | apply deferPart_canon | apply raise_canon)

theorem execStagingMiss_canon {j : Slot} {tag : BitVec 32} {sector : BitVec 10} {short : BitVec 24} (hs : Canon v q s)
    : Ends v q (execStagingMiss j tag sector short s) := by
  unfold execStagingMiss
  repeat' first
    | (with_reducible assumption) | intro x
    | (with_reducible first | apply ends_next_canon | apply stageMissed_canon)

theorem armLate_canon {j cause lateness : Nat} (hs : Canon v q s) : Canon v q (armLate s j cause lateness) := by
  unfold armLate
  repeat' first
    | (with_reducible assumption) | intro x
    | (extract_lets +onlyGivenNames t; first
        | (refine (fun (ht : Canon v q t) => ?_) ?_ <;> [clear_value t; (unfold t; clear t)])
        | clear_value t)
    | (with_reducible first | apply State.inc_canon | apply assistOff_canon | apply deferPart_canon | apply raise_canon)
    | (simp only [canon_mk_iff]; apply canon_parts)

theorem guardRefused_canon {j : Nat} {zone : Option Nat} {index tag : Nat} (hs : Canon v q s) : Canon v q
    (guardRefused s j zone index tag) := by
  unfold guardRefused
  repeat' first
    | (with_reducible assumption) | intro x
    | (extract_lets +onlyGivenNames t; first
        | (refine (fun (ht : Canon v q t) => ?_) ?_ <;> [clear_value t; (unfold t; clear t)])
        | clear_value t)
    | (with_reducible first | apply State.inc_canon | apply writeEvent_canon | apply endPart_canon | apply raise_canon)
    | split | (simp only [canon_mk_iff]; apply canon_parts)

theorem gateOpens_canon {j : Nat} {i : GateIn} (hs : Canon v q s) : Canon v q (gateOpens s j i) := by
  unfold gateOpens
  repeat' first
    | (with_reducible assumption) | intro x
    | (extract_lets +onlyGivenNames t; first
        | (refine (fun (ht : Canon v q t) => ?_) ?_ <;> [clear_value t; (unfold t; clear t)])
        | clear_value t)
    | (with_reducible first | apply ite_canon | apply State.setWr_canon | apply refreshWrite_canon)
    | split | (simp only [canon_mk_iff]; apply canon_parts)

theorem reopen_canon {j : Nat} (hs : Canon v q s) : Canon v q (reopen s j) := by
  unfold reopen
  repeat' first
    | (with_reducible assumption) | intro x
    | (extract_lets +onlyGivenNames t; first
        | (refine (fun (ht : Canon v q t) => ?_) ?_ <;> [clear_value t; (unfold t; clear t)])
        | clear_value t)
    | (with_reducible first
        | apply ite_canon | apply State.setWr_canon | apply refreshWrite_canon | apply endPart_canon | apply raise_canon
        | apply guardRefused_canon)
    | split | (simp only [canon_mk_iff]; apply canon_parts)

theorem reselect_canon {a : Nat} (hs : Canon v q s) : Canon v q (reselect s a) := by
  unfold reselect
  repeat' first
    | (with_reducible assumption) | intro x
    | (extract_lets +onlyGivenNames t; first
        | (refine (fun (ht : Canon v q t) => ?_) ?_ <;> [clear_value t; (unfold t; clear t)])
        | clear_value t)
    | (with_reducible first | apply ite_canon | apply linkPost_canon)
    | split | (simp only [canon_mk_iff]; apply canon_parts)

theorem request_canon {j : Nat} {i : GateIn} (hs : Canon v q s) : Canon v q (request s j i) := by
  unfold request
  repeat' first
    | (with_reducible assumption) | intro x
    | (extract_lets +onlyGivenNames t; first
        | (refine (fun (ht : Canon v q t) => ?_) ?_ <;> [clear_value t; (unfold t; clear t)])
        | clear_value t)
    | (with_reducible first
        | apply ite_canon | apply State.setWr_canon | apply State.drawn_canon | apply endPart_canon | apply deferPart_canon
        | apply raise_canon | apply takeSurface_canon | apply stageMissed_canon | apply armLate_canon
        | apply guardRefused_canon | apply gateOpens_canon | apply reselect_canon)
    | split | (simp only [canon_mk_iff]; apply canon_parts)

theorem execWriteGateRequest_canon {j : Slot} {i : GateIn} (hs : Canon v q s) : Ends v q (execWriteGateRequest j i s) := by
  unfold execWriteGateRequest
  repeat' first
    | (with_reducible assumption) | intro x
    | (extract_lets +onlyGivenNames t; first
        | (refine (fun (ht : Canon v q t) => ?_) ?_ <;> [clear_value t; (unfold t; clear t)])
        | clear_value t)
    | (with_reducible first
        | apply ends_next_canon | apply ite_ends | apply ite_canon | apply boundaryIn_canon | apply twinSettle_canon
        | apply raise_canon | apply reopen_canon | apply request_canon)
    | split

theorem sectorWritten_canon {j : Nat} {g : Gate} (hs : Canon v q s) : Canon v q (sectorWritten s j g) := by
  unfold sectorWritten
  repeat' first
    | (with_reducible assumption) | intro x
    | (extract_lets +onlyGivenNames t; first
        | (refine (fun (ht : Canon v q t) => ?_) ?_ <;> [clear_value t; (unfold t; clear t)])
        | clear_value t)
    | (with_reducible first | apply ite_canon | apply State.inc_canon | apply State.setWr_canon | apply refreshWrite_canon)
    | split | (simp only [canon_mk_iff]; apply canon_parts)

theorem execWriteGateClose_canon {j : Slot} {last descEnd runEnd : Bool} (hs : Canon v q s) : Ends v q
    (execWriteGateClose j last descEnd runEnd s) := by
  unfold execWriteGateClose
  repeat' first
    | (with_reducible assumption) | intro x
    | (extract_lets +onlyGivenNames t; first
        | (refine (fun (ht : Canon v q t) => ?_) ?_ <;> [clear_value t; (unfold t; clear t)])
        | clear_value t)
    | (with_reducible first
        | apply ends_next_canon | apply ite_ends | apply ite_canon | apply State.setWr_canon | apply assistOff_canon
        | apply refreshWrite_canon | apply endPartWith_canon | apply twinSettle_canon | apply raise_canon
        | apply sectorWritten_canon)
    | split | (simp only [canon_mk_iff]; apply canon_parts)

theorem execEncoderFault_canon {j : Slot} {unit : EncoderUnit} {cause : CheckCause} (hs : Canon v q s) : Ends v q
    (execEncoderFault j unit cause s) := by
  unfold execEncoderFault
  repeat' first
    | (with_reducible assumption) | intro x
    | (extract_lets +onlyGivenNames t; first
        | (refine (fun (ht : Canon v q t) => ?_) ?_ <;> [clear_value t; (unfold t; clear t)])
        | clear_value t)
    | (with_reducible first
        | apply ends_next_canon | apply ite_ends | apply ite_canon | apply State.setWr_canon | apply writeEvent_canon
        | apply closeGate_canon | apply raise_canon)
    | split | (simp only [canon_mk_iff]; apply canon_parts)

end Sys2Proof.Machine
end

