-- ==== Sys2Proof/Laws/CanonMotion.lean ====
section
/-! SUPPORT. What keeps the canonical form: the timebase, the servo, the spindle and concurrent heads. One lemma per operation and per meaning. -/

namespace Sys2Proof.Machine

-- Elaborated one after another: the package as one text must fit the memory its check allows.
set_option Elab.async false

set_option linter.unusedTactic false
set_option linter.unreachableTactic false
set_option linter.unusedVariables false

variable {v : Variant} {q : List Instr} {s t : State} {r : Raiser}

/-! ### Machine/Sundial -/

theorem setFilter_canon {num : Int} {den : Nat} (hs : Canon v q s) : Canon v q (setFilter s num den) := by
  unfold setFilter
  repeat' first
    | (with_reducible assumption) | intro x
    | (with_reducible first | apply State.setI_canon)
    | (simp only [canon_mk_iff]; apply canon_parts)

theorem judgeAccepted_canon (hs : Canon v q s) : Canon v q (judgeAccepted s) := by
  unfold judgeAccepted
  repeat' first
    | (with_reducible assumption) | intro x
    | (extract_lets +onlyGivenNames t; first
        | (refine (fun (ht : Canon v q t) => ?_) ?_ <;> [clear_value t; (unfold t; clear t)])
        | clear_value t)
    | (with_reducible first
        | apply ite_canon | apply State.setN_canon | apply State.setB_canon | apply sunEvent_canon | apply sunEnter_canon
        | apply sunDrop_canon | apply raise_canon)
    | split | (simp only [canon_mk_iff]; apply canon_parts)

theorem judgeWedge_canon (hs : Canon v q s) : Canon v q (judgeWedge s) := by
  unfold judgeWedge
  repeat' first
    | (with_reducible assumption) | intro x
    | (extract_lets +onlyGivenNames t; first
        | (refine (fun (ht : Canon v q t) => ?_) ?_ <;> [clear_value t; (unfold t; clear t)])
        | clear_value t)
    | (with_reducible first
        | apply ite_canon | apply foldl_canon | apply State.setN_canon | apply sunDrop_canon | apply raise_canon
        | apply setFilter_canon | apply judgeAccepted_canon)
    | split | (simp only [canon_mk_iff]; apply canon_parts)

theorem alarmSkip_canon {n cause : Nat} (hs : Canon v q s) : Canon v q (alarmSkip s n cause) := by
  unfold alarmSkip
  repeat' first
    | (with_reducible assumption) | intro x
    | (extract_lets +onlyGivenNames t; first
        | (refine (fun (ht : Canon v q t) => ?_) ?_ <;> [clear_value t; (unfold t; clear t)])
        | clear_value t)
    | (with_reducible first | apply State.inc_canon | apply State.setBitOf_canon | apply sunEvent_canon | apply raise_canon)
    | (simp only [canon_mk_iff]; apply canon_parts)

theorem skipStepped_canon {rev0 from0 step : Nat} (hs : Canon v q s) : Canon v q (skipStepped s rev0 from0 step) := by
  unfold skipStepped
  repeat' first
    | (with_reducible assumption) | intro x
    | (extract_lets +onlyGivenNames t; first
        | (refine (fun (ht : Canon v q t) => ?_) ?_ <;> [clear_value t; (unfold t; clear t)])
        | clear_value t)
    | (with_reducible first | apply ite_canon | apply foldl_canon | apply alarmSkip_canon)
    | split

theorem rebase_canon {head : Nat} {measured expected : Nat} (hs : Canon v q s) : Canon v q (rebase s head measured expected)
    := by
  unfold rebase
  repeat' first
    | (with_reducible assumption) | intro x
    | (extract_lets +onlyGivenNames t; first
        | (refine (fun (ht : Canon v q t) => ?_) ?_ <;> [clear_value t; (unfold t; clear t)])
        | clear_value t)
    | (with_reducible first
        | apply ite_canon | apply State.inc_canon | apply State.on_canon | apply sunEvent_canon | apply raise_canon
        | apply skipStepped_canon)
    | split | (simp only [canon_mk_iff]; apply canon_parts)

theorem rejectWedge_canon {j head w : Nat} {err : Int} (hs : Canon v q s) : Canon v q (rejectWedge s j head w err) := by
  unfold rejectWedge
  repeat' first
    | (with_reducible assumption) | intro x
    | (extract_lets +onlyGivenNames t; first
        | (refine (fun (ht : Canon v q t) => ?_) ?_ <;> [clear_value t; (unfold t; clear t)])
        | clear_value t)
    | (with_reducible first | apply State.inc_canon | apply sunEvent_canon | apply raise_canon)
    | (simp only [canon_mk_iff]; apply canon_parts)

theorem firstDetection_canon {j head w measured : Nat} (hs : Canon v q s) : Canon v q (firstDetection s j head w measured) := by
  unfold firstDetection
  repeat' first
    | (with_reducible assumption) | intro x
    | (extract_lets +onlyGivenNames t; first
        | (refine (fun (ht : Canon v q t) => ?_) ?_ <;> [clear_value t; (unfold t; clear t)])
        | clear_value t)
    | (with_reducible first | apply ite_canon | apply setFilter_canon | apply rebase_canon)
    | split | (simp only [canon_mk_iff]; apply canon_parts)

theorem wedgeDetection_canon {j head w : Nat} {index fault : Bool} {measured : Nat} (hs : Canon v q s) : Canon v q
    (wedgeDetection s j head w index fault measured) := by
  unfold wedgeDetection
  repeat' first
    | (with_reducible assumption) | intro x
    | (extract_lets +onlyGivenNames t; first
        | (refine (fun (ht : Canon v q t) => ?_) ?_ <;> [clear_value t; (unfold t; clear t)])
        | clear_value t)
    | (with_reducible first
        | apply ite_canon | apply judgeWedge_canon | apply rejectWedge_canon | apply firstDetection_canon)
    | split | (simp only [canon_mk_iff]; apply canon_parts)

theorem snapshotAct_canon (ht : Canon v q t) : Canon v q (snapshotAct t) := by
  unfold snapshotAct
  repeat' first
    | (with_reducible assumption) | intro x
    | (with_reducible first | apply State.setN_canon)

theorem execSnapshot_canon {m : Master} {w : Word} (hs : Canon v q s) : Ends v q (execSnapshot m w s) := by
  unfold execSnapshot
  repeat' first
    | (with_reducible assumption) | intro x
    | (with_reducible first | apply ends_next_canon | apply kwrite_canon | apply snapshotAct_canon)

theorem execAcceptWindowClose_canon {wedge : BitVec 9} (hs : Canon v q s) : Ends v q (execAcceptWindowClose wedge s) := by
  unfold execAcceptWindowClose
  repeat' first
    | (with_reducible assumption) | intro x
    | (extract_lets +onlyGivenNames t; first
        | (refine (fun (ht : Canon v q t) => ?_) ?_ <;> [clear_value t; (unfold t; clear t)])
        | clear_value t)
    | (with_reducible first
        | apply ends_next_canon | apply ite_ends | apply ite_canon | apply boundaryIn_canon | apply judgeWedge_canon)
    | split | (simp only [canon_mk_iff]; apply canon_parts)

theorem sundialEnableWriteAct_canon (ht : Canon v q t) : Canon v q (sundialEnableWriteAct t) := by
  unfold sundialEnableWriteAct
  repeat' first
    | (with_reducible assumption) | intro x
    | (with_reducible first | apply ite_canon | apply sunInvalid_canon | apply observerCheck_canon | apply raise_canon)
    | split

theorem execSundialEnableWrite_canon {m : Master} {w : Word} (hs : Canon v q s) : Ends v q (execSundialEnableWrite m w s) := by
  unfold execSundialEnableWrite
  repeat' first
    | (with_reducible assumption) | intro x
    | (with_reducible first | apply ends_next_canon | apply kwrite_canon | apply sundialEnableWriteAct_canon)

theorem execFreeLimitExpiry_canon (hs : Canon v q s) : Ends v q (execFreeLimitExpiry s) := by
  unfold execFreeLimitExpiry
  repeat' first
    | (with_reducible assumption) | intro x
    | (with_reducible first
        | apply ends_next_canon | apply ite_ends | apply ite_canon | apply sunInvalid_canon | apply raise_canon)
    | split

theorem syncEnableCheck_canon (hs : Canon v q s) : Canon v q (syncEnableCheck s) := by
  unfold syncEnableCheck
  repeat' first
    | (with_reducible assumption) | intro x
    | (extract_lets +onlyGivenNames t; first
        | (refine (fun (ht : Canon v q t) => ?_) ?_ <;> [clear_value t; (unfold t; clear t)])
        | clear_value t)
    | (with_reducible first | apply ite_canon | apply State.setN_canon | apply setSync_canon)
    | split | (simp only [canon_mk_iff]; apply canon_parts)

theorem execFractionWrap_canon (hs : Canon v q s) : Ends v q (execFractionWrap s) := by
  unfold execFractionWrap
  repeat' first
    | (with_reducible assumption) | intro x
    | (extract_lets +onlyGivenNames t; first
        | (refine (fun (ht : Canon v q t) => ?_) ?_ <;> [clear_value t; (unfold t; clear t)])
        | clear_value t)
    | (with_reducible first
        | apply ends_next_canon | apply ite_ends | apply ite_canon | apply State.setN_canon | apply State.on_canon
        | apply boundary_canon | apply sunEvent_canon | apply raise_canon | apply syncEnableCheck_canon)
    | split | (simp only [canon_mk_iff]; apply canon_parts)

theorem postTrigger_canon {engine line : Nat} (hs : Canon v q s) : Canon v q (postTrigger s engine line) := by
  unfold postTrigger
  repeat' first
    | (with_reducible assumption) | intro x
    | (with_reducible first | apply ite_canon | apply State.setBitOf_canon)
    | split

theorem execAngleAlarmFire_canon {n : Fin 256} (hs : Canon v q s) : Ends v q (execAngleAlarmFire n s) := by
  unfold execAngleAlarmFire
  repeat' first
    | (with_reducible assumption) | intro x
    | (extract_lets +onlyGivenNames t; first
        | (refine (fun (ht : Canon v q t) => ?_) ?_ <;> [clear_value t; (unfold t; clear t)])
        | clear_value t)
    | (with_reducible first
        | apply ends_next_canon | apply ite_ends | apply ite_canon | apply State.setBitOf_canon | apply State.on_canon
        | apply sunEvent_canon | apply raise_canon | apply alarmSkip_canon | apply postTrigger_canon)
    | split | (simp only [canon_mk_iff]; apply canon_parts)

theorem execAlarmWordWrite_canon {m : Master} {n : Fin 256} {w : Word} (hs : Canon v q s) : Ends v q
    (execAlarmWordWrite m n w s) := by
  unfold execAlarmWordWrite
  repeat' first
    | (with_reducible assumption) | intro x
    | (with_reducible first | apply ends_next_canon | apply id_canon | apply kwrite_canon)

theorem syncEnableWriteAct_canon (ht : Canon v q t) : Canon v q (syncEnableWriteAct t) := by
  unfold syncEnableWriteAct
  repeat' first
    | (with_reducible assumption) | intro x
    | (with_reducible first | apply syncEnableCheck_canon)

theorem execSyncEnableWrite_canon {m : Master} {w : Word} (hs : Canon v q s) : Ends v q (execSyncEnableWrite m w s) := by
  unfold execSyncEnableWrite
  repeat' first
    | (with_reducible assumption) | intro x
    | (with_reducible first | apply ends_next_canon | apply kwrite_canon | apply syncEnableWriteAct_canon)

theorem syncIgnored_canon {interval : Nat} (hs : Canon v q s) : Canon v q (syncIgnored s interval) := by
  unfold syncIgnored
  repeat' first
    | (with_reducible assumption) | intro x
    | (extract_lets +onlyGivenNames t; first
        | (refine (fun (ht : Canon v q t) => ?_) ?_ <;> [clear_value t; (unfold t; clear t)])
        | clear_value t)
    | (with_reducible first
        | apply ite_canon | apply State.setN_canon | apply State.inc_canon | apply setSync_canon | apply sunEvent_canon
        | apply raise_canon)
    | split | (simp only [canon_mk_iff]; apply canon_parts)

theorem syncTaken_canon {e : Int} (hs : Canon v q s) : Canon v q (syncTaken s e) := by
  unfold syncTaken
  repeat' first
    | (with_reducible assumption) | intro x
    | (extract_lets +onlyGivenNames t; first
        | (refine (fun (ht : Canon v q t) => ?_) ?_ <;> [clear_value t; (unfold t; clear t)])
        | clear_value t)
    | (with_reducible first
        | apply ite_canon | apply State.setI_canon | apply setSync_canon | apply sunEvent_canon | apply raise_canon)
    | split | (simp only [canon_mk_iff]; apply canon_parts)

theorem syncAccepted_canon {e : Int} (hs : Canon v q s) : Canon v q (syncAccepted s e) := by
  unfold syncAccepted
  repeat' first
    | (with_reducible assumption) | intro x
    | (with_reducible first | apply syncCheck_canon | apply syncTaken_canon)

theorem execSyncInPulse_canon {falling : Bool} {fraction : Frac} (hs : Canon v q s) : Ends v q
    (execSyncInPulse falling fraction s) := by
  unfold execSyncInPulse
  repeat' first
    | (with_reducible assumption) | intro x
    | (extract_lets +onlyGivenNames t; first
        | (refine (fun (ht : Canon v q t) => ?_) ?_ <;> [clear_value t; (unfold t; clear t)])
        | clear_value t)
    | (with_reducible first
        | apply ends_next_canon | apply ite_ends | apply ite_canon | apply syncIgnored_canon | apply syncAccepted_canon)
    | split | (simp only [canon_mk_iff]; apply canon_parts)

theorem execSyncPulseTimeout_canon (hs : Canon v q s) : Ends v q (execSyncPulseTimeout s) := by
  unfold execSyncPulseTimeout
  repeat' first
    | (with_reducible assumption) | intro x
    | (with_reducible first | apply ends_next_canon | apply ite_ends | apply ite_canon | apply syncIgnored_canon)
    | split | (simp only [canon_mk_iff]; apply canon_parts)

/-! ### Machine/Servo -/

theorem twinRecord_canon {a seq wedge : Nat} (hs : Canon v q s) : Canon v q (twinRecord s a seq wedge) := by
  unfold twinRecord
  repeat' first
    | (with_reducible assumption) | intro x
    | (extract_lets +onlyGivenNames t; first
        | (refine (fun (ht : Canon v q t) => ?_) ?_ <;> [clear_value t; (unfold t; clear t)])
        | clear_value t)
    | (with_reducible first
        | apply ite_canon | apply State.store_canon | apply State.setAct_canon | apply actEvent_canon | apply twinLeave_canon
        | apply raise_canon)
    | split | (simp only [canon_mk_iff]; apply canon_parts)

theorem captureSample_canon {j w : Nat} {p : Sample} (hs : Canon v q s) : Canon v q (captureSample s j w p) := by
  unfold captureSample
  repeat' first
    | (with_reducible assumption) | intro x
    | (extract_lets +onlyGivenNames t; first
        | (refine (fun (ht : Canon v q t) => ?_) ?_ <;> [clear_value t; (unfold t; clear t)])
        | clear_value t)
    | (with_reducible first | apply ite_canon | apply State.setN_canon | apply State.setAct_canon | apply State.on_canon)
    | split | (simp only [canon_mk_iff]; apply canon_parts)

theorem sampleRecord_canon {j : Nat} {i : SampleIn} {p : Sample} {seq : Nat} (hs : Canon v q s) : Canon v q
    (sampleRecord s j i p seq) := by
  unfold sampleRecord
  repeat' first
    | (with_reducible assumption) | intro x
    | (extract_lets +onlyGivenNames t; first
        | (refine (fun (ht : Canon v q t) => ?_) ?_ <;> [clear_value t; (unfold t; clear t)])
        | clear_value t)
    | (with_reducible first
        | apply State.inc_canon | apply State.store_canon | apply State.setAct_canon | apply State.on_canon)
    | (simp only [canon_mk_iff]; apply canon_parts)

theorem writeOkRise_canon {j : Nat} (hs : Canon v q s) : Canon v q (writeOkRise s j) := by
  unfold writeOkRise
  repeat' first
    | (with_reducible assumption) | intro x
    | (with_reducible first | apply ite_canon | apply State.setBitOf_canon)
    | split

theorem trackSample_canon {j : Nat} {p : Sample} (hs : Canon v q s) : Canon v q (trackSample s j p) := by
  unfold trackSample
  repeat' first
    | (with_reducible assumption) | intro x
    | (extract_lets +onlyGivenNames t; first
        | (refine (fun (ht : Canon v q t) => ?_) ?_ <;> [clear_value t; (unfold t; clear t)])
        | clear_value t)
    | (with_reducible first
        | apply ite_canon | apply State.setAct_canon | apply State.setSrv_canon | apply setOnTrack_canon
        | apply writeOkFall_canon | apply raise_canon | apply writeOkRise_canon)
    | split | (simp only [canon_mk_iff]; apply canon_parts)

theorem faultSample_canon {j : Nat} {i : SampleIn} {p : Sample} (hs : Canon v q s) : Canon v q (faultSample s j i p) := by
  unfold faultSample
  repeat' first
    | (with_reducible assumption) | intro x
    | (extract_lets +onlyGivenNames t; first
        | (refine (fun (ht : Canon v q t) => ?_) ?_ <;> [clear_value t; (unfold t; clear t)])
        | clear_value t)
    | (with_reducible first
        | apply ite_canon | apply State.inc_canon | apply State.setSrv_canon | apply actEvent_canon | apply raise_canon)
    | split | (simp only [canon_mk_iff]; apply canon_parts)

theorem searchSample_canon {j : Nat} {p : Sample} (hs : Canon v q s) : Canon v q (searchSample s j p) := by
  unfold searchSample
  repeat' first
    | (with_reducible assumption) | intro x
    | (extract_lets +onlyGivenNames t; first
        | (refine (fun (ht : Canon v q t) => ?_) ?_ <;> [clear_value t; (unfold t; clear t)])
        | clear_value t)
    | (with_reducible first
        | apply ite_canon | apply State.inc_canon | apply State.setSrv_canon | apply actEvent_canon | apply actEnter_canon
        | apply raise_canon)
    | split | (simp only [canon_mk_iff]; apply canon_parts)

theorem execServoSample_canon {j : Slot} {i : SampleIn} (hs : Canon v q s) : Ends v q (execServoSample j i s) := by
  unfold execServoSample
  repeat' first
    | (with_reducible assumption) | intro x
    | (extract_lets +onlyGivenNames t; first
        | (refine (fun (ht : Canon v q t) => ?_) ?_ <;> [clear_value t; (unfold t; clear t)])
        | clear_value t)
    | (with_reducible first
        | apply ends_next_canon | apply ite_ends | apply ite_canon | apply State.setI_canon | apply State.setAct_canon
        | apply State.setSrv_canon | apply State.setCh_canon | apply boundaryIn_canon | apply readersCheck_canon
        | apply twinSettle_canon | apply raise_canon | apply wedgeDetection_canon | apply twinRecord_canon
        | apply captureSample_canon | apply sampleRecord_canon | apply trackSample_canon | apply faultSample_canon
        | apply searchSample_canon)
    | split | (simp only [canon_mk_iff]; apply canon_parts)

theorem latchVcm_canon {a : Nat} {cmd rot : Int} (hs : Canon v q s) : Canon v q (latchVcm s a cmd rot) := by
  unfold latchVcm
  repeat' first
    | (with_reducible assumption) | intro x
    | (extract_lets +onlyGivenNames t; first
        | (refine (fun (ht : Canon v q t) => ?_) ?_ <;> [clear_value t; (unfold t; clear t)])
        | clear_value t)
    | (with_reducible first
        | apply ite_canon | apply State.setI_canon | apply State.inc_canon | apply State.setAct_canon | apply actEvent_canon
        | apply raise_canon)
    | split | (simp only [canon_mk_iff]; apply canon_parts)

theorem latchPzt_canon {a h0 : Nat} {cmd : Int} (hs : Canon v q s) : Canon v q (latchPzt s a h0 cmd) := by
  unfold latchPzt
  repeat' first
    | (with_reducible assumption) | intro x
    | (extract_lets +onlyGivenNames t; first
        | (refine (fun (ht : Canon v q t) => ?_) ?_ <;> [clear_value t; (unfold t; clear t)])
        | clear_value t)
    | (with_reducible first
        | apply ite_canon | apply State.inc_canon | apply State.setAct_canon | apply actEvent_canon | apply slewPzt_canon
        | apply raise_canon)
    | split | (simp only [canon_mk_iff]; apply canon_parts)

theorem twinMonitor_canon {a : Nat} (hs : Canon v q s) : Canon v q (twinMonitor s a) := by
  unfold twinMonitor
  repeat' first
    | (with_reducible assumption) | intro x
    | (extract_lets +onlyGivenNames t; first
        | (refine (fun (ht : Canon v q t) => ?_) ?_ <;> [clear_value t; (unfold t; clear t)])
        | clear_value t)
    | (with_reducible first
        | apply ite_canon | apply State.setN_canon | apply State.inc_canon | apply State.setAct_canon | apply State.on_canon
        | apply actEvent_canon | apply writeOkFallAct_canon | apply twinLeave_canon | apply raise_canon
        | apply moduleCommit_canon)
    | split | (simp only [canon_mk_iff]; apply canon_parts)

theorem latchJudged_canon {a : Nat} (hs : Canon v q s) : Canon v q (latchJudged s a) := by
  unfold latchJudged
  repeat' first
    | (with_reducible assumption) | intro x
    | (with_reducible first
        | apply State.setAct_canon | apply twinSettle_canon | apply raise_canon | apply twinMonitor_canon)
    | (simp only [canon_mk_iff]; apply canon_parts)

theorem execOutputLatch_canon {j : Slot} {rot : BitVec 16} {vcmMv : BitVec 16} {vcmUa beforeUa : BitVec 32} (hs
    : Canon v q s) : Ends v q (execOutputLatch j rot vcmMv vcmUa beforeUa s) := by
  unfold execOutputLatch
  repeat' first
    | (with_reducible assumption) | intro x
    | (extract_lets +onlyGivenNames t; first
        | (refine (fun (ht : Canon v q t) => ?_) ?_ <;> [clear_value t; (unfold t; clear t)])
        | clear_value t)
    | (with_reducible first
        | apply ends_next_canon | apply ite_ends | apply ite_canon | apply foldl_canon | apply State.setI_canon
        | apply State.inc_canon | apply State.setAct_canon | apply State.setSrv_canon | apply actEvent_canon
        | apply writeOkFallAct_canon | apply raise_canon | apply writeOkRise_canon | apply latchVcm_canon
        | apply latchPzt_canon | apply latchJudged_canon)
    | split | (simp only [canon_mk_iff]; apply canon_parts)

theorem mailboxBytes_canon {a : Nat} {mb : Mailbox} (hs : Canon v q s) : Canon v q (mailboxBytes s a mb) := by
  unfold mailboxBytes
  repeat' first
    | (with_reducible assumption) | intro x
    | (extract_lets +onlyGivenNames t; first
        | (refine (fun (ht : Canon v q t) => ?_) ?_ <;> [clear_value t; (unfold t; clear t)])
        | clear_value t)
    | (with_reducible first | apply ite_canon | apply State.store_canon)
    | split

theorem loadTarget_canon {j : Nat} {target : Int} {head : Nat} (hs : Canon v q s) : Canon v q (loadTarget s j target head) := by
  unfold loadTarget
  repeat' first
    | (with_reducible assumption) | intro x
    | (extract_lets +onlyGivenNames t; first
        | (refine (fun (ht : Canon v q t) => ?_) ?_ <;> [clear_value t; (unfold t; clear t)])
        | clear_value t)
    | (with_reducible first
        | apply ite_canon | apply State.setN_canon | apply State.setBitOf_canon | apply State.setSrv_canon
        | apply actEvent_canon | apply writeOkFall_canon | apply raise_canon)
    | split | (simp only [canon_mk_iff]; apply canon_parts)

theorem seekWrite_canon {a : Nat} {mb : Mailbox} (hs : Canon v q s) : Canon v q (seekWrite s a mb) := by
  unfold seekWrite
  repeat' first
    | (with_reducible assumption) | intro x
    | (extract_lets +onlyGivenNames t; first
        | (refine (fun (ht : Canon v q t) => ?_) ?_ <;> [clear_value t; (unfold t; clear t)])
        | clear_value t)
    | (with_reducible first
        | apply ite_canon | apply State.inc_canon | apply State.setAct_canon | apply mailboxBytes_canon
        | apply loadTarget_canon)
    | split | (simp only [canon_mk_iff]; apply canon_parts)

theorem execSeekMailboxWrite_canon {a : Act} {mb : Mailbox} (hs : Canon v q s) : Ends v q (execSeekMailboxWrite a mb s) := by
  unfold execSeekMailboxWrite
  repeat' first
    | (with_reducible assumption) | intro x
    | (with_reducible first | apply ends_next_canon | apply seekWrite_canon)

theorem execSeekTimeout_canon {a : Act} (hs : Canon v q s) : Ends v q (execSeekTimeout a s) := by
  unfold execSeekTimeout
  repeat' first
    | (with_reducible assumption) | intro x
    | (extract_lets +onlyGivenNames t; first
        | (refine (fun (ht : Canon v q t) => ?_) ?_ <;> [clear_value t; (unfold t; clear t)])
        | clear_value t)
    | (with_reducible first
        | apply ends_next_canon | apply ite_ends | apply ite_canon | apply foldl_canon | apply State.inc_canon
        | apply State.setAct_canon | apply actEvent_canon | apply returnSlot_canon | apply raise_canon)
    | split | (simp only [canon_mk_iff]; apply canon_parts)

theorem execSettleMiss_canon {a : Act} {sectors : BitVec 16} (hs : Canon v q s) : Ends v q (execSettleMiss a sectors s) := by
  unfold execSettleMiss
  repeat' first
    | (with_reducible assumption) | intro x
    | (extract_lets +onlyGivenNames t; first
        | (refine (fun (ht : Canon v q t) => ?_) ?_ <;> [clear_value t; (unfold t; clear t)])
        | clear_value t)
    | (with_reducible first
        | apply ends_next_canon | apply ite_ends | apply ite_canon | apply State.inc_canon | apply State.setCh_canon
        | apply actEvent_canon | apply raise_canon)
    | split | (simp only [canon_mk_iff]; apply canon_parts)

theorem shockAct_canon {a : Nat} {x y z rot : Int} (hs : Canon v q s) : Canon v q (shockAct s a x y z rot) := by
  unfold shockAct
  repeat' first
    | (with_reducible assumption) | intro x
    | (extract_lets +onlyGivenNames t; first
        | (refine (fun (ht : Canon v q t) => ?_) ?_ <;> [clear_value t; (unfold t; clear t)])
        | clear_value t)
    | (with_reducible first
        | apply ite_canon | apply State.inc_canon | apply State.setAct_canon | apply State.on_canon | apply actEvent_canon
        | apply writeOkFallAct_canon | apply twinSettle_canon | apply raise_canon)
    | split | (simp only [canon_mk_iff]; apply canon_parts)

theorem execAccelSample_canon {x y z rot : BitVec 16} (hs : Canon v q s) : Ends v q (execAccelSample x y z rot s) := by
  unfold execAccelSample
  repeat' first
    | (with_reducible assumption) | intro x
    | (with_reducible first | apply ends_next_canon | apply foldl_canon | apply shockAct_canon)

theorem execShockHoldoffExpiry_canon {a : Act} (hs : Canon v q s) : Ends v q (execShockHoldoffExpiry a s) := by
  unfold execShockHoldoffExpiry
  repeat' first
    | (with_reducible assumption) | intro x
    | (with_reducible first | apply ends_next_canon | apply State.setAct_canon)
    | (simp only [canon_mk_iff]; apply canon_parts)

theorem loadNow_canon {a : Nat} (hs : Canon v q s) : Canon v q (loadNow s a) := by
  unfold loadNow
  repeat' first
    | (with_reducible assumption) | intro x
    | (extract_lets +onlyGivenNames t; first
        | (refine (fun (ht : Canon v q t) => ?_) ?_ <;> [clear_value t; (unfold t; clear t)])
        | clear_value t)
    | (with_reducible first
        | apply ite_canon | apply holdRes_canon | apply actEnter_canon | apply loadFail_canon | apply loadEscalate_canon
        | apply raise_canon)
    | split

theorem loadRequestAct_canon {m : Nat} {a : Nat} (ht : Canon v q t) : Canon v q (loadRequestAct m a t) := by
  unfold loadRequestAct
  repeat' first
    | (with_reducible assumption) | intro x
    | (with_reducible first | apply ite_canon | apply violation_canon | apply loadNow_canon)
    | split

theorem execLoadRequest_canon {m : Master} {a : Act} {w : Word} (hs : Canon v q s) : Ends v q (execLoadRequest m a w s) := by
  unfold execLoadRequest
  repeat' first
    | (with_reducible assumption) | intro x
    | (with_reducible first | apply ends_next_canon | apply kwrite_canon | apply loadRequestAct_canon)

theorem unloadRequestAct_canon {m : Nat} {a : Nat} (ht : Canon v q t) : Canon v q (unloadRequestAct m a t) := by
  unfold unloadRequestAct
  repeat' first
    | (with_reducible assumption) | intro x
    | (with_reducible first | apply ite_canon | apply violation_canon | apply unloadNow_canon | apply raise_canon)
    | split

theorem execUnloadRequest_canon {m : Master} {a : Act} {w : Word} (hs : Canon v q s) : Ends v q (execUnloadRequest m a w s)
    := by
  unfold execUnloadRequest
  repeat' first
    | (with_reducible assumption) | intro x
    | (with_reducible first | apply ends_next_canon | apply kwrite_canon | apply unloadRequestAct_canon)

theorem execLoadMsExpiry_canon {a : Act} (hs : Canon v q s) : Ends v q (execLoadMsExpiry a s) := by
  unfold execLoadMsExpiry
  repeat' first
    | (with_reducible assumption) | intro x
    | (extract_lets +onlyGivenNames t; first
        | (refine (fun (ht : Canon v q t) => ?_) ?_ <;> [clear_value t; (unfold t; clear t)])
        | clear_value t)
    | (with_reducible first
        | apply ends_next_canon | apply ite_ends | apply ite_canon | apply foldl_canon | apply State.setSrv_canon
        | apply actEnter_canon | apply unloadNow_canon | apply raise_canon)
    | split | (simp only [canon_mk_iff]; apply canon_parts)

theorem execLoadSearchTimeout_canon {a : Act} (hs : Canon v q s) : Ends v q (execLoadSearchTimeout a s) := by
  unfold execLoadSearchTimeout
  repeat' first
    | (with_reducible assumption) | intro x
    | (with_reducible first
        | apply ends_next_canon | apply ite_ends | apply ite_canon | apply loadFail_canon | apply unloadNow_canon
        | apply raise_canon)
    | split

theorem parked_canon {a path : Nat} (hs : Canon v q s) : Canon v q (parked s a path) := by
  unfold parked
  repeat' first
    | (with_reducible assumption) | intro x
    | (extract_lets +onlyGivenNames t; first
        | (refine (fun (ht : Canon v q t) => ?_) ?_ <;> [clear_value t; (unfold t; clear t)])
        | clear_value t)
    | (with_reducible first
        | apply actEvent_canon | apply unholdRes_canon | apply actEnter_canon | apply loadEscalate_canon | apply raise_canon)

theorem execUnloadComplete_canon {a : Act} (hs : Canon v q s) : Ends v q (execUnloadComplete a s) := by
  unfold execUnloadComplete
  repeat' first
    | (with_reducible assumption) | intro x
    | (with_reducible first
        | apply ends_next_canon | apply ite_ends | apply ite_canon | apply State.inc_canon | apply parked_canon)
    | split

theorem execUnloadTimeout_canon {a : Act} (hs : Canon v q s) : Ends v q (execUnloadTimeout a s) := by
  unfold execUnloadTimeout
  repeat' first
    | (with_reducible assumption) | intro x
    | (extract_lets +onlyGivenNames t; first
        | (refine (fun (ht : Canon v q t) => ?_) ?_ <;> [clear_value t; (unfold t; clear t)])
        | clear_value t)
    | (with_reducible first
        | apply ends_next_canon | apply ite_ends | apply ite_canon | apply State.setAct_canon | apply stopLink_canon
        | apply actEvent_canon | apply actEnter_canon | apply raise_canon)
    | split | (simp only [canon_mk_iff]; apply canon_parts)

theorem execRetractExpiry_canon {a : Act} (hs : Canon v q s) : Ends v q (execRetractExpiry a s) := by
  unfold execRetractExpiry
  repeat' first
    | (with_reducible assumption) | intro x
    | (with_reducible first
        | apply ends_next_canon | apply ite_ends | apply ite_canon | apply State.inc_canon | apply parked_canon)
    | split

theorem execParkHoldExpiry_canon {a : Act} (hs : Canon v q s) : Ends v q (execParkHoldExpiry a s) := by
  unfold execParkHoldExpiry
  repeat' first
    | (with_reducible assumption) | intro x
    | (with_reducible first | apply ends_next_canon | apply State.setAct_canon)
    | split | (simp only [canon_mk_iff]; apply canon_parts)

theorem execBemfOverspeed_canon {a : Act} {bemfMv : BitVec 16} (hs : Canon v q s) : Ends v q (execBemfOverspeed a bemfMv s)
    := by
  unfold execBemfOverspeed
  repeat' first
    | (with_reducible assumption) | intro x
    | (extract_lets +onlyGivenNames t; first
        | (refine (fun (ht : Canon v q t) => ?_) ?_ <;> [clear_value t; (unfold t; clear t)])
        | clear_value t)
    | (with_reducible first
        | apply ends_next_canon | apply ite_ends | apply ite_canon | apply State.setAct_canon | apply actEvent_canon
        | apply raise_canon)
    | split | (simp only [canon_mk_iff]; apply canon_parts)

theorem execVcmDriverFault_canon {a : Act} {cause : VcmCause} (hs : Canon v q s) : Ends v q (execVcmDriverFault a cause s) := by
  unfold execVcmDriverFault
  repeat' first
    | (with_reducible assumption) | intro x
    | (extract_lets +onlyGivenNames t; first
        | (refine (fun (ht : Canon v q t) => ?_) ?_ <;> [clear_value t; (unfold t; clear t)])
        | clear_value t)
    | (with_reducible first | apply ends_next_canon | apply State.setAct_canon | apply actEvent_canon | apply raise_canon)
    | split | (simp only [canon_mk_iff]; apply canon_parts)

theorem execPztDriverFault_canon {a : Act} {h0 : Head} {cause : BitVec 8} (hs : Canon v q s) : Ends v q
    (execPztDriverFault a h0 cause s) := by
  unfold execPztDriverFault
  repeat' first
    | (with_reducible assumption) | intro x
    | (extract_lets +onlyGivenNames t; first
        | (refine (fun (ht : Canon v q t) => ?_) ?_ <;> [clear_value t; (unfold t; clear t)])
        | clear_value t)
    | (with_reducible first
        | apply ends_next_canon | apply ite_ends | apply ite_canon | apply foldl_canon | apply State.setI_canon
        | apply State.setAct_canon | apply actEvent_canon | apply writeOkFall_canon | apply twinLeave_canon
        | apply raise_canon)
    | split | (simp only [canon_mk_iff]; apply canon_parts)

theorem servoDegradedClearAct_canon {a : Nat} (ht : Canon v q t) : Canon v q (servoDegradedClearAct a t) := by
  unfold servoDegradedClearAct
  repeat' first
    | (with_reducible assumption) | intro x
    | (with_reducible first | apply foldl_canon | apply writeOkRise_canon)

theorem execServoDegradedClear_canon {m : Master} {a : Act} {w : Word} (hs : Canon v q s) : Ends v q
    (execServoDegradedClear m a w s) := by
  unfold execServoDegradedClear
  repeat' first
    | (with_reducible assumption) | intro x
    | (with_reducible first | apply ends_next_canon | apply kwrite_canon | apply servoDegradedClearAct_canon)

/-! ### Machine/Spindle -/

theorem estimateCycle_canon {i : CycleIn} (hs : Canon v q s) : Canon v q (estimateCycle s i) := by
  unfold estimateCycle
  repeat' first
    | (with_reducible assumption) | intro x
    | (extract_lets +onlyGivenNames t; first
        | (refine (fun (ht : Canon v q t) => ?_) ?_ <;> [clear_value t; (unfold t; clear t)])
        | clear_value t)
    | (with_reducible first | apply ite_canon)
    | split | (simp only [canon_mk_iff]; apply canon_parts)

theorem torqueCycle_canon (hs : Canon v q s) : Canon v q (torqueCycle s) := by
  unfold torqueCycle
  repeat' first
    | (with_reducible assumption) | intro x
    | (extract_lets +onlyGivenNames t; first
        | (refine (fun (ht : Canon v q t) => ?_) ?_ <;> [clear_value t; (unfold t; clear t)])
        | clear_value t)
    | (with_reducible first | apply ite_canon | apply State.inc_canon | apply State.zero_canon | apply State.on_canon)
    | split | (simp only [canon_mk_iff]; apply canon_parts)

theorem modulation_canon (hs : Canon v q s) : Canon v q (modulation s) := by
  unfold modulation
  repeat' first
    | (with_reducible assumption) | intro x
    | (extract_lets +onlyGivenNames t; first
        | (refine (fun (ht : Canon v q t) => ?_) ?_ <;> [clear_value t; (unfold t; clear t)])
        | clear_value t)
    | (with_reducible first | apply ite_canon | apply State.setN_canon)
    | split | (simp only [canon_mk_iff]; apply canon_parts)

theorem catchFail_canon {before cause : Nat} (hs : Canon v q s) : Canon v q (catchFail s before cause) := by
  unfold catchFail
  repeat' first
    | (with_reducible assumption) | intro x
    | (extract_lets +onlyGivenNames t; first
        | (refine (fun (ht : Canon v q t) => ?_) ?_ <;> [clear_value t; (unfold t; clear t)])
        | clear_value t)
    | (with_reducible first
        | apply ite_canon | apply State.setB_canon | apply State.inc_canon | apply motorEnter_canon | apply spinEvent_canon
        | apply raise_canon | apply safeNow_canon)
    | split | (simp only [canon_mk_iff]; apply canon_parts)

theorem lossEvent_canon {before bits : Nat} {values : List Nat} (hs : Canon v q s) : Canon v q
    (lossEvent s before bits values) := by
  unfold lossEvent
  repeat' first
    | (with_reducible assumption) | intro x
    | (with_reducible first | apply State.inc_canon | apply spinEvent_canon | apply raise_canon)

theorem rectLost_canon (hs : Canon v q s) : Canon v q (rectLost s) := by
  unfold rectLost
  repeat' first
    | (with_reducible assumption) | intro x
    | (extract_lets +onlyGivenNames t; first
        | (refine (fun (ht : Canon v q t) => ?_) ?_ <;> [clear_value t; (unfold t; clear t)])
        | clear_value t)
    | (with_reducible first | apply spinEvent_canon | apply raise_canon)
    | (simp only [canon_mk_iff]; apply canon_parts)

theorem seedObserver_canon {angle : Nat} {speed : Int} (hs : Canon v q s) : Canon v q (seedObserver s angle speed) := by
  unfold seedObserver
  repeat' first
    | (with_reducible assumption) | intro x
    | (simp only [canon_mk_iff]; apply canon_parts)

theorem runLoss_canon {bits : Nat} (hs : Canon v q s) : Canon v q (runLoss s bits) := by
  unfold runLoss
  repeat' first
    | (with_reducible assumption) | intro x
    | (extract_lets +onlyGivenNames t; first
        | (refine (fun (ht : Canon v q t) => ?_) ?_ <;> [clear_value t; (unfold t; clear t)])
        | clear_value t)
    | (with_reducible first
        | apply ite_canon | apply motorEnter_canon | apply spinEvent_canon | apply raise_canon | apply catchFail_canon
        | apply lossEvent_canon | apply seedObserver_canon)
    | split | (simp only [canon_mk_iff]; apply canon_parts)

theorem commOffset_canon (hs : Canon v q s) : Canon v q (commOffset s) := by
  unfold commOffset
  repeat' first
    | (with_reducible assumption) | intro x
    | (extract_lets +onlyGivenNames t; first
        | (refine (fun (ht : Canon v q t) => ?_) ?_ <;> [clear_value t; (unfold t; clear t)])
        | clear_value t)
    | (with_reducible first | apply ite_canon | apply State.setN_canon | apply State.on_canon)
    | split | (simp only [canon_mk_iff]; apply canon_parts)

theorem confirm_canon (hs : Canon v q s) : Canon v q (confirm s) := by
  unfold confirm
  repeat' first
    | (with_reducible assumption) | intro x
    | (extract_lets +onlyGivenNames t; first
        | (refine (fun (ht : Canon v q t) => ?_) ?_ <;> [clear_value t; (unfold t; clear t)])
        | clear_value t)
    | (with_reducible first | apply ite_canon | apply spinEvent_canon | apply raise_canon)
    | split | (simp only [canon_mk_iff]; apply canon_parts)

theorem startCycle_canon (hs : Canon v q s) : Canon v q (startCycle s) := by
  unfold startCycle
  repeat' first
    | (with_reducible assumption) | intro x
    | (extract_lets +onlyGivenNames t; first
        | (refine (fun (ht : Canon v q t) => ?_) ?_ <;> [clear_value t; (unfold t; clear t)])
        | clear_value t)
    | (with_reducible first
        | apply ite_canon | apply motorEnter_canon | apply spinEvent_canon | apply raise_canon | apply catchFail_canon
        | apply commOffset_canon)
    | split | (simp only [canon_mk_iff]; apply canon_parts)

theorem rectifyCycle_canon {speed : Int} (hs : Canon v q s) : Canon v q (rectifyCycle s speed) := by
  unfold rectifyCycle
  repeat' first
    | (with_reducible assumption) | intro x
    | (extract_lets +onlyGivenNames t; first
        | (refine (fun (ht : Canon v q t) => ?_) ?_ <;> [clear_value t; (unfold t; clear t)])
        | clear_value t)
    | (with_reducible first
        | apply ite_canon | apply State.setN_canon | apply spinEvent_canon | apply raise_canon | apply lossEvent_canon
        | apply rectLost_canon | apply seedObserver_canon)
    | split | (simp only [canon_mk_iff]; apply canon_parts)

theorem brakeCycle_canon {i : CycleIn} {rest : Bool} (hs : Canon v q s) : Canon v q (brakeCycle s i rest) := by
  unfold brakeCycle
  repeat' first
    | (with_reducible assumption) | intro x
    | (extract_lets +onlyGivenNames t; first
        | (refine (fun (ht : Canon v q t) => ?_) ?_ <;> [clear_value t; (unfold t; clear t)])
        | clear_value t)
    | (with_reducible first | apply ite_canon | apply motorEnter_canon)
    | split | (simp only [canon_mk_iff]; apply canon_parts)

theorem ilimitCycle_canon (hs : Canon v q s) : Canon v q (ilimitCycle s) := by
  unfold ilimitCycle
  repeat' first
    | (with_reducible assumption) | intro x
    | (extract_lets +onlyGivenNames t; first
        | (refine (fun (ht : Canon v q t) => ?_) ?_ <;> [clear_value t; (unfold t; clear t)])
        | clear_value t)
    | (with_reducible first | apply ite_canon)
    | split | (simp only [canon_mk_iff]; apply canon_parts)

theorem motorCycle_canon {i : CycleIn} (hs : Canon v q s) : Canon v q (motorCycle s i) := by
  unfold motorCycle
  repeat' first
    | (with_reducible assumption) | intro x
    | (extract_lets +onlyGivenNames t; first
        | (refine (fun (ht : Canon v q t) => ?_) ?_ <;> [clear_value t; (unfold t; clear t)])
        | clear_value t)
    | (with_reducible first
        | apply ite_canon | apply motorEnter_canon | apply enterBrake_canon | apply spinEvent_canon | apply raise_canon
        | apply torqueCycle_canon | apply runLoss_canon | apply commOffset_canon | apply confirm_canon
        | apply startCycle_canon | apply rectifyCycle_canon | apply brakeCycle_canon | apply ilimitCycle_canon)
    | split | (simp only [canon_mk_iff]; apply canon_parts)

theorem measureCycle_canon {i : CycleIn} (hs : Canon v q s) : Canon v q (measureCycle s i) := by
  unfold measureCycle
  repeat' first
    | (with_reducible assumption) | intro x
    | (extract_lets +onlyGivenNames t; first
        | (refine (fun (ht : Canon v q t) => ?_) ?_ <;> [clear_value t; (unfold t; clear t)])
        | clear_value t)
    | (with_reducible first
        | apply State.setN_canon | apply State.setI_canon | apply boundary_canon | apply estimateCycle_canon)

theorem execControlCycle_canon {i : CycleIn} (hs : Canon v q s) : Ends v q (execControlCycle i s) := by
  unfold execControlCycle
  repeat' first
    | (with_reducible assumption) | intro x
    | (extract_lets +onlyGivenNames t; first
        | (refine (fun (ht : Canon v q t) => ?_) ?_ <;> [clear_value t; (unfold t; clear t)])
        | clear_value t)
    | (with_reducible first
        | apply ends_next_canon | apply observerAngle_canon | apply observerCheck_canon | apply raise_canon
        | apply modulation_canon | apply motorCycle_canon | apply measureCycle_canon)
    | (simp only [canon_mk_iff]; apply canon_parts)

theorem judgeCapped_canon (hs : Canon v q s) : Canon v q (judgeCapped s) := by
  unfold judgeCapped
  repeat' first
    | (with_reducible assumption) | intro x
    | (extract_lets +onlyGivenNames t; first
        | (refine (fun (ht : Canon v q t) => ?_) ?_ <;> [clear_value t; (unfold t; clear t)])
        | clear_value t)
    | (with_reducible first
        | apply ite_canon | apply State.setB_canon | apply State.inc_canon | apply spinEvent_canon | apply raise_canon)
    | split | (simp only [canon_mk_iff]; apply canon_parts)

theorem torqueTick_canon {speed : Int} (hs : Canon v q s) : Canon v q (torqueTick s speed) := by
  unfold torqueTick
  repeat' first
    | (with_reducible assumption) | intro x
    | (extract_lets +onlyGivenNames t; first
        | (refine (fun (ht : Canon v q t) => ?_) ?_ <;> [clear_value t; (unfold t; clear t)])
        | clear_value t)
    | (with_reducible first | apply ite_canon | apply State.setI_canon)
    | split | (simp only [canon_mk_iff]; apply canon_parts)

theorem speedChecks_canon {speed : Int} (hs : Canon v q s) : Canon v q (speedChecks s speed) := by
  unfold speedChecks
  repeat' first
    | (with_reducible assumption) | intro x
    | (extract_lets +onlyGivenNames t; first
        | (refine (fun (ht : Canon v q t) => ?_) ?_ <;> [clear_value t; (unfold t; clear t)])
        | clear_value t)
    | (with_reducible first | apply ite_canon | apply State.setB_canon | apply spinEvent_canon | apply raise_canon)
    | split | (simp only [canon_mk_iff]; apply canon_parts)

theorem execSpeedLoopTick_canon (hs : Canon v q s) : Ends v q (execSpeedLoopTick s) := by
  unfold execSpeedLoopTick
  repeat' first
    | (with_reducible assumption) | intro x
    | (extract_lets +onlyGivenNames t; first
        | (refine (fun (ht : Canon v q t) => ?_) ?_ <;> [clear_value t; (unfold t; clear t)])
        | clear_value t)
    | (with_reducible first
        | apply ends_next_canon | apply ite_ends | apply ite_canon | apply State.setI_canon | apply judgeCapped_canon
        | apply torqueTick_canon | apply speedChecks_canon)
    | split

theorem spinAct_canon (ht : Canon v q t) : Canon v q (spinAct t) := by
  unfold spinAct
  repeat' first
    | (with_reducible assumption) | intro x
    | (extract_lets +onlyGivenNames t; first
        | (refine (fun (ht : Canon v q t) => ?_) ?_ <;> [clear_value t; (unfold t; clear t)])
        | clear_value t)
    | (with_reducible first
        | apply ite_canon | apply observerCheck_canon | apply motorEnter_canon | apply enterBrake_canon | apply raise_canon)
    | split

theorem spinEnableWriteAct_canon (ht : Canon v q t) : Canon v q (spinEnableWriteAct t) := by
  unfold spinEnableWriteAct
  repeat' first
    | (with_reducible assumption) | intro x
    | (with_reducible first | apply spinAct_canon)

theorem execSpinEnableWrite_canon {m : Master} {w : Word} (hs : Canon v q s) : Ends v q (execSpinEnableWrite m w s) := by
  unfold execSpinEnableWrite
  repeat' first
    | (with_reducible assumption) | intro x
    | (with_reducible first | apply ends_next_canon | apply kwrite_canon | apply spinEnableWriteAct_canon)

theorem execMeasureEnd_canon {emfMv : BitVec 16} {emfAngle : Frac} {speedCrpm : BitVec 32} (hs : Canon v q s) : Ends v q
    (execMeasureEnd emfMv emfAngle speedCrpm s) := by
  unfold execMeasureEnd
  repeat' first
    | (with_reducible assumption) | intro x
    | (extract_lets +onlyGivenNames t; first
        | (refine (fun (ht : Canon v q t) => ?_) ?_ <;> [clear_value t; (unfold t; clear t)])
        | clear_value t)
    | (with_reducible first
        | apply ends_next_canon | apply ite_ends | apply ite_canon | apply State.setI_canon | apply motorEnter_canon
        | apply enterBrake_canon | apply spinEvent_canon | apply raise_canon | apply seedObserver_canon)
    | split | (simp only [canon_mk_iff]; apply canon_parts)

theorem execIpdComplete_canon {p1 p2 p3 p4 p5 p6 : BitVec 16} (hs : Canon v q s) : Ends v q
    (execIpdComplete p1 p2 p3 p4 p5 p6 s) := by
  unfold execIpdComplete
  repeat' first
    | (with_reducible assumption) | intro x
    | (extract_lets +onlyGivenNames t; first
        | (refine (fun (ht : Canon v q t) => ?_) ?_ <;> [clear_value t; (unfold t; clear t)])
        | clear_value t)
    | (with_reducible first
        | apply ends_next_canon | apply ite_ends | apply ite_canon | apply foldl_canon | apply motorEnter_canon
        | apply catchFail_canon)
    | split | (simp only [canon_mk_iff]; apply canon_parts)

theorem execConvergeTimeout_canon (hs : Canon v q s) : Ends v q (execConvergeTimeout s) := by
  unfold execConvergeTimeout
  repeat' first
    | (with_reducible assumption) | intro x
    | (with_reducible first
        | apply ends_next_canon | apply ite_ends | apply ite_canon | apply observerCheck_canon | apply raise_canon
        | apply catchFail_canon)
    | split

theorem execBrakeTimeout_canon (hs : Canon v q s) : Ends v q (execBrakeTimeout s) := by
  unfold execBrakeTimeout
  repeat' first
    | (with_reducible assumption) | intro x
    | (with_reducible first
        | apply ends_next_canon | apply ite_ends | apply ite_canon | apply motorEnter_canon | apply spinEvent_canon
        | apply raise_canon | apply catchFail_canon)
    | split

theorem execRecatchDelayExpiry_canon (hs : Canon v q s) : Ends v q (execRecatchDelayExpiry s) := by
  unfold execRecatchDelayExpiry
  repeat' first
    | (with_reducible assumption) | intro x
    | (with_reducible first | apply ends_next_canon | apply ite_ends | apply ite_canon | apply motorEnter_canon)
    | split

theorem bridgeTrip_canon {e : Nat} {items : List Nat} {overcurrent : Bool} (hs : Canon v q s) : Canon v q
    (bridgeTrip s e items overcurrent) := by
  unfold bridgeTrip
  repeat' first
    | (with_reducible assumption) | intro x
    | (extract_lets +onlyGivenNames t; first
        | (refine (fun (ht : Canon v q t) => ?_) ?_ <;> [clear_value t; (unfold t; clear t)])
        | clear_value t)
    | (with_reducible first
        | apply ite_canon | apply State.inc_canon | apply observerCheck_canon | apply motorEnter_canon
        | apply spinEvent_canon | apply raise_canon | apply catchFail_canon)
    | split | (simp only [canon_mk_iff]; apply canon_parts)

theorem execBridgeOvercurrent_canon {leg : Fin 3} {peakMa : BitVec 16} (hs : Canon v q s) : Ends v q
    (execBridgeOvercurrent leg peakMa s) := by
  unfold execBridgeOvercurrent
  repeat' first
    | (with_reducible assumption) | intro x
    | (with_reducible first | apply ends_next_canon | apply bridgeTrip_canon)

theorem execBridgeFault_canon {cause : BridgeCause} (hs : Canon v q s) : Ends v q (execBridgeFault cause s) := by
  unfold execBridgeFault
  repeat' first
    | (with_reducible assumption) | intro x
    | (with_reducible first | apply ends_next_canon | apply bridgeTrip_canon)
    | split | (simp only [canon_mk_iff]; apply canon_parts)

theorem execPowerLossSequenceComplete_canon (hs : Canon v q s) : Ends v q (execPowerLossSequenceComplete s) := by
  unfold execPowerLossSequenceComplete
  repeat' first
    | (with_reducible assumption) | intro x
    | (with_reducible first
        | apply ends_next_canon | apply ite_ends | apply ite_canon | apply observerCheck_canon | apply motorEnter_canon
        | apply enterBrake_canon | apply raise_canon)
    | split

/-! ### Machine/Twin -/

theorem mapValidWriteAct_canon {a : Nat} (ht : Canon v q t) : Canon v q (mapValidWriteAct a t) := by
  unfold mapValidWriteAct
  repeat' first
    | (with_reducible assumption) | intro x
    | (with_reducible first | apply ite_canon | apply twinLeave_canon | apply raise_canon)
    | split

theorem execMapValidWrite_canon {m : Master} {a : Act} {w : Word} (hs : Canon v q s) : Ends v q (execMapValidWrite m a w s)
    := by
  unfold execMapValidWrite
  repeat' first
    | (with_reducible assumption) | intro x
    | (with_reducible first | apply ends_next_canon | apply kwrite_canon | apply mapValidWriteAct_canon)

theorem captureFail_canon {a pair point cause : Nat} (hs : Canon v q s) : Canon v q (captureFail s a pair point cause) := by
  unfold captureFail
  repeat' first
    | (with_reducible assumption) | intro x
    | (extract_lets +onlyGivenNames t; first
        | (refine (fun (ht : Canon v q t) => ?_) ?_ <;> [clear_value t; (unfold t; clear t)])
        | clear_value t)
    | (with_reducible first | apply State.setN_canon | apply State.setAct_canon | apply actEvent_canon | apply raise_canon)
    | (simp only [canon_mk_iff]; apply canon_parts)

theorem captureStartAct_canon {a : Nat} (ht : Canon v q t) : Canon v q (captureStartAct a t) := by
  unfold captureStartAct
  repeat' first
    | (with_reducible assumption) | intro x
    | (extract_lets +onlyGivenNames t; first
        | (refine (fun (ht : Canon v q t) => ?_) ?_ <;> [clear_value t; (unfold t; clear t)])
        | clear_value t)
    | (with_reducible first | apply ite_canon | apply State.setN_canon | apply State.setAct_canon | apply captureFail_canon)
    | split | (simp only [canon_mk_iff]; apply canon_parts)

theorem execCaptureStart_canon {m : Master} {a : Act} {w : Word} (hs : Canon v q s) : Ends v q (execCaptureStart m a w s) := by
  unfold execCaptureStart
  repeat' first
    | (with_reducible assumption) | intro x
    | (with_reducible first | apply ends_next_canon | apply kwrite_canon | apply captureStartAct_canon)

theorem writeCapture_canon {a pair point : Nat} {base : Int} {deltas : List Int} (hs : Canon v q s) : Canon v q
    (writeCapture s a pair point base deltas) := by
  unfold writeCapture
  repeat' first
    | (with_reducible assumption) | intro x
    | (extract_lets +onlyGivenNames t; first
        | (refine (fun (ht : Canon v q t) => ?_) ?_ <;> [clear_value t; (unfold t; clear t)])
        | clear_value t)
    | (with_reducible first | apply State.store_canon)
    | (simp only [canon_mk_iff]; apply canon_parts)

theorem captureResult_canon {a : Nat} {c : MapCap} (hs : Canon v q s) : Canon v q (captureResult s a c) := by
  unfold captureResult
  repeat' first
    | (with_reducible assumption) | intro x
    | (extract_lets +onlyGivenNames t; first
        | (refine (fun (ht : Canon v q t) => ?_) ?_ <;> [clear_value t; (unfold t; clear t)])
        | clear_value t)
    | (with_reducible first
        | apply ite_canon | apply State.setN_canon | apply State.setAct_canon | apply actEvent_canon | apply raise_canon
        | apply captureFail_canon | apply writeCapture_canon)
    | split | (simp only [canon_mk_iff]; apply canon_parts)

theorem execMapCaptureDone_canon {a : Act} (hs : Canon v q s) : Ends v q (execMapCaptureDone a s) := by
  unfold execMapCaptureDone
  repeat' first
    | (with_reducible assumption) | intro x
    | (with_reducible first | apply ends_next_canon | apply ite_ends | apply ite_canon | apply captureResult_canon)
    | split | (simp only [canon_mk_iff]; apply canon_parts)

theorem tieEvents_canon {l : List GrantReq} (hs : Canon v q s) : Canon v q (tieEvents s l) := by
  unfold tieEvents
  repeat' first
    | (with_reducible assumption) | intro x
    | (extract_lets +onlyGivenNames t; first
        | (refine (fun (ht : Canon v q t) => ?_) ?_ <;> [clear_value t; (unfold t; clear t)])
        | clear_value t)
    | (with_reducible first
        | apply ite_canon | apply foldl_canon | apply State.inc_canon | apply actEvent_canon | apply raise_canon)
    | split

theorem admitGrant_canon {g : GrantReq} (hs : Canon v q s) : Canon v q (admitGrant s g) := by
  unfold admitGrant
  repeat' first
    | (with_reducible assumption) | intro x
    | (extract_lets +onlyGivenNames t; first
        | (refine (fun (ht : Canon v q t) => ?_) ?_ <;> [clear_value t; (unfold t; clear t)])
        | clear_value t)
    | (with_reducible first
        | apply ite_canon | apply State.inc_canon | apply State.setWr_canon | apply regrant_canon | apply actEvent_canon
        | apply endPart_canon | apply deferPart_canon | apply raise_canon)
    | split | (simp only [canon_mk_iff]; apply canon_parts)

theorem grantBoundary_canon {g : GrantReq} (hs : Canon v q s) : Canon v q (grantBoundary s g) := by
  unfold grantBoundary
  repeat' first
    | (with_reducible assumption) | intro x
    | (extract_lets +onlyGivenNames t; first
        | (refine (fun (ht : Canon v q t) => ?_) ?_ <;> [clear_value t; (unfold t; clear t)])
        | clear_value t)
    | (with_reducible first | apply ite_canon | apply boundaryIn_canon)
    | split

theorem execAssistGrantRequest_canon {reqs : List GrantReq} (hs : Canon v q s) : Ends v q (execAssistGrantRequest reqs s) := by
  unfold execAssistGrantRequest
  repeat' first
    | (with_reducible assumption) | intro x
    | (extract_lets +onlyGivenNames t; first
        | (refine (fun (ht : Canon v q t) => ?_) ?_ <;> [clear_value t; (unfold t; clear t)])
        | clear_value t)
    | (with_reducible first
        | apply ends_next_canon | apply foldl_canon | apply tieEvents_canon | apply admitGrant_canon
        | apply grantBoundary_canon)

theorem assistBudgetWriteAct_canon (ht : Canon v q t) : Canon v q (assistBudgetWriteAct t) := by
  unfold assistBudgetWriteAct
  repeat' first
    | (with_reducible assumption) | intro x
    | (with_reducible first | apply regrant_canon)

theorem execAssistBudgetWrite_canon {m : Master} {w : Word} (hs : Canon v q s) : Ends v q (execAssistBudgetWrite m w s) := by
  unfold execAssistBudgetWrite
  repeat' first
    | (with_reducible assumption) | intro x
    | (with_reducible first | apply ends_next_canon | apply kwrite_canon | apply assistBudgetWriteAct_canon)

end Sys2Proof.Machine
end

