-- ==== Sys2Proof/Laws/CanonMemory.lean ====
section
/-! SUPPORT. What keeps the canonical form: the head-stack links, the Pantry, the zones and the memory system. One lemma per operation and per meaning. -/

namespace Sys2Proof.Machine

-- Elaborated one after another: the package as one text must fit the memory its check allows.
set_option Elab.async false

set_option linter.unusedTactic false
set_option linter.unreachableTactic false
set_option linter.unusedVariables false

variable {v : Variant} {q : List Instr} {s t : State} {r : Raiser}

/-! ### Machine/LinkCmds -/

theorem linkEvent_canon {j k : Nat} {items : List Nat} (hs : Canon v q s) : Canon v q (linkEvent s j k items) := by
  unfold linkEvent
  repeat' first
    | (with_reducible assumption) | intro x
    | (with_reducible first | apply raise_canon)
    | (simp only [canon_mk_iff]; apply canon_parts)

theorem linkError_canon {a cause : Nat} {r : LinkReq} (hs : Canon v q s) : Canon v q (linkError s a cause r) := by
  unfold linkError
  repeat' first
    | (with_reducible assumption) | intro x
    | (with_reducible first | apply linkEvent_canon)

theorem initStep_canon {a n : Nat} (hs : Canon v q s) : Canon v q (initStep s a n) := by
  unfold initStep
  repeat' first
    | (with_reducible assumption) | intro x
    | (extract_lets +onlyGivenNames t; first
        | (refine (fun (ht : Canon v q t) => ?_) ?_ <;> [clear_value t; (unfold t; clear t)])
        | clear_value t)
    | (with_reducible first | apply ite_canon | apply State.setLink_canon | apply linkPost_canon)
    | split | (simp only [canon_mk_iff]; apply canon_parts)

theorem initFail_canon {a cause : Nat} {r : LinkReq} (hs : Canon v q s) : Canon v q (initFail s a cause r) := by
  unfold initFail
  repeat' first
    | (with_reducible assumption) | intro x
    | (with_reducible first | apply State.setN_canon | apply State.setLink_canon | apply linkError_canon)
    | (simp only [canon_mk_iff]; apply canon_parts)

theorem initAnswer_canon {a : Nat} {r : LinkReq} {code data : Nat} (hs : Canon v q s) : Canon v q
    (initAnswer s a r code data) := by
  unfold initAnswer
  repeat' first
    | (with_reducible assumption) | intro x
    | (extract_lets +onlyGivenNames t; first
        | (refine (fun (ht : Canon v q t) => ?_) ?_ <;> [clear_value t; (unfold t; clear t)])
        | clear_value t)
    | (with_reducible first
        | apply ite_canon | apply State.setN_canon | apply State.setLink_canon | apply State.drawn_canon
        | apply initStep_canon | apply initFail_canon)
    | split | (simp only [canon_mk_iff]; apply canon_parts)

theorem monitorFault_canon {j : Nat} (hs : Canon v q s) : Canon v q (monitorFault s j) := by
  unfold monitorFault
  repeat' first
    | (with_reducible assumption) | intro x
    | (extract_lets +onlyGivenNames t; first
        | (refine (fun (ht : Canon v q t) => ?_) ?_ <;> [clear_value t; (unfold t; clear t)])
        | clear_value t)
    | (with_reducible first
        | apply ite_canon | apply State.inc_canon | apply State.setWr_canon | apply State.drawn_canon | apply assistOff_canon
        | apply endPart_canon | apply raise_canon | apply linkEvent_canon)
    | split | (simp only [canon_mk_iff]; apply canon_parts)

theorem safeDone_canon {a : Nat} {asked : Option Nat} (hs : Canon v q s) : Canon v q (safeDone s a asked) := by
  unfold safeDone
  repeat' first
    | (with_reducible assumption) | intro x
    | (extract_lets +onlyGivenNames t; first
        | (refine (fun (ht : Canon v q t) => ?_) ?_ <;> [clear_value t; (unfold t; clear t)])
        | clear_value t)
    | (with_reducible first
        | apply ite_canon | apply foldl_canon | apply State.setLink_canon | apply linkPost_canon | apply assistEnded_canon
        | apply monitorFault_canon)
    | split | (simp only [canon_mk_iff]; apply canon_parts)

theorem safeStopBit_canon {a : Nat} {r : LinkReq} (hs : Canon v q s) : Canon v q (safeStopBit s a r) := by
  unfold safeStopBit
  repeat' first
    | (with_reducible assumption) | intro x
    | (with_reducible first | apply ite_canon | apply safeDone_canon)
    | split

theorem prebiasLate_canon {j cause lateness : Nat} (hs : Canon v q s) : Canon v q (prebiasLate s j cause lateness) := by
  unfold prebiasLate
  repeat' first
    | (with_reducible assumption) | intro x
    | (extract_lets +onlyGivenNames t; first
        | (refine (fun (ht : Canon v q t) => ?_) ?_ <;> [clear_value t; (unfold t; clear t)])
        | clear_value t)
    | (with_reducible first | apply State.inc_canon | apply assistOff_canon | apply deferPart_canon | apply linkEvent_canon)

theorem sectorDeferred_canon {j : Nat} (hs : Canon v q s) : Canon v q (sectorDeferred s j) := by
  unfold sectorDeferred
  repeat' first
    | (with_reducible assumption) | intro x
    | (with_reducible first | apply ite_canon | apply State.setCh_canon | apply prebiasLate_canon)
    | split | (simp only [canon_mk_iff]; apply canon_parts)

theorem linkWritten_canon {a : Nat} {r : LinkReq} (hs : Canon v q s) : Canon v q (linkWritten s a r) := by
  unfold linkWritten
  repeat' first
    | (with_reducible assumption) | intro x
    | (extract_lets +onlyGivenNames t; first
        | (refine (fun (ht : Canon v q t) => ?_) ?_ <;> [clear_value t; (unfold t; clear t)])
        | clear_value t)
    | (with_reducible first | apply ite_canon | apply State.setLink_canon)
    | split | (simp only [canon_mk_iff]; apply canon_parts)

theorem headTemp_canon {a h0 data : Nat} (hs : Canon v q s) : Canon v q (headTemp s a h0 data) := by
  unfold headTemp
  repeat' first
    | (with_reducible assumption) | intro x
    | (extract_lets +onlyGivenNames t; first
        | (refine (fun (ht : Canon v q t) => ?_) ?_ <;> [clear_value t; (unfold t; clear t)])
        | clear_value t)
    | (with_reducible first | apply ite_canon | apply State.setI_canon | apply State.setLink_canon | apply linkEvent_canon)
    | split | (simp only [canon_mk_iff]; apply canon_parts)

theorem preampFault_canon {a what gates : Nat} (hs : Canon v q s) : Canon v q (preampFault s a what gates) := by
  unfold preampFault
  repeat' first
    | (with_reducible assumption) | intro x
    | (with_reducible first | apply State.inc_canon | apply linkEvent_canon)

theorem faultReported_canon {a : Nat} (hs : Canon v q s) : Canon v q (faultReported s a) := by
  unfold faultReported
  repeat' first
    | (with_reducible assumption) | intro x
    | (with_reducible first | apply State.setLink_canon | apply preampFault_canon)
    | (simp only [canon_mk_iff]; apply canon_parts)

theorem faultTick_canon {a : Nat} (hs : Canon v q s) : Canon v q (faultTick s a) := by
  unfold faultTick
  repeat' first
    | (with_reducible assumption) | intro x
    | (with_reducible first | apply ite_canon | apply faultReported_canon)
    | split

theorem heaterState_canon {a h0 data : Nat} (hs : Canon v q s) : Canon v q (heaterState s a h0 data) := by
  unfold heaterState
  repeat' first
    | (with_reducible assumption) | intro x
    | (extract_lets +onlyGivenNames t; first
        | (refine (fun (ht : Canon v q t) => ?_) ?_ <;> [clear_value t; (unfold t; clear t)])
        | clear_value t)
    | (with_reducible first | apply ite_canon | apply preampFault_canon)
    | split

theorem linkDone_canon {a : Nat} {r : LinkReq} {data : Nat} (hs : Canon v q s) : Canon v q (linkDone s a r data) := by
  unfold linkDone
  repeat' first
    | (with_reducible assumption) | intro x
    | (extract_lets +onlyGivenNames t; first
        | (refine (fun (ht : Canon v q t) => ?_) ?_ <;> [clear_value t; (unfold t; clear t)])
        | clear_value t)
    | (with_reducible first
        | apply ite_canon | apply State.setN_canon | apply State.setI_canon | apply State.setWr_canon
        | apply assistEnded_canon | apply initAnswer_canon | apply linkWritten_canon | apply headTemp_canon
        | apply faultReported_canon | apply heaterState_canon)
    | split | (simp only [canon_mk_iff]; apply canon_parts)

theorem linkRejected_canon {a : Nat} {r : LinkReq} (hs : Canon v q s) : Canon v q (linkRejected s a r) := by
  unfold linkRejected
  repeat' first
    | (with_reducible assumption) | intro x
    | (with_reducible first
        | apply ite_canon | apply State.setN_canon | apply assistEnded_canon | apply initAnswer_canon
        | apply faultReported_canon)
    | split | (simp only [canon_mk_iff]; apply canon_parts)

theorem linkGaveUp_canon {a : Nat} {r : LinkReq} {cause : Nat} (hs : Canon v q s) : Canon v q (linkGaveUp s a r cause) := by
  unfold linkGaveUp
  repeat' first
    | (with_reducible assumption) | intro x
    | (extract_lets +onlyGivenNames t; first
        | (refine (fun (ht : Canon v q t) => ?_) ?_ <;> [clear_value t; (unfold t; clear t)])
        | clear_value t)
    | (with_reducible first
        | apply ite_canon | apply State.setN_canon | apply linkPost_canon | apply linkError_canon | apply initFail_canon
        | apply sectorDeferred_canon | apply faultReported_canon)
    | split | (simp only [canon_mk_iff]; apply canon_parts)

theorem degradedNops_canon {a : Nat} (hs : Canon v q s) : Canon v q (degradedNops s a) := by
  unfold degradedNops
  repeat' first
    | (with_reducible assumption) | intro x
    | (with_reducible first | apply ite_canon | apply linkPost_canon)
    | split

theorem linkFailed_canon {a : Nat} {r : LinkReq} {cause : Nat} (hs : Canon v q s) : Canon v q (linkFailed s a r cause) := by
  unfold linkFailed
  repeat' first
    | (with_reducible assumption) | intro x
    | (extract_lets +onlyGivenNames t; first
        | (refine (fun (ht : Canon v q t) => ?_) ?_ <;> [clear_value t; (unfold t; clear t)])
        | clear_value t)
    | (with_reducible first
        | apply ite_canon | apply State.setN_canon | apply State.setB_canon | apply State.inc_canon
        | apply State.setLink_canon | apply State.on_canon | apply linkSend_canon | apply linkPump_canon
        | apply linkError_canon | apply safeStopBit_canon | apply linkGaveUp_canon | apply degradedNops_canon)
    | split | (simp only [canon_mk_iff]; apply canon_parts)

theorem monitorBits_canon {a : Nat} {status settleA settleB : Nat} (hs : Canon v q s) : Canon v q
    (monitorBits s a status settleA settleB) := by
  unfold monitorBits
  repeat' first
    | (with_reducible assumption) | intro x
    | (extract_lets +onlyGivenNames t; first
        | (refine (fun (ht : Canon v q t) => ?_) ?_ <;> [clear_value t; (unfold t; clear t)])
        | clear_value t)
    | (with_reducible first | apply ite_canon | apply foldl_canon | apply State.setWr_canon | apply monitorFault_canon)
    | split | (simp only [canon_mk_iff]; apply canon_parts)

theorem execLinkNop_canon {a : Act} (hs : Canon v q s) : Ends v q (execLinkNop a s) := by
  unfold execLinkNop
  repeat' first
    | (with_reducible assumption) | intro x
    | (with_reducible first | apply ends_next_canon | apply ite_ends | apply ite_canon | apply linkPost_canon)
    | split

theorem execLinkRead_canon {a : Act} {head : BitVec 4} {addr : Byte} (hs : Canon v q s) : Ends v q
    (execLinkRead a head addr s) := by
  unfold execLinkRead
  repeat' first
    | (with_reducible assumption) | intro x
    | (with_reducible first | apply ends_next_canon | apply ite_ends | apply ite_canon | apply linkPost_canon)
    | split

theorem execLinkWrite_canon {j : Slot} {head : BitVec 4} {addr : Byte} {data : BitVec 16} {due : Stamp} (hs : Canon v q s)
    : Ends v q (execLinkWrite j head addr data due s) := by
  unfold execLinkWrite
  repeat' first
    | (with_reducible assumption) | intro x
    | (with_reducible first | apply ends_next_canon | apply ite_ends | apply ite_canon | apply linkPost_canon)
    | split | (simp only [canon_mk_iff]; apply canon_parts)

theorem levelWrites_canon {j h0 due : Nat} (hs : Canon v q s) : Canon v q (levelWrites s j h0 due) := by
  unfold levelWrites
  repeat' first
    | (with_reducible assumption) | intro x
    | (extract_lets +onlyGivenNames t; first
        | (refine (fun (ht : Canon v q t) => ?_) ?_ <;> [clear_value t; (unfold t; clear t)])
        | clear_value t)
    | (with_reducible first | apply ite_canon | apply foldl_canon | apply linkPost_canon)
    | split | (simp only [canon_mk_iff]; apply canon_parts)

theorem execAssistArm_canon {j : Slot} {head : Head} {gate : Stamp} (hs : Canon v q s) : Ends v q
    (execAssistArm j head gate s) := by
  unfold execAssistArm
  repeat' first
    | (with_reducible assumption) | intro x
    | (extract_lets +onlyGivenNames t; first
        | (refine (fun (ht : Canon v q t) => ?_) ?_ <;> [clear_value t; (unfold t; clear t)])
        | clear_value t)
    | (with_reducible first
        | apply ends_next_canon | apply ite_ends | apply ite_canon | apply State.setWr_canon | apply linkPost_canon
        | apply levelWrites_canon)
    | split | (simp only [canon_mk_iff]; apply canon_parts)

theorem execAssistOff_canon {j : Slot} {head : Head} (hs : Canon v q s) : Ends v q (execAssistOff j head s) := by
  unfold execAssistOff
  repeat' first
    | (with_reducible assumption) | intro x
    | (extract_lets +onlyGivenNames t; first
        | (refine (fun (ht : Canon v q t) => ?_) ?_ <;> [clear_value t; (unfold t; clear t)])
        | clear_value t)
    | (with_reducible first
        | apply ends_next_canon | apply ite_ends | apply ite_canon | apply State.setWr_canon | apply assistOff_canon)
    | split | (simp only [canon_mk_iff]; apply canon_parts)

theorem execPreampSafe_canon {a : Act} {stopClock : Bool} (hs : Canon v q s) : Ends v q (execPreampSafe a stopClock s) := by
  unfold execPreampSafe
  repeat' first
    | (with_reducible assumption) | intro x
    | (with_reducible first
        | apply ends_next_canon | apply ite_ends | apply ite_canon | apply linkPost_canon | apply stopLink_canon)
    | split

theorem execLinkResponse_canon {a : Act} {status : Byte} {data : BitVec 16} {crc : Byte} {stop : Bool} {settleA settleB
    : BitVec 16} (hs : Canon v q s) : Ends v q (execLinkResponse a status data crc stop settleA settleB s) := by
  unfold execLinkResponse
  repeat' first
    | (with_reducible assumption) | intro x
    | (extract_lets +onlyGivenNames t; first
        | (refine (fun (ht : Canon v q t) => ?_) ?_ <;> [clear_value t; (unfold t; clear t)])
        | clear_value t)
    | (with_reducible first
        | apply ends_next_canon | apply ite_ends | apply ite_canon | apply State.inc_canon | apply State.setLink_canon
        | apply State.on_canon | apply linkPump_canon | apply safeStopBit_canon | apply linkDone_canon
        | apply linkRejected_canon | apply degradedNops_canon | apply linkFailed_canon | apply monitorBits_canon)
    | split | (simp only [canon_mk_iff]; apply canon_parts)

theorem execLinkResponseTimeout_canon {a : Act} (hs : Canon v q s) : Ends v q (execLinkResponseTimeout a s) := by
  unfold execLinkResponseTimeout
  repeat' first
    | (with_reducible assumption) | intro x
    | (with_reducible first | apply ends_next_canon | apply State.inc_canon | apply linkFailed_canon)
    | split | (simp only [canon_mk_iff]; apply canon_parts)

theorem linkDegradedClearAct_canon {a : Nat} (ht : Canon v q t) : Canon v q (linkDegradedClearAct a t) := by
  unfold linkDegradedClearAct
  repeat' first
    | (with_reducible assumption) | intro x
    | (with_reducible first | apply State.setN_canon | apply State.on_canon)

theorem execLinkDegradedClear_canon {m : Master} {a : Act} {w : Word} (hs : Canon v q s) : Ends v q
    (execLinkDegradedClear m a w s) := by
  unfold execLinkDegradedClear
  repeat' first
    | (with_reducible assumption) | intro x
    | (with_reducible first | apply ends_next_canon | apply kwrite_canon | apply linkDegradedClearAct_canon)

theorem linkInitAct_canon {a : Nat} (ht : Canon v q t) : Canon v q (linkInitAct a t) := by
  unfold linkInitAct
  repeat' first
    | (with_reducible assumption) | intro x
    | (extract_lets +onlyGivenNames t; first
        | (refine (fun (ht : Canon v q t) => ?_) ?_ <;> [clear_value t; (unfold t; clear t)])
        | clear_value t)
    | (with_reducible first
        | apply State.setN_canon | apply State.setB_canon | apply State.setLink_canon | apply initStep_canon)
    | (simp only [canon_mk_iff]; apply canon_parts)

theorem execLinkInit_canon {m : Master} {a : Act} {w : Word} (hs : Canon v q s) : Ends v q (execLinkInit m a w s) := by
  unfold execLinkInit
  repeat' first
    | (with_reducible assumption) | intro x
    | (with_reducible first | apply ends_next_canon | apply kwrite_canon | apply linkInitAct_canon)

theorem execPreampFaultLine_canon {a : Act} (hs : Canon v q s) : Ends v q (execPreampFaultLine a s) := by
  unfold execPreampFaultLine
  repeat' first
    | (with_reducible assumption) | intro x
    | (extract_lets +onlyGivenNames t; first
        | (refine (fun (ht : Canon v q t) => ?_) ?_ <;> [clear_value t; (unfold t; clear t)])
        | clear_value t)
    | (with_reducible first
        | apply ends_next_canon | apply ite_ends | apply ite_canon | apply foldl_canon | apply State.setLink_canon
        | apply linkPost_canon | apply endPart_canon | apply raise_canon | apply faultTick_canon)
    | split | (simp only [canon_mk_iff]; apply canon_parts)

theorem execHsFltLRelease_canon {a : Act} (hs : Canon v q s) : Ends v q (execHsFltLRelease a s) := by
  unfold execHsFltLRelease
  repeat' first
    | (with_reducible assumption) | intro x
    | (with_reducible first | apply ends_next_canon | apply State.setLink_canon)
    | (simp only [canon_mk_iff]; apply canon_parts)

theorem execMonitorPoll_canon {a : Act} (hs : Canon v q s) : Ends v q (execMonitorPoll a s) := by
  unfold execMonitorPoll
  repeat' first
    | (with_reducible assumption) | intro x
    | (extract_lets +onlyGivenNames t; first
        | (refine (fun (ht : Canon v q t) => ?_) ?_ <;> [clear_value t; (unfold t; clear t)])
        | clear_value t)
    | (with_reducible first | apply ends_next_canon | apply ite_ends | apply ite_canon | apply linkPost_canon)
    | split

theorem execMonitorAgeExpiry_canon {j : Slot} (hs : Canon v q s) : Ends v q (execMonitorAgeExpiry j s) := by
  unfold execMonitorAgeExpiry
  repeat' first
    | (with_reducible assumption) | intro x
    | (with_reducible first | apply ends_next_canon | apply ite_ends | apply ite_canon | apply monitorFault_canon)
    | split

theorem execHeadTempPoll_canon {a : Act} (hs : Canon v q s) : Ends v q (execHeadTempPoll a s) := by
  unfold execHeadTempPoll
  repeat' first
    | (with_reducible assumption) | intro x
    | (extract_lets +onlyGivenNames t; first
        | (refine (fun (ht : Canon v q t) => ?_) ?_ <;> [clear_value t; (unfold t; clear t)])
        | clear_value t)
    | (with_reducible first
        | apply ends_next_canon | apply ite_ends | apply ite_canon | apply foldl_canon | apply linkPost_canon)
    | split

theorem regGo_canon {a cmd data : Nat} (hs : Canon v q s) : Canon v q (regGo s a cmd data) := by
  unfold regGo
  repeat' first
    | (with_reducible assumption) | intro x
    | (with_reducible first | apply ite_canon | apply State.setN_canon | apply linkPost_canon)
    | split

theorem regOpReadAct_canon {a : Nat} (ht : Canon v q t) : Canon v q (regOpReadAct a t) := by
  unfold regOpReadAct
  repeat' first
    | (with_reducible assumption) | intro x
    | (with_reducible first | apply regGo_canon)

theorem execRegOpRead_canon {m : Master} {a : Act} (hs : Canon v q s) : Ends v q (execRegOpRead m a s) := by
  unfold execRegOpRead
  repeat' first
    | (with_reducible assumption) | intro x
    | (with_reducible first | apply ends_next_canon | apply kwrite_canon | apply regOpReadAct_canon)

theorem regOpWriteAct_canon {m : Nat} {a : Nat} (ht : Canon v q t) : Canon v q (regOpWriteAct m a t) := by
  unfold regOpWriteAct
  repeat' first
    | (with_reducible assumption) | intro x
    | (with_reducible first | apply ite_canon | apply State.setN_canon | apply violation_canon | apply regGo_canon)
    | split

theorem execRegOpWrite_canon {m : Master} {a : Act} (hs : Canon v q s) : Ends v q (execRegOpWrite m a s) := by
  unfold execRegOpWrite
  repeat' first
    | (with_reducible assumption) | intro x
    | (with_reducible first | apply ends_next_canon | apply kwrite_canon | apply regOpWriteAct_canon)

/-! ### Machine/Pantry -/

theorem fabricPush_canon {port j tag : Nat} {ecc : PantryEcc} (hs : Canon v q s) : Canon v q (fabricPush s port j tag ecc) := by
  unfold fabricPush
  repeat' first
    | (with_reducible assumption) | intro x
    | (extract_lets +onlyGivenNames t; first
        | (refine (fun (ht : Canon v q t) => ?_) ?_ <;> [clear_value t; (unfold t; clear t)])
        | clear_value t)
    | (with_reducible first | apply pantryPush_canon | apply raise_canon)
    | (simp only [canon_mk_iff]; apply canon_parts)

theorem fabricPop_canon {port j : Nat} {ecc : PantryEcc} (hs : Canon v q s) : Canon v q (fabricPop s port j ecc) := by
  unfold fabricPop
  repeat' first
    | (with_reducible assumption) | intro x
    | (extract_lets +onlyGivenNames t; first
        | (refine (fun (ht : Canon v q t) => ?_) ?_ <;> [clear_value t; (unfold t; clear t)])
        | clear_value t)
    | (with_reducible first
        | refine pantryPop_canon_eq (by with_reducible assumption) ?_ ?_ | apply pantryPop_canon | apply raise_canon)
    | (simp only [canon_mk_iff]; apply canon_parts)

theorem execPantryPush_canon {port : PantryPort} {j : BitVec 9} {tag : BitVec 16} {ecc : PantryEcc} (hs : Canon v q s)
    : Ends v q (execPantryPush port j tag ecc s) := by
  unfold execPantryPush
  repeat' first
    | (with_reducible assumption) | intro x
    | (with_reducible first | apply ends_next_canon | apply pantryPush_canon | apply raise_canon | apply fabricPush_canon)
    | split | (simp only [canon_mk_iff]; apply canon_parts)

theorem enginePop_canon {n j : Nat} {ecc : PantryEcc} (hs : Canon v q s) : Canon v q ((enginePop s n j ecc)).2 := by
  unfold enginePop
  repeat' first
    | (with_reducible assumption) | intro x
    | (extract_lets +onlyGivenNames t; first
        | (refine (fun (ht : Canon v q t) => ?_) ?_ <;> [clear_value t; (unfold t; clear t)])
        | clear_value t)
    | (with_reducible first
        | refine pantryPop_canon_eq (by with_reducible assumption) ?_ ?_ | apply State.setEng_canon | apply pantryPop_canon
        | apply raise_canon)
    | dsimp only | (simp only [canon_mk_iff]; apply canon_parts)

theorem enginePop_canon_eq {n j : Nat} {ecc : PantryEcc} {x1 : Nat} {t : State} (he : enginePop s n j ecc = (x1, t)) (hs
    : Canon v q s) : Canon v q t := by
  have h0 := enginePop_canon (s := s) (n := n) (j := j) (ecc := ecc) hs
  rw [he] at h0; exact h0

theorem execPantryPop_canon {port : PantryPort} {j : BitVec 9} {ecc : PantryEcc} (hs : Canon v q s) : Ends v q
    (execPantryPop port j ecc s) := by
  unfold execPantryPop
  repeat' first
    | (with_reducible assumption) | intro x
    | (with_reducible first
        | apply ends_next_canon | refine enginePop_canon_eq (by with_reducible assumption) ?_ | apply fabricPop_canon
        | apply enginePop_canon)
    | split | (simp only [canon_mk_iff]; apply canon_parts)

theorem queueResetAct_canon {j : Nat} (ht : Canon v q t) : Canon v q (queueResetAct j t) := by
  unfold queueResetAct
  repeat' first
    | (with_reducible assumption) | intro x
    | (with_reducible first | apply queueEmptied_canon)

theorem execQueueReset_canon {m : Master} {j : BitVec 9} {w : Word} (hs : Canon v q s) : Ends v q (execQueueReset m j w s) := by
  unfold execQueueReset
  repeat' first
    | (with_reducible assumption) | intro x
    | (with_reducible first | apply ends_next_canon | apply kwrite_canon | apply queueResetAct_canon)

theorem execSweepDone_canon {j : BitVec 9} (hs : Canon v q s) : Ends v q (execSweepDone j s) := by
  unfold execSweepDone
  repeat' first
    | (with_reducible assumption) | intro x
    | (extract_lets +onlyGivenNames t; first
        | (refine (fun (ht : Canon v q t) => ?_) ?_ <;> [clear_value t; (unfold t; clear t)])
        | clear_value t)
    | (with_reducible first
        | apply ends_next_canon | apply ite_ends | apply ite_canon | apply State.addN_canon | apply State.setQueue_canon
        | apply setUsed_canon | apply setFlag_canon | apply raise_canon)
    | split | (simp only [canon_mk_iff]; apply canon_parts)

/-! ### Machine/Zones -/

theorem formatCommitAct_canon (ht : Canon v q t) : Canon v q (formatCommitAct t) := by
  unfold formatCommitAct
  repeat' first
    | (with_reducible assumption) | intro x
    | (with_reducible first | apply State.setN_canon)

theorem execFormatCommit_canon {m : Master} {w : Word} (hs : Canon v q s) : Ends v q (execFormatCommit m w s) := by
  unfold execFormatCommit
  repeat' first
    | (with_reducible assumption) | intro x
    | (with_reducible first | apply ends_next_canon | apply kwrite_canon | apply formatCommitAct_canon)

theorem execFormatCheckDone_canon (hs : Canon v q s) : Ends v q (execFormatCheckDone s) := by
  unfold execFormatCheckDone
  repeat' first
    | (with_reducible assumption) | intro x
    | (extract_lets +onlyGivenNames t; first
        | (refine (fun (ht : Canon v q t) => ?_) ?_ <;> [clear_value t; (unfold t; clear t)])
        | clear_value t)
    | (with_reducible first
        | apply ends_next_canon | apply ite_ends | apply ite_canon | apply foldl_canon | apply State.setN_canon
        | apply State.store_canon | apply zoneEvent_canon)
    | split | (simp only [canon_mk_iff]; apply canon_parts)

theorem recountZones_canon (hs : Canon v q s) : Canon v q (recountZones s) := by
  unfold recountZones
  repeat' first
    | (with_reducible assumption) | intro x
    | (extract_lets +onlyGivenNames t; first
        | (refine (fun (ht : Canon v q t) => ?_) ?_ <;> [clear_value t; (unfold t; clear t)])
        | clear_value t)
    | (with_reducible first | apply State.setN_canon)

theorem zoneHwEnableAct_canon {w : Word} (hs : Canon v q s) (ht : Canon v q t) : Canon v q (zoneHwEnableAct w s t) := by
  unfold zoneHwEnableAct
  repeat' first
    | (with_reducible assumption) | intro x
    | (extract_lets +onlyGivenNames t; first
        | (refine (fun (ht : Canon v q t) => ?_) ?_ <;> [clear_value t; (unfold t; clear t)])
        | clear_value t)
    | (with_reducible first | apply ite_canon | apply foldl_canon | apply State.store_canon | apply recountZones_canon)
    | split | (simp only [canon_mk_iff]; apply canon_parts)

theorem execZoneHwEnable_canon {m : Master} {w : Word} (hs : Canon v q s) : Ends v q (execZoneHwEnable m w s) := by
  unfold execZoneHwEnable
  repeat' first
    | (with_reducible assumption) | intro x
    | (with_reducible first | apply ends_next_canon | apply kwrite_canon | apply zoneHwEnableAct_canon)

theorem allocResult_canon {port status : Nat} {offset : Option Nat} (hs : Canon v q s) : Canon v q
    (allocResult s port status offset) := by
  unfold allocResult
  repeat' first
    | (with_reducible assumption) | intro x
    | (extract_lets +onlyGivenNames t; first
        | (refine (fun (ht : Canon v q t) => ?_) ?_ <;> [clear_value t; (unfold t; clear t)])
        | clear_value t)
    | (with_reducible first | apply ite_canon | apply State.setN_canon | apply State.drawn_canon)
    | split | (simp only [canon_mk_iff]; apply canon_parts)

theorem allocFor_canon {e : CmdEnt} {z count : Nat} {offset : Option Nat} (hs : Canon v q s) : Canon v q
    (allocFor s e z count offset) := by
  unfold allocFor
  repeat' first
    | (with_reducible assumption) | intro x
    | (with_reducible first
        | apply ite_canon | refine allocate_canon_eq (by with_reducible assumption) ?_ | apply State.setCmd_canon
        | apply complete_canon | apply raise_canon | apply allocate_canon)
    | split | (simp only [canon_mk_iff]; apply canon_parts)

theorem cascade_canon {z : Nat} (hs : Canon v q s) : Canon v q (cascade s z) := by
  unfold cascade
  repeat' first
    | (with_reducible assumption) | intro x
    | (with_reducible first
        | apply ite_canon | apply foldl_canon | apply complete_canon | apply raise_canon | apply allocFor_canon)
    | split

theorem allocRequestAct_canon {port : Nat} {w : Word} (ht : Canon v q t) : Canon v q (allocRequestAct port w t) := by
  unfold allocRequestAct
  repeat' first
    | (with_reducible assumption) | intro x
    | (extract_lets +onlyGivenNames t; first
        | (refine (fun (ht : Canon v q t) => ?_) ?_ <;> [clear_value t; (unfold t; clear t)])
        | clear_value t)
    | (with_reducible first
        | apply ite_canon | refine allocate_canon_eq (by with_reducible assumption) ?_
        | refine rewindZone_canon_eq (by with_reducible assumption) ?_ | apply allocate_canon | apply rewindZone_canon
        | apply runCommits_canon | apply allocResult_canon | apply cascade_canon)
    | split

theorem allocRequest_canon {m : Master} {port : Fin 4} {w : Word} (hs : Canon v q s) : Canon v q (allocRequest s m port w) := by
  unfold allocRequest
  repeat' first
    | (with_reducible assumption) | intro x
    | (with_reducible first | apply kwrite_canon | apply allocRequestAct_canon)

theorem execAllocWrite_canon {m : Master} {port : Fin 4} {w : Word} (hs : Canon v q s) : Ends v q (execAllocWrite m port w s)
    := by
  unfold execAllocWrite
  repeat' first
    | (with_reducible assumption) | intro x
    | (with_reducible first | apply ends_next_canon | apply allocRequest_canon)

theorem execAllocAppend_canon {m : Master} {port : Fin 4} {w : Word} (hs : Canon v q s) : Ends v q
    (execAllocAppend m port w s) := by
  unfold execAllocAppend
  repeat' first
    | (with_reducible assumption) | intro x
    | (with_reducible first | apply ends_next_canon | apply allocRequest_canon)

theorem execAllocRewind_canon {m : Master} {port : Fin 4} {w : Word} (hs : Canon v q s) : Ends v q
    (execAllocRewind m port w s) := by
  unfold execAllocRewind
  repeat' first
    | (with_reducible assumption) | intro x
    | (with_reducible first | apply ends_next_canon | apply allocRequest_canon)

theorem badTransition_canon {e : CmdEnt} {act z : Nat} (hs : Canon v q s) : Canon v q (badTransition s e act z) := by
  unfold badTransition
  repeat' first
    | (with_reducible assumption) | intro x
    | (with_reducible first | apply actionRefused_canon | apply zoneSettled_canon)

theorem sendOne_canon {e : CmdEnt} {act z : Nat} {place : Option Nat} (hs : Canon v q s) : Canon v q
    (sendOne s e act z place) := by
  unfold sendOne
  repeat' first
    | (with_reducible assumption) | intro x
    | (extract_lets +onlyGivenNames t; first
        | (refine (fun (ht : Canon v q t) => ?_) ?_ <;> [clear_value t; (unfold t; clear t)])
        | clear_value t)
    | (with_reducible first
        | apply ite_canon | refine openLimits_canon_eq (by with_reducible assumption) ?_ | apply State.putCtx_canon
        | apply closeZone_canon | apply openLimits_canon | apply askCommit_canon | apply zoneSettled_canon
        | apply badTransition_canon)
    | split | (simp only [canon_mk_iff]; apply canon_parts)

theorem zoneSend_canon {c : CmdRef} {act : Nat} {zone : ZoneNo} {place : Option Nat} (hs : Canon v q s) : Canon v q
    (zoneSend s c act zone place) := by
  unfold zoneSend
  repeat' first
    | (with_reducible assumption) | intro x
    | (extract_lets +onlyGivenNames t; first
        | (refine (fun (ht : Canon v q t) => ?_) ?_ <;> [clear_value t; (unfold t; clear t)])
        | clear_value t)
    | (with_reducible first
        | apply ite_canon | apply foldl_canon | apply State.setCmd_canon | apply complete_canon | apply raise_canon
        | apply runCommits_canon | apply sendOne_canon)
    | split | (simp only [canon_mk_iff]; apply canon_parts)

theorem execZoneOpen_canon {c : CmdRef} {zone : ZoneNo} (hs : Canon v q s) : Ends v q (execZoneOpen c zone s) := by
  unfold execZoneOpen
  repeat' first
    | (with_reducible assumption) | intro x
    | (with_reducible first | apply ends_next_canon | apply zoneSend_canon)

theorem execZoneClose_canon {c : CmdRef} {zone : ZoneNo} (hs : Canon v q s) : Ends v q (execZoneClose c zone s) := by
  unfold execZoneClose
  repeat' first
    | (with_reducible assumption) | intro x
    | (with_reducible first | apply ends_next_canon | apply zoneSend_canon)

theorem execZoneFinish_canon {c : CmdRef} {zone : ZoneNo} (hs : Canon v q s) : Ends v q (execZoneFinish c zone s) := by
  unfold execZoneFinish
  repeat' first
    | (with_reducible assumption) | intro x
    | (with_reducible first | apply ends_next_canon | apply zoneSend_canon)

theorem execZoneReset_canon {c : CmdRef} {zone : ZoneNo} {placement : Option (BitVec 64)} (hs : Canon v q s) : Ends v q
    (execZoneReset c zone placement s) := by
  unfold execZoneReset
  repeat' first
    | (with_reducible assumption) | intro x
    | (with_reducible first | apply ends_next_canon | apply zoneSend_canon)

theorem execZoneOffline_canon {c : CmdRef} {zone : ZoneNo} (hs : Canon v q s) : Ends v q (execZoneOffline c zone s) := by
  unfold execZoneOffline
  repeat' first
    | (with_reducible assumption) | intro x
    | (with_reducible first | apply ends_next_canon | apply zoneSend_canon)

theorem execZoneSetDescriptorExtension_canon {c : CmdRef} {_zone : ZoneNo} (hs : Canon v q s) : Ends v q
    (execZoneSetDescriptorExtension c _zone s) := by
  unfold execZoneSetDescriptorExtension
  repeat' first
    | (with_reducible assumption) | intro x
    | (with_reducible first | apply ends_next_canon | apply complete_canon | apply raise_canon)
    | split | (simp only [canon_mk_iff]; apply canon_parts)

theorem execZoneManagementReceive_canon {c : CmdRef} (hs : Canon v q s) : Ends v q (execZoneManagementReceive c s) := by
  unfold execZoneManagementReceive
  repeat' first
    | (with_reducible assumption) | intro x
    | (with_reducible first
        | apply ends_next_canon | apply ite_ends | apply ite_canon | apply returnData_canon | apply complete_canon
        | apply raise_canon)
    | split | (simp only [canon_mk_iff]; apply canon_parts)

theorem mergeStartAct_canon (ht : Canon v q t) : Canon v q (mergeStartAct t) := by
  unfold mergeStartAct
  repeat' first
    | (with_reducible assumption) | intro x
    | (extract_lets +onlyGivenNames t; first
        | (refine (fun (ht : Canon v q t) => ?_) ?_ <;> [clear_value t; (unfold t; clear t)])
        | clear_value t)
    | (with_reducible first | apply ite_canon | apply State.setN_canon | apply State.putCtx_canon | apply mergeStops_canon)
    | split | (simp only [canon_mk_iff]; apply canon_parts)

theorem execMergeStart_canon {m : Master} {w : Word} (hs : Canon v q s) : Ends v q (execMergeStart m w s) := by
  unfold execMergeStart
  repeat' first
    | (with_reducible assumption) | intro x
    | (with_reducible first | apply ends_next_canon | apply kwrite_canon | apply mergeStartAct_canon)

theorem mergeBroken_canon {st cause : Nat} (hs : Canon v q s) : Canon v q (mergeBroken s st cause) := by
  unfold mergeBroken
  repeat' first
    | (with_reducible assumption) | intro x
    | (with_reducible first | apply State.setN_canon | apply State.drawn_canon | apply mergeStops_canon)
    | split | (simp only [canon_mk_iff]; apply canon_parts)

theorem execMergeEnd_canon {r : MergeResult} (hs : Canon v q s) : Ends v q (execMergeEnd r s) := by
  unfold execMergeEnd
  repeat' first
    | (with_reducible assumption) | intro x
    | (with_reducible first
        | apply ends_next_canon | apply State.setN_canon | apply moduleCommit_canon | apply mergeBroken_canon)
    | split | (simp only [canon_mk_iff]; apply canon_parts)

theorem mergeCancelAct_canon (ht : Canon v q t) : Canon v q (mergeCancelAct t) := by
  unfold mergeCancelAct
  repeat' first
    | (with_reducible assumption) | intro x
    | (with_reducible first | apply ite_canon | apply mergeBroken_canon)
    | split

theorem execMergeCancel_canon {m : Master} {w : Word} (hs : Canon v q s) : Ends v q (execMergeCancel m w s) := by
  unfold execMergeCancel
  repeat' first
    | (with_reducible assumption) | intro x
    | (with_reducible first | apply ends_next_canon | apply kwrite_canon | apply mergeCancelAct_canon)

theorem contextLost_canon {z : Nat} (hs : Canon v q s) : Canon v q (contextLost s z) := by
  unfold contextLost
  repeat' first
    | (with_reducible assumption) | intro x
    | (with_reducible first | apply State.putCtx_canon | apply zoneEvent_canon)

theorem execContextUncorrectable_canon {zone : ZoneNo} (hs : Canon v q s) : Ends v q (execContextUncorrectable zone s) := by
  unfold execContextUncorrectable
  repeat' first
    | (with_reducible assumption) | intro x
    | (with_reducible first | apply ends_next_canon | apply contextLost_canon)

/-! ### Machine/MemOps -/

theorem clearBytes_canon {a n : Nat} (hs : Canon v q s) : Canon v q (clearBytes s a n) := by
  unfold clearBytes
  repeat' first
    | (with_reducible assumption) | intro x
    | exact ⟨hs.variant, hs.pending, memoryWf_filter _ _ hs.mem, hs.dict, hs.edge⟩
    | (simp only [canon_mk_iff]; apply canon_parts)

theorem memEvent_canon {e : Nat} {items : List Nat} {id addr : Nat} (hs : Canon v q s) : Canon v q
    (memEvent s e items id addr) := by
  unfold memEvent
  repeat' first
    | (with_reducible assumption) | intro x
    | (with_reducible first | apply id_canon | apply raise_canon)
    | (simp only [canon_mk_iff]; apply canon_parts)

theorem memEventFree_canon {e : Nat} {items : List Nat} {id : Nat} (hs : Canon v q s) : Canon v q (memEventFree s e items id)
    := by
  unfold memEventFree
  repeat' first
    | (with_reducible assumption) | intro x
    | (with_reducible first | apply id_canon | apply State.drawn_canon | apply memEvent_canon)

theorem putTracker_canon {id : Nat} {l : List TrackEnt} (hs : Canon v q s) : Canon v q (putTracker s id l) := by
  unfold putTracker
  repeat' first
    | (with_reducible assumption) | intro x
    | (with_reducible first | apply id_canon | apply State.setBitOf_canon)
    | (simp only [canon_mk_iff]; apply canon_parts)

theorem trackReport_canon {id pos : Nat} (hs : Canon v q s) : Canon v q (trackReport s id pos) := by
  unfold trackReport
  repeat' first
    | (with_reducible assumption) | intro x
    | (extract_lets +onlyGivenNames t; first
        | (refine (fun (ht : Canon v q t) => ?_) ?_ <;> [clear_value t; (unfold t; clear t)])
        | clear_value t)
    | (with_reducible first
        | apply ite_canon | apply id_canon | apply State.set_canon | apply raise_canon | apply putTracker_canon)
    | split | (simp only [canon_mk_iff]; apply canon_parts)

theorem trackNew_canon {id addr : Nat} (hs : Canon v q s) : Canon v q (trackNew s id addr) := by
  unfold trackNew
  repeat' first
    | (with_reducible assumption) | intro x
    | (extract_lets +onlyGivenNames t; first
        | (refine (fun (ht : Canon v q t) => ?_) ?_ <;> [clear_value t; (unfold t; clear t)])
        | clear_value t)
    | (with_reducible first
        | apply ite_canon | apply id_canon | apply State.set_canon | apply State.inc_canon | apply raise_canon
        | apply putTracker_canon)
    | split | (simp only [canon_mk_iff]; apply canon_parts)

theorem track_canon {id addr : Nat} (hs : Canon v q s) : Canon v q (track s id addr) := by
  unfold track
  repeat' first
    | (with_reducible assumption) | intro x
    | (extract_lets +onlyGivenNames t; first
        | (refine (fun (ht : Canon v q t) => ?_) ?_ <;> [clear_value t; (unfold t; clear t)])
        | clear_value t)
    | (with_reducible first
        | apply ite_canon | apply id_canon | apply State.set_canon | apply putTracker_canon | apply trackReport_canon
        | apply trackNew_canon)
    | split | (simp only [canon_mk_iff]; apply canon_parts)

theorem untrack_canon {id addr : Nat} (hs : Canon v q s) : Canon v q (untrack s id addr) := by
  unfold untrack
  repeat' first
    | (with_reducible assumption) | intro x
    | (extract_lets +onlyGivenNames t; first
        | (refine (fun (ht : Canon v q t) => ?_) ?_ <;> [clear_value t; (unfold t; clear t)])
        | clear_value t)
    | (with_reducible first | apply id_canon | apply State.set_canon | apply putTracker_canon)
    | split | (simp only [canon_mk_iff]; apply canon_parts)

theorem poisonLine_canon {a : Nat} (hs : Canon v q s) : Canon v q (poisonLine s a) := by
  unfold poisonLine
  repeat' first
    | (with_reducible assumption) | intro x
    | (simp only [canon_mk_iff]; apply canon_parts)

theorem curePoison_canon {a : Nat} (hs : Canon v q s) : Canon v q (curePoison s a) := by
  unfold curePoison
  repeat' first
    | (with_reducible assumption) | intro x
    | (simp only [canon_mk_iff]; apply canon_parts)

theorem corrected_canon {a syn req : Nat} (hs : Canon v q s) : Canon v q (corrected s a syn req) := by
  unfold corrected
  repeat' first
    | (with_reducible assumption) | intro x
    | (extract_lets +onlyGivenNames t; first
        | (refine (fun (ht : Canon v q t) => ?_) ?_ <;> [clear_value t; (unfold t; clear t)])
        | clear_value t)
    | (with_reducible first | apply State.setN_canon | apply State.inc_canon | apply memEvent_canon | apply track_canon)

theorem lineBad_canon {a cause req : Nat} (hs : Canon v q s) : Canon v q (lineBad s a cause req) := by
  unfold lineBad
  repeat' first
    | (with_reducible assumption) | intro x
    | (extract_lets +onlyGivenNames t; first
        | (refine (fun (ht : Canon v q t) => ?_) ?_ <;> [clear_value t; (unfold t; clear t)])
        | clear_value t)
    | (with_reducible first | apply ite_canon | apply State.setN_canon | apply State.inc_canon | apply memEvent_canon)
    | split

theorem poisonWrite_canon {a writer : Nat} (hs : Canon v q s) : Canon v q (poisonWrite s a writer) := by
  unfold poisonWrite
  repeat' first
    | (with_reducible assumption) | intro x
    | (with_reducible first | apply State.inc_canon | apply memEvent_canon | apply poisonLine_canon)

theorem errorTo_canon {m : Nat} (hs : Canon v q s) : Canon v q (errorTo s m) := by
  unfold errorTo
  repeat' first
    | (with_reducible assumption) | intro x
    | (simp only [canon_mk_iff]; apply canon_parts)

theorem okTo_canon {m : Nat} (hs : Canon v q s) : Canon v q (okTo s m) := by
  unfold okTo
  repeat' first
    | (with_reducible assumption) | intro x
    | (simp only [canon_mk_iff]; apply canon_parts)

theorem lineWritten_canon {a : Nat} (hs : Canon v q s) : Canon v q (lineWritten s a) := by
  unfold lineWritten
  repeat' first
    | (with_reducible assumption) | intro x
    | (with_reducible first | apply curePoison_canon)

theorem lineLost_canon {a : Nat} {old : List Byte} (hs : Canon v q s) : Canon v q (lineLost s a old) := by
  unfold lineLost
  repeat' first
    | (with_reducible assumption) | intro x
    | exact ⟨hs.variant, hs.pending, memoryWf_writeAll _ _ _ hs.mem, hs.dict, hs.edge⟩
    | (simp only [canon_mk_iff]; apply canon_parts)

theorem discardLine_canon {a : Nat} (hs : Canon v q s) : Canon v q (discardLine s a) := by
  unfold discardLine
  repeat' first
    | (with_reducible assumption) | intro x
    | (extract_lets +onlyGivenNames t; first
        | (refine (fun (ht : Canon v q t) => ?_) ?_ <;> [clear_value t; (unfold t; clear t)])
        | clear_value t)
    | (with_reducible first | apply ite_canon | apply lineLost_canon)
    | split | (simp only [canon_mk_iff]; apply canon_parts)

theorem loseHalf_canon {half : Nat} (hs : Canon v q s) : Canon v q (loseHalf s half) := by
  unfold loseHalf
  repeat' first
    | (with_reducible assumption) | intro x
    | (extract_lets +onlyGivenNames t; first
        | (refine (fun (ht : Canon v q t) => ?_) ?_ <;> [clear_value t; (unfold t; clear t)])
        | clear_value t)
    | (with_reducible first | apply foldl_canon | apply discardLine_canon)

theorem evictDone_canon (hs : Canon v q s) : Canon v q (evictDone s) := by
  unfold evictDone
  repeat' first
    | (with_reducible assumption) | intro x
    | (with_reducible first | apply lineWritten_canon)
    | split | (simp only [canon_mk_iff]; apply canon_parts)

theorem evictLine_canon {a : Nat} {l : LlcLine} (hs : Canon v q s) : Canon v q (evictLine s a l) := by
  unfold evictLine
  repeat' first
    | (with_reducible assumption) | intro x
    | (extract_lets +onlyGivenNames t; first
        | (refine (fun (ht : Canon v q t) => ?_) ?_ <;> [clear_value t; (unfold t; clear t)])
        | clear_value t)
    | (with_reducible first | apply ite_canon | apply State.inc_canon | apply evictDone_canon)
    | split | (simp only [canon_mk_iff]; apply canon_parts)

theorem llcCorrected_canon {set way word a : Nat} (hs : Canon v q s) : Canon v q (llcCorrected s set way word a) := by
  unfold llcCorrected
  repeat' first
    | (with_reducible assumption) | intro x
    | (with_reducible first | apply State.inc_canon | apply memEvent_canon | apply track_canon)

theorem llcBad_canon {set way cause lost a : Nat} (hs : Canon v q s) : Canon v q (llcBad s set way cause lost a) := by
  unfold llcBad
  repeat' first
    | (with_reducible assumption) | intro x
    | (with_reducible first | apply State.inc_canon | apply memEvent_canon)

theorem llcLineBad_canon {a : Nat} {l : LlcLine} {req : Nat} (hs : Canon v q s) : Canon v q (llcLineBad s a l req) := by
  unfold llcLineBad
  repeat' first
    | (with_reducible assumption) | intro x
    | (extract_lets +onlyGivenNames t; first
        | (refine (fun (ht : Canon v q t) => ?_) ?_ <;> [clear_value t; (unfold t; clear t)])
        | clear_value t)
    | (with_reducible first | apply ite_canon | apply poisonWrite_canon | apply llcBad_canon)
    | split | (simp only [canon_mk_iff]; apply canon_parts)

theorem llcTagBad_canon {a : Nat} {ways : Nat} (hs : Canon v q s) : Canon v q (llcTagBad s a ways) := by
  unfold llcTagBad
  repeat' first
    | (with_reducible assumption) | intro x
    | (extract_lets +onlyGivenNames t; first
        | (refine (fun (ht : Canon v q t) => ?_) ?_ <;> [clear_value t; (unfold t; clear t)])
        | clear_value t)
    | (with_reducible first
        | apply ite_canon | apply foldl_canon | apply lineWritten_canon | apply discardLine_canon | apply llcBad_canon)
    | split | (simp only [canon_mk_iff]; apply canon_parts)

theorem arrayMeets_canon {a : Nat} {arr : ArrayEcc} {req : Nat} (hs : Canon v q s) : Canon v q (arrayMeets s a arr req).1 := by
  unfold arrayMeets
  by_cases hc : (!s.flag K.memCacheEnable && !s.flag K.memCleanInProgress) = true
  · rw [if_pos hc]; exact hs
  rw [if_neg hc]
  rcases arr with _ | _ | _ | w <;> rcases Sp.get s.memory.lines (lineOf a) with _ | l
  · exact hs
  · exact hs
  · exact hs
  · exact llcCorrected_canon hs
  · exact hs
  · by_cases hd : l.dirty = true
    · exact (congrArg (fun x : State × Bool => Canon v q x.1) (if_pos hd)).mpr (llcLineBad_canon hs)
    · refine (congrArg (fun x : State × Bool => Canon v q x.1) (if_neg hd)).mpr (State.inc_canon ?_)
      simp only [canon_mk_iff]
      exact canon_parts (llcLineBad_canon hs)
  · exact llcTagBad_canon hs
  · exact llcTagBad_canon hs

theorem arrayMeets_canon_eq {a : Nat} {arr : ArrayEcc} {req : Nat} {b : Bool} (he : arrayMeets s a arr req = (t, b)) (hs
    : Canon v q s) :
    Canon v q t := by
  have h0 := arrayMeets_canon (s := s) (a := a) (arr := arr) (req := req) hs
  rw [he] at h0; exact h0

theorem victimLeaves_canon {b : Nat} {old : LlcLine} {arr : ArrayEcc} (hs : Canon v q s) : Canon v q
    (victimLeaves s b old arr) := by
  unfold victimLeaves
  repeat' first
    | (with_reducible assumption) | intro x
    | (with_reducible first | apply evictLine_canon | apply llcCorrected_canon | apply llcLineBad_canon)
    | split | (simp only [canon_mk_iff]; apply canon_parts)

theorem allocLine_canon {a : Nat} {l : LlcLine} {arr : ArrayEcc} (hs : Canon v q s) : Canon v q (allocLine s a l arr) := by
  unfold allocLine
  repeat' first
    | (with_reducible assumption) | intro x
    | (extract_lets +onlyGivenNames t; first
        | (refine (fun (ht : Canon v q t) => ?_) ?_ <;> [clear_value t; (unfold t; clear t)])
        | clear_value t)
    | (with_reducible first | apply ite_canon | apply State.drawn_canon | apply llcTagBad_canon | apply victimLeaves_canon)
    | split | (simp only [canon_mk_iff]; apply canon_parts)

theorem dirtyLine_canon {a : Nat} (hs : Canon v q s) : Canon v q (dirtyLine s a) := by
  unfold dirtyLine
  repeat' first
    | (with_reducible assumption) | intro x
    | (with_reducible first | apply ite_canon)
    | split | (simp only [canon_mk_iff]; apply canon_parts)

theorem writeCached_canon {a : Nat} {l : List Byte} (hs : Canon v q s) : Canon v q (writeCached s a l) := by
  unfold writeCached
  repeat' first
    | (with_reducible assumption) | intro x
    | exact ⟨hs.variant, hs.pending, memoryWf_writeAll _ _ _ hs.mem, hs.dict, hs.edge⟩
    | (simp only [canon_mk_iff]; apply canon_parts)

theorem zeroCached_canon {a : Nat} (hs : Canon v q s) : Canon v q (zeroCached s a) := by
  unfold zeroCached
  repeat' first
    | (with_reducible assumption) | intro x
    | (extract_lets +onlyGivenNames t; first
        | (refine (fun (ht : Canon v q t) => ?_) ?_ <;> [clear_value t; (unfold t; clear t)])
        | clear_value t)
    | (with_reducible first | apply ite_canon | apply allocLine_canon | apply dirtyLine_canon | apply writeCached_canon)
    | split | (simp only [canon_mk_iff]; apply canon_parts)

theorem maintain_canon {a : Nat} {m : Maint} (hs : Canon v q s) : Canon v q (maintain s a m) := by
  unfold maintain
  repeat' first
    | (with_reducible assumption) | intro x
    | (extract_lets +onlyGivenNames t; first
        | (refine (fun (ht : Canon v q t) => ?_) ?_ <;> [clear_value t; (unfold t; clear t)])
        | clear_value t)
    | (with_reducible first
        | apply ite_canon | apply State.zero_canon | apply lineWritten_canon | apply discardLine_canon
        | apply zeroCached_canon)
    | split | (simp only [canon_mk_iff]; apply canon_parts)

theorem coreHit_canon {x : CoreAcc} (hs : Canon v q s) : Canon v q (coreHit s x) := by
  unfold coreHit
  repeat' first
    | (with_reducible assumption) | intro x
    | (with_reducible first
        | apply ite_canon | apply State.deliver_canon | apply okTo_canon | apply dirtyLine_canon | apply writeCached_canon
        | apply zeroCached_canon)
    | split

theorem coreBypass_canon {x : CoreAcc} (hs : Canon v q s) : Canon v q (coreBypass s x) := by
  unfold coreBypass
  repeat' first
    | (with_reducible assumption) | intro x
    | (extract_lets +onlyGivenNames t; first
        | (refine (fun (ht : Canon v q t) => ?_) ?_ <;> [clear_value t; (unfold t; clear t)])
        | clear_value t)
    | (with_reducible first
        | apply ite_canon | apply State.store_canon | apply State.deliver_canon | apply lineBad_canon
        | apply poisonWrite_canon | apply errorTo_canon | apply okTo_canon)
    | split

theorem answered_canon {x : CoreAcc} (hs : Canon v q s) : Canon v q (answered s x) := by
  unfold answered
  repeat' first
    | (with_reducible assumption) | intro x
    | (with_reducible first | apply ite_canon | apply State.deliver_canon | apply okTo_canon | apply writeCached_canon)
    | split

theorem snoop_canon {w : Bool} {a : Nat} (hs : Canon v q s) :
    (∀ t, snoop s w a = .served t → Canon v q t) ∧ (∀ t, snoop s w a = .cellar t → Canon v q t) := by
  unfold snoop
  constructor <;> intro t he
  all_goals
    repeat' split at he
  all_goals first
    | (cases he; done)
    | (cases he; exact hs)
    | (cases he; exact State.inc_canon hs)
    | (cases he; exact discardLine_canon hs)
    | (cases he; apply lineWritten_canon; simp only [canon_mk_iff]; exact canon_parts hs)

theorem snoop_served_canon {w : Bool} {a : Nat} (he : snoop s w a = .served t) (hs : Canon v q s) : Canon v q t :=
    (snoop_canon hs).1 t he

theorem snoop_cellar_canon {w : Bool} {a : Nat} (he : snoop s w a = .cellar t) (hs : Canon v q s) : Canon v q t :=
    (snoop_canon hs).2 t he

theorem coreStalls_canon {x : CoreAcc} (hs : Canon v q s) : Canon v q (coreStalls s x) := by
  unfold coreStalls
  repeat' first
    | (with_reducible assumption) | intro x
    | (simp only [canon_mk_iff]; apply canon_parts)

theorem coreAccess_canon {x : CoreAcc} (hs : Canon v q s) : Canon v q (coreAccess s x) := by
  unfold coreAccess
  repeat' first
    | (with_reducible assumption) | intro x
    | (extract_lets +onlyGivenNames t; first
        | (refine (fun (ht : Canon v q t) => ?_) ?_ <;> [clear_value t; (unfold t; clear t)])
        | clear_value t)
    | (with_reducible first
        | refine snoop_served_canon (by with_reducible assumption) ?_
        | refine snoop_cellar_canon (by with_reducible assumption) ?_ | apply ite_canon | apply State.inc_canon
        | apply State.zero_canon | apply zeroCached_canon | apply coreHit_canon | apply coreBypass_canon
        | apply answered_canon | apply coreStalls_canon)
    | split | (simp only [canon_mk_iff]; apply canon_parts)

theorem hoeStop_canon {cause : Nat} (hs : Canon v q s) : Canon v q (hoeStop s cause) := by
  unfold hoeStop
  repeat' first
    | (with_reducible assumption) | intro x
    | (extract_lets +onlyGivenNames t; first
        | (refine (fun (ht : Canon v q t) => ?_) ?_ <;> [clear_value t; (unfold t; clear t)])
        | clear_value t)
    | (with_reducible first | apply ite_canon | apply State.setN_canon | apply memEvent_canon)
    | split | (simp only [canon_mk_iff]; apply canon_parts)

/-! ### Machine/Memory -/

theorem badOutcome_canon {a : Nat} {j : CellarReq} (hs : Canon v q s) : Canon v q (badOutcome s a j) := by
  unfold badOutcome
  repeat' first
    | (with_reducible assumption) | intro x
    | (extract_lets +onlyGivenNames t; first
        | (refine (fun (ht : Canon v q t) => ?_) ?_ <;> [clear_value t; (unfold t; clear t)])
        | clear_value t)
    | (with_reducible first
        | apply ite_canon | apply complete_canon | apply raise_canon | apply mergeStops_canon | apply errorTo_canon)
    | split | (simp only [canon_mk_iff]; apply canon_parts)

theorem cellarServe_canon {j : CellarReq} {a : Nat} {op : CellarOp} {ecc : Ecc} (hs : Canon v q s) : Canon v q
    (cellarServe s j a op ecc) := by
  unfold cellarServe
  repeat' first
    | (with_reducible assumption) | intro x
    | (extract_lets +onlyGivenNames t; first
        | (refine (fun (ht : Canon v q t) => ?_) ?_ <;> [clear_value t; (unfold t; clear t)])
        | clear_value t)
    | (with_reducible first
        | apply State.store_canon | apply corrected_canon | apply lineBad_canon | apply poisonWrite_canon
        | apply badOutcome_canon)
    | split | (simp only [canon_mk_iff]; apply canon_parts)

theorem cellarDirect_canon {x : CellarAcc} (hs : Canon v q s) : Canon v q (cellarDirect s x) := by
  unfold cellarDirect
  repeat' first
    | (with_reducible assumption) | intro x
    | (with_reducible first | apply ite_canon | apply cellarServe_canon)
    | split | (simp only [canon_mk_iff]; apply canon_parts)

theorem cellarLine_canon {x : CellarAcc} (hs : Canon v q s) : Canon v q (cellarLine s x) := by
  unfold cellarLine
  repeat' first
    | (with_reducible assumption) | intro x
    | (with_reducible first
        | refine snoop_served_canon (by with_reducible assumption) ?_
        | refine snoop_cellar_canon (by with_reducible assumption) ?_ | apply ite_canon | apply writeCached_canon
        | apply cellarDirect_canon)
    | split | (simp only [canon_mk_iff]; apply canon_parts)

theorem cellarAccess_canon {req : CellarReq} {a : Nat} {op : CellarOp} {ecc : Ecc} {arr : ArrayEcc} (hs : Canon v q s)
    : Canon v q (cellarAccess s req a op ecc arr) := by
  unfold cellarAccess
  repeat' first
    | (with_reducible assumption) | intro x
    | (extract_lets +onlyGivenNames t; first
        | (refine (fun (ht : Canon v q t) => ?_) ?_ <;> [clear_value t; (unfold t; clear t)])
        | clear_value t)
    | (with_reducible first
        | apply ite_canon | refine arrayMeets_canon_eq (by with_reducible assumption) ?_ | apply arrayMeets_canon
        | apply badOutcome_canon | apply cellarLine_canon)
    | split | (simp only [canon_mk_iff]; apply canon_parts)

theorem execCellarAccess_canon {req : CellarReq} {addr : Addr} {op : CellarOp} {ecc : Ecc} {arr : ArrayEcc} (hs
    : Canon v q s) : Ends v q (execCellarAccess req addr op ecc arr s) := by
  unfold execCellarAccess
  repeat' first
    | (with_reducible assumption) | intro x
    | (with_reducible first | apply ends_next_canon | apply cellarAccess_canon)

theorem serveWaits_canon (hs : Canon v q s) : Canon v q (serveWaits s) := by
  unfold serveWaits
  repeat' first
    | (with_reducible assumption) | intro x
    | (extract_lets +onlyGivenNames t; first
        | (refine (fun (ht : Canon v q t) => ?_) ?_ <;> [clear_value t; (unfold t; clear t)])
        | clear_value t)
    | (with_reducible first | apply foldl_canon | apply coreAccess_canon | apply cellarLine_canon)
    | split | (simp only [canon_mk_iff]; apply canon_parts)

theorem fillTick_canon (hs : Canon v q s) : Canon v q (fillTick s) := by
  unfold fillTick
  repeat' first
    | (with_reducible assumption) | intro x
    | (with_reducible first | apply ite_canon | apply serveWaits_canon)
    | split

theorem evictTick_canon (hs : Canon v q s) : Canon v q (evictTick s) := by
  unfold evictTick
  repeat' first
    | (with_reducible assumption) | intro x
    | (with_reducible first | apply ite_canon | apply evictDone_canon | apply serveWaits_canon)
    | split | (simp only [canon_mk_iff]; apply canon_parts)

theorem execCellarFillDone_canon (hs : Canon v q s) : Ends v q (execCellarFillDone s) := by
  unfold execCellarFillDone
  repeat' first
    | (with_reducible assumption) | intro x
    | (extract_lets +onlyGivenNames t; first
        | (refine (fun (ht : Canon v q t) => ?_) ?_ <;> [clear_value t; (unfold t; clear t)])
        | clear_value t)
    | (with_reducible first
        | apply ends_next_canon | apply ite_ends | apply ite_canon | apply State.setN_canon | apply memEventFree_canon
        | apply serveWaits_canon)
    | split

theorem cacheSwitch_canon {was : Bool} (ht : Canon v q t) : Canon v q (cacheSwitch was t) := by
  unfold cacheSwitch
  repeat' first
    | (with_reducible assumption) | intro x
    | (extract_lets +onlyGivenNames t; first
        | (refine (fun (ht : Canon v q t) => ?_) ?_ <;> [clear_value t; (unfold t; clear t)])
        | clear_value t)
    | (with_reducible first | apply ite_canon | apply State.setB_canon)
    | split | (simp only [canon_mk_iff]; apply canon_parts)

theorem cacheEnableWriteAct_canon (hs : Canon v q s) (ht : Canon v q t) : Canon v q (cacheEnableWriteAct s t) := by
  unfold cacheEnableWriteAct
  repeat' first
    | (with_reducible assumption) | intro x
    | (with_reducible first | apply cacheSwitch_canon)

theorem execCacheEnableWrite_canon {m : Master} {w : Word} (hs : Canon v q s) : Ends v q (execCacheEnableWrite m w s) := by
  unfold execCacheEnableWrite
  repeat' first
    | (with_reducible assumption) | intro x
    | (with_reducible first | apply ends_next_canon | apply kwrite_canon | apply cacheEnableWriteAct_canon)

theorem execLlcCleanDone_canon (hs : Canon v q s) : Ends v q (execLlcCleanDone s) := by
  unfold execLlcCleanDone
  repeat' first
    | (with_reducible assumption) | intro x
    | (extract_lets +onlyGivenNames t; first
        | (refine (fun (ht : Canon v q t) => ?_) ?_ <;> [clear_value t; (unfold t; clear t)])
        | clear_value t)
    | (with_reducible first
        | apply ends_next_canon | apply ite_ends | apply ite_canon | apply foldl_canon | apply State.setB_canon
        | apply memEventFree_canon | apply lineWritten_canon | apply serveWaits_canon)
    | split | (simp only [canon_mk_iff]; apply canon_parts)

theorem scratchWaysWriteAct_canon (hs : Canon v q s) (ht : Canon v q t) : Canon v q (scratchWaysWriteAct s t) := by
  unfold scratchWaysWriteAct
  repeat' first
    | (with_reducible assumption) | intro x
    | (extract_lets +onlyGivenNames t; first
        | (refine (fun (ht : Canon v q t) => ?_) ?_ <;> [clear_value t; (unfold t; clear t)])
        | clear_value t)
    | (with_reducible first | apply State.setN_canon | apply clearBytes_canon)

theorem execScratchWaysWrite_canon {m : Master} {w : Word} (hs : Canon v q s) : Ends v q (execScratchWaysWrite m w s) := by
  unfold execScratchWaysWrite
  repeat' first
    | (with_reducible assumption) | intro x
    | (with_reducible first | apply ends_next_canon | apply kwrite_canon | apply scratchWaysWriteAct_canon)

theorem maintenance_canon {addr : Nat} {k : Maint} (hs : Canon v q s) : Canon v q (maintenance s addr k) := by
  unfold maintenance
  repeat' first
    | (with_reducible assumption) | intro x
    | (extract_lets +onlyGivenNames t; first
        | (refine (fun (ht : Canon v q t) => ?_) ?_ <;> [clear_value t; (unfold t; clear t)])
        | clear_value t)
    | (with_reducible first | apply ite_canon | apply State.inc_canon | apply maintain_canon)
    | split | (simp only [canon_mk_iff]; apply canon_parts)

theorem execCacheClean_canon {addr : Addr} (hs : Canon v q s) : Ends v q (execCacheClean addr s) := by
  unfold execCacheClean
  repeat' first
    | (with_reducible assumption) | intro x
    | (with_reducible first | apply ends_next_canon | apply maintenance_canon)

theorem execCacheFlush_canon {addr : Addr} (hs : Canon v q s) : Ends v q (execCacheFlush addr s) := by
  unfold execCacheFlush
  repeat' first
    | (with_reducible assumption) | intro x
    | (with_reducible first | apply ends_next_canon | apply maintenance_canon)

theorem execCacheInvalidate_canon {addr : Addr} (hs : Canon v q s) : Ends v q (execCacheInvalidate addr s) := by
  unfold execCacheInvalidate
  repeat' first
    | (with_reducible assumption) | intro x
    | (with_reducible first | apply ends_next_canon | apply maintenance_canon)

theorem execZeroLine_canon {addr : Addr} (hs : Canon v q s) : Ends v q (execZeroLine addr s) := by
  unfold execZeroLine
  repeat' first
    | (with_reducible assumption) | intro x
    | (extract_lets +onlyGivenNames t; first
        | (refine (fun (ht : Canon v q t) => ?_) ?_ <;> [clear_value t; (unfold t; clear t)])
        | clear_value t)
    | (with_reducible first | apply ends_next_canon | apply ite_ends | apply ite_canon | apply coreAccess_canon)
    | split | (simp only [canon_mk_iff]; apply canon_parts)

theorem execLineFill_canon {addr : Addr} {ecc : Ecc} {arr : ArrayEcc} (hs : Canon v q s) : Ends v q
    (execLineFill addr ecc arr s) := by
  unfold execLineFill
  repeat' first
    | (with_reducible assumption) | intro x
    | (extract_lets +onlyGivenNames t; first
        | (refine (fun (ht : Canon v q t) => ?_) ?_ <;> [clear_value t; (unfold t; clear t)])
        | clear_value t)
    | (with_reducible first
        | apply ends_next_canon | apply ite_ends | apply ite_canon | apply foldl_canon | apply corrected_canon
        | apply lineBad_canon | apply errorTo_canon | apply allocLine_canon | apply maintain_canon | apply coreHit_canon)
    | split | (simp only [canon_mk_iff]; apply canon_parts)

theorem trackerClearAct_canon {w : Word} (ht : Canon v q t) : Canon v q (trackerClearAct w t) := by
  unfold trackerClearAct
  repeat' first
    | (with_reducible assumption) | intro x
    | (with_reducible first | apply ite_canon | apply foldl_canon | apply id_canon | apply putTracker_canon)
    | split

theorem execTrackerClear_canon {m : Master} {w : Word} (hs : Canon v q s) : Ends v q (execTrackerClear m w s) := by
  unfold execTrackerClear
  repeat' first
    | (with_reducible assumption) | intro x
    | (with_reducible first | apply ends_next_canon | apply kwrite_canon | apply trackerClearAct_canon)

theorem hoeStartAct_canon (ht : Canon v q t) : Canon v q (hoeStartAct t) := by
  unfold hoeStartAct
  repeat' first
    | (with_reducible assumption) | intro x
    | (extract_lets +onlyGivenNames t; first
        | (refine (fun (ht : Canon v q t) => ?_) ?_ <;> [clear_value t; (unfold t; clear t)])
        | clear_value t)
    | (with_reducible first | apply ite_canon | apply State.setN_canon | apply State.zero_canon)
    | split | (simp only [canon_mk_iff]; apply canon_parts)

theorem execHoeStart_canon {m : Master} {w : Word} (hs : Canon v q s) : Ends v q (execHoeStart m w s) := by
  unfold execHoeStart
  repeat' first
    | (with_reducible assumption) | intro x
    | (with_reducible first | apply ends_next_canon | apply kwrite_canon | apply hoeStartAct_canon)

theorem hoeCancelAct_canon (ht : Canon v q t) : Canon v q (hoeCancelAct t) := by
  unfold hoeCancelAct
  repeat' first
    | (with_reducible assumption) | intro x
    | (with_reducible first | apply hoeStop_canon)

theorem execHoeCancel_canon {m : Master} {w : Word} (hs : Canon v q s) : Ends v q (execHoeCancel m w s) := by
  unfold execHoeCancel
  repeat' first
    | (with_reducible assumption) | intro x
    | (with_reducible first | apply ends_next_canon | apply kwrite_canon | apply hoeCancelAct_canon)

theorem execHoePassEnd_canon {correctable uncorrectable : List Addr} (hs : Canon v q s) : Ends v q
    (execHoePassEnd correctable uncorrectable s) := by
  unfold execHoePassEnd
  repeat' first
    | (with_reducible assumption) | intro x
    | (extract_lets +onlyGivenNames t; first
        | (refine (fun (ht : Canon v q t) => ?_) ?_ <;> [clear_value t; (unfold t; clear t)])
        | clear_value t)
    | (with_reducible first
        | apply ends_next_canon | apply ite_ends | apply ite_canon | apply foldl_canon | apply State.setN_canon
        | apply State.drawn_canon | apply memEvent_canon | apply untrack_canon | apply corrected_canon)
    | split | (simp only [canon_mk_iff]; apply canon_parts)

end Sys2Proof.Machine
end

