-- ==== Sys2Proof/Laws/CanonHost.lean ====
section
/-! SUPPORT. What keeps the canonical form: the Sheaf, the host controller, the Strongroom and host input and output. One lemma per operation and per meaning. -/

namespace Sys2Proof.Machine

-- Elaborated one after another: the package as one text must fit the memory its check allows.
set_option Elab.async false

set_option linter.unusedTactic false
set_option linter.unreachableTactic false
set_option linter.unusedVariables false

variable {v : Variant} {q : List Instr} {s t : State} {r : Raiser}

/-! ### Machine/Sheaf -/

theorem portWrite_canon {m : Master} {p : Fin 6} {op : Nat} {f : State → State} (hs : Canon v q s) (hf
    : ∀ t, Canon v q t → Canon v q (f t)) : Canon v q (portWrite s m p op f) := by
  unfold portWrite
  repeat' first
    | (with_reducible assumption) | intro x
    | (with_reducible first | apply ite_canon | apply kwrite_canon | apply hf)
    | split

theorem setTxns_canon {l : Sp Txn} (hs : Canon v q s) : Canon v q (setTxns s l) := by
  unfold setTxns
  repeat' first
    | (with_reducible assumption) | intro x
    | (with_reducible first | apply showOpen_canon)
    | (simp only [canon_mk_iff]; apply canon_parts)

theorem openTxn_canon {p n : Nat} (hs : Canon v q s) : Canon v q (openTxn s p n) := by
  unfold openTxn
  repeat' first
    | (with_reducible assumption) | intro x
    | (with_reducible first | apply portResult_canon | apply setTxns_canon)
    | (simp only [canon_mk_iff]; apply canon_parts)

theorem sheafOpenAct_canon {p : Nat} (ht : Canon v q t) : Canon v q (sheafOpenAct p t) := by
  unfold sheafOpenAct
  repeat' first
    | (with_reducible assumption) | intro x
    | (extract_lets +onlyGivenNames t; first
        | (refine (fun (ht : Canon v q t) => ?_) ?_ <;> [clear_value t; (unfold t; clear t)])
        | clear_value t)
    | (with_reducible first
        | apply ite_canon | apply State.set_canon | apply portResult_canon | apply waitBegins_canon | apply openTxn_canon)
    | split | (simp only [canon_mk_iff]; apply canon_parts)

theorem execSheafOpen_canon {m : Master} {p : Fin 6} (hs : Canon v q s) : Ends v q (execSheafOpen m p s) := by
  unfold execSheafOpen
  repeat' first
    | (with_reducible assumption) | intro x
    | (with_reducible first | apply ends_next_canon | apply portWrite_canon | apply sheafOpenAct_canon)

theorem execSheafSlotFreed_canon (hs : Canon v q s) : Ends v q (execSheafSlotFreed s) := by
  unfold execSheafSlotFreed
  repeat' first
    | (with_reducible assumption) | intro x
    | (extract_lets +onlyGivenNames t; first
        | (refine (fun (ht : Canon v q t) => ?_) ?_ <;> [clear_value t; (unfold t; clear t)])
        | clear_value t)
    | (with_reducible first
        | apply ends_next_canon | apply ite_ends | apply ite_canon | apply runCommits_canon | apply openTxn_canon)
    | split | (simp only [canon_mk_iff]; apply canon_parts)

theorem sheafAppendAct_canon {p : Nat} {txn : Byte} {action : BitVec 256} (ht : Canon v q t) : Canon v q
    (sheafAppendAct p txn action t) := by
  unfold sheafAppendAct
  repeat' first
    | (with_reducible assumption) | intro x
    | (extract_lets +onlyGivenNames t; first
        | (refine (fun (ht : Canon v q t) => ?_) ?_ <;> [clear_value t; (unfold t; clear t)])
        | clear_value t)
    | (with_reducible first | apply ite_canon | apply portResult_canon | apply setTxns_canon)
    | split | (simp only [canon_mk_iff]; apply canon_parts)

theorem execSheafAppend_canon {m : Master} {p : Fin 6} {txn : Byte} {action : BitVec 256} (hs : Canon v q s) : Ends v q
    (execSheafAppend m p txn action s) := by
  unfold execSheafAppend
  repeat' first
    | (with_reducible assumption) | intro x
    | (with_reducible first | apply ends_next_canon | apply portWrite_canon | apply sheafAppendAct_canon)

theorem sheafCommitAct_canon {p : Nat} {txn : Byte} (ht : Canon v q t) : Canon v q (sheafCommitAct p txn t) := by
  unfold sheafCommitAct
  repeat' first
    | (with_reducible assumption) | intro x
    | (extract_lets +onlyGivenNames t; first
        | (refine (fun (ht : Canon v q t) => ?_) ?_ <;> [clear_value t; (unfold t; clear t)])
        | clear_value t)
    | (with_reducible first
        | apply ite_canon | apply State.setN_canon | apply portResult_canon | apply runCommits_canon | apply setTxns_canon)
    | split | (simp only [canon_mk_iff]; apply canon_parts)

theorem execSheafCommit_canon {m : Master} {p : Fin 6} {txn : Byte} (hs : Canon v q s) : Ends v q (execSheafCommit m p txn s)
    := by
  unfold execSheafCommit
  repeat' first
    | (with_reducible assumption) | intro x
    | (with_reducible first | apply ends_next_canon | apply portWrite_canon | apply sheafCommitAct_canon)

theorem execSheafCommitProceed_canon (hs : Canon v q s) : Ends v q (execSheafCommitProceed s) := by
  unfold execSheafCommitProceed
  repeat' first
    | (with_reducible assumption) | intro x
    | (with_reducible first | apply ends_next_canon | apply runCommits_canon)

theorem sheafAbortAct_canon {p : Nat} {txn : Byte} (ht : Canon v q t) : Canon v q (sheafAbortAct p txn t) := by
  unfold sheafAbortAct
  repeat' first
    | (with_reducible assumption) | intro x
    | (extract_lets +onlyGivenNames t; first
        | (refine (fun (ht : Canon v q t) => ?_) ?_ <;> [clear_value t; (unfold t; clear t)])
        | clear_value t)
    | (with_reducible first | apply State.inc_canon | apply portResult_canon | apply setTxns_canon)
    | split | (simp only [canon_mk_iff]; apply canon_parts)

theorem execSheafAbort_canon {m : Master} {p : Fin 6} {txn : Byte} (hs : Canon v q s) : Ends v q (execSheafAbort m p txn s)
    := by
  unfold execSheafAbort
  repeat' first
    | (with_reducible assumption) | intro x
    | (with_reducible first | apply ends_next_canon | apply portWrite_canon | apply sheafAbortAct_canon)

theorem releaseRecs_canon {seq : Nat} (hs : Canon v q s) : Canon v q (releaseRecs s seq) := by
  unfold releaseRecs
  repeat' first
    | (with_reducible assumption) | intro x
    | (extract_lets +onlyGivenNames t; first
        | (refine (fun (ht : Canon v q t) => ?_) ?_ <;> [clear_value t; (unfold t; clear t)])
        | clear_value t)
    | (with_reducible first | apply foldl_canon | apply State.setN_canon)
    | (simp only [canon_mk_iff]; apply canon_parts)

theorem releaseSeqWriteAct_canon {w : Word} (ht : Canon v q t) : Canon v q (releaseSeqWriteAct w t) := by
  unfold releaseSeqWriteAct
  repeat' first
    | (with_reducible assumption) | intro x
    | (with_reducible first | apply releaseRecs_canon)

theorem execReleaseSeqWrite_canon {m : Master} {w : Word} (hs : Canon v q s) : Ends v q (execReleaseSeqWrite m w s) := by
  unfold execReleaseSeqWrite
  repeat' first
    | (with_reducible assumption) | intro x
    | (with_reducible first | apply ends_next_canon | apply kwrite_canon | apply releaseSeqWriteAct_canon)

theorem execPowerLossSignal_canon {input : PowerInput} {mv : BitVec 16} (hs : Canon v q s) : Ends v q
    (execPowerLossSignal input mv s) := by
  unfold execPowerLossSignal
  repeat' first
    | (with_reducible assumption) | intro x
    | (extract_lets +onlyGivenNames t; first
        | (refine (fun (ht : Canon v q t) => ?_) ?_ <;> [clear_value t; (unfold t; clear t)])
        | clear_value t)
    | (with_reducible first
        | apply ends_next_canon | apply ite_ends | apply ite_canon | apply motorPowerLoss_canon | apply State.setHost_canon
        | apply flushStart_canon | apply sheafQuiesce_canon | apply modeEvent_canon | apply mediaOff_canon
        | apply raise_canon | apply hoeStop_canon)
    | split | (simp only [canon_mk_iff]; apply canon_parts)

theorem execFlushDone_canon (hs : Canon v q s) : Ends v q (execFlushDone s) := by
  unfold execFlushDone
  repeat' first
    | (with_reducible assumption) | intro x
    | (extract_lets +onlyGivenNames t; first
        | (refine (fun (ht : Canon v q t) => ?_) ?_ <;> [clear_value t; (unfold t; clear t)])
        | clear_value t)
    | (with_reducible first | apply ends_next_canon | apply State.setN_canon | apply State.inc_canon | apply raise_canon)
    | split | (simp only [canon_mk_iff]; apply canon_parts)

theorem execFlushFail_canon {flashAddr : BitVec 32} (hs : Canon v q s) : Ends v q (execFlushFail flashAddr s) := by
  unfold execFlushFail
  repeat' first
    | (with_reducible assumption) | intro x
    | (extract_lets +onlyGivenNames t; first
        | (refine (fun (ht : Canon v q t) => ?_) ?_ <;> [clear_value t; (unfold t; clear t)])
        | clear_value t)
    | (with_reducible first
        | apply ends_next_canon | apply ite_ends | apply ite_canon | apply State.setN_canon | apply State.inc_canon
        | apply flushStart_canon | apply raise_canon)
    | split | (simp only [canon_mk_iff]; apply canon_parts)

theorem execHoldUpLost_canon (hs : Canon v q s) : Ends v q (execHoldUpLost s) := by
  unfold execHoldUpLost
  repeat' first
    | (with_reducible assumption) | intro x
    | (with_reducible first
        | apply ends_next_canon | apply ite_ends | apply ite_canon | apply flushStart_canon | apply raise_canon)
    | split | (simp only [canon_mk_iff]; apply canon_parts)

theorem flushNowAct_canon (ht : Canon v q t) : Canon v q (flushNowAct t) := by
  unfold flushNowAct
  repeat' first
    | (with_reducible assumption) | intro x
    | (with_reducible first | apply flushAsk_canon)

theorem execFlushNow_canon {m : Master} {w : Word} (hs : Canon v q s) : Ends v q (execFlushNow m w s) := by
  unfold execFlushNow
  repeat' first
    | (with_reducible assumption) | intro x
    | (with_reducible first | apply ends_next_canon | apply kwrite_canon | apply flushNowAct_canon)

theorem recoverLoadAct_canon (ht : Canon v q t) : Canon v q (recoverLoadAct t) := by
  unfold recoverLoadAct
  repeat' first
    | (with_reducible assumption) | intro x
    | (with_reducible first | apply State.setN_canon)

theorem execRecoverLoad_canon {m : Master} {w : Word} (hs : Canon v q s) : Ends v q (execRecoverLoad m w s) := by
  unfold execRecoverLoad
  repeat' first
    | (with_reducible assumption) | intro x
    | (with_reducible first | apply ends_next_canon | apply kwrite_canon | apply recoverLoadAct_canon)

theorem loadRegion_canon {base size : Nat} {l : List (Nat × Byte)} (hs : Canon v q s) : Canon v q (loadRegion s base size l)
    := by
  unfold loadRegion
  repeat' first
    | (with_reducible assumption) | intro x
    | (extract_lets +onlyGivenNames t; first
        | (refine (fun (ht : Canon v q t) => ?_) ?_ <;> [clear_value t; (unfold t; clear t)])
        | clear_value t)
    | exact ⟨hs.variant, hs.pending, memoryWf_filter _ _ hs.mem, hs.dict, hs.edge⟩
    | (with_reducible first | apply foldl_canon | apply State.store_canon)
    | (simp only [canon_mk_iff]; apply canon_parts)

theorem execRecoveryLoaded_canon {crc0 crc1 : Bool} (hs : Canon v q s) : Ends v q (execRecoveryLoaded crc0 crc1 s) := by
  unfold execRecoveryLoaded
  repeat' first
    | (with_reducible assumption) | intro x
    | (extract_lets +onlyGivenNames t; first
        | (refine (fun (ht : Canon v q t) => ?_) ?_ <;> [clear_value t; (unfold t; clear t)])
        | clear_value t)
    | (with_reducible first
        | apply ends_next_canon | apply ite_ends | apply ite_canon | apply foldl_canon | apply State.setN_canon
        | apply State.setB_canon | apply raise_canon | apply loadRegion_canon)
    | split | (simp only [canon_mk_iff]; apply canon_parts)

theorem replayStartAct_canon (ht : Canon v q t) : Canon v q (replayStartAct t) := by
  unfold replayStartAct
  repeat' first
    | (with_reducible assumption) | intro x
    | (with_reducible first | apply State.setN_canon)

theorem execReplayStart_canon {m : Master} {w : Word} (hs : Canon v q s) : Ends v q (execReplayStart m w s) := by
  unfold execReplayStart
  repeat' first
    | (with_reducible assumption) | intro x
    | (with_reducible first | apply ends_next_canon | apply kwrite_canon | apply replayStartAct_canon)

theorem replayActions_canon {r : JRec} {l : List Action} {i : Nat} (hs : Canon v q s) : Canon v q ((replayActions s r l i)).1
    := by
  induction l generalizing s i with
  | nil => exact hs
  | cons a r ih =>
    unfold replayActions
    repeat' first
      | (with_reducible assumption) | intro x
      | (with_reducible first
          | apply ih | refine canon_proj_eq (by with_reducible assumption) ?_ | apply ite_canon | apply applyAction_canon)
      | split | dsimp only | (simp only [canon_mk_iff]; apply canon_parts)

theorem replayActions_canon_eq {r : JRec} {l : List Action} {i : Nat} {t : State} {x2 : Option Nat} (he
    : replayActions s r l i = (t, x2)) (hs : Canon v q s) : Canon v q t := by
  have h0 := replayActions_canon (s := s) (r := r) (l := l) (i := i) hs
  rw [he] at h0; exact h0

theorem replayRecs_canon {l : List JRec} {n : Nat} (hs : Canon v q s) : Canon v q ((replayRecs s l n)).1 := by
  induction l generalizing s n with
  | nil => exact hs
  | cons a r ih =>
    unfold replayRecs
    repeat' first
      | (with_reducible assumption) | intro x
      | (with_reducible first
          | apply ih | refine canon_proj_eq (by with_reducible assumption) ?_
          | refine replayActions_canon_eq (by with_reducible assumption) ?_ | apply State.setN_canon
          | apply replayActions_canon)
      | split | dsimp only | (simp only [canon_mk_iff]; apply canon_parts)

theorem replayRecs_canon_eq {l : List JRec} {n : Nat} {t : State} {x2 : Nat} {x3 : Option (Nat × Nat)} (he
    : replayRecs s l n = (t, x2, x3)) (hs : Canon v q s) : Canon v q t := by
  have h0 := replayRecs_canon (s := s) (l := l) (n := n) hs
  rw [he] at h0; exact h0

theorem replayFails_canon {seq i cause : Nat} (hs : Canon v q s) : Canon v q (replayFails s seq i cause) := by
  unfold replayFails
  repeat' first
    | (with_reducible assumption) | intro x
    | (with_reducible first | apply State.setN_canon | apply raise_canon)
    | (simp only [canon_mk_iff]; apply canon_parts)

theorem execReplayEnd_canon {torn : Bool} (hs : Canon v q s) : Ends v q (execReplayEnd torn s) := by
  unfold execReplayEnd
  repeat' first
    | (with_reducible assumption) | intro x
    | (extract_lets +onlyGivenNames t; first
        | (refine (fun (ht : Canon v q t) => ?_) ?_ <;> [clear_value t; (unfold t; clear t)])
        | clear_value t)
    | (with_reducible first
        | apply ends_next_canon | apply ite_ends | apply ite_canon | apply foldl_canon
        | refine replayRecs_canon_eq (by with_reducible assumption) ?_ | apply State.setN_canon | apply raise_canon
        | apply replayRecs_canon | apply replayFails_canon)
    | split | (simp only [canon_mk_iff]; apply canon_parts)

/-! ### Machine/HostCtl -/

theorem linkEnableAct_canon {w : Word} (ht : Canon v q t) : Canon v q (linkEnableAct w t) := by
  unfold linkEnableAct
  repeat' first
    | (with_reducible assumption) | intro x
    | (with_reducible first | apply State.on_canon)
    | (simp only [canon_mk_iff]; apply canon_parts)

theorem execLinkEnable_canon {m : Master} {w : Word} (hs : Canon v q s) : Ends v q (execLinkEnable m w s) := by
  unfold execLinkEnable
  repeat' first
    | (with_reducible assumption) | intro x
    | (with_reducible first | apply ends_next_canon | apply kwrite_canon | apply linkEnableAct_canon)

theorem execPerstAssert_canon (hs : Canon v q s) : Ends v q (execPerstAssert s) := by
  unfold execPerstAssert
  repeat' first
    | (with_reducible assumption) | intro x
    | (with_reducible first | apply ends_next_canon | apply controllerReset_canon | apply raise_canon)

theorem execFunctionLevelReset_canon (hs : Canon v q s) : Ends v q (execFunctionLevelReset s) := by
  unfold execFunctionLevelReset
  repeat' first
    | (with_reducible assumption) | intro x
    | (with_reducible first | apply ends_next_canon | apply controllerReset_canon | apply raise_canon)

theorem execCcEnClear_canon (hs : Canon v q s) : Ends v q (execCcEnClear s) := by
  unfold execCcEnClear
  repeat' first
    | (with_reducible assumption) | intro x
    | (with_reducible first | apply ends_next_canon | apply State.on_canon | apply controllerReset_canon | apply raise_canon)

theorem execCcEnSet_canon (hs : Canon v q s) : Ends v q (execCcEnSet s) := by
  unfold execCcEnSet
  repeat' first
    | (with_reducible assumption) | intro x
    | (with_reducible first
        | apply ends_next_canon | apply ite_ends | apply ite_canon | apply State.setN_canon | apply State.setHost_canon)
    | split | (simp only [canon_mk_iff]; apply canon_parts)

theorem execShutdownNotification_canon (hs : Canon v q s) : Ends v q (execShutdownNotification s) := by
  unfold execShutdownNotification
  repeat' first
    | (with_reducible assumption) | intro x
    | (with_reducible first
        | apply ends_next_canon | apply State.setN_canon | apply State.on_canon | apply State.setHost_canon)
    | (simp only [canon_mk_iff]; apply canon_parts)

theorem execShutdownComplete_canon (hs : Canon v q s) : Ends v q (execShutdownComplete s) := by
  unfold execShutdownComplete
  repeat' first
    | (with_reducible assumption) | intro x
    | (with_reducible first
        | apply ends_next_canon | apply State.setN_canon | apply State.on_canon | apply State.setHost_canon)
    | (simp only [canon_mk_iff]; apply canon_parts)

theorem badDoorbell_canon {kind qid w info : Nat} (hs : Canon v q s) : Canon v q (badDoorbell s kind qid w info) := by
  unfold badDoorbell
  repeat' first
    | (with_reducible assumption) | intro x
    | (with_reducible first | apply violate_canon | apply asyncEvent_canon | apply raise_canon)

theorem execSqTailDoorbell_canon {qid : BitVec 16} {w : BitVec 32} (hs : Canon v q s) : Ends v q (execSqTailDoorbell qid w s)
    := by
  unfold execSqTailDoorbell
  repeat' first
    | (with_reducible assumption) | intro x
    | (with_reducible first
        | apply ends_next_canon | apply ite_ends | apply ite_canon | apply State.setSubQ_canon | apply badDoorbell_canon)
    | split | (simp only [canon_mk_iff]; apply canon_parts)

theorem execCqHeadDoorbell_canon {qid : BitVec 16} {w : BitVec 32} (hs : Canon v q s) : Ends v q (execCqHeadDoorbell qid w s)
    := by
  unfold execCqHeadDoorbell
  repeat' first
    | (with_reducible assumption) | intro x
    | (extract_lets +onlyGivenNames t; first
        | (refine (fun (ht : Canon v q t) => ?_) ?_ <;> [clear_value t; (unfold t; clear t)])
        | clear_value t)
    | (with_reducible first
        | apply ends_next_canon | apply ite_ends | apply ite_canon | apply State.setHost_canon | apply badDoorbell_canon)
    | split | (simp only [canon_mk_iff]; apply canon_parts)

theorem hostWakes_canon (hs : Canon v q s) : Canon v q (hostWakes s) := by
  unfold hostWakes
  repeat' first
    | (with_reducible assumption) | intro x
    | (with_reducible first | apply State.setN_canon | apply State.on_canon)

theorem execCommandFetch_canon {qid : BitVec 16} {e : Sqe} (hs : Canon v q s) : Ends v q (execCommandFetch qid e s) := by
  unfold execCommandFetch
  repeat' first
    | (with_reducible assumption) | intro x
    | (extract_lets +onlyGivenNames t; first
        | (refine (fun (ht : Canon v q t) => ?_) ?_ <;> [clear_value t; (unfold t; clear t)])
        | clear_value t)
    | (with_reducible first
        | apply ends_next_canon | apply ite_ends | apply ite_canon | apply State.inc_canon | apply State.drawn_canon
        | apply State.on_canon | apply State.setHost_canon | apply State.setCmd_canon | apply State.setSubQ_canon
        | apply showOq_canon | apply advance_canon | apply restartCheck_canon | apply settle_canon | apply discards_canon
        | apply raise_canon | apply hostWakes_canon)
    | split | (simp only [canon_mk_iff]; apply canon_parts)

theorem execSqFetchError_canon {qid : BitVec 16} {cause : XferCause} (hs : Canon v q s) : Ends v q
    (execSqFetchError qid cause s) := by
  unfold execSqFetchError
  repeat' first
    | (with_reducible assumption) | intro x
    | (extract_lets +onlyGivenNames t; first
        | (refine (fun (ht : Canon v q t) => ?_) ?_ <;> [clear_value t; (unfold t; clear t)])
        | clear_value t)
    | (with_reducible first
        | apply ends_next_canon | apply ite_ends | apply ite_canon | apply State.setSubQ_canon | apply violate_canon
        | apply asyncEvent_canon | apply raise_canon)
    | split | (simp only [canon_mk_iff]; apply canon_parts)

theorem aerEvent_canon {dw0 : Nat} (hs : Canon v q s) : Canon v q (aerEvent s dw0) := by
  unfold aerEvent
  repeat' first
    | (with_reducible assumption) | intro x
    | (with_reducible first | apply State.drawn_canon | apply raise_canon)
    | (simp only [canon_mk_iff]; apply canon_parts)

theorem badTlp_canon {kind dw0 addr : Nat} (hs : Canon v q s) : Canon v q (badTlp s kind dw0 addr) := by
  unfold badTlp
  repeat' first
    | (with_reducible assumption) | intro x
    | (with_reducible first | apply violate_canon | apply raise_canon)

theorem execTlpReceive_canon {x : Tlp} (hs : Canon v q s) : Ends v q (execTlpReceive x s) := by
  unfold execTlpReceive
  repeat' first
    | (with_reducible assumption) | intro x
    | (with_reducible first | apply ends_next_canon | apply aerEvent_canon | apply badTlp_canon)
    | split | (simp only [canon_mk_iff]; apply canon_parts)

theorem execDataTransferError_canon {c : CmdRef} {cause : XferCause} (hs : Canon v q s) : Ends v q
    (execDataTransferError c cause s) := by
  unfold execDataTransferError
  repeat' first
    | (with_reducible assumption) | intro x
    | (extract_lets +onlyGivenNames t; first
        | (refine (fun (ht : Canon v q t) => ?_) ?_ <;> [clear_value t; (unfold t; clear t)])
        | clear_value t)
    | (with_reducible first
        | apply ends_next_canon | apply violate_canon | apply complete_canon | apply raise_canon | apply runCommits_canon)
    | split | (simp only [canon_mk_iff]; apply canon_parts)

theorem execCompletionWrite_canon {c : CmdRef} {status : BitVec 15} {dw0 : BitVec 32} (hs : Canon v q s) : Ends v q
    (execCompletionWrite c status dw0 s) := by
  unfold execCompletionWrite
  repeat' first
    | (with_reducible assumption) | intro x
    | (with_reducible first | apply ends_next_canon | apply complete_canon | apply raise_canon | apply runCommits_canon)
    | split | (simp only [canon_mk_iff]; apply canon_parts)

theorem execCqePost_canon {cqid : BitVec 16} (hs : Canon v q s) : Ends v q (execCqePost cqid s) := by
  unfold execCqePost
  repeat' first
    | (with_reducible assumption) | intro x
    | (with_reducible first | apply ends_next_canon | apply ite_ends | apply ite_canon | apply State.setHost_canon)
    | split | (simp only [canon_mk_iff]; apply canon_parts)

theorem badCreate_canon {e : CmdEnt} {sc word : Nat} (hs : Canon v q s) : Canon v q (badCreate s e sc word) := by
  unfold badCreate
  repeat' first
    | (with_reducible assumption) | intro x
    | (with_reducible first | apply violate_canon | apply complete_canon | apply raise_canon)

theorem execCreateIoCq_canon {c : CmdRef} (hs : Canon v q s) : Ends v q (execCreateIoCq c s) := by
  unfold execCreateIoCq
  repeat' first
    | (with_reducible assumption) | intro x
    | (extract_lets +onlyGivenNames t; first
        | (refine (fun (ht : Canon v q t) => ?_) ?_ <;> [clear_value t; (unfold t; clear t)])
        | clear_value t)
    | (with_reducible first
        | apply ends_next_canon | apply ite_ends | apply ite_canon | apply State.setHost_canon | apply complete_canon
        | apply raise_canon | apply badCreate_canon)
    | split | (simp only [canon_mk_iff]; apply canon_parts)

theorem execCreateIoSq_canon {c : CmdRef} (hs : Canon v q s) : Ends v q (execCreateIoSq c s) := by
  unfold execCreateIoSq
  repeat' first
    | (with_reducible assumption) | intro x
    | (extract_lets +onlyGivenNames t; first
        | (refine (fun (ht : Canon v q t) => ?_) ?_ <;> [clear_value t; (unfold t; clear t)])
        | clear_value t)
    | (with_reducible first
        | apply ends_next_canon | apply ite_ends | apply ite_canon | apply boundary_canon | apply State.setSubQ_canon
        | apply showOq_canon | apply complete_canon | apply raise_canon | apply badCreate_canon)
    | split | (simp only [canon_mk_iff]; apply canon_parts)

theorem endQueue_canon {j : Nat} (hs : Canon v q s) : Canon v q (endQueue s j) := by
  unfold endQueue
  repeat' first
    | (with_reducible assumption) | intro x
    | (with_reducible first
        | apply ite_canon | apply foldl_canon | apply commitBase_canon | apply releaseAborter_canon | apply raise_canon)
    | split | (simp only [canon_mk_iff]; apply canon_parts)

theorem execDeleteIoSq_canon {c : CmdRef} (hs : Canon v q s) : Ends v q (execDeleteIoSq c s) := by
  unfold execDeleteIoSq
  repeat' first
    | (with_reducible assumption) | intro x
    | (extract_lets +onlyGivenNames t; first
        | (refine (fun (ht : Canon v q t) => ?_) ?_ <;> [clear_value t; (unfold t; clear t)])
        | clear_value t)
    | (with_reducible first
        | apply ends_next_canon | apply ite_ends | apply ite_canon | apply State.setHost_canon | apply showOq_canon
        | apply complete_canon | apply raise_canon | apply runCommits_canon | apply endQueue_canon)
    | split | (simp only [canon_mk_iff]; apply canon_parts)

theorem execDeleteIoCq_canon {c : CmdRef} (hs : Canon v q s) : Ends v q (execDeleteIoCq c s) := by
  unfold execDeleteIoCq
  repeat' first
    | (with_reducible assumption) | intro x
    | (extract_lets +onlyGivenNames t; first
        | (refine (fun (ht : Canon v q t) => ?_) ?_ <;> [clear_value t; (unfold t; clear t)])
        | clear_value t)
    | (with_reducible first
        | apply ends_next_canon | apply ite_ends | apply ite_canon | apply State.setHost_canon | apply violate_canon
        | apply complete_canon | apply raise_canon)
    | split | (simp only [canon_mk_iff]; apply canon_parts)

theorem execOrderedMaskWrite_canon {m : Master} {w : Word} (hs : Canon v q s) : Ends v q (execOrderedMaskWrite m w s) := by
  unfold execOrderedMaskWrite
  repeat' first
    | (with_reducible assumption) | intro x
    | (with_reducible first | apply ends_next_canon | apply id_canon | apply kwrite_canon)

theorem abortRuns_canon {c : Ref} (hs : Canon v q s) : Canon v q (abortRuns s c) := by
  unfold abortRuns
  repeat' first
    | (with_reducible assumption) | intro x
    | (extract_lets +onlyGivenNames t; first
        | (refine (fun (ht : Canon v q t) => ?_) ?_ <;> [clear_value t; (unfold t; clear t)])
        | clear_value t)
    | (with_reducible first
        | apply ite_canon | apply foldl_canon | apply complete_canon | apply stopRun_canon | apply raise_canon)
    | split | (simp only [canon_mk_iff]; apply canon_parts)

theorem notAborted_canon {e : CmdEnt} (hs : Canon v q s) : Canon v q (notAborted s e) := by
  unfold notAborted
  repeat' first
    | (with_reducible assumption) | intro x
    | (with_reducible first | apply complete_canon | apply raise_canon)

theorem abortEnt_canon {e f : CmdEnt} (hs : Canon v q s) : Canon v q (abortEnt s e f) := by
  unfold abortEnt
  repeat' first
    | (with_reducible assumption) | intro x
    | (extract_lets +onlyGivenNames t; first
        | (refine (fun (ht : Canon v q t) => ?_) ?_ <;> [clear_value t; (unfold t; clear t)])
        | clear_value t)
    | (with_reducible first
        | apply ite_canon | apply State.setCmd_canon | apply commitEnt_canon | apply settle_canon | apply raise_canon
        | apply runCommits_canon | apply abortRuns_canon)
    | split | (simp only [canon_mk_iff]; apply canon_parts)

theorem execAbort_canon {c : CmdRef} (hs : Canon v q s) : Ends v q (execAbort c s) := by
  unfold execAbort
  repeat' first
    | (with_reducible assumption) | intro x
    | (extract_lets +onlyGivenNames t; first
        | (refine (fun (ht : Canon v q t) => ?_) ?_ <;> [clear_value t; (unfold t; clear t)])
        | clear_value t)
    | (with_reducible first
        | apply ends_next_canon | apply ite_ends | apply ite_canon | apply State.inc_canon | apply raise_canon
        | apply notAborted_canon | apply abortEnt_canon)
    | split | (simp only [canon_mk_iff]; apply canon_parts)

theorem execAbortBudgetExpiry_canon {c : CmdRef} (hs : Canon v q s) : Ends v q (execAbortBudgetExpiry c s) := by
  unfold execAbortBudgetExpiry
  repeat' first
    | (with_reducible assumption) | intro x
    | (with_reducible first
        | apply ends_next_canon | apply ite_ends | apply ite_canon | apply State.drawn_canon | apply raise_canon)
    | split | (simp only [canon_mk_iff]; apply canon_parts)

theorem beginRestart_canon {e : CmdEnt} {j : Nat} {x : SubQ} {discard : Bool} (hs : Canon v q s) : Canon v q
    (beginRestart s e j x discard) := by
  unfold beginRestart
  repeat' first
    | (with_reducible assumption) | intro x
    | (extract_lets +onlyGivenNames t; first
        | (refine (fun (ht : Canon v q t) => ?_) ?_ <;> [clear_value t; (unfold t; clear t)])
        | clear_value t)
    | (with_reducible first | apply ite_canon | apply State.setHost_canon | apply State.setSubQ_canon)
    | split | (simp only [canon_mk_iff]; apply canon_parts)

theorem execOrderedQueueRestart_canon {c : CmdRef} (hs : Canon v q s) : Ends v q (execOrderedQueueRestart c s) := by
  unfold execOrderedQueueRestart
  repeat' first
    | (with_reducible assumption) | intro x
    | (extract_lets +onlyGivenNames t; first
        | (refine (fun (ht : Canon v q t) => ?_) ?_ <;> [clear_value t; (unfold t; clear t)])
        | clear_value t)
    | (with_reducible first
        | apply ends_next_canon | apply ite_ends | apply ite_canon | apply showOq_canon | apply advance_canon
        | apply restartCheck_canon | apply settle_canon | apply discards_canon | apply complete_canon | apply raise_canon
        | apply beginRestart_canon)
    | split | (simp only [canon_mk_iff]; apply canon_parts)

theorem connectRefused_canon {source status : Nat} {count : Bool} (hs : Canon v q s) : Canon v q
    (connectRefused s source status count) := by
  unfold connectRefused
  repeat' first
    | (with_reducible assumption) | intro x
    | (extract_lets +onlyGivenNames t; first
        | (refine (fun (ht : Canon v q t) => ?_) ?_ <;> [clear_value t; (unfold t; clear t)])
        | clear_value t)
    | (with_reducible first | apply State.inc_canon | apply State.on_canon | apply raise_canon)
    | (simp only [canon_mk_iff]; apply canon_parts)

theorem execFabricsConnect_canon {qid : BitVec 16} {hostNqn : BitVec 64} {cntlid : BitVec 16} {source : BitVec 32} (hs
    : Canon v q s) : Ends v q (execFabricsConnect qid hostNqn cntlid source s) := by
  unfold execFabricsConnect
  repeat' first
    | (with_reducible assumption) | intro x
    | (extract_lets +onlyGivenNames t; first
        | (refine (fun (ht : Canon v q t) => ?_) ?_ <;> [clear_value t; (unfold t; clear t)])
        | clear_value t)
    | (with_reducible first
        | apply ends_next_canon | apply ite_ends | apply ite_canon | apply State.setN_canon | apply State.drawn_canon
        | apply boundary_canon | apply State.setHost_canon | apply State.setSubQ_canon | apply showOq_canon
        | apply raise_canon | apply connectRefused_canon)
    | split | (simp only [canon_mk_iff]; apply canon_parts)

theorem endAssociation_canon (hs : Canon v q s) : Canon v q (endAssociation s) := by
  unfold endAssociation
  repeat' first
    | (with_reducible assumption) | intro x
    | (extract_lets +onlyGivenNames t; first
        | (refine (fun (ht : Canon v q t) => ?_) ?_ <;> [clear_value t; (unfold t; clear t)])
        | clear_value t)
    | (with_reducible first
        | apply foldl_canon | apply State.set_canon | apply State.setN_canon | apply State.setHost_canon
        | apply sieveControllerReset_canon | apply endWork_canon | apply raise_canon)
    | (simp only [canon_mk_iff]; apply canon_parts)

theorem connectionClosed_canon {j : Nat} (hs : Canon v q s) : Canon v q (connectionClosed s j) := by
  unfold connectionClosed
  repeat' first
    | (with_reducible assumption) | intro x
    | (with_reducible first | apply ite_canon | apply State.setHost_canon | apply endAssociation_canon)
    | split | (simp only [canon_mk_iff]; apply canon_parts)

theorem execTcpConnectionClose_canon {conn : BitVec 16} (hs : Canon v q s) : Ends v q (execTcpConnectionClose conn s) := by
  unfold execTcpConnectionClose
  repeat' first
    | (with_reducible assumption) | intro x
    | (with_reducible first | apply ends_next_canon | apply State.on_canon | apply connectionClosed_canon)

theorem execTcpPduError_canon {conn : BitVec 16} {pduType : Byte} {code : BitVec 16} {what : BitVec 2} (hs : Canon v q s)
    : Ends v q (execTcpPduError conn pduType code what s) := by
  unfold execTcpPduError
  repeat' first
    | (with_reducible assumption) | intro x
    | (extract_lets +onlyGivenNames t; first
        | (refine (fun (ht : Canon v q t) => ?_) ?_ <;> [clear_value t; (unfold t; clear t)])
        | clear_value t)
    | (with_reducible first
        | apply ends_next_canon | apply ite_ends | apply ite_canon | apply State.drawn_canon | apply violate_canon
        | apply raise_canon | apply endAssociation_canon)
    | split | (simp only [canon_mk_iff]; apply canon_parts)

theorem execKeepAliveTimeout_canon (hs : Canon v q s) : Ends v q (execKeepAliveTimeout s) := by
  unfold execKeepAliveTimeout
  repeat' first
    | (with_reducible assumption) | intro x
    | (extract_lets +onlyGivenNames t; first
        | (refine (fun (ht : Canon v q t) => ?_) ?_ <;> [clear_value t; (unfold t; clear t)])
        | clear_value t)
    | (with_reducible first
        | apply ends_next_canon | apply ite_ends | apply ite_canon | apply State.drawn_canon | apply controllerReset_canon
        | apply raise_canon)
    | split | (simp only [canon_mk_iff]; apply canon_parts)

theorem execPcieLinkTrained_canon {speed : BitVec 3} {width : BitVec 2} (hs : Canon v q s) : Ends v q
    (execPcieLinkTrained speed width s) := by
  unfold execPcieLinkTrained
  repeat' first
    | (with_reducible assumption) | intro x
    | (extract_lets +onlyGivenNames t; first
        | (refine (fun (ht : Canon v q t) => ?_) ?_ <;> [clear_value t; (unfold t; clear t)])
        | clear_value t)
    | (with_reducible first
        | apply ends_next_canon | apply ite_ends | apply ite_canon | apply State.setN_canon | apply State.setB_canon
        | apply State.setHost_canon | apply raise_canon)
    | split | (simp only [canon_mk_iff]; apply canon_parts)

theorem linkDown_canon (hs : Canon v q s) : Canon v q (linkDown s) := by
  unfold linkDown
  repeat' first
    | (with_reducible assumption) | intro x
    | (with_reducible first | apply State.setN_canon | apply State.setB_canon)

theorem execPcieLinkDown_canon {ltssm : Byte} (hs : Canon v q s) : Ends v q (execPcieLinkDown ltssm s) := by
  unfold execPcieLinkDown
  repeat' first
    | (with_reducible assumption) | intro x
    | (with_reducible first
        | apply ends_next_canon | apply ite_ends | apply ite_canon | apply raise_canon | apply linkDown_canon)
    | split | (simp only [canon_mk_iff]; apply canon_parts)

theorem execEthLinkChange_canon {up : Bool} {detail : BitVec 32} (hs : Canon v q s) : Ends v q
    (execEthLinkChange up detail s) := by
  unfold execEthLinkChange
  repeat' first
    | (with_reducible assumption) | intro x
    | (extract_lets +onlyGivenNames t; first
        | (refine (fun (ht : Canon v q t) => ?_) ?_ <;> [clear_value t; (unfold t; clear t)])
        | clear_value t)
    | (with_reducible first
        | apply ends_next_canon | apply ite_ends | apply ite_canon | apply State.setN_canon | apply State.setB_canon
        | apply raise_canon | apply linkDown_canon)
    | split | (simp only [canon_mk_iff]; apply canon_parts)

/-! ### Machine/StrongOps -/

theorem srEvent_canon {e : Nat} {items : List Nat} (hs : Canon v q s) : Canon v q (srEvent s e items) := by
  unfold srEvent
  repeat' first
    | (with_reducible assumption) | intro x
    | (with_reducible first | apply raise_canon)
    | (simp only [canon_mk_iff]; apply canon_parts)

theorem extendRt_canon {e : LedgerEnt} (hs : Canon v q s) : Canon v q (extendRt s e) := by
  unfold extendRt
  repeat' first
    | (with_reducible assumption) | intro x
    | (extract_lets +onlyGivenNames t; first
        | (refine (fun (ht : Canon v q t) => ?_) ?_ <;> [clear_value t; (unfold t; clear t)])
        | clear_value t)
    | (with_reducible first | apply ite_canon | apply State.setN_canon | apply State.inc_canon | apply srEvent_canon)
    | split | (simp only [canon_mk_iff]; apply canon_parts)

theorem measure_canon {e : LedgerEnt} (hs : Canon v q s) : Canon v q (measure s e) := by
  unfold measure
  repeat' first
    | (with_reducible assumption) | intro x
    | (with_reducible first | apply ite_canon | apply extendRt_canon)
    | split | (simp only [canon_mk_iff]; apply canon_parts)

theorem measureRuntime_canon {e : LedgerEnt} (hs : Canon v q s) : Canon v q (measureRuntime s e) := by
  unfold measureRuntime
  repeat' first
    | (with_reducible assumption) | intro x
    | (with_reducible first | apply State.on_canon | apply extendRt_canon)

theorem objectChanged_canon {i sub : Nat} (hs : Canon v q s) : Canon v q (objectChanged s i sub) := by
  unfold objectChanged
  repeat' first
    | (with_reducible assumption) | intro x
    | (with_reducible first | apply ite_canon | apply measureRuntime_canon)
    | split | (simp only [canon_mk_iff]; apply canon_parts)

theorem showStore_canon (hs : Canon v q s) : Canon v q (showStore s) := by
  unfold showStore
  repeat' first
    | (with_reducible assumption) | intro x
    | (with_reducible first | apply State.setN_canon)
    | split | (simp only [canon_mk_iff]; apply canon_parts)

theorem foldStore_canon (hs : Canon v q s) : Canon v q (foldStore s) := by
  unfold foldStore
  repeat' first
    | (with_reducible assumption) | intro x
    | (extract_lets +onlyGivenNames t; first
        | (refine (fun (ht : Canon v q t) => ?_) ?_ <;> [clear_value t; (unfold t; clear t)])
        | clear_value t)
    | (with_reducible first
        | refine foldl_fst_canon_eq (by with_reducible assumption) ?_ ?_ | apply foldl_fst_canon | apply foldl_canon
        | apply fold_canon | apply State.inc_canon | apply State.store_canon | apply sysRecord_canon | apply srEvent_canon)
    | split | dsimp only | (simp only [canon_mk_iff]; apply canon_parts)

theorem sealRecords_canon {slot : Nat} {hash : List Byte} (hs : Canon v q s) : Canon v q (sealRecords s slot hash) := by
  unfold sealRecords
  repeat' first
    | (with_reducible assumption) | intro x
    | (extract_lets +onlyGivenNames t; first
        | (refine (fun (ht : Canon v q t) => ?_) ?_ <;> [clear_value t; (unfold t; clear t)])
        | clear_value t)
    | (with_reducible first | apply foldl_canon | apply sysRecord_canon)
    | (simp only [canon_mk_iff]; apply canon_parts)

theorem sealLedger_canon {forced stored : Bool} (hs : Canon v q s) : Canon v q (sealLedger s forced stored) := by
  unfold sealLedger
  repeat' first
    | (with_reducible assumption) | intro x
    | (extract_lets +onlyGivenNames t; first
        | (refine (fun (ht : Canon v q t) => ?_) ?_ <;> [clear_value t; (unfold t; clear t)])
        | clear_value t)
    | (with_reducible first
        | apply ite_canon | apply State.setN_canon | apply State.store_canon | apply State.drawn_canon | apply srEvent_canon
        | apply showStore_canon | apply foldStore_canon | apply sealRecords_canon)
    | split | (simp only [canon_mk_iff]; apply canon_parts)

theorem sealAsk_canon {forced stored : Bool} (hs : Canon v q s) : Canon v q (sealAsk s forced stored) := by
  unfold sealAsk
  repeat' first
    | (with_reducible assumption) | intro x
    | (with_reducible first | apply ite_canon | apply sealLedger_canon)
    | split | (simp only [canon_mk_iff]; apply canon_parts)

theorem sealDue_canon (hs : Canon v q s) : Canon v q (sealDue s) := by
  unfold sealDue
  repeat' first
    | (with_reducible assumption) | intro x
    | (with_reducible first | apply ite_canon | apply sealLedger_canon)
    | split | (simp only [canon_mk_iff]; apply canon_parts)

/-! ### Machine/Strongroom -/

theorem measGoAct_canon (ht : Canon v q t) : Canon v q (measGoAct t) := by
  unfold measGoAct
  repeat' first
    | (with_reducible assumption) | intro x
    | (extract_lets +onlyGivenNames t; first
        | (refine (fun (ht : Canon v q t) => ?_) ?_ <;> [clear_value t; (unfold t; clear t)])
        | clear_value t)
    | (with_reducible first | apply ite_canon | apply State.setN_canon | apply srEvent_canon | apply measure_canon)
    | split | (simp only [canon_mk_iff]; apply canon_parts)

theorem execMeasGo_canon {m : Master} {w : Word} (hs : Canon v q s) : Ends v q (execMeasGo m w s) := by
  unfold execMeasGo
  repeat' first
    | (with_reducible assumption) | intro x
    | (with_reducible first | apply ends_next_canon | apply kwrite_canon | apply measGoAct_canon)

theorem sealRequestAct_canon {stored : Bool} (ht : Canon v q t) : Canon v q (sealRequestAct stored t) := by
  unfold sealRequestAct
  repeat' first
    | (with_reducible assumption) | intro x
    | (with_reducible first | apply sealAsk_canon)

theorem execSealRequest_canon {m : Master} {w : Word} {stored : Bool} (hs : Canon v q s) : Ends v q
    (execSealRequest m w stored s) := by
  unfold execSealRequest
  repeat' first
    | (with_reducible assumption) | intro x
    | (with_reducible first | apply ends_next_canon | apply kwrite_canon | apply sealRequestAct_canon)

theorem execSealTimeout_canon {stored : Bool} (hs : Canon v q s) : Ends v q (execSealTimeout stored s) := by
  unfold execSealTimeout
  repeat' first
    | (with_reducible assumption) | intro x
    | (with_reducible first | apply ends_next_canon | apply State.on_canon | apply sealAsk_canon)

theorem showRecord_canon (hs : Canon v q s) : Canon v q (showRecord s) := by
  unfold showRecord
  repeat' first
    | (with_reducible assumption) | intro x
    | (extract_lets +onlyGivenNames t; first
        | (refine (fun (ht : Canon v q t) => ?_) ?_ <;> [clear_value t; (unfold t; clear t)])
        | clear_value t)
    | (with_reducible first | apply State.setN_canon)

theorem fwConfirmAct_canon (ht : Canon v q t) : Canon v q (fwConfirmAct t) := by
  unfold fwConfirmAct
  repeat' first
    | (with_reducible assumption) | intro x
    | (extract_lets +onlyGivenNames t; first
        | (refine (fun (ht : Canon v q t) => ?_) ?_ <;> [clear_value t; (unfold t; clear t)])
        | clear_value t)
    | (with_reducible first | apply ite_canon | apply measureRuntime_canon | apply showRecord_canon)
    | split | (simp only [canon_mk_iff]; apply canon_parts)

theorem execFwConfirm_canon {m : Master} {w : Word} (hs : Canon v q s) : Ends v q (execFwConfirm m w s) := by
  unfold execFwConfirm
  repeat' first
    | (with_reducible assumption) | intro x
    | (with_reducible first | apply ends_next_canon | apply kwrite_canon | apply fwConfirmAct_canon)

theorem advanceFloor_canon {k : Key} {code version : Nat} (hs : Canon v q s) : Canon v q (advanceFloor s k code version) := by
  unfold advanceFloor
  repeat' first
    | (with_reducible assumption) | intro x
    | (extract_lets +onlyGivenNames t; first
        | (refine (fun (ht : Canon v q t) => ?_) ?_ <;> [clear_value t; (unfold t; clear t)])
        | clear_value t)
    | (with_reducible first | apply ite_canon | apply State.setN_canon | apply srEvent_canon)
    | split

theorem leastFloor_canon {t : State} (f : Nat → Key) (k : Key) (code : Nat) (ht : Canon v q t) : Canon v q
    (match leastVersion t f with | some n => advanceFloor t k code n | none => t) := by
  split
  · exact advanceFloor_canon ht
  · exact ht

theorem rollbackAdvanceAct_canon (ht : Canon v q t) : Canon v q (rollbackAdvanceAct t) := by
  have h := leastFloor_canon K.trlCustomerVersion K.trlxCustomerFloor 2 (leastFloor_canon K.trlPatchVersion K.trlxPatchFloor 1
    (advanceFloor_canon (k := K.srFwFloor) (code := 0) (version := t.strong.runVersion) ht))
  exact ite_canon (State.setN_canon h) h

theorem execRollbackAdvance_canon {m : Master} {w : Word} (hs : Canon v q s) : Ends v q (execRollbackAdvance m w s) := by
  unfold execRollbackAdvance
  repeat' first
    | (with_reducible assumption) | intro x
    | (with_reducible first | apply ends_next_canon | apply kwrite_canon | apply rollbackAdvanceAct_canon)

theorem execFirmwareImageDownload_canon {c : CmdRef} {data : List Byte} (hs : Canon v q s) : Ends v q
    (execFirmwareImageDownload c data s) := by
  unfold execFirmwareImageDownload
  repeat' first
    | (with_reducible assumption) | intro x
    | (extract_lets +onlyGivenNames t; first
        | (refine (fun (ht : Canon v q t) => ?_) ?_ <;> [clear_value t; (unfold t; clear t)])
        | clear_value t)
    | (with_reducible first
        | apply ends_next_canon | refine foldl_fst_canon_eq (by with_reducible assumption) ?_ ?_ | apply foldl_fst_canon
        | apply foldl_canon | apply State.setHost_canon | apply complete_canon | apply raise_canon)
    | split | dsimp only | (simp only [canon_mk_iff]; apply canon_parts)

theorem storeImage_canon {slot : Nat} (hs : Canon v q s) : Canon v q (storeImage s slot) := by
  unfold storeImage
  repeat' first
    | (with_reducible assumption) | intro x
    | (with_reducible first | apply ite_canon | apply foldl_canon)
    | split | (simp only [canon_mk_iff]; apply canon_parts)

theorem loadImage_canon {slot : Nat} (hs : Canon v q s) : Canon v q (loadImage s slot) := by
  unfold loadImage
  repeat' first
    | (with_reducible assumption) | intro x
    | (extract_lets +onlyGivenNames t; first
        | (refine (fun (ht : Canon v q t) => ?_) ?_ <;> [clear_value t; (unfold t; clear t)])
        | clear_value t)
    | (with_reducible first | apply ite_canon | apply State.store_canon)
    | split

theorem setTrial_canon {slot : Nat} (hs : Canon v q s) : Canon v q (setTrial s slot) := by
  unfold setTrial
  repeat' first
    | (with_reducible assumption) | intro x
    | (with_reducible first | apply showRecord_canon)
    | (simp only [canon_mk_iff]; apply canon_parts)

theorem commitImageFault_canon {s t : State} {n a : Nat} {chk : ImageCheck} (he : commitImageFault s n chk = some (a, t))
    (hs : Canon v q s) : Canon v q t := by
  unfold commitImageFault at he
  repeat' first
    | extract_lets at he
    | split at he
  all_goals first
    | (cases he; done)
    | (cases he; repeat' first
        | with_reducible assumption
        | with_reducible apply srEvent_canon
        | with_reducible apply State.inc_canon
        | with_reducible apply State.drawn_canon)

theorem execFirmwareCommit_canon {c : CmdRef} {chk : ImageCheck} (hs : Canon v q s) : Ends v q (execFirmwareCommit c chk s)
    := by
  unfold execFirmwareCommit
  repeat' first
    | (with_reducible assumption) | intro x
    | (extract_lets +onlyGivenNames t; first
        | (refine (fun (ht : Canon v q t) => ?_) ?_ <;> [clear_value t; (unfold t; clear t)])
        | clear_value t)
    | (with_reducible first
        | apply ends_next_canon | apply ite_ends | apply ite_canon
        | refine commitImageFault_canon (by with_reducible assumption) ?_ | apply State.setN_canon | apply complete_canon
        | apply raise_canon | apply measureRuntime_canon | apply storeImage_canon | apply setTrial_canon)
    | split | (simp only [canon_mk_iff]; apply canon_parts)

theorem spdmAnswer_canon {t : SpdmPath} {req err : Nat} {bytes : List Byte} (hs : Canon v q s) : Canon v q
    (spdmAnswer s t req err bytes) := by
  unfold spdmAnswer
  repeat' first
    | (with_reducible assumption) | intro x
    | (extract_lets +onlyGivenNames t; first
        | (refine (fun (ht : Canon v q t) => ?_) ?_ <;> [clear_value t; (unfold t; clear t)])
        | clear_value t)
    | (with_reducible first | apply ite_canon | apply State.inc_canon | apply srEvent_canon)
    | split | (simp only [canon_mk_iff]; apply canon_parts)

theorem spdmServe_canon {t : SpdmPath} {req : Nat} {body : Option (List Byte)} (hs : Canon v q s) : Canon v q
    (spdmServe s t req body) := by
  unfold spdmServe
  repeat' first
    | (with_reducible assumption) | intro x
    | (with_reducible first | apply ite_canon | apply spdmAnswer_canon)
    | split | (simp only [canon_mk_iff]; apply canon_parts)

theorem execGetVersion_canon {t : SpdmPath} (hs : Canon v q s) : Ends v q (execGetVersion t s) := by
  unfold execGetVersion
  repeat' first
    | (with_reducible assumption) | intro x
    | (with_reducible first | apply ends_next_canon | apply spdmServe_canon)

theorem execGetCapabilities_canon {t : SpdmPath} (hs : Canon v q s) : Ends v q (execGetCapabilities t s) := by
  unfold execGetCapabilities
  repeat' first
    | (with_reducible assumption) | intro x
    | (with_reducible first | apply ends_next_canon | apply spdmServe_canon)

theorem execNegotiateAlgorithms_canon {t : SpdmPath} {supported : Bool} (hs : Canon v q s) : Ends v q
    (execNegotiateAlgorithms t supported s) := by
  unfold execNegotiateAlgorithms
  repeat' first
    | (with_reducible assumption) | intro x
    | (with_reducible first | apply ends_next_canon | apply ite_ends | apply ite_canon | apply spdmServe_canon)
    | split

theorem execGetDigests_canon {t : SpdmPath} (hs : Canon v q s) : Ends v q (execGetDigests t s) := by
  unfold execGetDigests
  repeat' first
    | (with_reducible assumption) | intro x
    | (with_reducible first | apply ends_next_canon | apply spdmServe_canon)

theorem execGetCertificate_canon {t : SpdmPath} {slot : BitVec 4} {offset len : BitVec 16} (hs : Canon v q s) : Ends v q
    (execGetCertificate t slot offset len s) := by
  unfold execGetCertificate
  repeat' first
    | (with_reducible assumption) | intro x
    | (with_reducible first | apply ends_next_canon | apply ite_ends | apply ite_canon | apply spdmServe_canon)
    | split

theorem execChallenge_canon {t : SpdmPath} {slot : BitVec 4} {nonce : BitVec 256} (hs : Canon v q s) : Ends v q
    (execChallenge t slot nonce s) := by
  unfold execChallenge
  repeat' first
    | (with_reducible assumption) | intro x
    | (extract_lets +onlyGivenNames t; first
        | (refine (fun (ht : Canon v q t) => ?_) ?_ <;> [clear_value t; (unfold t; clear t)])
        | clear_value t)
    | (with_reducible first | apply ends_next_canon | apply ite_ends | apply ite_canon | apply spdmServe_canon)
    | split

theorem execGetMeasurements_canon {t : SpdmPath} {index : Byte} {sign : Bool} {nonce : BitVec 256} (hs : Canon v q s)
    : Ends v q (execGetMeasurements t index sign nonce s) := by
  unfold execGetMeasurements
  repeat' first
    | (with_reducible assumption) | intro x
    | (extract_lets +onlyGivenNames t; first
        | (refine (fun (ht : Canon v q t) => ?_) ?_ <;> [clear_value t; (unfold t; clear t)])
        | clear_value t)
    | (with_reducible first | apply ends_next_canon | apply ite_ends | apply ite_canon | apply spdmServe_canon)
    | split | (simp only [canon_mk_iff]; apply canon_parts)

theorem authFailed_canon {method : Nat} (hs : Canon v q s) : Canon v q (authFailed s method) := by
  unfold authFailed
  repeat' first
    | (with_reducible assumption) | intro x
    | (with_reducible first | apply State.inc_canon | apply State.drawn_canon | apply srEvent_canon)

theorem beginErase_canon {l : List Nat} {src : EraseSource} (hs : Canon v q s) : Canon v q (beginErase s l src) := by
  unfold beginErase
  repeat' first
    | (with_reducible assumption) | intro x
    | (extract_lets +onlyGivenNames t; first
        | (refine (fun (ht : Canon v q t) => ?_) ?_ <;> [clear_value t; (unfold t; clear t)])
        | clear_value t)
    | (with_reducible first
        | refine foldl_fst_canon_eq (by with_reducible assumption) ?_ ?_ | apply foldl_fst_canon | apply foldl_canon
        | apply State.setN_canon)
    | dsimp only | (simp only [canon_mk_iff]; apply canon_parts)

theorem execGenkey_canon {range : Fin 17} {auth : Bool} (hs : Canon v q s) : Ends v q (execGenkey range auth s) := by
  unfold execGenkey
  repeat' first
    | (with_reducible assumption) | intro x
    | (with_reducible first
        | apply ends_next_canon | apply ite_ends | apply ite_canon | apply authFailed_canon | apply beginErase_canon)
    | split

theorem revertAll_canon {auth : Bool} {method : Nat} (hs : Canon v q s) : Canon v q (revertAll s auth method) := by
  unfold revertAll
  repeat' first
    | (with_reducible assumption) | intro x
    | (extract_lets +onlyGivenNames t; first
        | (refine (fun (ht : Canon v q t) => ?_) ?_ <;> [clear_value t; (unfold t; clear t)])
        | clear_value t)
    | (with_reducible first | apply ite_canon | apply State.setN_canon | apply authFailed_canon | apply beginErase_canon)
    | split | (simp only [canon_mk_iff]; apply canon_parts)

theorem execRevert_canon {auth : Bool} (hs : Canon v q s) : Ends v q (execRevert auth s) := by
  unfold execRevert
  repeat' first
    | (with_reducible assumption) | intro x
    | (with_reducible first | apply ends_next_canon | apply revertAll_canon)

theorem execRevertsp_canon {auth : Bool} (hs : Canon v q s) : Ends v q (execRevertsp auth s) := by
  unfold execRevertsp
  repeat' first
    | (with_reducible assumption) | intro x
    | (with_reducible first | apply ends_next_canon | apply revertAll_canon)

theorem execPsidRevert_canon {auth : Bool} (hs : Canon v q s) : Ends v q (execPsidRevert auth s) := by
  unfold execPsidRevert
  repeat' first
    | (with_reducible assumption) | intro x
    | (with_reducible first | apply ends_next_canon | apply revertAll_canon)

theorem execOpalLockChange_canon {range : Fin 17} {readLocked writeLocked : Bool} {auth : Bool} (hs : Canon v q s) : Ends v q
    (execOpalLockChange range readLocked writeLocked auth s) := by
  unfold execOpalLockChange
  repeat' first
    | (with_reducible assumption) | intro x
    | (with_reducible first
        | apply ends_next_canon | apply ite_ends | apply ite_canon | apply State.setBitOf_canon | apply authFailed_canon)
    | split

theorem hostErase_canon {e : CmdEnt} {ok : Bool} {src : EraseSource} (hs : Canon v q s) : Canon v q (hostErase s e ok src) := by
  unfold hostErase
  repeat' first
    | (with_reducible assumption) | intro x
    | (with_reducible first | apply ite_canon | apply complete_canon | apply raise_canon | apply beginErase_canon)
    | split

theorem execFormatNvm_canon {c : CmdRef} (hs : Canon v q s) : Ends v q (execFormatNvm c s) := by
  unfold execFormatNvm
  repeat' first
    | (with_reducible assumption) | intro x
    | (with_reducible first
        | apply ends_next_canon | apply ite_ends | apply ite_canon | apply violate_canon | apply complete_canon
        | apply raise_canon | apply hostErase_canon)
    | split | (simp only [canon_mk_iff]; apply canon_parts)

theorem execSanitize_canon {c : CmdRef} (hs : Canon v q s) : Ends v q (execSanitize c s) := by
  unfold execSanitize
  repeat' first
    | (with_reducible assumption) | intro x
    | (with_reducible first | apply ends_next_canon | apply hostErase_canon)
    | split | (simp only [canon_mk_iff]; apply canon_parts)

theorem eraseDoneAct_canon (ht : Canon v q t) : Canon v q (eraseDoneAct t) := by
  unfold eraseDoneAct
  repeat' first
    | (with_reducible assumption) | intro x
    | (extract_lets +onlyGivenNames t; first
        | (refine (fun (ht : Canon v q t) => ?_) ?_ <;> [clear_value t; (unfold t; clear t)])
        | clear_value t)
    | (with_reducible first
        | apply ite_canon | apply State.setN_canon | apply State.drawn_canon | apply complete_canon | apply raise_canon
        | apply srEvent_canon)
    | split | (simp only [canon_mk_iff]; apply canon_parts)

theorem execEraseDone_canon {m : Master} {w : Word} (hs : Canon v q s) : Ends v q (execEraseDone m w s) := by
  unfold execEraseDone
  repeat' first
    | (with_reducible assumption) | intro x
    | (with_reducible first | apply ends_next_canon | apply kwrite_canon | apply eraseDoneAct_canon)

theorem execSecuritySend_canon {c : CmdRef} {payload : List Byte} (hs : Canon v q s) : Ends v q
    (execSecuritySend c payload s) := by
  unfold execSecuritySend
  repeat' first
    | (with_reducible assumption) | intro x
    | (extract_lets +onlyGivenNames t; first
        | (refine (fun (ht : Canon v q t) => ?_) ?_ <;> [clear_value t; (unfold t; clear t)])
        | clear_value t)
    | (with_reducible first
        | apply ends_next_canon | apply ite_ends | apply ite_canon | apply State.setN_canon | apply State.setHost_canon
        | apply complete_canon | apply raise_canon)
    | split | (simp only [canon_mk_iff]; apply canon_parts)

theorem execSecurityReceive_canon {c : CmdRef} (hs : Canon v q s) : Ends v q (execSecurityReceive c s) := by
  unfold execSecurityReceive
  repeat' first
    | (with_reducible assumption) | intro x
    | (extract_lets +onlyGivenNames t; first
        | (refine (fun (ht : Canon v q t) => ?_) ?_ <;> [clear_value t; (unfold t; clear t)])
        | clear_value t)
    | (with_reducible first
        | apply ends_next_canon | apply ite_ends | apply ite_canon | apply returnData_canon | apply complete_canon
        | apply raise_canon)
    | split | (simp only [canon_mk_iff]; apply canon_parts)

theorem execStrongroomFault_canon {cause : SrFault} (hs : Canon v q s) : Ends v q (execStrongroomFault cause s) := by
  unfold execStrongroomFault
  repeat' first
    | (with_reducible assumption) | intro x
    | (extract_lets +onlyGivenNames t; first
        | (refine (fun (ht : Canon v q t) => ?_) ?_ <;> [clear_value t; (unfold t; clear t)])
        | clear_value t)
    | (with_reducible first
        | apply ends_next_canon | apply ite_ends | apply ite_canon | apply State.setN_canon | apply State.drawn_canon
        | apply raise_canon | apply safeNow_canon | apply srEvent_canon)
    | split | (simp only [canon_mk_iff]; apply canon_parts)

/-! ### Machine/HostIo -/

theorem ioWork_canon {c : CmdRef} {op : Nat} {f : CmdEnt → State} (hs : Canon v q s) (hf : ∀ e, Canon v q (f e)) : Canon v q
    (ioWork s c op f) := by
  unfold ioWork
  repeat' first
    | (with_reducible assumption) | intro x
    | (with_reducible first | apply ite_canon | apply complete_canon | apply raise_canon | apply hf)
    | split | (simp only [canon_mk_iff]; apply canon_parts)

theorem fastPost_canon {lba n : Nat} (hs : Canon v q s) : Canon v q (fastPost s lba n) := by
  unfold fastPost
  repeat' first
    | (with_reducible assumption) | intro x
    | (extract_lets +onlyGivenNames t; first
        | (refine (fun (ht : Canon v q t) => ?_) ?_ <;> [clear_value t; (unfold t; clear t)])
        | clear_value t)
    | (with_reducible first | apply ite_canon | apply postFresh_canon)
    | split | (simp only [canon_mk_iff]; apply canon_parts)

theorem readBlocks_canon {e : CmdEnt} {post : Bool} {bs : List BlockSrc} (hs : Canon v q s) : Canon v q
    (readBlocks s e post bs) := by
  unfold readBlocks
  repeat' first
    | (with_reducible assumption) | intro x
    | (extract_lets +onlyGivenNames t; first
        | (refine (fun (ht : Canon v q t) => ?_) ?_ <;> [clear_value t; (unfold t; clear t)])
        | clear_value t)
    | (with_reducible first
        | apply ite_canon | apply State.inc_canon | apply State.on_canon | apply returnData_canon | apply complete_canon
        | apply raise_canon | apply fastPost_canon)
    | split

theorem execRead_canon {c : CmdRef} (hs : Canon v q s) : Ends v q (execRead c s) := by
  unfold execRead
  repeat' first
    | (with_reducible assumption) | intro x
    | (extract_lets +onlyGivenNames t; first
        | (refine (fun (ht : Canon v q t) => ?_) ?_ <;> [clear_value t; (unfold t; clear t)])
        | clear_value t)
    | (with_reducible first
        | apply ends_next_canon | apply ite_ends | apply ite_canon | apply State.inc_canon | apply State.on_canon
        | apply State.setCmd_canon | apply complete_canon | apply raise_canon | apply ioWork_canon | apply readBlocks_canon)
    | split | (simp only [canon_mk_iff]; apply canon_parts)

theorem writeWork_canon {e : CmdEnt} {append : Bool} (hs : Canon v q s) : Canon v q (writeWork s e append) := by
  unfold writeWork
  repeat' first
    | (with_reducible assumption) | intro x
    | (extract_lets +onlyGivenNames t; first
        | (refine (fun (ht : Canon v q t) => ?_) ?_ <;> [clear_value t; (unfold t; clear t)])
        | clear_value t)
    | (with_reducible first | apply ite_canon | apply complete_canon | apply raise_canon | apply allocFor_canon)
    | split

theorem execWrite_canon {c : CmdRef} (hs : Canon v q s) : Ends v q (execWrite c s) := by
  unfold execWrite
  repeat' first
    | (with_reducible assumption) | intro x
    | (with_reducible first | apply ends_next_canon | apply ioWork_canon | apply writeWork_canon)

theorem execZoneAppend_canon {c : CmdRef} (hs : Canon v q s) : Ends v q (execZoneAppend c s) := by
  unfold execZoneAppend
  repeat' first
    | (with_reducible assumption) | intro x
    | (with_reducible first | apply ends_next_canon | apply ioWork_canon | apply writeWork_canon)

theorem execWriteZeroes_canon {c : CmdRef} (hs : Canon v q s) : Ends v q (execWriteZeroes c s) := by
  unfold execWriteZeroes
  repeat' first
    | (with_reducible assumption) | intro x
    | (with_reducible first | apply ends_next_canon | apply ioWork_canon | apply writeWork_canon)

theorem execFlush_canon {c : CmdRef} (hs : Canon v q s) : Ends v q (execFlush c s) := by
  unfold execFlush
  repeat' first
    | (with_reducible assumption) | intro x
    | (extract_lets +onlyGivenNames t; first
        | (refine (fun (ht : Canon v q t) => ?_) ?_ <;> [clear_value t; (unfold t; clear t)])
        | clear_value t)
    | (with_reducible first
        | apply ends_next_canon | apply ite_ends | apply ite_canon | apply State.setCmd_canon | apply complete_canon
        | apply raise_canon | apply ioWork_canon)
    | split | (simp only [canon_mk_iff]; apply canon_parts)

theorem cutEntry_canon {acc : State × List Action × Nat} {z l lo hi e : Nat} (ha : Canon v q acc.1) :
    Canon v q (cutEntry acc z l lo hi e).1 := by
  unfold cutEntry
  dsimp only
  repeat' split
  all_goals first
    | exact ha
    | exact State.store_canon ha

theorem deallocActions_canon {first count next : Nat} (hs : Canon v q s) :
    Canon v q (deallocActions s first count next).1 := by
  unfold deallocActions
  dsimp only
  split
  · exact hs
  · refine foldl_fst_canon (fun a x ha => ?_) hs
    refine foldl_fst_canon (fun b y hb => ?_) ha
    exact foldl_fst_canon (fun c w hc => cutEntry_canon hc) hb

theorem deallocActions_canon_eq {first count next : Nat} {l : List Action} {n : Nat}
    (he : deallocActions s first count next = (t, l, n)) (hs : Canon v q s) : Canon v q t := by
  have h0 := deallocActions_canon (first := first) (count := count) (next := next) hs
  rw [he] at h0; exact h0

theorem askAll_canon {e : CmdEnt} {fuel : Nat} {l : List Action} (hs : Canon v q s) : Canon v q (askAll s e fuel l) := by
  induction fuel generalizing s e l with
  | zero => exact hs
  | succ n ih =>
    unfold askAll
    repeat' first
      | (with_reducible assumption) | intro x
      | (with_reducible first | apply ih | apply ite_canon | apply askCommit_canon)
      | split | (simp only [canon_mk_iff]; apply canon_parts)

theorem execDatasetManagement_canon {c : CmdRef} {ranges : List (BitVec 64 × BitVec 32)} (hs : Canon v q s) : Ends v q
    (execDatasetManagement c ranges s) := by
  unfold execDatasetManagement
  repeat' first
    | (with_reducible assumption) | intro x
    | (extract_lets +onlyGivenNames t; first
        | (refine (fun (ht : Canon v q t) => ?_) ?_ <;> [clear_value t; (unfold t; clear t)])
        | clear_value t)
    | (with_reducible first
        | apply ends_next_canon | apply ite_ends | refine foldl_fst_canon_eq (by with_reducible assumption) ?_ ?_
        | apply foldl_fst_canon | apply ite_canon | apply foldl_canon
        | refine deallocActions_canon_eq (by with_reducible assumption) ?_ | apply violate_canon | apply answerBad_canon
        | apply complete_canon | apply raise_canon | apply runCommits_canon | apply ioWork_canon | apply deallocActions_canon
        | apply askAll_canon)
    | split | dsimp only | (simp only [canon_mk_iff]; apply canon_parts)

theorem execGetLogPage_canon {c : CmdRef} (hs : Canon v q s) : Ends v q (execGetLogPage c s) := by
  unfold execGetLogPage
  repeat' first
    | (with_reducible assumption) | intro x
    | (extract_lets +onlyGivenNames t; first
        | (refine (fun (ht : Canon v q t) => ?_) ?_ <;> [clear_value t; (unfold t; clear t)])
        | clear_value t)
    | (with_reducible first
        | apply ends_next_canon | apply State.on_canon | apply State.setHost_canon | apply returnData_canon
        | apply complete_canon | apply raise_canon)
    | split | (simp only [canon_mk_iff]; apply canon_parts)

theorem execIdentify_canon {c : CmdRef} (hs : Canon v q s) : Ends v q (execIdentify c s) := by
  unfold execIdentify
  repeat' first
    | (with_reducible assumption) | intro x
    | (extract_lets +onlyGivenNames t; first
        | (refine (fun (ht : Canon v q t) => ?_) ?_ <;> [clear_value t; (unfold t; clear t)])
        | clear_value t)
    | (with_reducible first
        | apply ends_next_canon | apply ite_ends | apply ite_canon | apply returnData_canon | apply complete_canon
        | apply raise_canon)
    | split | (simp only [canon_mk_iff]; apply canon_parts)

theorem setPowerState_canon {n : Nat} (hs : Canon v q s) : Canon v q (setPowerState s n) := by
  unfold setPowerState
  repeat' first
    | (with_reducible assumption) | intro x
    | (extract_lets +onlyGivenNames t; first
        | (refine (fun (ht : Canon v q t) => ?_) ?_ <;> [clear_value t; (unfold t; clear t)])
        | clear_value t)
    | (with_reducible first | apply ite_canon | apply State.setN_canon | apply reEnvelope_canon | apply raise_canon)
    | split | (simp only [canon_mk_iff]; apply canon_parts)

theorem setFeature_canon {fid w : Nat} (hs : Canon v q s) : Canon v q (setFeature s fid w) := by
  unfold setFeature
  repeat' first
    | (with_reducible assumption) | intro x
    | (extract_lets +onlyGivenNames t; first
        | (refine (fun (ht : Canon v q t) => ?_) ?_ <;> [clear_value t; (unfold t; clear t)])
        | clear_value t)
    | (with_reducible first
        | apply ite_canon | apply State.setB_canon | apply State.on_canon | apply State.setHost_canon
        | apply setPowerState_canon)
    | split | (simp only [canon_mk_iff]; apply canon_parts)

theorem execSetFeatures_canon {c : CmdRef} (hs : Canon v q s) : Ends v q (execSetFeatures c s) := by
  unfold execSetFeatures
  repeat' first
    | (with_reducible assumption) | intro x
    | (extract_lets +onlyGivenNames t; first
        | (refine (fun (ht : Canon v q t) => ?_) ?_ <;> [clear_value t; (unfold t; clear t)])
        | clear_value t)
    | (with_reducible first
        | apply ends_next_canon | apply ite_ends | apply ite_canon | apply complete_canon | apply raise_canon
        | apply setFeature_canon)
    | split | (simp only [canon_mk_iff]; apply canon_parts)

theorem execGetFeatures_canon {c : CmdRef} (hs : Canon v q s) : Ends v q (execGetFeatures c s) := by
  unfold execGetFeatures
  repeat' first
    | (with_reducible assumption) | intro x
    | (extract_lets +onlyGivenNames t; first
        | (refine (fun (ht : Canon v q t) => ?_) ?_ <;> [clear_value t; (unfold t; clear t)])
        | clear_value t)
    | (with_reducible first
        | apply ends_next_canon | apply ite_ends | apply ite_canon | apply State.drawn_canon | apply complete_canon
        | apply raise_canon)
    | split | (simp only [canon_mk_iff]; apply canon_parts)

theorem execAsynchronousEventRequest_canon {c : CmdRef} (hs : Canon v q s) : Ends v q (execAsynchronousEventRequest c s) := by
  unfold execAsynchronousEventRequest
  repeat' first
    | (with_reducible assumption) | intro x
    | (with_reducible first | apply ends_next_canon | apply State.setHost_canon | apply complete_canon | apply raise_canon)
    | split | (simp only [canon_mk_iff]; apply canon_parts)

theorem execDeviceSelfTest_canon {c : CmdRef} (hs : Canon v q s) : Ends v q (execDeviceSelfTest c s) := by
  unfold execDeviceSelfTest
  repeat' first
    | (with_reducible assumption) | intro x
    | (with_reducible first | apply ends_next_canon | apply complete_canon | apply raise_canon)
    | split | (simp only [canon_mk_iff]; apply canon_parts)

theorem execKeepAlive_canon {c : CmdRef} (hs : Canon v q s) : Ends v q (execKeepAlive c s) := by
  unfold execKeepAlive
  repeat' first
    | (with_reducible assumption) | intro x
    | (with_reducible first | apply ends_next_canon | apply complete_canon | apply raise_canon)
    | split | (simp only [canon_mk_iff]; apply canon_parts)

end Sys2Proof.Machine
end

