-- ==== Sys2Proof/Laws/CanonModes.lean ====
section
/-! SUPPORT. What keeps the canonical form: the governor, the picks, the Sieve, boot, modes and temperature. One lemma per operation and per meaning. -/

namespace Sys2Proof.Machine

-- Elaborated one after another: the package as one text must fit the memory its check allows.
set_option Elab.async false

set_option linter.unusedTactic false
set_option linter.unreachableTactic false
set_option linter.unusedVariables false

variable {v : Variant} {q : List Instr} {s t : State} {r : Raiser}

/-! ### Machine/Governor -/

theorem requestRes_canon {h0 : Holder} (hr : RaisesCanon v q r) (hs : Canon v q s) : Canon v q (requestRes r s h0) := by
  unfold requestRes
  repeat' first
    | (with_reducible assumption) | intro x
    | (extract_lets +onlyGivenNames t; first
        | (refine (fun (ht : Canon v q t) => ?_) ?_ <;> [clear_value t; (unfold t; clear t)])
        | clear_value t)
    | (with_reducible first
        | apply ite_canon | apply regovern_canon | apply holdRes_canon | apply modeEvent_canon | apply makeRoom_canon
        | apply grantRun_canon | apply hr)
    | split | (simp only [canon_mk_iff]; apply canon_parts)

theorem releaseRes_canon {h0 : Holder} (hr : RaisesCanon v q r) (hs : Canon v q s) : Canon v q (releaseRes r s h0) := by
  unfold releaseRes
  repeat' first
    | (with_reducible assumption) | intro x
    | (extract_lets +onlyGivenNames t; first
        | (refine (fun (ht : Canon v q t) => ?_) ?_ <;> [clear_value t; (unfold t; clear t)])
        | clear_value t)
    | (with_reducible first
        | apply ite_canon | apply regovern_canon | apply unholdRes_canon | apply twinLeave_canon | apply regrantAll_canon
        | apply hr)
    | split | (simp only [canon_mk_iff]; apply canon_parts)

theorem execReservationRequest_canon {h0 : Holder} (hs : Canon v q s) : Ends v q (execReservationRequest h0 s) := by
  unfold execReservationRequest
  repeat' first
    | (with_reducible assumption) | intro x
    | (with_reducible first
        | apply ends_next_canon | apply ite_ends | apply ite_canon | apply raise_canon | apply requestRes_canon)
    | split | (simp only [canon_mk_iff]; apply canon_parts)

theorem execReservationRelease_canon {h0 : Holder} (hs : Canon v q s) : Ends v q (execReservationRelease h0 s) := by
  unfold execReservationRelease
  repeat' first
    | (with_reducible assumption) | intro x
    | (with_reducible first | apply ends_next_canon | apply raise_canon | apply releaseRes_canon)

theorem execSlotReleaseExpiry_canon {a : Act} (hs : Canon v q s) : Ends v q (execSlotReleaseExpiry a s) := by
  unfold execSlotReleaseExpiry
  repeat' first
    | (with_reducible assumption) | intro x
    | (with_reducible first
        | apply ends_next_canon | apply ite_ends | apply ite_canon | apply raise_canon | apply releaseRes_canon)
    | split

theorem envelopeWriteAct_canon (ht : Canon v q t) : Canon v q (envelopeWriteAct t) := by
  unfold envelopeWriteAct
  repeat' first
    | (with_reducible assumption) | intro x
    | (with_reducible first | apply reEnvelope_canon | apply raise_canon)

theorem execEnvelopeWrite_canon {m : Master} {w : Word} (hs : Canon v q s) : Ends v q (execEnvelopeWrite m w s) := by
  unfold execEnvelopeWrite
  repeat' first
    | (with_reducible assumption) | intro x
    | (with_reducible first | apply ends_next_canon | apply kwrite_canon | apply envelopeWriteAct_canon)

theorem execPowerMeasurement_canon {mw : BitVec 16} (hs : Canon v q s) : Ends v q (execPowerMeasurement mw s) := by
  unfold execPowerMeasurement
  repeat' first
    | (with_reducible assumption) | intro x
    | (extract_lets +onlyGivenNames t; first
        | (refine (fun (ht : Canon v q t) => ?_) ?_ <;> [clear_value t; (unfold t; clear t)])
        | clear_value t)
    | (with_reducible first
        | apply ends_next_canon | apply ite_ends | apply withdrawOne_getD_canon | apply ite_canon
        | refine withdrawOne_canon (by with_reducible assumption) ?_ ?_ | apply State.setN_canon | apply modeEvent_canon
        | apply raise_canon)
    | split | (simp only [canon_mk_iff]; apply canon_parts)

/-! ### Machine/Pick -/

theorem urgentEvents_canon {a : Nat} (hs : Canon v q s) : Canon v q (urgentEvents s a) := by
  unfold urgentEvents
  repeat' first
    | (with_reducible assumption) | intro x
    | (extract_lets +onlyGivenNames t; first
        | (refine (fun (ht : Canon v q t) => ?_) ?_ <;> [clear_value t; (unfold t; clear t)])
        | clear_value t)
    | (with_reducible first | apply ite_canon | apply foldl_canon | apply State.setPick_canon | apply raise_canon)
    | split | (simp only [canon_mk_iff]; apply canon_parts)

theorem notStarted_canon {a cause writeCause : Nat} {d : Desc} (hs : Canon v q s) : Canon v q
    (notStarted s a cause writeCause d) := by
  unfold notStarted
  repeat' first
    | (with_reducible assumption) | intro x
    | (extract_lets +onlyGivenNames t; first
        | (refine (fun (ht : Canon v q t) => ?_) ?_ <;> [clear_value t; (unfold t; clear t)])
        | clear_value t)
    | (with_reducible first
        | apply ite_canon | apply State.setWr_canon | apply State.setPick_canon | apply endPart_canon | apply raise_canon)
    | split | (simp only [canon_mk_iff]; apply canon_parts)

theorem enterTwin_canon {a : Nat} {d : Desc} (hs : Canon v q s) : Canon v q (enterTwin s a d) := by
  unfold enterTwin
  repeat' first
    | (with_reducible assumption) | intro x
    | (extract_lets +onlyGivenNames t; first
        | (refine (fun (ht : Canon v q t) => ?_) ?_ <;> [clear_value t; (unfold t; clear t)])
        | clear_value t)
    | (with_reducible first
        | apply State.setN_canon | apply State.setB_canon | apply State.inc_canon | apply State.setBitOf_canon
        | apply State.setAct_canon | apply actEvent_canon | apply raise_canon)
    | (simp only [canon_mk_iff]; apply canon_parts)

theorem startGroup_canon {j : Nat} {d : Desc} (hs : Canon v q s) : Canon v q (startGroup s j d) := by
  unfold startGroup
  repeat' first
    | (with_reducible assumption) | intro x
    | (with_reducible first | apply ite_canon | apply State.setN_canon | apply State.inc_canon)
    | split | (simp only [canon_mk_iff]; apply canon_parts)

theorem startSerial_canon {a n m why : Nat} {d : Desc} (hs : Canon v q s) : Canon v q (startSerial s a n m why d) := by
  unfold startSerial
  repeat' first
    | (with_reducible assumption) | intro x
    | (extract_lets +onlyGivenNames t; first
        | (refine (fun (ht : Canon v q t) => ?_) ?_ <;> [clear_value t; (unfold t; clear t)])
        | clear_value t)
    | (with_reducible first | apply State.inc_canon | apply actEvent_canon | apply raise_canon | apply startPart_canon)

theorem begin__canon {a : Nat} {d : Desc} (hs : Canon v q s) : Canon v q (begin_ s a d) := by
  unfold begin_
  repeat' first
    | (with_reducible assumption) | intro x
    | (extract_lets +onlyGivenNames t; first
        | (refine (fun (ht : Canon v q t) => ?_) ?_ <;> [clear_value t; (unfold t; clear t)])
        | clear_value t)
    | (with_reducible first
        | apply ite_canon | apply raise_canon | apply startPart_canon | apply requestRes_canon | apply notStarted_canon
        | apply enterTwin_canon | apply startGroup_canon | apply startSerial_canon)
    | split | (simp only [canon_mk_iff]; apply canon_parts)

theorem admitPool_canon {a : Nat} (hs : Canon v q s) : Canon v q (admitPool s a) := by
  unfold admitPool
  repeat' first
    | (with_reducible assumption) | intro x
    | (extract_lets +onlyGivenNames t; first
        | (refine (fun (ht : Canon v q t) => ?_) ?_ <;> [clear_value t; (unfold t; clear t)])
        | clear_value t)
    | (with_reducible first | apply State.setPick_canon)
    | (simp only [canon_mk_iff]; apply canon_parts)

theorem onePick_canon {a : Nat} (hs : Canon v q s) : Canon v q (onePick s a) := by
  unfold onePick
  repeat' first
    | (with_reducible assumption) | intro x
    | (extract_lets +onlyGivenNames t; first
        | (refine (fun (ht : Canon v q t) => ?_) ?_ <;> [clear_value t; (unfold t; clear t)])
        | clear_value t)
    | (with_reducible first
        | apply State.inc_canon | apply State.setPick_canon | apply State.on_canon | apply urgentEvents_canon
        | apply begin__canon)
    | split | (simp only [canon_mk_iff]; apply canon_parts)

theorem execDescriptorPick_canon {a : Act} {fresh : List Desc} (hs : Canon v q s) : Ends v q (execDescriptorPick a fresh s)
    := by
  unfold execDescriptorPick
  repeat' first
    | (with_reducible assumption) | intro x
    | (extract_lets +onlyGivenNames t; first
        | (refine (fun (ht : Canon v q t) => ?_) ?_ <;> [clear_value t; (unfold t; clear t)])
        | clear_value t)
    | (with_reducible first
        | apply ends_next_canon | apply ite_ends | apply ite_canon | apply boundaryIn_canon | apply twinSettle_canon
        | apply raise_canon | apply postFresh_canon | apply admitPool_canon | apply onePick_canon)
    | split

/-! ### Machine/Sieve -/

theorem sieveWork_canon {c : CmdRef} {ns : Nat} {f : CmdEnt → State} (hs : Canon v q s) (hf : ∀ e, Canon v q (f e))
    : Canon v q (sieveWork s c ns f) := by
  unfold sieveWork
  repeat' first
    | (with_reducible assumption) | intro x
    | (with_reducible first | apply ite_canon | apply complete_canon | apply raise_canon | apply hf)
    | split | (simp only [canon_mk_iff]; apply canon_parts)

theorem sieveAdmin_canon {c : CmdRef} {op : Nat} {f : CmdEnt → State} (hs : Canon v q s) (hf : ∀ e, Canon v q (f e))
    : Canon v q (sieveAdmin s c op f) := by
  unfold sieveAdmin
  repeat' first
    | (with_reducible assumption) | intro x
    | (with_reducible first | apply hf)
    | split | (simp only [canon_mk_iff]; apply canon_parts)

theorem sieveInvalid_canon {e : CmdEnt} (hs : Canon v q s) : Canon v q (sieveInvalid s e) := by
  unfold sieveInvalid
  repeat' first
    | (with_reducible assumption) | intro x
    | (with_reducible first | apply complete_canon | apply raise_canon)

theorem sieveRefused_canon {e : CmdEnt} (hs : Canon v q s) : Canon v q (sieveRefused s e) := by
  unfold sieveRefused
  repeat' first
    | (with_reducible assumption) | intro x
    | (with_reducible first | apply State.drawn_canon | apply complete_canon | apply raise_canon)

theorem acceptProgram_canon {slot : Nat} {i : ProgImage} (hs : Canon v q s) : Canon v q (acceptProgram s slot i) := by
  unfold acceptProgram
  repeat' first
    | (with_reducible assumption) | intro x
    | (extract_lets +onlyGivenNames t; first
        | (refine (fun (ht : Canon v q t) => ?_) ?_ <;> [clear_value t; (unfold t; clear t)])
        | clear_value t)
    | (with_reducible first
        | apply ite_canon | apply id_canon | apply State.setN_canon | apply State.store_canon | apply sieveEvent_canon
        | apply raise_canon | apply measure_canon)
    | split | (simp only [canon_mk_iff]; apply canon_parts)

theorem rejectProgram_canon {slot cause : Nat} (hs : Canon v q s) : Canon v q (rejectProgram s slot cause) := by
  unfold rejectProgram
  repeat' first
    | (with_reducible assumption) | intro x
    | (with_reducible first | apply State.inc_canon | apply raise_canon)
    | (simp only [canon_mk_iff]; apply canon_parts)

theorem execLoadProgram_canon {c : CmdRef} {slot : BitVec 4} {img : ProgImage} (hs : Canon v q s) : Ends v q
    (execLoadProgram c slot img s) := by
  unfold execLoadProgram
  repeat' first
    | (with_reducible assumption) | intro x
    | (with_reducible first
        | apply ends_next_canon | apply ite_ends | apply ite_canon | apply complete_canon | apply raise_canon
        | apply sieveAdmin_canon | apply sieveInvalid_canon | apply sieveRefused_canon | apply acceptProgram_canon
        | apply rejectProgram_canon)
    | split | (simp only [canon_mk_iff]; apply canon_parts)

theorem execProgramActivationManagement_canon {c : CmdRef} {slot : BitVec 4} {activate : Bool} (hs : Canon v q s) : Ends v q
    (execProgramActivationManagement c slot activate s) := by
  unfold execProgramActivationManagement
  repeat' first
    | (with_reducible assumption) | intro x
    | (with_reducible first
        | apply ends_next_canon | apply ite_ends | apply ite_canon | apply State.setBitOf_canon | apply complete_canon
        | apply raise_canon | apply sieveAdmin_canon | apply sieveInvalid_canon | apply sieveRefused_canon)
    | split

theorem putSets_canon {m : Sp (List (Nat × Nat))} (hs : Canon v q s) : Canon v q (putSets s m) := by
  unfold putSets
  repeat' first
    | (with_reducible assumption) | intro x
    | (simp only [canon_mk_iff]; apply canon_parts)

theorem execMemoryRangeSetManagement_canon {c : CmdRef} {create : Bool} {set : BitVec 4} {ranges : List
    (BitVec 32 × BitVec 32)} (hs : Canon v q s) : Ends v q (execMemoryRangeSetManagement c create set ranges s) := by
  unfold execMemoryRangeSetManagement
  repeat' first
    | (with_reducible assumption) | intro x
    | (with_reducible first
        | apply ends_next_canon | apply ite_ends | apply ite_canon | apply complete_canon | apply raise_canon
        | apply sieveAdmin_canon | apply sieveInvalid_canon | apply sieveRefused_canon | apply putSets_canon)
    | split | (simp only [canon_mk_iff]; apply canon_parts)

theorem beginRun_canon {n : Nat} {x : Run} (hs : Canon v q s) : Canon v q (beginRun s n x) := by
  unfold beginRun
  repeat' first
    | (with_reducible assumption) | intro x
    | (extract_lets +onlyGivenNames t; first
        | (refine (fun (ht : Canon v q t) => ?_) ?_ <;> [clear_value t; (unfold t; clear t)])
        | clear_value t)
    | (with_reducible first
        | apply State.setN_canon | apply State.setSieveEng_canon | apply raise_canon | apply requestRes_canon)
    | (simp only [canon_mk_iff]; apply canon_parts)

theorem placeRunsFuel_canon {fuel : Nat} (hs : Canon v q s) : Canon v q (placeRunsFuel s fuel) := by
  induction fuel generalizing s with
  | zero => exact hs
  | succ n ih =>
    unfold placeRunsFuel
    repeat' first
      | (with_reducible assumption) | intro x
      | (extract_lets +onlyGivenNames t; first
          | (refine (fun (ht : Canon v q t) => ?_) ?_ <;> [clear_value t; (unfold t; clear t)])
          | clear_value t)
      | (with_reducible first | apply ih | apply beginRun_canon)
      | split | (simp only [canon_mk_iff]; apply canon_parts)

theorem placeRuns_canon (hs : Canon v q s) : Canon v q (placeRuns s) := by
  unfold placeRuns
  repeat' first
    | (with_reducible assumption) | intro x
    | (with_reducible first | apply ite_canon | apply placeRunsFuel_canon)
    | split

theorem afterRun_canon (hs : Canon v q s) : Canon v q (afterRun s) := by
  unfold afterRun
  repeat' first
    | (with_reducible assumption) | intro x
    | (with_reducible first | apply regrantAll_canon | apply raise_canon | apply placeRuns_canon)

theorem execExecuteProgram_canon {c : CmdRef} {slot : BitVec 4} {set : BitVec 4} {cparam1 cparam2 : Word} (hs : Canon v q s)
    : Ends v q (execExecuteProgram c slot set cparam1 cparam2 s) := by
  unfold execExecuteProgram
  repeat' first
    | (with_reducible assumption) | intro x
    | (with_reducible first
        | apply ends_next_canon | apply ite_ends | apply ite_canon | apply sieveWork_canon | apply sieveInvalid_canon
        | apply placeRuns_canon)
    | split | (simp only [canon_mk_iff]; apply canon_parts)

theorem fwStartAct_canon {n : Nat} (ht : Canon v q t) : Canon v q (fwStartAct n t) := by
  unfold fwStartAct
  repeat' first
    | (with_reducible assumption) | intro x
    | (extract_lets +onlyGivenNames t; first
        | (refine (fun (ht : Canon v q t) => ?_) ?_ <;> [clear_value t; (unfold t; clear t)])
        | clear_value t)
    | (with_reducible first | apply ite_canon | apply beginRun_canon)
    | split | (simp only [canon_mk_iff]; apply canon_parts)

theorem execFwStart_canon {m : Master} {n : Fin 8} {w : Word} (hs : Canon v q s) : Ends v q (execFwStart m n w s) := by
  unfold execFwStart
  repeat' first
    | (with_reducible assumption) | intro x
    | (with_reducible first | apply ends_next_canon | apply kwrite_canon | apply fwStartAct_canon)

theorem runEnds_canon {n code result status : Nat} (hs : Canon v q s) : Canon v q (runEnds s n code result status) := by
  unfold runEnds
  repeat' first
    | (with_reducible assumption) | intro x
    | (extract_lets +onlyGivenNames t; first
        | (refine (fun (ht : Canon v q t) => ?_) ?_ <;> [clear_value t; (unfold t; clear t)])
        | clear_value t)
    | (with_reducible first | apply regovern_canon | apply endRun_canon | apply raise_canon)
    | (simp only [canon_mk_iff]; apply canon_parts)

theorem fwStopAct_canon {n : Nat} (ht : Canon v q t) : Canon v q (fwStopAct n t) := by
  unfold fwStopAct
  repeat' first
    | (with_reducible assumption) | intro x
    | (with_reducible first | apply ite_canon | apply afterRun_canon | apply runEnds_canon)
    | split | (simp only [canon_mk_iff]; apply canon_parts)

theorem execFwStop_canon {m : Master} {n : Fin 8} {w : Word} (hs : Canon v q s) : Ends v q (execFwStop m n w s) := by
  unfold execFwStop
  repeat' first
    | (with_reducible assumption) | intro x
    | (with_reducible first | apply ends_next_canon | apply kwrite_canon | apply fwStopAct_canon)

theorem deviceOutput_canon {x : Run} (hs : Canon v q s) : Canon v q ((deviceOutput s x)).1 := by
  unfold deviceOutput
  repeat' first
    | (with_reducible assumption) | intro x
    | (extract_lets +onlyGivenNames t; first
        | (refine (fun (ht : Canon v q t) => ?_) ?_ <;> [clear_value t; (unfold t; clear t)])
        | clear_value t)
    | (with_reducible first | apply ite_canon | apply foldl_canon | apply State.store_canon)
    | split | dsimp only

theorem deviceOutput_canon_eq {x : Run} {t : State} {x2 : Nat} (he : deviceOutput s x = (t, x2)) (hs : Canon v q s)
    : Canon v q t := by
  have h0 := deviceOutput_canon (s := s) (x := x) hs
  rw [he] at h0; exact h0

theorem faultRun_canon {n mcause pc addr : Nat} (hs : Canon v q s) : Canon v q (faultRun s n mcause pc addr) := by
  unfold faultRun
  repeat' first
    | (with_reducible assumption) | intro x
    | (extract_lets +onlyGivenNames t; first
        | (refine (fun (ht : Canon v q t) => ?_) ?_ <;> [clear_value t; (unfold t; clear t)])
        | clear_value t)
    | (with_reducible first
        | apply State.setN_canon | apply State.inc_canon | apply sieveEvent_canon | apply raise_canon | apply afterRun_canon
        | apply runEnds_canon)

theorem ownFault_canon {n mcause : Nat} (hs : Canon v q s) : Canon v q (ownFault s n mcause) := by
  unfold ownFault
  repeat' first
    | (with_reducible assumption) | intro x
    | (with_reducible first | apply faultRun_canon)
    | (simp only [canon_mk_iff]; apply canon_parts)

theorem execProgramStart_canon {n : Fin 8} (hs : Canon v q s) : Ends v q (execProgramStart n s) := by
  unfold execProgramStart
  repeat' first
    | (with_reducible assumption) | intro x
    | (extract_lets +onlyGivenNames t; first
        | (refine (fun (ht : Canon v q t) => ?_) ?_ <;> [clear_value t; (unfold t; clear t)])
        | clear_value t)
    | (with_reducible first
        | apply ends_next_canon | apply ite_ends | apply ite_canon | apply State.setN_canon | apply State.inc_canon
        | apply State.store_canon | apply State.setSieveEng_canon | apply sieveEvent_canon | apply raise_canon
        | apply clearBytes_canon | apply ownFault_canon)
    | split | (simp only [canon_mk_iff]; apply canon_parts)

theorem execEcallExit_canon {n : Fin 8} {a0 : BitVec 32} {runUs : BitVec 32} (hs : Canon v q s) : Ends v q
    (execEcallExit n a0 runUs s) := by
  unfold execEcallExit
  repeat' first
    | (with_reducible assumption) | intro x
    | (extract_lets +onlyGivenNames t; first
        | (refine (fun (ht : Canon v q t) => ?_) ?_ <;> [clear_value t; (unfold t; clear t)])
        | clear_value t)
    | (with_reducible first
        | apply ends_next_canon | apply ite_ends | apply ite_canon
        | refine deviceOutput_canon_eq (by with_reducible assumption) ?_ | apply State.setN_canon | apply sieveEvent_canon
        | apply raise_canon | apply afterRun_canon | apply runEnds_canon | apply deviceOutput_canon)
    | split | (simp only [canon_mk_iff]; apply canon_parts)

theorem execEcallPop_canon {n : Fin 8} {a0 : BitVec 18} (hs : Canon v q s) : Ends v q (execEcallPop n a0 s) := by
  unfold execEcallPop
  repeat' first
    | (with_reducible assumption) | intro x
    | (extract_lets +onlyGivenNames t; first
        | (refine (fun (ht : Canon v q t) => ?_) ?_ <;> [clear_value t; (unfold t; clear t)])
        | clear_value t)
    | (with_reducible first
        | apply ends_next_canon | apply ite_ends | apply ite_canon
        | refine pantryPop_canon_eq (by with_reducible assumption) ?_ ?_ | apply State.store_canon
        | apply State.deliver_canon | apply pantryPop_canon | apply raise_canon | apply ownFault_canon)
    | split | (simp only [canon_mk_iff]; apply canon_parts)

theorem execEcallPush_canon {n : Fin 8} {a0 : BitVec 18} {tag : BitVec 16} (hs : Canon v q s) : Ends v q
    (execEcallPush n a0 tag s) := by
  unfold execEcallPush
  repeat' first
    | (with_reducible assumption) | intro x
    | (extract_lets +onlyGivenNames t; first
        | (refine (fun (ht : Canon v q t) => ?_) ?_ <;> [clear_value t; (unfold t; clear t)])
        | clear_value t)
    | (with_reducible first
        | apply ends_next_canon | apply ite_ends | apply ite_canon | apply pantryPush_canon | apply raise_canon
        | apply ownFault_canon)
    | split | (simp only [canon_mk_iff]; apply canon_parts)

theorem execProgramFault_canon {n : Fin 8} {mcause : BitVec 32} {pc : Word} {addr : Addr} (hs : Canon v q s) : Ends v q
    (execProgramFault n mcause pc addr s) := by
  unfold execProgramFault
  repeat' first
    | (with_reducible assumption) | intro x
    | (with_reducible first | apply ends_next_canon | apply ite_ends | apply ite_canon | apply faultRun_canon)
    | split

theorem execExecTimeout_canon {n : Fin 8} {pc : Word} (hs : Canon v q s) : Ends v q (execExecTimeout n pc s) := by
  unfold execExecTimeout
  repeat' first
    | (with_reducible assumption) | intro x
    | (with_reducible first
        | apply ends_next_canon | apply State.inc_canon | apply sieveEvent_canon | apply raise_canon | apply afterRun_canon
        | apply runEnds_canon)
    | split | (simp only [canon_mk_iff]; apply canon_parts)

theorem execGrantWaitExpiry_canon {n : Fin 8} (hs : Canon v q s) : Ends v q (execGrantWaitExpiry n s) := by
  unfold execGrantWaitExpiry
  repeat' first
    | (with_reducible assumption) | intro x
    | (extract_lets +onlyGivenNames t; first
        | (refine (fun (ht : Canon v q t) => ?_) ?_ <;> [clear_value t; (unfold t; clear t)])
        | clear_value t)
    | (with_reducible first
        | apply ends_next_canon | apply ite_ends | apply ite_canon | apply sieveEvent_canon | apply raise_canon
        | apply afterRun_canon | apply runEnds_canon)
    | split | (simp only [canon_mk_iff]; apply canon_parts)

theorem execPauseLimitExpiry_canon {n : Fin 8} (hs : Canon v q s) : Ends v q (execPauseLimitExpiry n s) := by
  unfold execPauseLimitExpiry
  repeat' first
    | (with_reducible assumption) | intro x
    | (with_reducible first
        | apply ends_next_canon | apply ite_ends | apply ite_canon | apply withdrawRun_canon | apply raise_canon
        | apply afterRun_canon)
    | split | (simp only [canon_mk_iff]; apply canon_parts)

theorem execSlmRead_canon {c : CmdRef} {offset len : BitVec 32} (hs : Canon v q s) : Ends v q (execSlmRead c offset len s) := by
  unfold execSlmRead
  repeat' first
    | (with_reducible assumption) | intro x
    | (with_reducible first
        | apply ends_next_canon | apply ite_ends | apply ite_canon | apply returnData_canon | apply complete_canon
        | apply raise_canon | apply sieveWork_canon | apply sieveInvalid_canon)
    | split

theorem execSlmWrite_canon {c : CmdRef} {offset : BitVec 32} {data : List Byte} (hs : Canon v q s) : Ends v q
    (execSlmWrite c offset data s) := by
  unfold execSlmWrite
  repeat' first
    | (with_reducible assumption) | intro x
    | (with_reducible first
        | apply ends_next_canon | apply ite_ends | apply ite_canon | apply State.store_canon | apply complete_canon
        | apply raise_canon | apply sieveWork_canon | apply sieveInvalid_canon)
    | split

theorem execMemoryCopy_canon {c : CmdRef} {dest : BitVec 32} (hs : Canon v q s) : Ends v q (execMemoryCopy c dest s) := by
  unfold execMemoryCopy
  repeat' first
    | (with_reducible assumption) | intro x
    | (extract_lets +onlyGivenNames t; first
        | (refine (fun (ht : Canon v q t) => ?_) ?_ <;> [clear_value t; (unfold t; clear t)])
        | clear_value t)
    | (with_reducible first
        | apply ends_next_canon | apply ite_ends | apply ite_canon | apply State.store_canon | apply answerBad_canon
        | apply complete_canon | apply raise_canon | apply sieveWork_canon | apply sieveInvalid_canon)
    | split | (simp only [canon_mk_iff]; apply canon_parts)

/-! ### Machine/Boot -/

theorem afterReset_canon {warm : Bool} (hs : Canon v q s) : Canon v q (afterReset s warm) := by
  unfold afterReset
  repeat' first
    | (with_reducible assumption) | intro x
    | exact ⟨hs.variant, hs.pending, rfl, dictWf_filter _ _ hs.dict, rfl⟩
    | (with_reducible first | apply ite_canon | apply State.store_canon)
    | split | (simp only [canon_mk_iff]; apply canon_parts)

theorem followKept_canon (hs : Canon v q s) : Canon v q (followKept s) := by
  unfold followKept
  repeat' first
    | (with_reducible assumption) | intro x
    | (extract_lets +onlyGivenNames t; first
        | (refine (fun (ht : Canon v q t) => ?_) ?_ <;> [clear_value t; (unfold t; clear t)])
        | clear_value t)
    | (with_reducible first | apply foldl_canon | apply State.setN_canon | apply raiseBase_canon | apply regovern_canon)

theorem dropLocks_canon (hs : Canon v q s) : Canon v q (dropLocks s) := by
  unfold dropLocks
  repeat' first
    | (with_reducible assumption) | intro x
    | (with_reducible first | apply foldl_canon | apply releaseLocks_canon | apply raise_canon)

theorem warmReset_canon {cause ms : Nat} (hs : Canon v q s) : Canon v q (warmReset s cause ms) := by
  unfold warmReset
  repeat' first
    | (with_reducible assumption) | intro x
    | (extract_lets +onlyGivenNames t; first
        | (refine (fun (ht : Canon v q t) => ?_) ?_ <;> [clear_value t; (unfold t; clear t)])
        | clear_value t)
    | (with_reducible first
        | apply ite_canon | apply State.setN_canon | apply State.inc_canon | apply State.on_canon | apply afterReset_canon
        | apply followKept_canon | apply dropLocks_canon)
    | split | (simp only [canon_mk_iff]; apply canon_parts)

theorem execPowerOnReset_canon {byRstL : Bool} (hs : Canon v q s) : Ends v q (execPowerOnReset byRstL s) := by
  unfold execPowerOnReset
  repeat' first
    | (with_reducible assumption) | intro x
    | (with_reducible first | apply ends_next_canon | apply State.setN_canon | apply afterReset_canon)

theorem execWarmReset_canon {cause : WarmCause} (hs : Canon v q s) : Ends v q (execWarmReset cause s) := by
  unfold execWarmReset
  repeat' first
    | (with_reducible assumption) | intro x
    | (with_reducible first | apply ends_next_canon | apply ite_ends | apply ite_canon | apply warmReset_canon)
    | split | (simp only [canon_mk_iff]; apply canon_parts)

theorem safeRestartAct_canon (ht : Canon v q t) : Canon v q (safeRestartAct t) := by
  unfold safeRestartAct
  repeat' first
    | (with_reducible assumption) | intro x
    | (with_reducible first | apply ite_canon | apply warmReset_canon)
    | split | (simp only [canon_mk_iff]; apply canon_parts)

theorem execSafeRestart_canon {m : Master} {w : Word} (hs : Canon v q s) : Ends v q (execSafeRestart m w s) := by
  unfold execSafeRestart
  repeat' first
    | (with_reducible assumption) | intro x
    | (with_reducible first | apply ends_next_canon | apply kwrite_canon | apply safeRestartAct_canon)

theorem execTripRecovery_canon {ms : BitVec 32} (hs : Canon v q s) : Ends v q (execTripRecovery ms s) := by
  unfold execTripRecovery
  repeat' first
    | (with_reducible assumption) | intro x
    | (with_reducible first | apply ends_next_canon | apply ite_ends | apply ite_canon | apply warmReset_canon)
    | split

theorem checkerResult_canon {b : Nat} {ok : Bool} (hs : Canon v q s) : Canon v q (checkerResult s b ok) := by
  unfold checkerResult
  repeat' first
    | (with_reducible assumption) | intro x
    | (extract_lets +onlyGivenNames t; first
        | (refine (fun (ht : Canon v q t) => ?_) ?_ <;> [clear_value t; (unfold t; clear t)])
        | clear_value t)
    | (with_reducible first
        | apply ite_canon | apply State.setN_canon | apply State.setB_canon | apply State.setBitOf_canon
        | apply State.drawn_canon | apply raise_canon | apply safeNow_canon | apply memEventFree_canon)
    | split | (simp only [canon_mk_iff]; apply canon_parts)

theorem tryImages_canon {i : BootIn} {l : List Nat} (hs : Canon v q s) : Canon v q ((tryImages s i l)).1 := by
  induction l generalizing s i with
  | nil => exact hs
  | cons a r ih =>
    unfold tryImages
    repeat' first
      | (with_reducible assumption) | intro x
      | (extract_lets +onlyGivenNames t; first
          | (refine (fun (ht : Canon v q t) => ?_) ?_ <;> [clear_value t; (unfold t; clear t)])
          | clear_value t)
      | (with_reducible first
          | apply ih | refine canon_proj_eq (by with_reducible assumption) ?_ | apply ite_canon | apply State.inc_canon
          | apply State.drawn_canon | apply srEvent_canon)
      | split | dsimp only | (simp only [canon_mk_iff]; apply canon_parts)

theorem tryImages_canon_eq {i : BootIn} {l : List Nat} {t : State} {x2 : Option Nat} {x3 : Option Bool} (he
    : tryImages s i l = (t, x2, x3)) (hs : Canon v q s) : Canon v q t := by
  have h0 := tryImages_canon (s := s) (i := i) (l := l) hs
  rw [he] at h0; exact h0

theorem noImage_canon (hs : Canon v q s) : Canon v q (noImage s) := by
  unfold noImage
  repeat' first
    | (with_reducible assumption) | intro x
    | (with_reducible first | apply State.setN_canon)

theorem bringUp_canon {d : Nat} (hs : Canon v q s) : Canon v q (bringUp s d) := by
  unfold bringUp
  repeat' first
    | (with_reducible assumption) | intro x
    | (with_reducible first | apply State.setN_canon | apply domainGo_canon)

theorem releaseCore_canon {i : BootIn} {slot : Nat} (hs : Canon v q s) : Canon v q (releaseCore s i slot) := by
  unfold releaseCore
  repeat' first
    | (with_reducible assumption) | intro x
    | (extract_lets +onlyGivenNames t; first
        | (refine (fun (ht : Canon v q t) => ?_) ?_ <;> [clear_value t; (unfold t; clear t)])
        | clear_value t)
    | (with_reducible first
        | apply foldl_canon | apply State.setN_canon | apply measure_canon | apply loadImage_canon | apply bringUp_canon)
    | (simp only [canon_mk_iff]; apply canon_parts)

theorem reloadPrograms_canon (hs : Canon v q s) : Canon v q (reloadPrograms s) := by
  unfold reloadPrograms
  repeat' first
    | (with_reducible assumption) | intro x
    | (with_reducible first
        | apply foldl_canon | apply State.store_canon | apply acceptProgram_canon | apply rejectProgram_canon)
    | split | (simp only [canon_mk_iff]; apply canon_parts)

theorem chooseImage_canon {i : BootIn} (hs : Canon v q s) : Canon v q (chooseImage s i) := by
  unfold chooseImage
  repeat' first
    | (with_reducible assumption) | intro x
    | (extract_lets +onlyGivenNames t; first
        | (refine (fun (ht : Canon v q t) => ?_) ?_ <;> [clear_value t; (unfold t; clear t)])
        | clear_value t)
    | (with_reducible first
        | apply ite_canon | refine tryImages_canon_eq (by with_reducible assumption) ?_ | apply State.setN_canon
        | apply State.inc_canon | apply srEvent_canon | apply showRecord_canon | apply tryImages_canon | apply noImage_canon
        | apply releaseCore_canon)
    | split | (simp only [canon_mk_iff]; apply canon_parts)

theorem rejectStage_canon (hs : Canon v q s) : Canon v q (rejectStage s) := by
  unfold rejectStage
  repeat' first
    | (with_reducible assumption) | intro x
    | (with_reducible first | apply State.inc_canon | apply State.drawn_canon | apply srEvent_canon)

theorem firstStage_canon {i : BootIn} (hs : Canon v q s) : Canon v q (firstStage s i) := by
  unfold firstStage
  repeat' first
    | (with_reducible assumption) | intro x
    | (extract_lets +onlyGivenNames t; first
        | (refine (fun (ht : Canon v q t) => ?_) ?_ <;> [clear_value t; (unfold t; clear t)])
        | clear_value t)
    | (with_reducible first
        | apply ite_canon | apply State.setN_canon | apply measure_canon | apply noImage_canon | apply chooseImage_canon
        | apply rejectStage_canon)
    | split | (simp only [canon_mk_iff]; apply canon_parts)

theorem lockRanges_canon (hs : Canon v q s) : Canon v q (lockRanges s) := by
  unfold lockRanges
  repeat' first
    | (with_reducible assumption) | intro x
    | (extract_lets +onlyGivenNames t; first
        | (refine (fun (ht : Canon v q t) => ?_) ?_ <;> [clear_value t; (unfold t; clear t)])
        | clear_value t)
    | (with_reducible first | apply ite_canon | apply foldl_canon | apply State.setN_canon)
    | split | (simp only [canon_mk_iff]; apply canon_parts)

theorem bootStart_canon {i : BootIn} (hs : Canon v q s) : Canon v q (bootStart s i) := by
  unfold bootStart
  repeat' first
    | (with_reducible assumption) | intro x
    | (extract_lets +onlyGivenNames t; first
        | (refine (fun (ht : Canon v q t) => ?_) ?_ <;> [clear_value t; (unfold t; clear t)])
        | clear_value t)
    | (with_reducible first
        | apply ite_canon | apply foldl_canon | apply State.setN_canon | apply State.setBitOf_canon | apply State.drawn_canon
        | apply sysRecord_canon | apply modeEvent_canon | apply raise_canon | apply checkerResult_canon)
    | split | (simp only [canon_mk_iff]; apply canon_parts)

theorem execBootEntry_canon {i : BootIn} (hs : Canon v q s) : Ends v q (execBootEntry i s) := by
  unfold execBootEntry
  repeat' first
    | (with_reducible assumption) | intro x
    | (extract_lets +onlyGivenNames t; first
        | (refine (fun (ht : Canon v q t) => ?_) ?_ <;> [clear_value t; (unfold t; clear t)])
        | clear_value t)
    | (with_reducible first
        | apply ends_next_canon | apply ite_ends | apply ite_canon | apply foldl_canon | apply State.setN_canon
        | apply State.on_canon | apply srEvent_canon | apply showStore_canon | apply showRecord_canon
        | apply reloadPrograms_canon | apply firstStage_canon | apply lockRanges_canon | apply bootStart_canon)
    | split

/-! ### Machine/Modes -/

theorem pwrWrite_canon {k : Key} {n : Nat} (hs : Canon v q s) : Canon v q (pwrWrite s k n) := by
  unfold pwrWrite
  repeat' first
    | (with_reducible assumption) | intro x
    | (with_reducible first | apply storeObj_canon)
    | split | (simp only [canon_mk_iff]; apply canon_parts)

theorem execMgmtRequestWrite_canon {m : Master} {w : Word} (hs : Canon v q s) : Ends v q (execMgmtRequestWrite m w s) := by
  unfold execMgmtRequestWrite
  repeat' first
    | (with_reducible assumption) | intro x
    | (with_reducible first | apply ends_next_canon | apply id_canon | apply kwrite_canon)

theorem preSets_canon {mode : Nat} (hs : Canon v q s) : Canon v q (preSets s mode) := by
  unfold preSets
  repeat' first
    | (with_reducible assumption) | intro x
    | (with_reducible first | apply State.setN_canon | apply applySets_canon)

theorem withdrawBoth_canon (hs : Canon v q s) : Canon v q (withdrawBoth s) := by
  unfold withdrawBoth
  repeat' first
    | (with_reducible assumption) | intro x
    | (with_reducible first
        | apply ite_canon | apply foldl_canon | apply State.drawn_canon | apply withdrawSlotB_canon | apply raise_canon)
    | split | (simp only [canon_mk_iff]; apply canon_parts)

theorem spinDown_canon (hs : Canon v q s) : Canon v q (spinDown s) := by
  unfold spinDown
  repeat' first
    | (with_reducible assumption) | intro x
    | (extract_lets +onlyGivenNames t; first
        | (refine (fun (ht : Canon v q t) => ?_) ?_ <;> [clear_value t; (unfold t; clear t)])
        | clear_value t)
    | (with_reducible first | apply ite_canon | apply flushAsk_canon | apply spinAct_canon | apply pwrWrite_canon)
    | split | (simp only [canon_mk_iff]; apply canon_parts)

theorem loadBoth_canon (hs : Canon v q s) : Canon v q (loadBoth s) := by
  unfold loadBoth
  repeat' first
    | (with_reducible assumption) | intro x
    | (extract_lets +onlyGivenNames t; first
        | (refine (fun (ht : Canon v q t) => ?_) ?_ <;> [clear_value t; (unfold t; clear t)])
        | clear_value t)
    | (with_reducible first | apply ite_canon | apply foldl_canon | apply loadNow_canon)
    | split | (simp only [canon_mk_iff]; apply canon_parts)

theorem rowProgress_canon (hs : Canon v q s) : Canon v q (rowProgress s) := by
  unfold rowProgress
  repeat' first
    | (with_reducible assumption) | intro x
    | (with_reducible first | apply ite_canon | apply spinDown_canon | apply loadBoth_canon)
    | split | (simp only [canon_mk_iff]; apply canon_parts)

theorem rowAction_canon {row : Nat} (hs : Canon v q s) : Canon v q (rowAction s row) := by
  unfold rowAction
  repeat' first
    | (with_reducible assumption) | intro x
    | (extract_lets +onlyGivenNames t; first
        | (refine (fun (ht : Canon v q t) => ?_) ?_ <;> [clear_value t; (unfold t; clear t)])
        | clear_value t)
    | (with_reducible first
        | apply ite_canon | apply foldl_canon | apply State.on_canon | apply unloadNow_canon | apply flushAsk_canon
        | apply pauseEngines_canon | apply raise_canon | apply spinAct_canon | apply pwrWrite_canon | apply preSets_canon
        | apply withdrawBoth_canon)
    | split | (simp only [canon_mk_iff]; apply canon_parts)

theorem startRow_canon {row : Nat} (hs : Canon v q s) : Canon v q (startRow s row) := by
  unfold startRow
  repeat' first
    | (with_reducible assumption) | intro x
    | (with_reducible first | apply rowAction_canon)
    | (simp only [canon_mk_iff]; apply canon_parts)

theorem endRow_canon {row : Nat} (hs : Canon v q s) : Canon v q (endRow s row) := by
  unfold endRow
  repeat' first
    | (with_reducible assumption) | intro x
    | (extract_lets +onlyGivenNames t; first
        | (refine (fun (ht : Canon v q t) => ?_) ?_ <;> [clear_value t; (unfold t; clear t)])
        | clear_value t)
    | (with_reducible first
        | apply ite_canon | apply foldl_canon | apply State.setN_canon | apply withdrawRun_canon | apply modeEvent_canon
        | apply applySets_canon | apply raise_canon | apply afterRun_canon)
    | split | (simp only [canon_mk_iff]; apply canon_parts)

theorem leaveBoot_canon (hs : Canon v q s) : Canon v q (leaveBoot s) := by
  unfold leaveBoot
  repeat' first
    | (with_reducible assumption) | intro x
    | (with_reducible first | apply State.setN_canon | apply modeEvent_canon | apply raise_canon)

theorem ethPower_canon (hs : Canon v q s) : Canon v q (ethPower s) := by
  unfold ethPower
  repeat' first
    | (with_reducible assumption) | intro x
    | (with_reducible first | apply State.on_canon | apply domainGo_canon)

theorem manageMode_canon (hs : Canon v q s) : Canon v q (manageMode s) := by
  unfold manageMode
  repeat' first
    | (with_reducible assumption) | intro x
    | (extract_lets +onlyGivenNames t; first
        | (refine (fun (ht : Canon v q t) => ?_) ?_ <;> [clear_value t; (unfold t; clear t)])
        | clear_value t)
    | (with_reducible first
        | apply ite_canon | apply State.setN_canon | apply rowProgress_canon | apply startRow_canon | apply leaveBoot_canon
        | apply ethPower_canon)
    | split

theorem execModeTick_canon (hs : Canon v q s) : Ends v q (execModeTick s) := by
  unfold execModeTick
  repeat' first
    | (with_reducible assumption) | intro x
    | (with_reducible first
        | apply ends_next_canon | apply ite_ends | apply ite_canon | apply safeEnter_canon | apply raise_canon
        | apply manageMode_canon)
    | split | (simp only [canon_mk_iff]; apply canon_parts)

theorem execModeRowComplete_canon (hs : Canon v q s) : Ends v q (execModeRowComplete s) := by
  unfold execModeRowComplete
  repeat' first
    | (with_reducible assumption) | intro x
    | (with_reducible first | apply ends_next_canon | apply ite_ends | apply ite_canon | apply endRow_canon)
    | split | (simp only [canon_mk_iff]; apply canon_parts)

theorem execModeRowTimeout_canon (hs : Canon v q s) : Ends v q (execModeRowTimeout s) := by
  unfold execModeRowTimeout
  repeat' first
    | (with_reducible assumption) | intro x
    | (with_reducible first
        | apply ends_next_canon | apply ite_ends | apply ite_canon | apply modeEvent_canon | apply raise_canon)
    | split | (simp only [canon_mk_iff]; apply canon_parts)

theorem execSafeEntry_canon {cause : Fin 512} {hw : Bool} (hs : Canon v q s) : Ends v q (execSafeEntry cause hw s) := by
  unfold execSafeEntry
  repeat' first
    | (with_reducible assumption) | intro x
    | (with_reducible first
        | apply ends_next_canon | apply ite_ends | apply ite_canon | apply safeEnter_canon | apply raise_canon)
    | split | (simp only [canon_mk_iff]; apply canon_parts)

theorem execSupplyOutOfRange_canon {rail : Fin 2} {mv : BitVec 16} (hs : Canon v q s) : Ends v q
    (execSupplyOutOfRange rail mv s) := by
  unfold execSupplyOutOfRange
  repeat' first
    | (with_reducible assumption) | intro x
    | (extract_lets +onlyGivenNames t; first
        | (refine (fun (ht : Canon v q t) => ?_) ?_ <;> [clear_value t; (unfold t; clear t)])
        | clear_value t)
    | (with_reducible first
        | apply ends_next_canon | apply ite_ends | apply ite_canon | apply modeEvent_canon | apply raise_canon)
    | split

theorem execStandbyWake_canon {cause : WakeCause} {mediaNeeded : Bool} (hs : Canon v q s) : Ends v q
    (execStandbyWake cause mediaNeeded s) := by
  unfold execStandbyWake
  repeat' first
    | (with_reducible assumption) | intro x
    | (extract_lets +onlyGivenNames t; first
        | (refine (fun (ht : Canon v q t) => ?_) ?_ <;> [clear_value t; (unfold t; clear t)])
        | clear_value t)
    | (with_reducible first
        | apply ends_next_canon | apply ite_ends | apply ite_canon | apply foldl_canon | apply modeEvent_canon
        | apply domainGo_canon | apply raise_canon)
    | split | (simp only [canon_mk_iff]; apply canon_parts)

theorem execStandbyIdleExpiry_canon (hs : Canon v q s) : Ends v q (execStandbyIdleExpiry s) := by
  unfold execStandbyIdleExpiry
  repeat' first
    | (with_reducible assumption) | intro x
    | (with_reducible first
        | apply ends_next_canon | apply ite_ends | apply ite_canon | apply foldl_canon | apply domainGo_canon)
    | split | (simp only [canon_mk_iff]; apply canon_parts)

theorem domainRequestAct_canon {d : Nat} {w : Word} (ht : Canon v q t) : Canon v q (domainRequestAct d w t) := by
  unfold domainRequestAct
  repeat' first
    | (with_reducible assumption) | intro x
    | (extract_lets +onlyGivenNames t; first
        | (refine (fun (ht : Canon v q t) => ?_) ?_ <;> [clear_value t; (unfold t; clear t)])
        | clear_value t)
    | (with_reducible first
        | apply ite_canon | apply foldl_canon | apply State.setN_canon | apply domainGo_canon | apply raise_canon
        | apply requestRes_canon | apply ethPower_canon)
    | split

theorem execDomainRequest_canon {m : Master} {d : Fin 52} {w : Word} (hs : Canon v q s) : Ends v q
    (execDomainRequest m d w s) := by
  unfold execDomainRequest
  repeat' first
    | (with_reducible assumption) | intro x
    | (with_reducible first | apply ends_next_canon | apply kwrite_canon | apply domainRequestAct_canon)

theorem resetObjects_canon {d : Nat} (hs : Canon v q s) : Canon v q (resetObjects s d) := by
  unfold resetObjects
  repeat' first
    | (with_reducible assumption) | intro x
    | exact ⟨hs.variant, hs.pending, hs.mem, dictWf_filter _ _ hs.dict, hs.edge⟩
    | (simp only [canon_mk_iff]; apply canon_parts)

theorem testDomain_canon {d : Nat} {ok : Bool} (hs : Canon v q s) : Canon v q (testDomain s d ok) := by
  unfold testDomain
  repeat' first
    | (with_reducible assumption) | intro x
    | (with_reducible first | apply ite_canon | apply checkerResult_canon)
    | split | (simp only [canon_mk_iff]; apply canon_parts)

theorem engineUp_canon {n : Nat} (hs : Canon v q s) : Canon v q (engineUp s n) := by
  unfold engineUp
  repeat' first
    | (with_reducible assumption) | intro x
    | (with_reducible first | apply ite_canon | apply State.setN_canon | apply State.setEng_canon)
    | split | (simp only [canon_mk_iff]; apply canon_parts)

theorem clearScratch_canon {half : Nat} (hs : Canon v q s) : Canon v q (clearScratch s half) := by
  unfold clearScratch
  repeat' first
    | (with_reducible assumption) | intro x
    | exact ⟨hs.variant, hs.pending, memoryWf_filter _ _ hs.mem, hs.dict, hs.edge⟩
    | (simp only [canon_mk_iff]; apply canon_parts)

theorem freshSlot_canon {j : Nat} (hs : Canon v q s) : Canon v q (freshSlot s j) := by
  unfold freshSlot
  repeat' first
    | (with_reducible assumption) | intro x
    | (with_reducible first
        | apply State.setCh_canon | apply State.setWr_canon | apply rebuf_canon | apply refreshWrite_canon
        | apply clearBytes_canon)
    | (simp only [canon_mk_iff]; apply canon_parts)

theorem freshUp_canon {d : Nat} (hs : Canon v q s) : Canon v q (freshUp s d) := by
  unfold freshUp
  repeat' first
    | (with_reducible assumption) | intro x
    | (extract_lets +onlyGivenNames t; first
        | (refine (fun (ht : Canon v q t) => ?_) ?_ <;> [clear_value t; (unfold t; clear t)])
        | clear_value t)
    | (with_reducible first
        | apply ite_canon | apply foldl_canon | apply State.setN_canon | apply State.setAct_canon | apply State.setLink_canon
        | apply State.setSrv_canon | apply State.setSieveEng_canon | apply clearBytes_canon | apply resetObjects_canon
        | apply engineUp_canon | apply clearScratch_canon | apply freshSlot_canon)
    | split | (simp only [canon_mk_iff]; apply canon_parts)

theorem cellarFollows_canon {d st : Nat} (hs : Canon v q s) : Canon v q (cellarFollows s d st) := by
  unfold cellarFollows
  repeat' first
    | (with_reducible assumption) | intro x
    | (with_reducible first | apply ite_canon | apply State.setN_canon)
    | split

theorem engineLeaves_canon {n : Nat} (hr : RaisesCanon v q r) (hs : Canon v q s) : Canon v q (engineLeaves r s n) := by
  unfold engineLeaves
  repeat' first
    | (with_reducible assumption) | intro x
    | (extract_lets +onlyGivenNames t; first
        | (refine (fun (ht : Canon v q t) => ?_) ?_ <;> [clear_value t; (unfold t; clear t)])
        | clear_value t)
    | (with_reducible first
        | apply ite_canon | apply foldl_canon | apply returnDescs_canon | apply slotReset_canon | apply trlQuiet_canon
        | apply hr)
    | split | (simp only [canon_mk_iff]; apply canon_parts)

theorem engineDown_canon {n : Nat} (hs : Canon v q s) : Canon v q (engineDown s n) := by
  unfold engineDown
  repeat' first
    | (with_reducible assumption) | intro x
    | (with_reducible first | apply ite_canon | apply State.setN_canon | apply raise_canon | apply engineLeaves_canon)
    | split

theorem domainOff_canon {d : Nat} (hs : Canon v q s) : Canon v q (domainOff s d) := by
  unfold domainOff
  repeat' first
    | (with_reducible assumption) | intro x
    | (extract_lets +onlyGivenNames t; first
        | (refine (fun (ht : Canon v q t) => ?_) ?_ <;> [clear_value t; (unfold t; clear t)])
        | clear_value t)
    | (with_reducible first
        | apply ite_canon | apply State.setN_canon | apply State.setAct_canon | apply stopLink_canon | apply unholdRes_canon
        | apply leaveTracking_canon | apply motorEnter_canon | apply deepReset_canon | apply slotReset_canon
        | apply State.setHost_canon | apply releaseLocks_canon | apply withdrawRun_canon | apply sieveControllerReset_canon
        | apply ethReset_canon | apply raise_canon | apply loseHalf_canon | apply hoeStop_canon | apply linkDown_canon
        | apply engineDown_canon)
    | split | (simp only [canon_mk_iff]; apply canon_parts)

theorem execDomainTransitionDone_canon {d : Fin 52} {checkerOk : Bool} (hs : Canon v q s) : Ends v q
    (execDomainTransitionDone d checkerOk s) := by
  unfold execDomainTransitionDone
  repeat' first
    | (with_reducible assumption) | intro x
    | (extract_lets +onlyGivenNames t; first
        | (refine (fun (ht : Canon v q t) => ?_) ?_ <;> [clear_value t; (unfold t; clear t)])
        | clear_value t)
    | (with_reducible first
        | apply ends_next_canon | apply ite_ends | apply ite_canon | apply State.setN_canon | apply hoeStop_canon
        | apply testDomain_canon | apply freshUp_canon | apply cellarFollows_canon | apply domainOff_canon)
    | split | (simp only [canon_mk_iff]; apply canon_parts)

theorem execDomainTimeout_canon {d : Fin 52} (hs : Canon v q s) : Ends v q (execDomainTimeout d s) := by
  unfold execDomainTimeout
  repeat' first
    | (with_reducible assumption) | intro x
    | (extract_lets +onlyGivenNames t; first
        | (refine (fun (ht : Canon v q t) => ?_) ?_ <;> [clear_value t; (unfold t; clear t)])
        | clear_value t)
    | (with_reducible first
        | apply ends_next_canon | apply ite_ends | apply ite_canon | apply State.setN_canon | apply modeEvent_canon
        | apply raise_canon)
    | split

theorem execDebugPortActive_canon {port : DebugPort} (hs : Canon v q s) : Ends v q (execDebugPortActive port s) := by
  unfold execDebugPortActive
  repeat' first
    | (with_reducible assumption) | intro x
    | (with_reducible first | apply ends_next_canon | apply domainGo_canon | apply raise_canon)
    | split | (simp only [canon_mk_iff]; apply canon_parts)

/-! ### Machine/Thermal -/

theorem markBad_canon {i : Nat} (hs : Canon v q s) : Canon v q (markBad s i) := by
  unfold markBad
  repeat' first
    | (with_reducible assumption) | intro x
    | (with_reducible first | apply ite_canon | apply State.setBitOf_canon)
    | split

theorem keepReading_canon {i : Nat} {t : Int} (hs : Canon v q s) : Canon v q (keepReading s i t) := by
  unfold keepReading
  repeat' first
    | (with_reducible assumption) | intro x
    | (extract_lets +onlyGivenNames t; first
        | (refine (fun (ht : Canon v q t) => ?_) ?_ <;> [clear_value t; (unfold t; clear t)])
        | clear_value t)
    | (with_reducible first | apply ite_canon | apply State.setI_canon)
    | split | (simp only [canon_mk_iff]; apply canon_parts)

theorem followSubst_canon (hs : Canon v q s) : Canon v q (followSubst s) := by
  unfold followSubst
  repeat' first
    | (with_reducible assumption) | intro x
    | (with_reducible first | apply ite_canon | apply State.setB_canon)
    | split | (simp only [canon_mk_iff]; apply canon_parts)

theorem sensorFails_canon {i cause : Nat} {t : Int} (hs : Canon v q s) : Canon v q (sensorFails s i cause t) := by
  unfold sensorFails
  repeat' first
    | (with_reducible assumption) | intro x
    | (extract_lets +onlyGivenNames t; first
        | (refine (fun (ht : Canon v q t) => ?_) ?_ <;> [clear_value t; (unfold t; clear t)])
        | clear_value t)
    | (with_reducible first
        | apply ite_canon | apply State.setB_canon | apply State.inc_canon | apply modeEvent_canon | apply raise_canon
        | apply markBad_canon)
    | split | (simp only [canon_mk_iff]; apply canon_parts)

theorem newTj_canon (hs : Canon v q s) : Canon v q (newTj s) := by
  unfold newTj
  repeat' first
    | (with_reducible assumption) | intro x
    | (extract_lets +onlyGivenNames t; first
        | (refine (fun (ht : Canon v q t) => ?_) ?_ <;> [clear_value t; (unfold t; clear t)])
        | clear_value t)
    | (with_reducible first | apply ite_canon | apply State.setN_canon | apply State.setI_canon)
    | split | (simp only [canon_mk_iff]; apply canon_parts)

theorem stepEffects_canon {old new : Nat} (hs : Canon v q s) : Canon v q (stepEffects s old new) := by
  unfold stepEffects
  repeat' first
    | (with_reducible assumption) | intro x
    | (extract_lets +onlyGivenNames t; first
        | (refine (fun (ht : Canon v q t) => ?_) ?_ <;> [clear_value t; (unfold t; clear t)])
        | clear_value t)
    | (with_reducible first
        | apply ite_canon | apply State.setN_canon | apply pauseEngines_canon | apply withdrawSlotB_canon | apply raise_canon
        | apply afterRun_canon)
    | split | (simp only [canon_mk_iff]; apply canon_parts)

theorem setStep_canon {new : Nat} (hs : Canon v q s) : Canon v q (setStep s new) := by
  unfold setStep
  repeat' first
    | (with_reducible assumption) | intro x
    | (extract_lets +onlyGivenNames t; first
        | (refine (fun (ht : Canon v q t) => ?_) ?_ <;> [clear_value t; (unfold t; clear t)])
        | clear_value t)
    | (with_reducible first
        | apply ite_canon | apply State.setN_canon | apply modeEvent_canon | apply raise_canon | apply stepEffects_canon)
    | split | (simp only [canon_mk_iff]; apply canon_parts)

theorem followLevel_canon (hs : Canon v q s) : Canon v q (followLevel s) := by
  unfold followLevel
  repeat' first
    | (with_reducible assumption) | intro x
    | (extract_lets +onlyGivenNames t; first
        | (refine (fun (ht : Canon v q t) => ?_) ?_ <;> [clear_value t; (unfold t; clear t)])
        | clear_value t)
    | (with_reducible first
        | apply ite_canon | apply foldl_canon | apply State.setN_canon | apply State.inc_canon | apply modeEvent_canon
        | apply raise_canon)
    | split | (simp only [canon_mk_iff]; apply canon_parts)

theorem followStep_canon {before : Nat} (hs : Canon v q s) : Canon v q (followStep s before) := by
  unfold followStep
  repeat' first
    | (with_reducible assumption) | intro x
    | (extract_lets +onlyGivenNames t; first
        | (refine (fun (ht : Canon v q t) => ?_) ?_ <;> [clear_value t; (unfold t; clear t)])
        | clear_value t)
    | (with_reducible first | apply ite_canon | apply setStep_canon)
    | split

theorem followWarning_canon (hs : Canon v q s) : Canon v q (followWarning s) := by
  unfold followWarning
  repeat' first
    | (with_reducible assumption) | intro x
    | (extract_lets +onlyGivenNames t; first
        | (refine (fun (ht : Canon v q t) => ?_) ?_ <;> [clear_value t; (unfold t; clear t)])
        | clear_value t)
    | (with_reducible first | apply ite_canon | apply asyncEvent_canon | apply raise_canon)
    | split | (simp only [canon_mk_iff]; apply canon_parts)

theorem execSensorSample_canon {i : Fin 40} {t : BitVec 16} (hs : Canon v q s) : Ends v q (execSensorSample i t s) := by
  unfold execSensorSample
  repeat' first
    | (with_reducible assumption) | intro x
    | (extract_lets +onlyGivenNames t; first
        | (refine (fun (ht : Canon v q t) => ?_) ?_ <;> [clear_value t; (unfold t; clear t)])
        | clear_value t)
    | (with_reducible first
        | apply ends_next_canon | apply ite_ends | apply ite_canon | apply keepReading_canon | apply followSubst_canon
        | apply sensorFails_canon | apply newTj_canon | apply followLevel_canon | apply followStep_canon
        | apply followWarning_canon)
    | split | (simp only [canon_mk_iff]; apply canon_parts)

theorem execThrottleStepDown_canon (hs : Canon v q s) : Ends v q (execThrottleStepDown s) := by
  unfold execThrottleStepDown
  repeat' first
    | (with_reducible assumption) | intro x
    | (extract_lets +onlyGivenNames t; first
        | (refine (fun (ht : Canon v q t) => ?_) ?_ <;> [clear_value t; (unfold t; clear t)])
        | clear_value t)
    | (with_reducible first
        | apply ends_next_canon | apply ite_ends | apply ite_canon | apply followSubst_canon | apply setStep_canon)
    | split

theorem execSubstitutionHoldExpiry_canon (hs : Canon v q s) : Ends v q (execSubstitutionHoldExpiry s) := by
  unfold execSubstitutionHoldExpiry
  repeat' first
    | (with_reducible assumption) | intro x
    | (with_reducible first | apply ends_next_canon | apply ite_ends | apply ite_canon)
    | split | (simp only [canon_mk_iff]; apply canon_parts)

theorem execThermalTrip_canon {mask : Byte} (hs : Canon v q s) : Ends v q (execThermalTrip mask s) := by
  unfold execThermalTrip
  repeat' first
    | (with_reducible assumption) | intro x
    | (extract_lets +onlyGivenNames t; first
        | (refine (fun (ht : Canon v q t) => ?_) ?_ <;> [clear_value t; (unfold t; clear t)])
        | clear_value t)
    | (with_reducible first
        | apply ends_next_canon | apply ite_ends | apply ite_canon | apply State.setN_canon | apply State.on_canon
        | apply State.setHost_canon | apply flushAsk_canon | apply sheafQuiesce_canon | apply applySets_canon
        | apply mediaOff_canon | apply raise_canon)
    | split | (simp only [canon_mk_iff]; apply canon_parts)

theorem execCompensationUpdate_canon {otpOk : BitVec 3} (hs : Canon v q s) : Ends v q (execCompensationUpdate otpOk s) := by
  unfold execCompensationUpdate
  repeat' first
    | (with_reducible assumption) | intro x
    | (extract_lets +onlyGivenNames t; first
        | (refine (fun (ht : Canon v q t) => ?_) ?_ <;> [clear_value t; (unfold t; clear t)])
        | clear_value t)
    | (with_reducible first
        | apply ends_next_canon | apply ite_ends | apply ite_canon | apply State.setN_canon | apply State.setI_canon
        | apply modeEvent_canon | apply raise_canon)
    | split | (simp only [canon_mk_iff]; apply canon_parts)

theorem execRefreshRateIndication_canon {mult : BitVec 3} {hot : Bool} (hs : Canon v q s) : Ends v q
    (execRefreshRateIndication mult hot s) := by
  unfold execRefreshRateIndication
  repeat' first
    | (with_reducible assumption) | intro x
    | (extract_lets +onlyGivenNames t; first
        | (refine (fun (ht : Canon v q t) => ?_) ?_ <;> [clear_value t; (unfold t; clear t)])
        | clear_value t)
    | (with_reducible first
        | apply ends_next_canon | apply ite_ends | apply ite_canon | apply State.setN_canon | apply modeEvent_canon
        | apply raise_canon | apply memEventFree_canon)
    | split | (simp only [canon_mk_iff]; apply canon_parts)

end Sys2Proof.Machine
end

