-- ==== Sys2Proof/Laws/CanonDict.lean ====
section
/-! SUPPORT. What keeps the canonical form: the Trellis engines, the object dictionary and the idle tick. One lemma per operation and per meaning. -/

namespace Sys2Proof.Machine

-- Elaborated one after another: the package as one text must fit the memory its check allows.
set_option Elab.async false

set_option linter.unusedTactic false
set_option linter.unreachableTactic false
set_option linter.unusedVariables false

variable {v : Variant} {q : List Instr} {s t : State} {r : Raiser}

/-! ### Machine/TrlCtl -/

theorem runRestartAct_canon {n : Nat} (ht : Canon v q t) : Canon v q (runRestartAct n t) := by
  unfold runRestartAct
  repeat' first
    | (with_reducible assumption) | intro x
    | (with_reducible first | apply ite_canon | apply trlRestart_canon)
    | split

theorem execRunRestart_canon {m : Master} {n : Eng} (hs : Canon v q s) : Ends v q (execRunRestart m n s) := by
  unfold execRunRestart
  repeat' first
    | (with_reducible assumption) | intro x
    | (with_reducible first | apply ends_next_canon | apply kwrite_canon | apply runRestartAct_canon)

theorem runResumeAct_canon {n : Nat} (ht : Canon v q t) : Canon v q (runResumeAct n t) := by
  unfold runResumeAct
  repeat' first
    | (with_reducible assumption) | intro x
    | (extract_lets +onlyGivenNames t; first
        | (refine (fun (ht : Canon v q t) => ?_) ?_ <;> [clear_value t; (unfold t; clear t)])
        | clear_value t)
    | (with_reducible first | apply ite_canon | apply State.setN_canon | apply State.setEng_canon | apply trlShow_canon)
    | split | (simp only [canon_mk_iff]; apply canon_parts)

theorem execRunResume_canon {m : Master} {n : Eng} (hs : Canon v q s) : Ends v q (execRunResume m n s) := by
  unfold execRunResume
  repeat' first
    | (with_reducible assumption) | intro x
    | (with_reducible first | apply ends_next_canon | apply kwrite_canon | apply runResumeAct_canon)

theorem haltReqAct_canon {n : Nat} (ht : Canon v q t) : Canon v q (haltReqAct n t) := by
  unfold haltReqAct
  repeat' first
    | (with_reducible assumption) | intro x
    | (with_reducible first | apply ite_canon | apply State.setEng_canon)
    | split | (simp only [canon_mk_iff]; apply canon_parts)

theorem execHaltReq_canon {m : Master} {n : Eng} {w : Word} (hs : Canon v q s) : Ends v q (execHaltReq m n w s) := by
  unfold execHaltReq
  repeat' first
    | (with_reducible assumption) | intro x
    | (with_reducible first | apply ends_next_canon | apply kwrite_canon | apply haltReqAct_canon)

theorem softIrqAct_canon {n : Nat} {w : Word} (ht : Canon v q t) : Canon v q (softIrqAct n w t) := by
  unfold softIrqAct
  repeat' first
    | (with_reducible assumption) | intro x
    | (with_reducible first | apply State.setN_canon)

theorem execSoftIrq_canon {m : Master} {n : Eng} {w : Word} (hs : Canon v q s) : Ends v q (execSoftIrq m n w s) := by
  unfold execSoftIrq
  repeat' first
    | (with_reducible assumption) | intro x
    | (with_reducible first | apply ends_next_canon | apply kwrite_canon | apply softIrqAct_canon)

theorem leaveRun_canon {n st e : Nat} {items : List Nat} (hs : Canon v q s) : Canon v q (leaveRun s n st e items) := by
  unfold leaveRun
  repeat' first
    | (with_reducible assumption) | intro x
    | (extract_lets +onlyGivenNames t; first
        | (refine (fun (ht : Canon v q t) => ?_) ?_ <;> [clear_value t; (unfold t; clear t)])
        | clear_value t)
    | (with_reducible first
        | apply ite_canon | apply foldl_canon | apply State.setN_canon | apply raiseBase_canon | apply trlShow_canon
        | apply returnDescs_canon | apply slotReset_canon | apply trlQuiet_canon | apply resetUnit_canon | apply raise_canon)
    | split | (simp only [canon_mk_iff]; apply canon_parts)

theorem trlFault_canon {n e : Nat} {items : List Nat} (hs : Canon v q s) : Canon v q (trlFault s n e items) := by
  unfold trlFault
  repeat' first
    | (with_reducible assumption) | intro x
    | (with_reducible first | apply State.setN_canon | apply raise_canon | apply safeNow_canon)
    | (simp only [canon_mk_iff]; apply canon_parts)

theorem execStoreError_canon {n : Eng} {store : TrlStore} {addr : BitVec 13} (hs : Canon v q s) : Ends v q
    (execStoreError n store addr s) := by
  unfold execStoreError
  repeat' first
    | (with_reducible assumption) | intro x
    | (extract_lets +onlyGivenNames t; first
        | (refine (fun (ht : Canon v q t) => ?_) ?_ <;> [clear_value t; (unfold t; clear t)])
        | clear_value t)
    | (with_reducible first
        | apply ends_next_canon | apply ite_ends | apply ite_canon | apply State.setN_canon | apply State.setEng_canon
        | apply raise_canon | apply safeNow_canon | apply leaveRun_canon)
    | split | (simp only [canon_mk_iff]; apply canon_parts)

theorem loaderReject_canon {n : Nat} {x : Bool × BitVec 32 × BitVec 8} (hs : Canon v q s) : Canon v q (loaderReject s n x) := by
  unfold loaderReject
  repeat' first
    | (with_reducible assumption) | intro x
    | (with_reducible first | apply State.inc_canon | apply raise_canon)
    | (simp only [canon_mk_iff]; apply canon_parts)

theorem measureLoad_canon {e : LedgerEnt} (hs : Canon v q s) : Canon v q (measureLoad s e) := by
  unfold measureLoad
  repeat' first
    | (with_reducible assumption) | intro x
    | (with_reducible first | apply ite_canon | apply measure_canon)
    | split

theorem loadFailed_canon {n kind check : Nat} (hs : Canon v q s) : Canon v q (loadFailed s n kind check) := by
  unfold loadFailed
  repeat' first
    | (with_reducible assumption) | intro x
    | (with_reducible first | apply State.setN_canon | apply trlFault_canon)

theorem fillStores_canon {n : Nat} {r : LoadReport} (hs : Canon v q s) : Canon v q (fillStores s n r) := by
  unfold fillStores
  repeat' first
    | (with_reducible assumption) | intro x
    | (extract_lets +onlyGivenNames t; first
        | (refine (fun (ht : Canon v q t) => ?_) ?_ <;> [clear_value t; (unfold t; clear t)])
        | clear_value t)
    | (with_reducible first | apply ite_canon | apply foldl_canon | apply State.setN_canon | apply State.setEng_canon)
    | split | (simp only [canon_mk_iff]; apply canon_parts)

theorem measureLoads_canon {n : Nat} {r : LoadReport} (hs : Canon v q s) : Canon v q (measureLoads s n r) := by
  unfold measureLoads
  repeat' first
    | (with_reducible assumption) | intro x
    | (extract_lets +onlyGivenNames t; first
        | (refine (fun (ht : Canon v q t) => ?_) ?_ <;> [clear_value t; (unfold t; clear t)])
        | clear_value t)
    | (with_reducible first | apply measureLoad_canon)
    | split | (simp only [canon_mk_iff]; apply canon_parts)

theorem loadDone_canon {n : Nat} {r : LoadReport} (hs : Canon v q s) : Canon v q (loadDone s n r) := by
  unfold loadDone
  repeat' first
    | (with_reducible assumption) | intro x
    | (extract_lets +onlyGivenNames t; first
        | (refine (fun (ht : Canon v q t) => ?_) ?_ <;> [clear_value t; (unfold t; clear t)])
        | clear_value t)
    | (with_reducible first | apply ite_canon | apply State.setN_canon | apply fillStores_canon | apply measureLoads_canon)
    | split | (simp only [canon_mk_iff]; apply canon_parts)

theorem loadReported_canon {n : Eng} {r : Option LoadReport} {failKind failCheck : BitVec 8} (hs : Canon v q s) : Canon v q
    (loadReported s n r failKind failCheck) := by
  unfold loadReported
  repeat' first
    | (with_reducible assumption) | intro x
    | (extract_lets +onlyGivenNames t; first
        | (refine (fun (ht : Canon v q t) => ?_) ?_ <;> [clear_value t; (unfold t; clear t)])
        | clear_value t)
    | (with_reducible first
        | apply ite_canon | apply foldl_canon | apply State.drawn_canon | apply loaderReject_canon | apply loadFailed_canon
        | apply loadDone_canon)
    | split | (simp only [canon_mk_iff]; apply canon_parts)

theorem execTrellisLoadReport_canon {n : Eng} {r : Option LoadReport} {failKind failCheck : BitVec 8} (hs : Canon v q s)
    : Ends v q (execTrellisLoadReport n r failKind failCheck s) := by
  unfold execTrellisLoadReport
  repeat' first
    | (with_reducible assumption) | intro x
    | (with_reducible first
        | apply ends_next_canon | apply ite_ends | apply ite_canon | apply sealDue_canon | apply loadReported_canon)
    | split

/-! ### Machine/Hooks -/

theorem zeroFirst_canon {i n : Nat} (ht : Canon v q t) : Canon v q (zeroFirst t i n) := by
  unfold zeroFirst
  repeat' first
    | (with_reducible assumption) | intro x
    | (with_reducible first | apply State.zero_canon)

theorem clearAct_canon {i : Nat} (ht : Canon v q t) : Canon v q (clearAct i t) := by
  unfold clearAct
  repeat' first
    | (with_reducible assumption) | intro x
    | (extract_lets +onlyGivenNames t; first
        | (refine (fun (ht : Canon v q t) => ?_) ?_ <;> [clear_value t; (unfold t; clear t)])
        | clear_value t)
    | (with_reducible first | apply State.setN_canon | apply State.zero_canon | apply zeroFirst_canon)
    | split | (simp only [canon_mk_iff]; apply canon_parts)

theorem mgmtLinkReset_canon {cause : Nat} (hs : Canon v q s) : Canon v q (mgmtLinkReset s cause) := by
  unfold mgmtLinkReset
  repeat' first
    | (with_reducible assumption) | intro x
    | (extract_lets +onlyGivenNames t; first
        | (refine (fun (ht : Canon v q t) => ?_) ?_ <;> [clear_value t; (unfold t; clear t)])
        | clear_value t)
    | (with_reducible first | apply State.setN_canon | apply boundary_canon | apply releaseLocks_canon | apply raise_canon)
    | (simp only [canon_mk_iff]; apply canon_parts)

theorem onWriteMotion_canon {m k : Nat} {w : Word} (hs : Canon v q s) (ht : Canon v q t) : Canon v q
    (onWriteMotion s m k w t) := by
  unfold onWriteMotion
  repeat' first
    | (with_reducible assumption) | intro x
    | (extract_lets +onlyGivenNames t; first
        | (refine (fun (ht : Canon v q t) => ?_) ?_ <;> [clear_value t; (unfold t; clear t)])
        | clear_value t)
    | (with_reducible first
        | apply ite_canon | apply State.setAct_canon | apply actEvent_canon | apply observerCheck_canon
        | apply twinLeave_canon | apply raise_canon | apply snapshotAct_canon | apply sundialEnableWriteAct_canon
        | apply syncEnableWriteAct_canon | apply loadRequestAct_canon | apply unloadRequestAct_canon
        | apply servoDegradedClearAct_canon | apply spinEnableWriteAct_canon | apply mapValidWriteAct_canon
        | apply captureStartAct_canon | apply assistBudgetWriteAct_canon | apply linkDegradedClearAct_canon
        | apply linkInitAct_canon | apply regOpReadAct_canon | apply regOpWriteAct_canon)
    | split | (simp only [canon_mk_iff]; apply canon_parts)

theorem onWriteSlot_canon {k : Nat} (ht : Canon v q t) : Canon v q (onWriteSlot k t) := by
  unfold onWriteSlot
  repeat' first
    | (with_reducible assumption) | intro x
    | (extract_lets +onlyGivenNames t; first
        | (refine (fun (ht : Canon v q t) => ?_) ?_ <;> [clear_value t; (unfold t; clear t)])
        | clear_value t)
    | (with_reducible first
        | apply ite_canon | apply bufPinWriteAct_canon | apply combineStartAct_canon | apply ocReleaseAct_canon)
    | split

theorem onWriteTrellis_canon {k : Nat} {w : Word} (ht : Canon v q t) : Canon v q (onWriteTrellis k w t) := by
  unfold onWriteTrellis
  repeat' first
    | (with_reducible assumption) | intro x
    | (extract_lets +onlyGivenNames t; first
        | (refine (fun (ht : Canon v q t) => ?_) ?_ <;> [clear_value t; (unfold t; clear t)])
        | clear_value t)
    | (with_reducible first
        | apply ite_canon | apply runRestartAct_canon | apply runResumeAct_canon | apply haltReqAct_canon
        | apply softIrqAct_canon)
    | split

theorem onWriteHost_canon {k : Nat} {w : Word} (hs : Canon v q s) (ht : Canon v q t) : Canon v q (onWriteHost s k w t) := by
  unfold onWriteHost
  repeat' first
    | (with_reducible assumption) | intro x
    | (extract_lets +onlyGivenNames t; first
        | (refine (fun (ht : Canon v q t) => ?_) ?_ <;> [clear_value t; (unfold t; clear t)])
        | clear_value t)
    | (with_reducible first
        | apply ite_canon | apply formatCommitAct_canon | apply zoneHwEnableAct_canon | apply allocRequestAct_canon
        | apply mergeStartAct_canon | apply mergeCancelAct_canon | apply sheafOpenAct_canon | apply sheafAppendAct_canon
        | apply sheafCommitAct_canon | apply sheafAbortAct_canon | apply releaseSeqWriteAct_canon | apply flushNowAct_canon
        | apply recoverLoadAct_canon | apply replayStartAct_canon | apply linkEnableAct_canon)
    | split | (simp only [canon_mk_iff]; apply canon_parts)

theorem onWriteMemory_canon {k : Nat} {w : Word} (hs : Canon v q s) (ht : Canon v q t) : Canon v q (onWriteMemory s k w t) := by
  unfold onWriteMemory
  repeat' first
    | (with_reducible assumption) | intro x
    | (extract_lets +onlyGivenNames t; first
        | (refine (fun (ht : Canon v q t) => ?_) ?_ <;> [clear_value t; (unfold t; clear t)])
        | clear_value t)
    | (with_reducible first
        | apply ite_canon | apply State.set_canon | apply State.setN_canon | apply State.setBitOf_canon | apply setUsed_canon
        | apply setFlag_canon | apply queueResetAct_canon | apply cacheEnableWriteAct_canon | apply scratchWaysWriteAct_canon
        | apply trackerClearAct_canon | apply hoeStartAct_canon | apply hoeCancelAct_canon | apply fwStartAct_canon
        | apply fwStopAct_canon)
    | split

theorem onWriteSafety_canon {m k : Nat} {w : Word} (ht : Canon v q t) : Canon v q (onWriteSafety m k w t) := by
  unfold onWriteSafety
  repeat' first
    | (with_reducible assumption) | intro x
    | (extract_lets +onlyGivenNames t; first
        | (refine (fun (ht : Canon v q t) => ?_) ?_ <;> [clear_value t; (unfold t; clear t)])
        | clear_value t)
    | (with_reducible first
        | apply ite_canon | apply State.drawn_canon | apply latchedClearAct_canon | apply captureReleaseAct_canon
        | apply captureModeWriteAct_canon | apply injectGoAct_canon | apply fwWriteAct_canon | apply cursorWriteAct_canon
        | apply partitionReleaseAct_canon | apply persistGoAct_canon | apply measGoAct_canon | apply sealRequestAct_canon
        | apply fwConfirmAct_canon | apply rollbackAdvanceAct_canon | apply eraseDoneAct_canon)
    | split | (simp only [canon_mk_iff]; apply canon_parts)

theorem onWritePower_canon {k : Nat} {w : Word} (ht : Canon v q t) : Canon v q (onWritePower k w t) := by
  unfold onWritePower
  repeat' first
    | (with_reducible assumption) | intro x
    | (with_reducible first
        | apply ite_canon | apply State.setN_canon | apply regrantAll_canon | apply reEnvelope_canon | apply raise_canon
        | apply envelopeWriteAct_canon | apply safeRestartAct_canon | apply domainRequestAct_canon)
    | split

theorem onWriteDict_canon {m k : Nat} {w : Word} (ht : Canon v q t) : Canon v q (onWriteDict m k w t) := by
  unfold onWriteDict
  repeat' first
    | (with_reducible assumption) | intro x
    | (extract_lets +onlyGivenNames t; first
        | (refine (fun (ht : Canon v q t) => ?_) ?_ <;> [clear_value t; (unfold t; clear t)])
        | clear_value t)
    | (with_reducible first | apply ite_canon | apply State.setN_canon | apply mgmtLinkReset_canon)
    | split

theorem onWrite_canon {m k : Nat} {w : Word} (hs : Canon v q s) (ht : Canon v q t) : Canon v q (onWrite s m k w t) := by
  unfold onWrite
  repeat' first
    | (with_reducible assumption) | intro x
    | (extract_lets +onlyGivenNames t; first
        | (refine (fun (ht : Canon v q t) => ?_) ?_ <;> [clear_value t; (unfold t; clear t)])
        | clear_value t)
    | (with_reducible first
        | apply ite_canon | apply objectChanged_canon | apply clearAct_canon | apply onWriteMotion_canon
        | apply onWriteSlot_canon | apply onWriteTrellis_canon | apply onWriteHost_canon | apply onWriteMemory_canon
        | apply onWriteSafety_canon | apply onWritePower_canon | apply onWriteDict_canon)
    | split | (simp only [canon_mk_iff]; apply canon_parts)

theorem hookWrite_canon {m i sub : Nat} {w : Word} (hs : Canon v q s) : Canon v q (hookWrite s m i sub w) := by
  unfold hookWrite
  repeat' first
    | (with_reducible assumption) | intro x
    | (with_reducible first | apply dwrite_canon | apply onWrite_canon)

/-! ### Machine/Dict -/

theorem readWord_canon {r : ObjRow} {k : Key} (hs : Canon v q s) : Canon v q ((readWord s r k)).2 := by
  unfold readWord
  repeat' first
    | (with_reducible assumption) | intro x
    | (with_reducible first | apply ite_canon | apply State.drawn_canon)
    | split | dsimp only | (simp only [canon_mk_iff]; apply canon_parts)

theorem readWord_canon_eq {r : ObjRow} {k : Key} {x1 : Word} {t : State} (he : readWord s r k = (x1, t)) (hs : Canon v q s)
    : Canon v q t := by
  have h0 := readWord_canon (s := s) (r := r) (k := k) hs
  rw [he] at h0; exact h0

theorem readAccess_canon {m i sub : Nat} (hs : Canon v q s) : Canon v q ((readAccess s m i sub)).2.2 := by
  unfold readAccess
  repeat' first
    | (with_reducible assumption) | intro x
    | (extract_lets +onlyGivenNames t; first
        | (refine (fun (ht : Canon v q t) => ?_) ?_ <;> [clear_value t; (unfold t; clear t)])
        | clear_value t)
    | (with_reducible first
        | apply ite_canon | refine readWord_canon_eq (by with_reducible assumption) ?_ | apply recordStatus_canon
        | apply violation_canon | apply windowAdvance_canon | apply readWord_canon)
    | split | dsimp only | (simp only [canon_mk_iff]; apply canon_parts)

theorem readAccess_canon_eq {m i sub : Nat} {x1 : DStatus} {x2 : Word} {t : State} (he : readAccess s m i sub = (x1, x2, t))
    (hs : Canon v q s) : Canon v q t := by
  have h0 := readAccess_canon (s := s) (m := m) (i := i) (sub := sub) hs
  rw [he] at h0; exact h0

theorem applyStore_canon {u : State} {x : DictStore} {ask : Ask} {d : DStatus} (hu : Canon v q u) : Canon v q
    (applyStore u x ask d) := by
  unfold applyStore
  repeat' first
    | (with_reducible assumption) | intro x
    | (extract_lets +onlyGivenNames t; first
        | (refine (fun (ht : Canon v q t) => ?_) ?_ <;> [clear_value t; (unfold t; clear t)])
        | clear_value t)
    | (with_reducible first
        | apply id_canon | apply recordStatus_canon | apply dropHeld_canon | apply finishWrite_canon | apply onWrite_canon)
    | split | (simp only [canon_mk_iff]; apply canon_parts)

theorem storeCycle_canon {stores : List DictStore} (hs : Canon v q s) : Canon v q (storeCycle s stores) := by
  unfold storeCycle
  repeat' first
    | (with_reducible assumption) | intro x
    | (extract_lets +onlyGivenNames t; first
        | (refine (fun (ht : Canon v q t) => ?_) ?_ <;> [clear_value t; (unfold t; clear t)])
        | clear_value t)
    | (with_reducible first | apply ite_canon | apply foldl_canon | apply State.inc_canon | apply applyStore_canon)
    | split | (simp only [canon_mk_iff]; apply canon_parts)

theorem writeEntryNow_canon {m : Nat} {e : WEntry} (hs : Canon v q s) : Canon v q ((writeEntryNow s m e)).2 := by
  unfold writeEntryNow
  repeat' first
    | (with_reducible assumption) | intro x
    | (extract_lets +onlyGivenNames t; first
        | (refine (fun (ht : Canon v q t) => ?_) ?_ <;> [clear_value t; (unfold t; clear t)])
        | clear_value t)
    | (with_reducible first
        | apply ite_canon | apply id_canon | apply recordStatus_canon | apply dropHeld_canon | apply finishWrite_canon
        | apply objectChanged_canon | apply onWrite_canon)
    | split | dsimp only | (simp only [canon_mk_iff]; apply canon_parts)

theorem writeEntryNow_canon_eq {m : Nat} {e : WEntry} {x1 : DStatus} {t : State} (he : writeEntryNow s m e = (x1, t)) (hs
    : Canon v q s) : Canon v q t := by
  have h0 := writeEntryNow_canon (s := s) (m := m) (e := e) hs
  rw [he] at h0; exact h0

theorem readReply_canon {m i sub : Nat} (hs : Canon v q s) : Canon v q ((readReply s m i sub)).2.2 := by
  unfold readReply
  repeat' first
    | (with_reducible assumption) | intro x
    | (extract_lets +onlyGivenNames t; first
        | (refine (fun (ht : Canon v q t) => ?_) ?_ <;> [clear_value t; (unfold t; clear t)])
        | clear_value t)
    | (with_reducible first | refine readAccess_canon_eq (by with_reducible assumption) ?_ | apply readAccess_canon)
    | split | dsimp only | (simp only [canon_mk_iff]; apply canon_parts)

theorem readReply_canon_eq {m i sub : Nat} {x1 : List Byte} {x2 : DStatus} {t : State} (he : readReply s m i sub =
    (x1, x2, t)) (hs : Canon v q s) : Canon v q t := by
  have h0 := readReply_canon (s := s) (m := m) (i := i) (sub := sub) hs
  rw [he] at h0; exact h0

theorem describeReply_canon {m i sub : Nat} (hs : Canon v q s) : Canon v q ((describeReply s m i sub)).2.2 := by
  unfold describeReply
  repeat' first
    | (with_reducible assumption) | intro x
    | (extract_lets +onlyGivenNames t; first
        | (refine (fun (ht : Canon v q t) => ?_) ?_ <;> [clear_value t; (unfold t; clear t)])
        | clear_value t)
    | (with_reducible first | apply ite_canon | apply recordStatus_canon)
    | split | dsimp only | (simp only [canon_mk_iff]; apply canon_parts)

theorem describeReply_canon_eq {m i sub : Nat} {x1 : List Byte} {x2 : DStatus} {t : State} (he : describeReply s m i sub =
    (x1, x2, t)) (hs : Canon v q s) : Canon v q t := by
  have h0 := describeReply_canon (s := s) (m := m) (i := i) (sub := sub) hs
  rw [he] at h0; exact h0

theorem runWrites_canon {m : Nat} {l : List WEntry} (hs : Canon v q s) : Canon v q ((runWrites s m l)).2 := by
  induction l generalizing s m with
  | nil => exact hs
  | cons a r ih =>
    unfold runWrites
    repeat' first
      | (with_reducible assumption) | intro x
      | (extract_lets +onlyGivenNames t; first
          | (refine (fun (ht : Canon v q t) => ?_) ?_ <;> [clear_value t; (unfold t; clear t)])
          | clear_value t)
      | (with_reducible first
          | apply ih | refine canon_proj_eq (by with_reducible assumption) ?_
          | refine writeEntryNow_canon_eq (by with_reducible assumption) ?_ | apply writeEntryNow_canon)
      | split | dsimp only | (simp only [canon_mk_iff]; apply canon_parts)

theorem runWrites_canon_eq {m : Nat} {l : List WEntry} {x1 : List (List Byte × DStatus)} {t : State} (he : runWrites s m l =
    (x1, t)) (hs : Canon v q s) : Canon v q t := by
  have h0 := runWrites_canon (s := s) (m := m) (l := l) hs
  rw [he] at h0; exact h0

theorem runReads_canon {m : Nat} {describe : Bool} {l : List (Nat × Nat)} (hs : Canon v q s) : Canon v q
    ((runReads s m describe l)).2 := by
  induction l generalizing s m describe with
  | nil => exact hs
  | cons a r ih =>
    unfold runReads
    repeat' first
      | (with_reducible assumption) | intro x
      | (extract_lets +onlyGivenNames t; first
          | (refine (fun (ht : Canon v q t) => ?_) ?_ <;> [clear_value t; (unfold t; clear t)])
          | clear_value t)
      | (with_reducible first
          | apply ih | refine canon_proj_eq (by with_reducible assumption) ?_ | apply ite_canon
          | refine readReply_canon_eq (by with_reducible assumption) ?_
          | refine describeReply_canon_eq (by with_reducible assumption) ?_ | apply readReply_canon | apply describeReply_canon)
      | split | dsimp only | (simp only [canon_mk_iff]; apply canon_parts)

theorem runReads_canon_eq {m : Nat} {describe : Bool} {l : List (Nat × Nat)} {x1 : List (List Byte × DStatus)} {t : State}
    (he : runReads s m describe l = (x1, t)) (hs : Canon v q s) : Canon v q t := by
  have h0 := runReads_canon (s := s) (m := m) (describe := describe) (l := l) hs
  rw [he] at h0; exact h0

theorem runFrame_canon {m : Nat} {l : List Byte} {f : FrameRun} (he : runFrame s m l = some f) (hs : Canon v q s) :
    Canon v q f.state := by
  unfold runFrame at he
  repeat' split at he
  · cases he
  · rcases hp : parseWrites _ (l.drop 8) with _ | es <;> rw [hp] at he <;> cases he
    exact runWrites_canon hs
  · rcases hp : parseReads _ (l.drop 8) with _ | es <;> rw [hp] at he <;> cases he
    exact runReads_canon hs
  · cases he

theorem runFrame_if_canon {c : Prop} [Decidable c] {m : Nat} {l : List Byte} {f : FrameRun}
    (he : (if c then runFrame s m l else none) = some f) (hs : Canon v q s) : Canon v q f.state := by
  split at he
  · exact runFrame_canon he hs
  · cases he

theorem portRun_canon {c : Nat} {l : List Byte} (hs : Canon v q s) : Canon v q (portRun s c l) := by
  unfold portRun
  repeat' first
    | (with_reducible assumption) | intro x
    | (extract_lets +onlyGivenNames t; first
        | (refine (fun (ht : Canon v q t) => ?_) ?_ <;> [clear_value t; (unfold t; clear t)])
        | clear_value t)
    | (with_reducible first
        | refine runFrame_canon (by with_reducible assumption) ?_
        | refine runFrame_if_canon (by with_reducible assumption) ?_ | apply ite_canon | apply State.setN_canon
        | apply State.store_canon)
    | split | (simp only [canon_mk_iff]; apply canon_parts)

theorem portFrame_canon {c : Nat} (hs : Canon v q s) : Canon v q (portFrame s c) := by
  unfold portFrame
  repeat' first
    | (with_reducible assumption) | intro x
    | (extract_lets +onlyGivenNames t; first
        | (refine (fun (ht : Canon v q t) => ?_) ?_ <;> [clear_value t; (unfold t; clear t)])
        | clear_value t)
    | (with_reducible first | apply ite_canon | apply State.setN_canon | apply portRun_canon)
    | split

theorem servePorts_canon {s t : State} (hs : Canon v q s) (ht : Canon v q t) : Canon v q (servePorts s t) := by
  unfold servePorts
  repeat' first
    | (with_reducible assumption) | intro x
    | (with_reducible first | apply ite_canon | apply foldl_canon | apply portFrame_canon)
    | split

theorem answer_canon {status : Nat} {l : List Byte} (hs : Canon v q s) : Canon v q (answer s status l) := by
  unfold answer
  repeat' first
    | (with_reducible assumption) | intro x
    | (simp only [canon_mk_iff]; apply canon_parts)

theorem busMalformed_canon (hs : Canon v q s) : Canon v q (busMalformed s) := by
  unfold busMalformed
  repeat' first
    | (with_reducible assumption) | intro x
    | (extract_lets +onlyGivenNames t; first
        | (refine (fun (ht : Canon v q t) => ?_) ?_ <;> [clear_value t; (unfold t; clear t)])
        | clear_value t)
    | (with_reducible first | apply raise_canon | apply answer_canon)
    | (simp only [canon_mk_iff]; apply canon_parts)

theorem framePath_canon {p : FramePath} {op : Nat} {l : List Byte} (hs : Canon v q s) : Canon v q (framePath s p op l) := by
  unfold framePath
  repeat' first
    | (with_reducible assumption) | intro x
    | (extract_lets +onlyGivenNames t; first
        | (refine (fun (ht : Canon v q t) => ?_) ?_ <;> [clear_value t; (unfold t; clear t)])
        | clear_value t)
    | (with_reducible first
        | refine runFrame_canon (by with_reducible assumption) ?_
        | refine runFrame_if_canon (by with_reducible assumption) ?_ | apply ite_canon | apply portRun_canon
        | apply answer_canon | apply busMalformed_canon)
    | split | (simp only [canon_mk_iff]; apply canon_parts)

theorem execFrameWrite_canon {p : FramePath} {frame : List Byte} (hs : Canon v q s) : Ends v q (execFrameWrite p frame s) := by
  unfold execFrameWrite
  repeat' first
    | (with_reducible assumption) | intro x
    | (with_reducible first | apply ends_next_canon | apply framePath_canon)

theorem execFrameRead_canon {p : FramePath} {frame : List Byte} (hs : Canon v q s) : Ends v q (execFrameRead p frame s) := by
  unfold execFrameRead
  repeat' first
    | (with_reducible assumption) | intro x
    | (with_reducible first | apply ends_next_canon | apply framePath_canon)

theorem execFrameDescribe_canon {p : FramePath} {frame : List Byte} (hs : Canon v q s) : Ends v q
    (execFrameDescribe p frame s) := by
  unfold execFrameDescribe
  repeat' first
    | (with_reducible assumption) | intro x
    | (with_reducible first | apply ends_next_canon | apply framePath_canon)

theorem hostMalformed_canon {e : CmdEnt} (hs : Canon v q s) : Canon v q (hostMalformed s e) := by
  unfold hostMalformed
  repeat' first
    | (with_reducible assumption) | intro x
    | (with_reducible first | apply State.drawn_canon | apply violate_canon | apply complete_canon | apply raise_canon)

theorem execDictionaryWrite_canon {c : CmdRef} {frame : List Byte} (hs : Canon v q s) : Ends v q
    (execDictionaryWrite c frame s) := by
  unfold execDictionaryWrite
  repeat' first
    | (with_reducible assumption) | intro x
    | (extract_lets +onlyGivenNames t; first
        | (refine (fun (ht : Canon v q t) => ?_) ?_ <;> [clear_value t; (unfold t; clear t)])
        | clear_value t)
    | (with_reducible first
        | apply ends_next_canon | apply ite_ends | refine runFrame_canon (by with_reducible assumption) ?_
        | refine runFrame_if_canon (by with_reducible assumption) ?_ | apply ite_canon | apply complete_canon
        | apply raise_canon | apply hostMalformed_canon)
    | split | (simp only [canon_mk_iff]; apply canon_parts)

theorem execDictionaryRead_canon {c : CmdRef} (hs : Canon v q s) : Ends v q (execDictionaryRead c s) := by
  unfold execDictionaryRead
  repeat' first
    | (with_reducible assumption) | intro x
    | (extract_lets +onlyGivenNames t; first
        | (refine (fun (ht : Canon v q t) => ?_) ?_ <;> [clear_value t; (unfold t; clear t)])
        | clear_value t)
    | (with_reducible first
        | apply ends_next_canon | apply ite_ends | apply ite_canon
        | refine runReads_canon_eq (by with_reducible assumption) ?_ | apply returnData_canon | apply complete_canon
        | apply raise_canon | apply runReads_canon | apply hostMalformed_canon)
    | split | (simp only [canon_mk_iff]; apply canon_parts)

theorem execNvmeMiSend_canon {c : CmdRef} {frame : List Byte} (hs : Canon v q s) : Ends v q (execNvmeMiSend c frame s) := by
  unfold execNvmeMiSend
  repeat' first
    | (with_reducible assumption) | intro x
    | (with_reducible first
        | apply ends_next_canon | refine runFrame_canon (by with_reducible assumption) ?_
        | refine runFrame_if_canon (by with_reducible assumption) ?_ | apply State.setHost_canon | apply complete_canon
        | apply raise_canon | apply hostMalformed_canon)
    | split | (simp only [canon_mk_iff]; apply canon_parts)

theorem execNvmeMiReceive_canon {c : CmdRef} (hs : Canon v q s) : Ends v q (execNvmeMiReceive c s) := by
  unfold execNvmeMiReceive
  repeat' first
    | (with_reducible assumption) | intro x
    | (with_reducible first | apply ends_next_canon | apply returnData_canon | apply complete_canon | apply raise_canon)
    | split | (simp only [canon_mk_iff]; apply canon_parts)

theorem execObjectWrite_canon {stores : List DictStore} (hs : Canon v q s) : Ends v q (execObjectWrite stores s) := by
  unfold execObjectWrite
  repeat' first
    | (with_reducible assumption) | intro x
    | (with_reducible first | apply ends_next_canon | apply storeCycle_canon | apply servePorts_canon)

theorem execHostTransportWrite_canon {m : Master} {w : Word} (hs : Canon v q s) : Ends v q (execHostTransportWrite m w s) := by
  unfold execHostTransportWrite
  repeat' first
    | (with_reducible assumption) | intro x
    | (with_reducible first | apply ends_next_canon | apply hookWrite_canon)

theorem execCountersClear_canon {m : Master} {index : BitVec 16} {sub : Byte} {w : Word} (hs : Canon v q s) : Ends v q
    (execCountersClear m index sub w s) := by
  unfold execCountersClear
  repeat' first
    | (with_reducible assumption) | intro x
    | (with_reducible first | apply ends_next_canon | apply hookWrite_canon | apply servePorts_canon)

theorem execLockAcquire_canon {m : Master} {i : Fin 16} {w : Word} (hs : Canon v q s) : Ends v q (execLockAcquire m i w s) := by
  unfold execLockAcquire
  repeat' first
    | (with_reducible assumption) | intro x
    | (with_reducible first | apply ends_next_canon | apply hookWrite_canon)

theorem execLockRelease_canon {m : Master} {i : Fin 16} {w : Word} (hs : Canon v q s) : Ends v q (execLockRelease m i w s) := by
  unfold execLockRelease
  repeat' first
    | (with_reducible assumption) | intro x
    | (with_reducible first | apply ends_next_canon | apply hookWrite_canon)

theorem execDictStoreError_canon {index : BitVec 16} {sub : Byte} (hs : Canon v q s) : Ends v q
    (execDictStoreError index sub s) := by
  unfold execDictStoreError
  repeat' first
    | (with_reducible assumption) | intro x
    | (extract_lets +onlyGivenNames t; first
        | (refine (fun (ht : Canon v q t) => ?_) ?_ <;> [clear_value t; (unfold t; clear t)])
        | clear_value t)
    | exact ⟨ht.variant, ht.pending, ht.mem, ht.dict, sortedKeys_filter _ _ hs.edge⟩
    | (with_reducible first
        | apply ends_next_canon | apply ite_ends | apply ite_canon | apply State.set_canon | apply raise_canon)
    | split | (simp only [canon_mk_iff]; apply canon_parts)

theorem miFree_canon (hs : Canon v q s) : Canon v q (miFree s) := by
  unfold miFree
  repeat' first
    | (with_reducible assumption) | intro x
    | (with_reducible first | apply State.drawn_canon | apply answer_canon)

theorem execReadNvmeMiDataStructure_canon {_dtyp : Byte} (hs : Canon v q s) : Ends v q (execReadNvmeMiDataStructure _dtyp s)
    := by
  unfold execReadNvmeMiDataStructure
  repeat' first
    | (with_reducible assumption) | intro x
    | (with_reducible first
        | apply ends_next_canon | apply ite_ends | apply ite_canon | apply answer_canon | apply miFree_canon)
    | split

theorem execNvmSubsystemHealthStatusPoll_canon {_clear : Bool} (hs : Canon v q s) : Ends v q
    (execNvmSubsystemHealthStatusPoll _clear s) := by
  unfold execNvmSubsystemHealthStatusPoll
  repeat' first
    | (with_reducible assumption) | intro x
    | (with_reducible first | apply ends_next_canon | apply miFree_canon)

theorem execControllerHealthStatusPoll_canon (hs : Canon v q s) : Ends v q (execControllerHealthStatusPoll s) := by
  unfold execControllerHealthStatusPoll
  repeat' first
    | (with_reducible assumption) | intro x
    | (with_reducible first | apply ends_next_canon | apply miFree_canon)

theorem execConfigurationGet_canon {cfg : Byte} (hs : Canon v q s) : Ends v q (execConfigurationGet cfg s) := by
  unfold execConfigurationGet
  repeat' first
    | (with_reducible assumption) | intro x
    | (with_reducible first
        | apply ends_next_canon | apply ite_ends | apply ite_canon | apply State.drawn_canon | apply answer_canon)
    | split | (simp only [canon_mk_iff]; apply canon_parts)

theorem execConfigurationSet_canon {cfg : Byte} {w : BitVec 32} (hs : Canon v q s) : Ends v q (execConfigurationSet cfg w s)
    := by
  unfold execConfigurationSet
  repeat' first
    | (with_reducible assumption) | intro x
    | (with_reducible first | apply ends_next_canon | apply ite_ends | apply ite_canon | apply answer_canon)
    | split | (simp only [canon_mk_iff]; apply canon_parts)

theorem execMgmtLinkReset_canon {cause : MgmtResetCause} (hs : Canon v q s) : Ends v q (execMgmtLinkReset cause s) := by
  unfold execMgmtLinkReset
  repeat' first
    | (with_reducible assumption) | intro x
    | (with_reducible first | apply ends_next_canon | apply mgmtLinkReset_canon)
    | split | (simp only [canon_mk_iff]; apply canon_parts)

theorem execMgmtReset_canon {m : Master} {w : Word} (hs : Canon v q s) : Ends v q (execMgmtReset m w s) := by
  unfold execMgmtReset
  repeat' first
    | (with_reducible assumption) | intro x
    | (with_reducible first | apply ends_next_canon | apply hookWrite_canon)

theorem execMctpControlMessage_canon {msg : MctpMsg} (hs : Canon v q s) : Ends v q (execMctpControlMessage msg s) := by
  unfold execMctpControlMessage
  repeat' first
    | (with_reducible assumption) | intro x
    | (extract_lets +onlyGivenNames t; first
        | (refine (fun (ht : Canon v q t) => ?_) ?_ <;> [clear_value t; (unfold t; clear t)])
        | clear_value t)
    | (with_reducible first | apply ends_next_canon | apply ite_ends | apply ite_canon | apply State.setN_canon)
    | split | (simp only [canon_mk_iff]; apply canon_parts)

theorem fabricReject_canon {fm : FabricMaster} {write : Bool} {a n : Nat} (hs : Canon v q s) : Canon v q
    (fabricReject s fm write a n) := by
  unfold fabricReject
  repeat' first
    | (with_reducible assumption) | intro x
    | (with_reducible first | apply errorTo_canon)
    | (simp only [canon_mk_iff]; apply canon_parts)

theorem fabricAnswer_canon {fm : FabricMaster} {write : Bool} {n w : Nat} (hs : Canon v q s) : Canon v q
    (fabricAnswer s fm write n w) := by
  unfold fabricAnswer
  repeat' first
    | (with_reducible assumption) | intro x
    | (with_reducible first | apply ite_canon | apply State.deliver_canon | apply okTo_canon)
    | split

theorem sramCorrected_canon {a : Nat} (hs : Canon v q s) : Canon v q (sramCorrected s a) := by
  unfold sramCorrected
  repeat' first
    | (with_reducible assumption) | intro x
    | (extract_lets +onlyGivenNames t; first
        | (refine (fun (ht : Canon v q t) => ?_) ?_ <;> [clear_value t; (unfold t; clear t)])
        | clear_value t)
    | (with_reducible first | apply ite_canon | apply track_canon | apply llcCorrected_canon)
    | split

theorem sramLost_canon {a : Nat} (hs : Canon v q s) : Canon v q (sramLost s a) := by
  unfold sramLost
  repeat' first
    | (with_reducible assumption) | intro x
    | (extract_lets +onlyGivenNames t; first
        | (refine (fun (ht : Canon v q t) => ?_) ?_ <;> [clear_value t; (unfold t; clear t)])
        | clear_value t)
    | (with_reducible first
        | apply ite_canon | apply State.setN_canon | apply raise_canon | apply contextLost_canon | apply setTxns_canon)
    | split | (simp only [canon_mk_iff]; apply canon_parts)

theorem sramEcc_canon {a : Nat} {arr : ArrayEcc} {w : Nat} (hs : Canon v q s) : Canon v q ((sramEcc s a arr w)).2 := by
  unfold sramEcc
  repeat' first
    | (with_reducible assumption) | intro x
    | (with_reducible first | apply State.drawn_canon | apply sramCorrected_canon | apply sramLost_canon)
    | split | dsimp only | (simp only [canon_mk_iff]; apply canon_parts)

theorem sramEcc_canon_eq {a : Nat} {arr : ArrayEcc} {w : Nat} {x1 : Nat} {t : State} (he : sramEcc s a arr w = (x1, t)) (hs
    : Canon v q s) : Canon v q t := by
  have h0 := sramEcc_canon (s := s) (a := a) (arr := arr) (w := w) hs
  rw [he] at h0; exact h0

theorem sramAccess_canon {fm : FabricMaster} {write : Bool} {a n w : Nat} {arr : ArrayEcc} (hs : Canon v q s) : Canon v q
    (sramAccess s fm write a n w arr) := by
  unfold sramAccess
  repeat' first
    | (with_reducible assumption) | intro x
    | (with_reducible first
        | apply ite_canon | refine sramEcc_canon_eq (by with_reducible assumption) ?_ | apply State.store_canon
        | apply fabricAnswer_canon | apply sramEcc_canon)
    | split

theorem pantryAccess_canon {fm : FabricMaster} {write : Bool} {a n w : Nat} (hs : Canon v q s) : Canon v q
    (pantryAccess s fm write a n w) := by
  unfold pantryAccess
  repeat' first
    | (with_reducible assumption) | intro x
    | (extract_lets +onlyGivenNames t; first
        | (refine (fun (ht : Canon v q t) => ?_) ?_ <;> [clear_value t; (unfold t; clear t)])
        | clear_value t)
    | (with_reducible first | apply ite_canon | apply fabricPush_canon | apply fabricPop_canon | apply fabricAnswer_canon)
    | split | (simp only [canon_mk_iff]; apply canon_parts)

theorem dictAccess_canon {fm : FabricMaster} {write : Bool} {a n : Nat} {data : Word} (hs : Canon v q s) :
    Canon v q (dictAccess s fm write a n data) := by
  unfold dictAccess
  split
  · extract_lets o i sub
    refine ite_canon (ite_canon ?_ ?_) ?_
    · extract_lets w x
      exact okTo_canon (servePorts_canon hs (storeCycle_canon hs))
    · split
      rename_i he
      exact fabricAnswer_canon (readAccess_canon_eq he hs)
    · exact fabricReject_canon hs
  · exact fabricReject_canon hs

theorem sampleRead_canon {fm : FabricMaster} {a n : Nat} {arr : ArrayEcc} (hs : Canon v q s) : Canon v q
    (sampleRead s fm a n arr) := by
  unfold sampleRead
  repeat' first
    | (with_reducible assumption) | intro x
    | (extract_lets +onlyGivenNames t; first
        | (refine (fun (ht : Canon v q t) => ?_) ?_ <;> [clear_value t; (unfold t; clear t)])
        | clear_value t)
    | (with_reducible first
        | refine sramEcc_canon_eq (by with_reducible assumption) ?_ | apply fabricAnswer_canon | apply sramEcc_canon)

theorem cellarFabric_canon {fm : FabricMaster} {write : Bool} {a n w : Nat} {arr : ArrayEcc} (hs : Canon v q s) : Canon v q
    (cellarFabric s fm write a n w arr) := by
  unfold cellarFabric
  repeat' first
    | (with_reducible assumption) | intro x
    | (extract_lets +onlyGivenNames t; first
        | (refine (fun (ht : Canon v q t) => ?_) ?_ <;> [clear_value t; (unfold t; clear t)])
        | clear_value t)
    | (with_reducible first
        | apply ite_canon | refine arrayMeets_canon_eq (by with_reducible assumption) ?_ | apply errorTo_canon
        | apply arrayMeets_canon | apply coreAccess_canon | apply cellarAccess_canon)
    | split | (simp only [canon_mk_iff]; apply canon_parts)

theorem fabricAccess_canon {fm : FabricMaster} {write : Bool} {a n : Nat} {data : Word} {arr : ArrayEcc} (hs : Canon v q s)
    : Canon v q (fabricAccess s fm write a n data arr) := by
  unfold fabricAccess
  repeat' first
    | (with_reducible assumption) | intro x
    | (extract_lets +onlyGivenNames t; first
        | (refine (fun (ht : Canon v q t) => ?_) ?_ <;> [clear_value t; (unfold t; clear t)])
        | clear_value t)
    | (with_reducible first
        | apply ite_canon | apply State.setN_canon | apply State.setAct_canon | apply fabricReject_canon
        | apply fabricAnswer_canon | apply sramAccess_canon | apply pantryAccess_canon | apply dictAccess_canon
        | apply sampleRead_canon | apply cellarFabric_canon)
    | split | (simp only [canon_mk_iff]; apply canon_parts)

theorem execFabricAccess_canon {fm : FabricMaster} {write : Bool} {addr : Addr} {size : AccessSize} {data : Word} {arr
    : ArrayEcc} (hs : Canon v q s) : Ends v q (execFabricAccess fm write addr size data arr s) := by
  unfold execFabricAccess
  repeat' first
    | (with_reducible assumption) | intro x
    | (with_reducible first | apply ends_next_canon | apply fabricAccess_canon)

/-! ### Machine/Trellis -/

theorem engineFault_canon {n pc cause : Nat} (hs : Canon v q s) : Canon v q (engineFault s n pc cause) := by
  unfold engineFault
  repeat' first
    | (with_reducible assumption) | intro x
    | (extract_lets +onlyGivenNames t; first
        | (refine (fun (ht : Canon v q t) => ?_) ?_ <;> [clear_value t; (unfold t; clear t)])
        | clear_value t)
    | (with_reducible first | apply ite_canon | apply State.setN_canon | apply State.inc_canon | apply leaveRun_canon)
    | split

theorem gateActs_canon {n gate : Nat} {e : Engine} (hs : Canon v q s) : Canon v q (gateActs s n gate e) := by
  unfold gateActs
  repeat' first
    | (with_reducible assumption) | intro x
    | (extract_lets +onlyGivenNames t; first
        | (refine (fun (ht : Canon v q t) => ?_) ?_ <;> [clear_value t; (unfold t; clear t)])
        | clear_value t)
    | (with_reducible first | apply ite_canon | apply State.zero_canon | apply State.store_canon | apply seekWrite_canon)
    | split | (simp only [canon_mk_iff]; apply canon_parts)

theorem strobeActs_canon {n strobe : Nat} (hs : Canon v q s) : Canon v q (strobeActs s n strobe) := by
  unfold strobeActs
  repeat' first
    | (with_reducible assumption) | intro x
    | (with_reducible first | apply ite_canon | apply State.setCh_canon | apply observerCheck_canon | apply raise_canon)
    | split | (simp only [canon_mk_iff]; apply canon_parts)

theorem fabricIssue_canon {n : Nat} {write : Bool} {addr data dst : Nat} (hs : Canon v q s) : Canon v q
    (fabricIssue s n write addr data dst) := by
  unfold fabricIssue
  repeat' first
    | (with_reducible assumption) | intro x
    | (extract_lets +onlyGivenNames t; first
        | (refine (fun (ht : Canon v q t) => ?_) ?_ <;> [clear_value t; (unfold t; clear t)])
        | clear_value t)
    | (with_reducible first | apply ite_canon | apply State.setEng_canon | apply fabricAccess_canon)
    | split | (simp only [canon_mk_iff]; apply canon_parts)

theorem memActs_canon {n : Nat} {x : Nano} {e : Engine} {b : Nat} (hs : Canon v q s) : Canon v q (memActs s n x e b) := by
  unfold memActs
  repeat' first
    | (with_reducible assumption) | intro x
    | (extract_lets +onlyGivenNames t; first
        | (refine (fun (ht : Canon v q t) => ?_) ?_ <;> [clear_value t; (unfold t; clear t)])
        | clear_value t)
    | (with_reducible first
        | refine enginePop_canon_eq (by with_reducible assumption) ?_ | apply State.setEng_canon | apply pantryPush_canon
        | apply raise_canon | apply enginePop_canon | apply fabricIssue_canon)
    | split | (simp only [canon_mk_iff]; apply canon_parts)

theorem enterHandler_canon {n src : Nat} (hs : Canon v q s) : Canon v q (enterHandler s n src) := by
  unfold enterHandler
  repeat' first
    | (with_reducible assumption) | intro x
    | (extract_lets +onlyGivenNames t; first
        | (refine (fun (ht : Canon v q t) => ?_) ?_ <;> [clear_value t; (unfold t; clear t)])
        | clear_value t)
    | (with_reducible first
        | apply ite_canon | apply State.setN_canon | apply State.inc_canon | apply State.setBitOf_canon
        | apply State.setEng_canon)
    | split | (simp only [canon_mk_iff]; apply canon_parts)

theorem takeIrq_canon {n src : Nat} (hs : Canon v q s) : Canon v q (takeIrq s n src) := by
  unfold takeIrq
  repeat' first
    | (with_reducible assumption) | intro x
    | (with_reducible first | apply State.setEng_canon | apply enterHandler_canon)
    | (simp only [canon_mk_iff]; apply canon_parts)

theorem waits_canon {n : Nat} (hs : Canon v q s) : Canon v q (waits s n) := by
  unfold waits
  repeat' first
    | (with_reducible assumption) | intro x
    | (extract_lets +onlyGivenNames t; first
        | (refine (fun (ht : Canon v q t) => ?_) ?_ <;> [clear_value t; (unfold t; clear t)])
        | clear_value t)
    | (with_reducible first | apply ite_canon | apply State.setEng_canon)
    | split | (simp only [canon_mk_iff]; apply canon_parts)

theorem haltNow_canon {n pc cause : Nat} (hs : Canon v q s) : Canon v q (haltNow s n pc cause) := by
  unfold haltNow
  repeat' first
    | (with_reducible assumption) | intro x
    | (extract_lets +onlyGivenNames t; first
        | (refine (fun (ht : Canon v q t) => ?_) ?_ <;> [clear_value t; (unfold t; clear t)])
        | clear_value t)
    | (with_reducible first
        | apply ite_canon | apply foldl_canon | apply State.setN_canon | apply State.setEng_canon | apply trlShow_canon
        | apply returnDescs_canon | apply slotReset_canon | apply trlQuiet_canon | apply raise_canon)
    | split | (simp only [canon_mk_iff]; apply canon_parts)

theorem irqReturn_canon {n : Nat} (hs : Canon v q s) : Canon v q (irqReturn s n) := by
  unfold irqReturn
  repeat' first
    | (with_reducible assumption) | intro x
    | (with_reducible first | apply State.setEng_canon)
    | split | (simp only [canon_mk_iff]; apply canon_parts)

theorem wordEnd_canon {n pc : Nat} {m : Micro} (hs : Canon v q s) : Canon v q (wordEnd s n pc m) := by
  unfold wordEnd
  repeat' first
    | (with_reducible assumption) | intro x
    | (extract_lets +onlyGivenNames t; first
        | (refine (fun (ht : Canon v q t) => ?_) ?_ <;> [clear_value t; (unfold t; clear t)])
        | clear_value t)
    | (with_reducible first
        | apply ite_canon | apply enterHandler_canon | apply takeIrq_canon | apply waits_canon | apply haltNow_canon
        | apply irqReturn_canon)
    | split | (simp only [canon_mk_iff]; apply canon_parts)

theorem wordActs_canon {n pc : Nat} {m : Micro} {x : Nano} {taken : Bool} {next : Nat} (hs : Canon v q s) : Canon v q
    (wordActs s n pc m x taken next) := by
  unfold wordActs
  repeat' first
    | (with_reducible assumption) | intro x
    | (extract_lets +onlyGivenNames t; first
        | (refine (fun (ht : Canon v q t) => ?_) ?_ <;> [clear_value t; (unfold t; clear t)])
        | clear_value t)
    | (with_reducible first
        | apply ite_canon | apply State.setBitOf_canon | apply State.setEng_canon | apply trlShow_canon
        | apply trlEvent_canon | apply raise_canon | apply gateActs_canon | apply strobeActs_canon | apply memActs_canon
        | apply wordEnd_canon)
    | split | (simp only [canon_mk_iff]; apply canon_parts)

theorem storeFixed_canon {n pc nano : Nat} {fix : BitVec 2} (hs : Canon v q s) : Canon v q (storeFixed s n pc nano fix) := by
  unfold storeFixed
  repeat' first
    | (with_reducible assumption) | intro x
    | (extract_lets +onlyGivenNames t; first
        | (refine (fun (ht : Canon v q t) => ?_) ?_ <;> [clear_value t; (unfold t; clear t)])
        | clear_value t)
    | (with_reducible first | apply ite_canon | apply State.inc_canon | apply track_canon)
    | split

theorem runWord_canon {n : Nat} {ops : List Nat} {w : BitVec 40} {nano : BitVec 128} {fix : BitVec 2} (hs : Canon v q s)
    : Canon v q (runWord s n ops w nano fix) := by
  unfold runWord
  repeat' first
    | (with_reducible assumption) | intro x
    | (extract_lets +onlyGivenNames t; first
        | (refine (fun (ht : Canon v q t) => ?_) ?_ <;> [clear_value t; (unfold t; clear t)])
        | clear_value t)
    | (with_reducible first | apply ite_canon | apply engineFault_canon | apply wordActs_canon | apply storeFixed_canon)
    | split | (simp only [canon_mk_iff]; apply canon_parts)

theorem execNext_canon {n : Eng} {w : BitVec 40} {nano : BitVec 128} {fix : BitVec 2} (hs : Canon v q s) : Ends v q
    (execNext n w nano fix s) := by
  unfold execNext
  repeat' first
    | (with_reducible assumption) | intro x
    | (with_reducible first | apply ends_next_canon | apply runWord_canon)

theorem execJump_canon {n : Eng} {w : BitVec 40} {nano : BitVec 128} {fix : BitVec 2} (hs : Canon v q s) : Ends v q
    (execJump n w nano fix s) := by
  unfold execJump
  repeat' first
    | (with_reducible assumption) | intro x
    | (with_reducible first | apply ends_next_canon | apply runWord_canon)

theorem execBrT_canon {n : Eng} {w : BitVec 40} {nano : BitVec 128} {fix : BitVec 2} (hs : Canon v q s) : Ends v q
    (execBrT n w nano fix s) := by
  unfold execBrT
  repeat' first
    | (with_reducible assumption) | intro x
    | (with_reducible first | apply ends_next_canon | apply runWord_canon)

theorem execBrF_canon {n : Eng} {w : BitVec 40} {nano : BitVec 128} {fix : BitVec 2} (hs : Canon v q s) : Ends v q
    (execBrF n w nano fix s) := by
  unfold execBrF
  repeat' first
    | (with_reducible assumption) | intro x
    | (with_reducible first | apply ends_next_canon | apply runWord_canon)

theorem execDisp_canon {n : Eng} {w : BitVec 40} {nano : BitVec 128} {fix : BitVec 2} (hs : Canon v q s) : Ends v q
    (execDisp n w nano fix s) := by
  unfold execDisp
  repeat' first
    | (with_reducible assumption) | intro x
    | (with_reducible first | apply ends_next_canon | apply runWord_canon)

theorem execCall_canon {n : Eng} {w : BitVec 40} {nano : BitVec 128} {fix : BitVec 2} (hs : Canon v q s) : Ends v q
    (execCall n w nano fix s) := by
  unfold execCall
  repeat' first
    | (with_reducible assumption) | intro x
    | (with_reducible first | apply ends_next_canon | apply runWord_canon)

theorem execCallT_canon {n : Eng} {w : BitVec 40} {nano : BitVec 128} {fix : BitVec 2} (hs : Canon v q s) : Ends v q
    (execCallT n w nano fix s) := by
  unfold execCallT
  repeat' first
    | (with_reducible assumption) | intro x
    | (with_reducible first | apply ends_next_canon | apply runWord_canon)

theorem execRet_canon {n : Eng} {w : BitVec 40} {nano : BitVec 128} {fix : BitVec 2} (hs : Canon v q s) : Ends v q
    (execRet n w nano fix s) := by
  unfold execRet
  repeat' first
    | (with_reducible assumption) | intro x
    | (with_reducible first | apply ends_next_canon | apply runWord_canon)

theorem execRetT_canon {n : Eng} {w : BitVec 40} {nano : BitVec 128} {fix : BitVec 2} (hs : Canon v q s) : Ends v q
    (execRetT n w nano fix s) := by
  unfold execRetT
  repeat' first
    | (with_reducible assumption) | intro x
    | (with_reducible first | apply ends_next_canon | apply runWord_canon)

theorem execLoop_canon {n : Eng} {w : BitVec 40} {nano : BitVec 128} {fix : BitVec 2} (hs : Canon v q s) : Ends v q
    (execLoop n w nano fix s) := by
  unfold execLoop
  repeat' first
    | (with_reducible assumption) | intro x
    | (with_reducible first | apply ends_next_canon | apply runWord_canon)

theorem execWait_canon {n : Eng} {w : BitVec 40} {nano : BitVec 128} {fix : BitVec 2} (hs : Canon v q s) : Ends v q
    (execWait n w nano fix s) := by
  unfold execWait
  repeat' first
    | (with_reducible assumption) | intro x
    | (with_reducible first | apply ends_next_canon | apply runWord_canon)

theorem execReti_canon {n : Eng} {w : BitVec 40} {nano : BitVec 128} {fix : BitVec 2} (hs : Canon v q s) : Ends v q
    (execReti n w nano fix s) := by
  unfold execReti
  repeat' first
    | (with_reducible assumption) | intro x
    | (with_reducible first | apply ends_next_canon | apply runWord_canon)

theorem execHalt_canon {n : Eng} {w : BitVec 40} {nano : BitVec 128} {fix : BitVec 2} (hs : Canon v q s) : Ends v q
    (execHalt n w nano fix s) := by
  unfold execHalt
  repeat' first
    | (with_reducible assumption) | intro x
    | (with_reducible first | apply ends_next_canon | apply runWord_canon)

theorem execSkip_canon {n : Eng} {w : BitVec 40} {nano : BitVec 128} {fix : BitVec 2} (hs : Canon v q s) : Ends v q
    (execSkip n w nano fix s) := by
  unfold execSkip
  repeat' first
    | (with_reducible assumption) | intro x
    | (with_reducible first | apply ends_next_canon | apply runWord_canon)

theorem execFabricResponse_canon {n : Eng} {error : Bool} {data : BitVec 32} (hs : Canon v q s) : Ends v q
    (execFabricResponse n error data s) := by
  unfold execFabricResponse
  repeat' first
    | (with_reducible assumption) | intro x
    | (extract_lets +onlyGivenNames t; first
        | (refine (fun (ht : Canon v q t) => ?_) ?_ <;> [clear_value t; (unfold t; clear t)])
        | clear_value t)
    | (with_reducible first
        | apply ends_next_canon | apply ite_ends | apply ite_canon | apply State.setEng_canon | apply trlShow_canon)
    | split | (simp only [canon_mk_iff]; apply canon_parts)

/-! ### Machine/Tick -/

theorem tickUs_canon (hs : Canon v q s) : Canon v q (tickUs s) := by
  unfold tickUs
  repeat' first
    | (with_reducible assumption) | intro x
    | (simp only [canon_mk_iff]; apply canon_parts)

theorem tickAngle_canon (hs : Canon v q s) : Canon v q (tickAngle s) := by
  unfold tickAngle
  repeat' first
    | (with_reducible assumption) | intro x
    | (extract_lets +onlyGivenNames t; first
        | (refine (fun (ht : Canon v q t) => ?_) ?_ <;> [clear_value t; (unfold t; clear t)])
        | clear_value t)
    | (with_reducible first | apply ite_canon | apply State.drawn_canon)
    | split | (simp only [canon_mk_iff]; apply canon_parts)

theorem idleTick_canon (hs : Canon v q s) : Canon v q (idleTick s) := by
  unfold idleTick
  repeat' first
    | (with_reducible assumption) | intro x
    | (extract_lets +onlyGivenNames t; first
        | (refine (fun (ht : Canon v q t) => ?_) ?_ <;> [clear_value t; (unfold t; clear t)])
        | clear_value t)
    | (with_reducible first
        | apply foldl_canon | apply linkTick_canon | apply twinSettle_canon | apply slewTick_canon | apply raise_canon
        | apply takeDeep_canon | apply faultTick_canon | apply fillTick_canon | apply evictTick_canon | apply sealDue_canon
        | apply placeRuns_canon | apply tickUs_canon | apply tickAngle_canon)

end Sys2Proof.Machine
end

