-- ==== Sys2Proof/Laws/State.lean ====
section
/-! SUPPORT. What each named update of the state does to each field: one lemma per field and update, so that no proof unfolds a
record update. -/

namespace Sys2Proof.Machine

variable (s : State)

/-! ### State.set -/

@[simp] theorem State.set_pending (k : Key) (w : Word) : (s.set k w).pending = s.pending := rfl
@[simp] theorem State.set_variant (k : Key) (w : Word) : (s.set k w).variant = s.variant := rfl
@[simp] theorem State.set_edge (k : Key) (w : Word) : (s.set k w).edge = s.edge := rfl
@[simp] theorem State.set_held (k : Key) (w : Word) : (s.set k w).held = s.held := rfl
@[simp] theorem State.set_blobs (k : Key) (w : Word) : (s.set k w).blobs = s.blobs := rfl
@[simp] theorem State.set_ev (k : Key) (w : Word) : (s.set k w).ev = s.ev := rfl
@[simp] theorem State.set_sun (k : Key) (w : Word) : (s.set k w).sun = s.sun := rfl
@[simp] theorem State.set_motor (k : Key) (w : Word) : (s.set k w).motor = s.motor := rfl
@[simp] theorem State.set_acts (k : Key) (w : Word) : (s.set k w).acts = s.acts := rfl
@[simp] theorem State.set_links (k : Key) (w : Word) : (s.set k w).links = s.links := rfl
@[simp] theorem State.set_servo (k : Key) (w : Word) : (s.set k w).servo = s.servo := rfl
@[simp] theorem State.set_chan (k : Key) (w : Word) : (s.set k w).chan = s.chan := rfl
@[simp] theorem State.set_write (k : Key) (w : Word) : (s.set k w).write = s.write := rfl
@[simp] theorem State.set_grants (k : Key) (w : Word) : (s.set k w).grants = s.grants := rfl
@[simp] theorem State.set_deep (k : Key) (w : Word) : (s.set k w).deep = s.deep := rfl
@[simp] theorem State.set_engines (k : Key) (w : Word) : (s.set k w).engines = s.engines := rfl
@[simp] theorem State.set_pan (k : Key) (w : Word) : (s.set k w).pan = s.pan := rfl
@[simp] theorem State.set_zones (k : Key) (w : Word) : (s.set k w).zones = s.zones := rfl
@[simp] theorem State.set_host (k : Key) (w : Word) : (s.set k w).host = s.host := rfl
@[simp] theorem State.set_picks (k : Key) (w : Word) : (s.set k w).picks = s.picks := rfl
@[simp] theorem State.set_sheaf (k : Key) (w : Word) : (s.set k w).sheaf = s.sheaf := rfl
@[simp] theorem State.set_memory (k : Key) (w : Word) : (s.set k w).memory = s.memory := rfl
@[simp] theorem State.set_sieve (k : Key) (w : Word) : (s.set k w).sieve = s.sieve := rfl
@[simp] theorem State.set_strong (k : Key) (w : Word) : (s.set k w).strong = s.strong := rfl
@[simp] theorem State.set_power (k : Key) (w : Word) : (s.set k w).power = s.power := rfl
@[simp] theorem State.set_mgmt (k : Key) (w : Word) : (s.set k w).mgmt = s.mgmt := rfl
@[simp] theorem State.set_mem (k : Key) (w : Word) : (s.set k w).mem = s.mem := rfl
@[simp] theorem State.set_flash (k : Key) (w : Word) : (s.set k w).flash = s.flash := rfl
@[simp] theorem State.set_locals (k : Key) (w : Word) : (s.set k w).locals = s.locals := rfl
@[simp] theorem State.set_rdata (k : Key) (w : Word) : (s.set k w).rdata = s.rdata := rfl
@[simp] theorem State.set_freeCtr (k : Key) (w : Word) : (s.set k w).freeCtr = s.freeCtr := rfl
@[simp] theorem State.set_dict (k : Key) (w : Word) : (s.set k w).dict = dictPut s.variant s.dict k w := rfl

/-! ### State.setN -/

@[simp] theorem State.setN_pending (k : Key) (n : Nat) : (s.setN k n).pending = s.pending := rfl
@[simp] theorem State.setN_variant (k : Key) (n : Nat) : (s.setN k n).variant = s.variant := rfl
@[simp] theorem State.setN_edge (k : Key) (n : Nat) : (s.setN k n).edge = s.edge := rfl
@[simp] theorem State.setN_held (k : Key) (n : Nat) : (s.setN k n).held = s.held := rfl
@[simp] theorem State.setN_blobs (k : Key) (n : Nat) : (s.setN k n).blobs = s.blobs := rfl
@[simp] theorem State.setN_ev (k : Key) (n : Nat) : (s.setN k n).ev = s.ev := rfl
@[simp] theorem State.setN_sun (k : Key) (n : Nat) : (s.setN k n).sun = s.sun := rfl
@[simp] theorem State.setN_motor (k : Key) (n : Nat) : (s.setN k n).motor = s.motor := rfl
@[simp] theorem State.setN_acts (k : Key) (n : Nat) : (s.setN k n).acts = s.acts := rfl
@[simp] theorem State.setN_links (k : Key) (n : Nat) : (s.setN k n).links = s.links := rfl
@[simp] theorem State.setN_servo (k : Key) (n : Nat) : (s.setN k n).servo = s.servo := rfl
@[simp] theorem State.setN_chan (k : Key) (n : Nat) : (s.setN k n).chan = s.chan := rfl
@[simp] theorem State.setN_write (k : Key) (n : Nat) : (s.setN k n).write = s.write := rfl
@[simp] theorem State.setN_grants (k : Key) (n : Nat) : (s.setN k n).grants = s.grants := rfl
@[simp] theorem State.setN_deep (k : Key) (n : Nat) : (s.setN k n).deep = s.deep := rfl
@[simp] theorem State.setN_engines (k : Key) (n : Nat) : (s.setN k n).engines = s.engines := rfl
@[simp] theorem State.setN_pan (k : Key) (n : Nat) : (s.setN k n).pan = s.pan := rfl
@[simp] theorem State.setN_zones (k : Key) (n : Nat) : (s.setN k n).zones = s.zones := rfl
@[simp] theorem State.setN_host (k : Key) (n : Nat) : (s.setN k n).host = s.host := rfl
@[simp] theorem State.setN_picks (k : Key) (n : Nat) : (s.setN k n).picks = s.picks := rfl
@[simp] theorem State.setN_sheaf (k : Key) (n : Nat) : (s.setN k n).sheaf = s.sheaf := rfl
@[simp] theorem State.setN_memory (k : Key) (n : Nat) : (s.setN k n).memory = s.memory := rfl
@[simp] theorem State.setN_sieve (k : Key) (n : Nat) : (s.setN k n).sieve = s.sieve := rfl
@[simp] theorem State.setN_strong (k : Key) (n : Nat) : (s.setN k n).strong = s.strong := rfl
@[simp] theorem State.setN_power (k : Key) (n : Nat) : (s.setN k n).power = s.power := rfl
@[simp] theorem State.setN_mgmt (k : Key) (n : Nat) : (s.setN k n).mgmt = s.mgmt := rfl
@[simp] theorem State.setN_mem (k : Key) (n : Nat) : (s.setN k n).mem = s.mem := rfl
@[simp] theorem State.setN_flash (k : Key) (n : Nat) : (s.setN k n).flash = s.flash := rfl
@[simp] theorem State.setN_locals (k : Key) (n : Nat) : (s.setN k n).locals = s.locals := rfl
@[simp] theorem State.setN_rdata (k : Key) (n : Nat) : (s.setN k n).rdata = s.rdata := rfl
@[simp] theorem State.setN_freeCtr (k : Key) (n : Nat) : (s.setN k n).freeCtr = s.freeCtr := rfl

/-! ### State.setI -/

@[simp] theorem State.setI_pending (k : Key) (i : Int) : (s.setI k i).pending = s.pending := rfl
@[simp] theorem State.setI_variant (k : Key) (i : Int) : (s.setI k i).variant = s.variant := rfl
@[simp] theorem State.setI_edge (k : Key) (i : Int) : (s.setI k i).edge = s.edge := rfl
@[simp] theorem State.setI_held (k : Key) (i : Int) : (s.setI k i).held = s.held := rfl
@[simp] theorem State.setI_blobs (k : Key) (i : Int) : (s.setI k i).blobs = s.blobs := rfl
@[simp] theorem State.setI_ev (k : Key) (i : Int) : (s.setI k i).ev = s.ev := rfl
@[simp] theorem State.setI_sun (k : Key) (i : Int) : (s.setI k i).sun = s.sun := rfl
@[simp] theorem State.setI_motor (k : Key) (i : Int) : (s.setI k i).motor = s.motor := rfl
@[simp] theorem State.setI_acts (k : Key) (i : Int) : (s.setI k i).acts = s.acts := rfl
@[simp] theorem State.setI_links (k : Key) (i : Int) : (s.setI k i).links = s.links := rfl
@[simp] theorem State.setI_servo (k : Key) (i : Int) : (s.setI k i).servo = s.servo := rfl
@[simp] theorem State.setI_chan (k : Key) (i : Int) : (s.setI k i).chan = s.chan := rfl
@[simp] theorem State.setI_write (k : Key) (i : Int) : (s.setI k i).write = s.write := rfl
@[simp] theorem State.setI_grants (k : Key) (i : Int) : (s.setI k i).grants = s.grants := rfl
@[simp] theorem State.setI_deep (k : Key) (i : Int) : (s.setI k i).deep = s.deep := rfl
@[simp] theorem State.setI_engines (k : Key) (i : Int) : (s.setI k i).engines = s.engines := rfl
@[simp] theorem State.setI_pan (k : Key) (i : Int) : (s.setI k i).pan = s.pan := rfl
@[simp] theorem State.setI_zones (k : Key) (i : Int) : (s.setI k i).zones = s.zones := rfl
@[simp] theorem State.setI_host (k : Key) (i : Int) : (s.setI k i).host = s.host := rfl
@[simp] theorem State.setI_picks (k : Key) (i : Int) : (s.setI k i).picks = s.picks := rfl
@[simp] theorem State.setI_sheaf (k : Key) (i : Int) : (s.setI k i).sheaf = s.sheaf := rfl
@[simp] theorem State.setI_memory (k : Key) (i : Int) : (s.setI k i).memory = s.memory := rfl
@[simp] theorem State.setI_sieve (k : Key) (i : Int) : (s.setI k i).sieve = s.sieve := rfl
@[simp] theorem State.setI_strong (k : Key) (i : Int) : (s.setI k i).strong = s.strong := rfl
@[simp] theorem State.setI_power (k : Key) (i : Int) : (s.setI k i).power = s.power := rfl
@[simp] theorem State.setI_mgmt (k : Key) (i : Int) : (s.setI k i).mgmt = s.mgmt := rfl
@[simp] theorem State.setI_mem (k : Key) (i : Int) : (s.setI k i).mem = s.mem := rfl
@[simp] theorem State.setI_flash (k : Key) (i : Int) : (s.setI k i).flash = s.flash := rfl
@[simp] theorem State.setI_locals (k : Key) (i : Int) : (s.setI k i).locals = s.locals := rfl
@[simp] theorem State.setI_rdata (k : Key) (i : Int) : (s.setI k i).rdata = s.rdata := rfl
@[simp] theorem State.setI_freeCtr (k : Key) (i : Int) : (s.setI k i).freeCtr = s.freeCtr := rfl

/-! ### State.setB -/

@[simp] theorem State.setB_pending (k : Key) (b : Bool) : (s.setB k b).pending = s.pending := rfl
@[simp] theorem State.setB_variant (k : Key) (b : Bool) : (s.setB k b).variant = s.variant := rfl
@[simp] theorem State.setB_edge (k : Key) (b : Bool) : (s.setB k b).edge = s.edge := rfl
@[simp] theorem State.setB_held (k : Key) (b : Bool) : (s.setB k b).held = s.held := rfl
@[simp] theorem State.setB_blobs (k : Key) (b : Bool) : (s.setB k b).blobs = s.blobs := rfl
@[simp] theorem State.setB_ev (k : Key) (b : Bool) : (s.setB k b).ev = s.ev := rfl
@[simp] theorem State.setB_sun (k : Key) (b : Bool) : (s.setB k b).sun = s.sun := rfl
@[simp] theorem State.setB_motor (k : Key) (b : Bool) : (s.setB k b).motor = s.motor := rfl
@[simp] theorem State.setB_acts (k : Key) (b : Bool) : (s.setB k b).acts = s.acts := rfl
@[simp] theorem State.setB_links (k : Key) (b : Bool) : (s.setB k b).links = s.links := rfl
@[simp] theorem State.setB_servo (k : Key) (b : Bool) : (s.setB k b).servo = s.servo := rfl
@[simp] theorem State.setB_chan (k : Key) (b : Bool) : (s.setB k b).chan = s.chan := rfl
@[simp] theorem State.setB_write (k : Key) (b : Bool) : (s.setB k b).write = s.write := rfl
@[simp] theorem State.setB_grants (k : Key) (b : Bool) : (s.setB k b).grants = s.grants := rfl
@[simp] theorem State.setB_deep (k : Key) (b : Bool) : (s.setB k b).deep = s.deep := rfl
@[simp] theorem State.setB_engines (k : Key) (b : Bool) : (s.setB k b).engines = s.engines := rfl
@[simp] theorem State.setB_pan (k : Key) (b : Bool) : (s.setB k b).pan = s.pan := rfl
@[simp] theorem State.setB_zones (k : Key) (b : Bool) : (s.setB k b).zones = s.zones := rfl
@[simp] theorem State.setB_host (k : Key) (b : Bool) : (s.setB k b).host = s.host := rfl
@[simp] theorem State.setB_picks (k : Key) (b : Bool) : (s.setB k b).picks = s.picks := rfl
@[simp] theorem State.setB_sheaf (k : Key) (b : Bool) : (s.setB k b).sheaf = s.sheaf := rfl
@[simp] theorem State.setB_memory (k : Key) (b : Bool) : (s.setB k b).memory = s.memory := rfl
@[simp] theorem State.setB_sieve (k : Key) (b : Bool) : (s.setB k b).sieve = s.sieve := rfl
@[simp] theorem State.setB_strong (k : Key) (b : Bool) : (s.setB k b).strong = s.strong := rfl
@[simp] theorem State.setB_power (k : Key) (b : Bool) : (s.setB k b).power = s.power := rfl
@[simp] theorem State.setB_mgmt (k : Key) (b : Bool) : (s.setB k b).mgmt = s.mgmt := rfl
@[simp] theorem State.setB_mem (k : Key) (b : Bool) : (s.setB k b).mem = s.mem := rfl
@[simp] theorem State.setB_flash (k : Key) (b : Bool) : (s.setB k b).flash = s.flash := rfl
@[simp] theorem State.setB_locals (k : Key) (b : Bool) : (s.setB k b).locals = s.locals := rfl
@[simp] theorem State.setB_rdata (k : Key) (b : Bool) : (s.setB k b).rdata = s.rdata := rfl
@[simp] theorem State.setB_freeCtr (k : Key) (b : Bool) : (s.setB k b).freeCtr = s.freeCtr := rfl

/-! ### State.addN -/

@[simp] theorem State.addN_pending (k : Key) (n : Nat) : (s.addN k n).pending = s.pending := rfl
@[simp] theorem State.addN_variant (k : Key) (n : Nat) : (s.addN k n).variant = s.variant := rfl
@[simp] theorem State.addN_edge (k : Key) (n : Nat) : (s.addN k n).edge = s.edge := rfl
@[simp] theorem State.addN_held (k : Key) (n : Nat) : (s.addN k n).held = s.held := rfl
@[simp] theorem State.addN_blobs (k : Key) (n : Nat) : (s.addN k n).blobs = s.blobs := rfl
@[simp] theorem State.addN_ev (k : Key) (n : Nat) : (s.addN k n).ev = s.ev := rfl
@[simp] theorem State.addN_sun (k : Key) (n : Nat) : (s.addN k n).sun = s.sun := rfl
@[simp] theorem State.addN_motor (k : Key) (n : Nat) : (s.addN k n).motor = s.motor := rfl
@[simp] theorem State.addN_acts (k : Key) (n : Nat) : (s.addN k n).acts = s.acts := rfl
@[simp] theorem State.addN_links (k : Key) (n : Nat) : (s.addN k n).links = s.links := rfl
@[simp] theorem State.addN_servo (k : Key) (n : Nat) : (s.addN k n).servo = s.servo := rfl
@[simp] theorem State.addN_chan (k : Key) (n : Nat) : (s.addN k n).chan = s.chan := rfl
@[simp] theorem State.addN_write (k : Key) (n : Nat) : (s.addN k n).write = s.write := rfl
@[simp] theorem State.addN_grants (k : Key) (n : Nat) : (s.addN k n).grants = s.grants := rfl
@[simp] theorem State.addN_deep (k : Key) (n : Nat) : (s.addN k n).deep = s.deep := rfl
@[simp] theorem State.addN_engines (k : Key) (n : Nat) : (s.addN k n).engines = s.engines := rfl
@[simp] theorem State.addN_pan (k : Key) (n : Nat) : (s.addN k n).pan = s.pan := rfl
@[simp] theorem State.addN_zones (k : Key) (n : Nat) : (s.addN k n).zones = s.zones := rfl
@[simp] theorem State.addN_host (k : Key) (n : Nat) : (s.addN k n).host = s.host := rfl
@[simp] theorem State.addN_picks (k : Key) (n : Nat) : (s.addN k n).picks = s.picks := rfl
@[simp] theorem State.addN_sheaf (k : Key) (n : Nat) : (s.addN k n).sheaf = s.sheaf := rfl
@[simp] theorem State.addN_memory (k : Key) (n : Nat) : (s.addN k n).memory = s.memory := rfl
@[simp] theorem State.addN_sieve (k : Key) (n : Nat) : (s.addN k n).sieve = s.sieve := rfl
@[simp] theorem State.addN_strong (k : Key) (n : Nat) : (s.addN k n).strong = s.strong := rfl
@[simp] theorem State.addN_power (k : Key) (n : Nat) : (s.addN k n).power = s.power := rfl
@[simp] theorem State.addN_mgmt (k : Key) (n : Nat) : (s.addN k n).mgmt = s.mgmt := rfl
@[simp] theorem State.addN_mem (k : Key) (n : Nat) : (s.addN k n).mem = s.mem := rfl
@[simp] theorem State.addN_flash (k : Key) (n : Nat) : (s.addN k n).flash = s.flash := rfl
@[simp] theorem State.addN_locals (k : Key) (n : Nat) : (s.addN k n).locals = s.locals := rfl
@[simp] theorem State.addN_rdata (k : Key) (n : Nat) : (s.addN k n).rdata = s.rdata := rfl
@[simp] theorem State.addN_freeCtr (k : Key) (n : Nat) : (s.addN k n).freeCtr = s.freeCtr := rfl

/-! ### State.inc -/

@[simp] theorem State.inc_pending (k : Key) : (s.inc k).pending = s.pending := rfl
@[simp] theorem State.inc_variant (k : Key) : (s.inc k).variant = s.variant := rfl
@[simp] theorem State.inc_edge (k : Key) : (s.inc k).edge = s.edge := rfl
@[simp] theorem State.inc_held (k : Key) : (s.inc k).held = s.held := rfl
@[simp] theorem State.inc_blobs (k : Key) : (s.inc k).blobs = s.blobs := rfl
@[simp] theorem State.inc_ev (k : Key) : (s.inc k).ev = s.ev := rfl
@[simp] theorem State.inc_sun (k : Key) : (s.inc k).sun = s.sun := rfl
@[simp] theorem State.inc_motor (k : Key) : (s.inc k).motor = s.motor := rfl
@[simp] theorem State.inc_acts (k : Key) : (s.inc k).acts = s.acts := rfl
@[simp] theorem State.inc_links (k : Key) : (s.inc k).links = s.links := rfl
@[simp] theorem State.inc_servo (k : Key) : (s.inc k).servo = s.servo := rfl
@[simp] theorem State.inc_chan (k : Key) : (s.inc k).chan = s.chan := rfl
@[simp] theorem State.inc_write (k : Key) : (s.inc k).write = s.write := rfl
@[simp] theorem State.inc_grants (k : Key) : (s.inc k).grants = s.grants := rfl
@[simp] theorem State.inc_deep (k : Key) : (s.inc k).deep = s.deep := rfl
@[simp] theorem State.inc_engines (k : Key) : (s.inc k).engines = s.engines := rfl
@[simp] theorem State.inc_pan (k : Key) : (s.inc k).pan = s.pan := rfl
@[simp] theorem State.inc_zones (k : Key) : (s.inc k).zones = s.zones := rfl
@[simp] theorem State.inc_host (k : Key) : (s.inc k).host = s.host := rfl
@[simp] theorem State.inc_picks (k : Key) : (s.inc k).picks = s.picks := rfl
@[simp] theorem State.inc_sheaf (k : Key) : (s.inc k).sheaf = s.sheaf := rfl
@[simp] theorem State.inc_memory (k : Key) : (s.inc k).memory = s.memory := rfl
@[simp] theorem State.inc_sieve (k : Key) : (s.inc k).sieve = s.sieve := rfl
@[simp] theorem State.inc_strong (k : Key) : (s.inc k).strong = s.strong := rfl
@[simp] theorem State.inc_power (k : Key) : (s.inc k).power = s.power := rfl
@[simp] theorem State.inc_mgmt (k : Key) : (s.inc k).mgmt = s.mgmt := rfl
@[simp] theorem State.inc_mem (k : Key) : (s.inc k).mem = s.mem := rfl
@[simp] theorem State.inc_flash (k : Key) : (s.inc k).flash = s.flash := rfl
@[simp] theorem State.inc_locals (k : Key) : (s.inc k).locals = s.locals := rfl
@[simp] theorem State.inc_rdata (k : Key) : (s.inc k).rdata = s.rdata := rfl
@[simp] theorem State.inc_freeCtr (k : Key) : (s.inc k).freeCtr = s.freeCtr := rfl

/-! ### State.setBitOf -/

@[simp] theorem State.setBitOf_pending (k : Key) (i : Nat) (b : Bool) : (s.setBitOf k i b).pending = s.pending := rfl
@[simp] theorem State.setBitOf_variant (k : Key) (i : Nat) (b : Bool) : (s.setBitOf k i b).variant = s.variant := rfl
@[simp] theorem State.setBitOf_edge (k : Key) (i : Nat) (b : Bool) : (s.setBitOf k i b).edge = s.edge := rfl
@[simp] theorem State.setBitOf_held (k : Key) (i : Nat) (b : Bool) : (s.setBitOf k i b).held = s.held := rfl
@[simp] theorem State.setBitOf_blobs (k : Key) (i : Nat) (b : Bool) : (s.setBitOf k i b).blobs = s.blobs := rfl
@[simp] theorem State.setBitOf_ev (k : Key) (i : Nat) (b : Bool) : (s.setBitOf k i b).ev = s.ev := rfl
@[simp] theorem State.setBitOf_sun (k : Key) (i : Nat) (b : Bool) : (s.setBitOf k i b).sun = s.sun := rfl
@[simp] theorem State.setBitOf_motor (k : Key) (i : Nat) (b : Bool) : (s.setBitOf k i b).motor = s.motor := rfl
@[simp] theorem State.setBitOf_acts (k : Key) (i : Nat) (b : Bool) : (s.setBitOf k i b).acts = s.acts := rfl
@[simp] theorem State.setBitOf_links (k : Key) (i : Nat) (b : Bool) : (s.setBitOf k i b).links = s.links := rfl
@[simp] theorem State.setBitOf_servo (k : Key) (i : Nat) (b : Bool) : (s.setBitOf k i b).servo = s.servo := rfl
@[simp] theorem State.setBitOf_chan (k : Key) (i : Nat) (b : Bool) : (s.setBitOf k i b).chan = s.chan := rfl
@[simp] theorem State.setBitOf_write (k : Key) (i : Nat) (b : Bool) : (s.setBitOf k i b).write = s.write := rfl
@[simp] theorem State.setBitOf_grants (k : Key) (i : Nat) (b : Bool) : (s.setBitOf k i b).grants = s.grants := rfl
@[simp] theorem State.setBitOf_deep (k : Key) (i : Nat) (b : Bool) : (s.setBitOf k i b).deep = s.deep := rfl
@[simp] theorem State.setBitOf_engines (k : Key) (i : Nat) (b : Bool) : (s.setBitOf k i b).engines = s.engines := rfl
@[simp] theorem State.setBitOf_pan (k : Key) (i : Nat) (b : Bool) : (s.setBitOf k i b).pan = s.pan := rfl
@[simp] theorem State.setBitOf_zones (k : Key) (i : Nat) (b : Bool) : (s.setBitOf k i b).zones = s.zones := rfl
@[simp] theorem State.setBitOf_host (k : Key) (i : Nat) (b : Bool) : (s.setBitOf k i b).host = s.host := rfl
@[simp] theorem State.setBitOf_picks (k : Key) (i : Nat) (b : Bool) : (s.setBitOf k i b).picks = s.picks := rfl
@[simp] theorem State.setBitOf_sheaf (k : Key) (i : Nat) (b : Bool) : (s.setBitOf k i b).sheaf = s.sheaf := rfl
@[simp] theorem State.setBitOf_memory (k : Key) (i : Nat) (b : Bool) : (s.setBitOf k i b).memory = s.memory := rfl
@[simp] theorem State.setBitOf_sieve (k : Key) (i : Nat) (b : Bool) : (s.setBitOf k i b).sieve = s.sieve := rfl
@[simp] theorem State.setBitOf_strong (k : Key) (i : Nat) (b : Bool) : (s.setBitOf k i b).strong = s.strong := rfl
@[simp] theorem State.setBitOf_power (k : Key) (i : Nat) (b : Bool) : (s.setBitOf k i b).power = s.power := rfl
@[simp] theorem State.setBitOf_mgmt (k : Key) (i : Nat) (b : Bool) : (s.setBitOf k i b).mgmt = s.mgmt := rfl
@[simp] theorem State.setBitOf_mem (k : Key) (i : Nat) (b : Bool) : (s.setBitOf k i b).mem = s.mem := rfl
@[simp] theorem State.setBitOf_flash (k : Key) (i : Nat) (b : Bool) : (s.setBitOf k i b).flash = s.flash := rfl
@[simp] theorem State.setBitOf_locals (k : Key) (i : Nat) (b : Bool) : (s.setBitOf k i b).locals = s.locals := rfl
@[simp] theorem State.setBitOf_rdata (k : Key) (i : Nat) (b : Bool) : (s.setBitOf k i b).rdata = s.rdata := rfl
@[simp] theorem State.setBitOf_freeCtr (k : Key) (i : Nat) (b : Bool) : (s.setBitOf k i b).freeCtr = s.freeCtr := rfl

/-! ### State.takeEdge -/

@[simp] theorem State.takeEdge_pending (p : Key → Bool) : (s.takeEdge p).pending = s.pending := rfl
@[simp] theorem State.takeEdge_variant (p : Key → Bool) : (s.takeEdge p).variant = s.variant := rfl
@[simp] theorem State.takeEdge_dict (p : Key → Bool) : (s.takeEdge p).dict = s.dict := rfl
@[simp] theorem State.takeEdge_held (p : Key → Bool) : (s.takeEdge p).held = s.held := rfl
@[simp] theorem State.takeEdge_blobs (p : Key → Bool) : (s.takeEdge p).blobs = s.blobs := rfl
@[simp] theorem State.takeEdge_ev (p : Key → Bool) : (s.takeEdge p).ev = s.ev := rfl
@[simp] theorem State.takeEdge_sun (p : Key → Bool) : (s.takeEdge p).sun = s.sun := rfl
@[simp] theorem State.takeEdge_motor (p : Key → Bool) : (s.takeEdge p).motor = s.motor := rfl
@[simp] theorem State.takeEdge_acts (p : Key → Bool) : (s.takeEdge p).acts = s.acts := rfl
@[simp] theorem State.takeEdge_links (p : Key → Bool) : (s.takeEdge p).links = s.links := rfl
@[simp] theorem State.takeEdge_servo (p : Key → Bool) : (s.takeEdge p).servo = s.servo := rfl
@[simp] theorem State.takeEdge_chan (p : Key → Bool) : (s.takeEdge p).chan = s.chan := rfl
@[simp] theorem State.takeEdge_write (p : Key → Bool) : (s.takeEdge p).write = s.write := rfl
@[simp] theorem State.takeEdge_grants (p : Key → Bool) : (s.takeEdge p).grants = s.grants := rfl
@[simp] theorem State.takeEdge_deep (p : Key → Bool) : (s.takeEdge p).deep = s.deep := rfl
@[simp] theorem State.takeEdge_engines (p : Key → Bool) : (s.takeEdge p).engines = s.engines := rfl
@[simp] theorem State.takeEdge_pan (p : Key → Bool) : (s.takeEdge p).pan = s.pan := rfl
@[simp] theorem State.takeEdge_zones (p : Key → Bool) : (s.takeEdge p).zones = s.zones := rfl
@[simp] theorem State.takeEdge_host (p : Key → Bool) : (s.takeEdge p).host = s.host := rfl
@[simp] theorem State.takeEdge_picks (p : Key → Bool) : (s.takeEdge p).picks = s.picks := rfl
@[simp] theorem State.takeEdge_sheaf (p : Key → Bool) : (s.takeEdge p).sheaf = s.sheaf := rfl
@[simp] theorem State.takeEdge_memory (p : Key → Bool) : (s.takeEdge p).memory = s.memory := rfl
@[simp] theorem State.takeEdge_sieve (p : Key → Bool) : (s.takeEdge p).sieve = s.sieve := rfl
@[simp] theorem State.takeEdge_strong (p : Key → Bool) : (s.takeEdge p).strong = s.strong := rfl
@[simp] theorem State.takeEdge_power (p : Key → Bool) : (s.takeEdge p).power = s.power := rfl
@[simp] theorem State.takeEdge_mgmt (p : Key → Bool) : (s.takeEdge p).mgmt = s.mgmt := rfl
@[simp] theorem State.takeEdge_mem (p : Key → Bool) : (s.takeEdge p).mem = s.mem := rfl
@[simp] theorem State.takeEdge_flash (p : Key → Bool) : (s.takeEdge p).flash = s.flash := rfl
@[simp] theorem State.takeEdge_locals (p : Key → Bool) : (s.takeEdge p).locals = s.locals := rfl
@[simp] theorem State.takeEdge_rdata (p : Key → Bool) : (s.takeEdge p).rdata = s.rdata := rfl
@[simp] theorem State.takeEdge_freeCtr (p : Key → Bool) : (s.takeEdge p).freeCtr = s.freeCtr := rfl
@[simp] theorem State.takeEdge_edge (p : Key → Bool) : (s.takeEdge p).edge = s.edge.filter fun e => !p e.1 := rfl

/-! ### State.store -/

@[simp] theorem State.store_pending (a : Nat) (l : List Byte) : (s.store a l).pending = s.pending := rfl
@[simp] theorem State.store_variant (a : Nat) (l : List Byte) : (s.store a l).variant = s.variant := rfl
@[simp] theorem State.store_dict (a : Nat) (l : List Byte) : (s.store a l).dict = s.dict := rfl
@[simp] theorem State.store_edge (a : Nat) (l : List Byte) : (s.store a l).edge = s.edge := rfl
@[simp] theorem State.store_held (a : Nat) (l : List Byte) : (s.store a l).held = s.held := rfl
@[simp] theorem State.store_blobs (a : Nat) (l : List Byte) : (s.store a l).blobs = s.blobs := rfl
@[simp] theorem State.store_ev (a : Nat) (l : List Byte) : (s.store a l).ev = s.ev := rfl
@[simp] theorem State.store_sun (a : Nat) (l : List Byte) : (s.store a l).sun = s.sun := rfl
@[simp] theorem State.store_motor (a : Nat) (l : List Byte) : (s.store a l).motor = s.motor := rfl
@[simp] theorem State.store_acts (a : Nat) (l : List Byte) : (s.store a l).acts = s.acts := rfl
@[simp] theorem State.store_links (a : Nat) (l : List Byte) : (s.store a l).links = s.links := rfl
@[simp] theorem State.store_servo (a : Nat) (l : List Byte) : (s.store a l).servo = s.servo := rfl
@[simp] theorem State.store_chan (a : Nat) (l : List Byte) : (s.store a l).chan = s.chan := rfl
@[simp] theorem State.store_write (a : Nat) (l : List Byte) : (s.store a l).write = s.write := rfl
@[simp] theorem State.store_grants (a : Nat) (l : List Byte) : (s.store a l).grants = s.grants := rfl
@[simp] theorem State.store_deep (a : Nat) (l : List Byte) : (s.store a l).deep = s.deep := rfl
@[simp] theorem State.store_engines (a : Nat) (l : List Byte) : (s.store a l).engines = s.engines := rfl
@[simp] theorem State.store_pan (a : Nat) (l : List Byte) : (s.store a l).pan = s.pan := rfl
@[simp] theorem State.store_zones (a : Nat) (l : List Byte) : (s.store a l).zones = s.zones := rfl
@[simp] theorem State.store_host (a : Nat) (l : List Byte) : (s.store a l).host = s.host := rfl
@[simp] theorem State.store_picks (a : Nat) (l : List Byte) : (s.store a l).picks = s.picks := rfl
@[simp] theorem State.store_sheaf (a : Nat) (l : List Byte) : (s.store a l).sheaf = s.sheaf := rfl
@[simp] theorem State.store_sieve (a : Nat) (l : List Byte) : (s.store a l).sieve = s.sieve := rfl
@[simp] theorem State.store_strong (a : Nat) (l : List Byte) : (s.store a l).strong = s.strong := rfl
@[simp] theorem State.store_power (a : Nat) (l : List Byte) : (s.store a l).power = s.power := rfl
@[simp] theorem State.store_mgmt (a : Nat) (l : List Byte) : (s.store a l).mgmt = s.mgmt := rfl
@[simp] theorem State.store_flash (a : Nat) (l : List Byte) : (s.store a l).flash = s.flash := rfl
@[simp] theorem State.store_locals (a : Nat) (l : List Byte) : (s.store a l).locals = s.locals := rfl
@[simp] theorem State.store_rdata (a : Nat) (l : List Byte) : (s.store a l).rdata = s.rdata := rfl
@[simp] theorem State.store_freeCtr (a : Nat) (l : List Byte) : (s.store a l).freeCtr = s.freeCtr := rfl
@[simp] theorem State.store_mem (a : Nat) (l : List Byte) : (s.store a l).mem = Memory.writeAll s.mem a l := rfl

/-! ### State.setAct -/

@[simp] theorem State.setAct_pending (a : Nat) (x : ActSt) : (s.setAct a x).pending = s.pending := rfl
@[simp] theorem State.setAct_variant (a : Nat) (x : ActSt) : (s.setAct a x).variant = s.variant := rfl
@[simp] theorem State.setAct_dict (a : Nat) (x : ActSt) : (s.setAct a x).dict = s.dict := rfl
@[simp] theorem State.setAct_edge (a : Nat) (x : ActSt) : (s.setAct a x).edge = s.edge := rfl
@[simp] theorem State.setAct_held (a : Nat) (x : ActSt) : (s.setAct a x).held = s.held := rfl
@[simp] theorem State.setAct_blobs (a : Nat) (x : ActSt) : (s.setAct a x).blobs = s.blobs := rfl
@[simp] theorem State.setAct_ev (a : Nat) (x : ActSt) : (s.setAct a x).ev = s.ev := rfl
@[simp] theorem State.setAct_sun (a : Nat) (x : ActSt) : (s.setAct a x).sun = s.sun := rfl
@[simp] theorem State.setAct_motor (a : Nat) (x : ActSt) : (s.setAct a x).motor = s.motor := rfl
@[simp] theorem State.setAct_links (a : Nat) (x : ActSt) : (s.setAct a x).links = s.links := rfl
@[simp] theorem State.setAct_servo (a : Nat) (x : ActSt) : (s.setAct a x).servo = s.servo := rfl
@[simp] theorem State.setAct_chan (a : Nat) (x : ActSt) : (s.setAct a x).chan = s.chan := rfl
@[simp] theorem State.setAct_write (a : Nat) (x : ActSt) : (s.setAct a x).write = s.write := rfl
@[simp] theorem State.setAct_grants (a : Nat) (x : ActSt) : (s.setAct a x).grants = s.grants := rfl
@[simp] theorem State.setAct_deep (a : Nat) (x : ActSt) : (s.setAct a x).deep = s.deep := rfl
@[simp] theorem State.setAct_engines (a : Nat) (x : ActSt) : (s.setAct a x).engines = s.engines := rfl
@[simp] theorem State.setAct_pan (a : Nat) (x : ActSt) : (s.setAct a x).pan = s.pan := rfl
@[simp] theorem State.setAct_zones (a : Nat) (x : ActSt) : (s.setAct a x).zones = s.zones := rfl
@[simp] theorem State.setAct_host (a : Nat) (x : ActSt) : (s.setAct a x).host = s.host := rfl
@[simp] theorem State.setAct_picks (a : Nat) (x : ActSt) : (s.setAct a x).picks = s.picks := rfl
@[simp] theorem State.setAct_sheaf (a : Nat) (x : ActSt) : (s.setAct a x).sheaf = s.sheaf := rfl
@[simp] theorem State.setAct_memory (a : Nat) (x : ActSt) : (s.setAct a x).memory = s.memory := rfl
@[simp] theorem State.setAct_sieve (a : Nat) (x : ActSt) : (s.setAct a x).sieve = s.sieve := rfl
@[simp] theorem State.setAct_strong (a : Nat) (x : ActSt) : (s.setAct a x).strong = s.strong := rfl
@[simp] theorem State.setAct_power (a : Nat) (x : ActSt) : (s.setAct a x).power = s.power := rfl
@[simp] theorem State.setAct_mgmt (a : Nat) (x : ActSt) : (s.setAct a x).mgmt = s.mgmt := rfl
@[simp] theorem State.setAct_mem (a : Nat) (x : ActSt) : (s.setAct a x).mem = s.mem := rfl
@[simp] theorem State.setAct_flash (a : Nat) (x : ActSt) : (s.setAct a x).flash = s.flash := rfl
@[simp] theorem State.setAct_locals (a : Nat) (x : ActSt) : (s.setAct a x).locals = s.locals := rfl
@[simp] theorem State.setAct_rdata (a : Nat) (x : ActSt) : (s.setAct a x).rdata = s.rdata := rfl
@[simp] theorem State.setAct_freeCtr (a : Nat) (x : ActSt) : (s.setAct a x).freeCtr = s.freeCtr := rfl
@[simp] theorem State.setAct_acts (a : Nat) (x : ActSt) : (s.setAct a x).acts = upd s.acts a x := rfl

/-! ### State.setLink -/

@[simp] theorem State.setLink_pending (a : Nat) (x : Link) : (s.setLink a x).pending = s.pending := rfl
@[simp] theorem State.setLink_variant (a : Nat) (x : Link) : (s.setLink a x).variant = s.variant := rfl
@[simp] theorem State.setLink_dict (a : Nat) (x : Link) : (s.setLink a x).dict = s.dict := rfl
@[simp] theorem State.setLink_edge (a : Nat) (x : Link) : (s.setLink a x).edge = s.edge := rfl
@[simp] theorem State.setLink_held (a : Nat) (x : Link) : (s.setLink a x).held = s.held := rfl
@[simp] theorem State.setLink_blobs (a : Nat) (x : Link) : (s.setLink a x).blobs = s.blobs := rfl
@[simp] theorem State.setLink_ev (a : Nat) (x : Link) : (s.setLink a x).ev = s.ev := rfl
@[simp] theorem State.setLink_sun (a : Nat) (x : Link) : (s.setLink a x).sun = s.sun := rfl
@[simp] theorem State.setLink_motor (a : Nat) (x : Link) : (s.setLink a x).motor = s.motor := rfl
@[simp] theorem State.setLink_acts (a : Nat) (x : Link) : (s.setLink a x).acts = s.acts := rfl
@[simp] theorem State.setLink_servo (a : Nat) (x : Link) : (s.setLink a x).servo = s.servo := rfl
@[simp] theorem State.setLink_chan (a : Nat) (x : Link) : (s.setLink a x).chan = s.chan := rfl
@[simp] theorem State.setLink_write (a : Nat) (x : Link) : (s.setLink a x).write = s.write := rfl
@[simp] theorem State.setLink_grants (a : Nat) (x : Link) : (s.setLink a x).grants = s.grants := rfl
@[simp] theorem State.setLink_deep (a : Nat) (x : Link) : (s.setLink a x).deep = s.deep := rfl
@[simp] theorem State.setLink_engines (a : Nat) (x : Link) : (s.setLink a x).engines = s.engines := rfl
@[simp] theorem State.setLink_pan (a : Nat) (x : Link) : (s.setLink a x).pan = s.pan := rfl
@[simp] theorem State.setLink_zones (a : Nat) (x : Link) : (s.setLink a x).zones = s.zones := rfl
@[simp] theorem State.setLink_host (a : Nat) (x : Link) : (s.setLink a x).host = s.host := rfl
@[simp] theorem State.setLink_picks (a : Nat) (x : Link) : (s.setLink a x).picks = s.picks := rfl
@[simp] theorem State.setLink_sheaf (a : Nat) (x : Link) : (s.setLink a x).sheaf = s.sheaf := rfl
@[simp] theorem State.setLink_memory (a : Nat) (x : Link) : (s.setLink a x).memory = s.memory := rfl
@[simp] theorem State.setLink_sieve (a : Nat) (x : Link) : (s.setLink a x).sieve = s.sieve := rfl
@[simp] theorem State.setLink_strong (a : Nat) (x : Link) : (s.setLink a x).strong = s.strong := rfl
@[simp] theorem State.setLink_power (a : Nat) (x : Link) : (s.setLink a x).power = s.power := rfl
@[simp] theorem State.setLink_mgmt (a : Nat) (x : Link) : (s.setLink a x).mgmt = s.mgmt := rfl
@[simp] theorem State.setLink_mem (a : Nat) (x : Link) : (s.setLink a x).mem = s.mem := rfl
@[simp] theorem State.setLink_flash (a : Nat) (x : Link) : (s.setLink a x).flash = s.flash := rfl
@[simp] theorem State.setLink_locals (a : Nat) (x : Link) : (s.setLink a x).locals = s.locals := rfl
@[simp] theorem State.setLink_rdata (a : Nat) (x : Link) : (s.setLink a x).rdata = s.rdata := rfl
@[simp] theorem State.setLink_freeCtr (a : Nat) (x : Link) : (s.setLink a x).freeCtr = s.freeCtr := rfl
@[simp] theorem State.setLink_links (a : Nat) (x : Link) : (s.setLink a x).links = upd s.links a x := rfl

/-! ### State.setSrv -/

@[simp] theorem State.setSrv_pending (q : Nat) (x : SlotServo) : (s.setSrv q x).pending = s.pending := rfl
@[simp] theorem State.setSrv_variant (q : Nat) (x : SlotServo) : (s.setSrv q x).variant = s.variant := rfl
@[simp] theorem State.setSrv_dict (q : Nat) (x : SlotServo) : (s.setSrv q x).dict = s.dict := rfl
@[simp] theorem State.setSrv_edge (q : Nat) (x : SlotServo) : (s.setSrv q x).edge = s.edge := rfl
@[simp] theorem State.setSrv_held (q : Nat) (x : SlotServo) : (s.setSrv q x).held = s.held := rfl
@[simp] theorem State.setSrv_blobs (q : Nat) (x : SlotServo) : (s.setSrv q x).blobs = s.blobs := rfl
@[simp] theorem State.setSrv_ev (q : Nat) (x : SlotServo) : (s.setSrv q x).ev = s.ev := rfl
@[simp] theorem State.setSrv_sun (q : Nat) (x : SlotServo) : (s.setSrv q x).sun = s.sun := rfl
@[simp] theorem State.setSrv_motor (q : Nat) (x : SlotServo) : (s.setSrv q x).motor = s.motor := rfl
@[simp] theorem State.setSrv_acts (q : Nat) (x : SlotServo) : (s.setSrv q x).acts = s.acts := rfl
@[simp] theorem State.setSrv_links (q : Nat) (x : SlotServo) : (s.setSrv q x).links = s.links := rfl
@[simp] theorem State.setSrv_chan (q : Nat) (x : SlotServo) : (s.setSrv q x).chan = s.chan := rfl
@[simp] theorem State.setSrv_write (q : Nat) (x : SlotServo) : (s.setSrv q x).write = s.write := rfl
@[simp] theorem State.setSrv_grants (q : Nat) (x : SlotServo) : (s.setSrv q x).grants = s.grants := rfl
@[simp] theorem State.setSrv_deep (q : Nat) (x : SlotServo) : (s.setSrv q x).deep = s.deep := rfl
@[simp] theorem State.setSrv_engines (q : Nat) (x : SlotServo) : (s.setSrv q x).engines = s.engines := rfl
@[simp] theorem State.setSrv_pan (q : Nat) (x : SlotServo) : (s.setSrv q x).pan = s.pan := rfl
@[simp] theorem State.setSrv_zones (q : Nat) (x : SlotServo) : (s.setSrv q x).zones = s.zones := rfl
@[simp] theorem State.setSrv_host (q : Nat) (x : SlotServo) : (s.setSrv q x).host = s.host := rfl
@[simp] theorem State.setSrv_picks (q : Nat) (x : SlotServo) : (s.setSrv q x).picks = s.picks := rfl
@[simp] theorem State.setSrv_sheaf (q : Nat) (x : SlotServo) : (s.setSrv q x).sheaf = s.sheaf := rfl
@[simp] theorem State.setSrv_memory (q : Nat) (x : SlotServo) : (s.setSrv q x).memory = s.memory := rfl
@[simp] theorem State.setSrv_sieve (q : Nat) (x : SlotServo) : (s.setSrv q x).sieve = s.sieve := rfl
@[simp] theorem State.setSrv_strong (q : Nat) (x : SlotServo) : (s.setSrv q x).strong = s.strong := rfl
@[simp] theorem State.setSrv_power (q : Nat) (x : SlotServo) : (s.setSrv q x).power = s.power := rfl
@[simp] theorem State.setSrv_mgmt (q : Nat) (x : SlotServo) : (s.setSrv q x).mgmt = s.mgmt := rfl
@[simp] theorem State.setSrv_mem (q : Nat) (x : SlotServo) : (s.setSrv q x).mem = s.mem := rfl
@[simp] theorem State.setSrv_flash (q : Nat) (x : SlotServo) : (s.setSrv q x).flash = s.flash := rfl
@[simp] theorem State.setSrv_locals (q : Nat) (x : SlotServo) : (s.setSrv q x).locals = s.locals := rfl
@[simp] theorem State.setSrv_rdata (q : Nat) (x : SlotServo) : (s.setSrv q x).rdata = s.rdata := rfl
@[simp] theorem State.setSrv_freeCtr (q : Nat) (x : SlotServo) : (s.setSrv q x).freeCtr = s.freeCtr := rfl
@[simp] theorem State.setSrv_servo (q : Nat) (x : SlotServo) : (s.setSrv q x).servo = upd s.servo q x := rfl

/-! ### State.setCh -/

@[simp] theorem State.setCh_pending (q : Nat) (x : Chan) : (s.setCh q x).pending = s.pending := rfl
@[simp] theorem State.setCh_variant (q : Nat) (x : Chan) : (s.setCh q x).variant = s.variant := rfl
@[simp] theorem State.setCh_dict (q : Nat) (x : Chan) : (s.setCh q x).dict = s.dict := rfl
@[simp] theorem State.setCh_edge (q : Nat) (x : Chan) : (s.setCh q x).edge = s.edge := rfl
@[simp] theorem State.setCh_held (q : Nat) (x : Chan) : (s.setCh q x).held = s.held := rfl
@[simp] theorem State.setCh_blobs (q : Nat) (x : Chan) : (s.setCh q x).blobs = s.blobs := rfl
@[simp] theorem State.setCh_ev (q : Nat) (x : Chan) : (s.setCh q x).ev = s.ev := rfl
@[simp] theorem State.setCh_sun (q : Nat) (x : Chan) : (s.setCh q x).sun = s.sun := rfl
@[simp] theorem State.setCh_motor (q : Nat) (x : Chan) : (s.setCh q x).motor = s.motor := rfl
@[simp] theorem State.setCh_acts (q : Nat) (x : Chan) : (s.setCh q x).acts = s.acts := rfl
@[simp] theorem State.setCh_links (q : Nat) (x : Chan) : (s.setCh q x).links = s.links := rfl
@[simp] theorem State.setCh_servo (q : Nat) (x : Chan) : (s.setCh q x).servo = s.servo := rfl
@[simp] theorem State.setCh_write (q : Nat) (x : Chan) : (s.setCh q x).write = s.write := rfl
@[simp] theorem State.setCh_grants (q : Nat) (x : Chan) : (s.setCh q x).grants = s.grants := rfl
@[simp] theorem State.setCh_deep (q : Nat) (x : Chan) : (s.setCh q x).deep = s.deep := rfl
@[simp] theorem State.setCh_engines (q : Nat) (x : Chan) : (s.setCh q x).engines = s.engines := rfl
@[simp] theorem State.setCh_pan (q : Nat) (x : Chan) : (s.setCh q x).pan = s.pan := rfl
@[simp] theorem State.setCh_zones (q : Nat) (x : Chan) : (s.setCh q x).zones = s.zones := rfl
@[simp] theorem State.setCh_host (q : Nat) (x : Chan) : (s.setCh q x).host = s.host := rfl
@[simp] theorem State.setCh_picks (q : Nat) (x : Chan) : (s.setCh q x).picks = s.picks := rfl
@[simp] theorem State.setCh_sheaf (q : Nat) (x : Chan) : (s.setCh q x).sheaf = s.sheaf := rfl
@[simp] theorem State.setCh_memory (q : Nat) (x : Chan) : (s.setCh q x).memory = s.memory := rfl
@[simp] theorem State.setCh_sieve (q : Nat) (x : Chan) : (s.setCh q x).sieve = s.sieve := rfl
@[simp] theorem State.setCh_strong (q : Nat) (x : Chan) : (s.setCh q x).strong = s.strong := rfl
@[simp] theorem State.setCh_power (q : Nat) (x : Chan) : (s.setCh q x).power = s.power := rfl
@[simp] theorem State.setCh_mgmt (q : Nat) (x : Chan) : (s.setCh q x).mgmt = s.mgmt := rfl
@[simp] theorem State.setCh_mem (q : Nat) (x : Chan) : (s.setCh q x).mem = s.mem := rfl
@[simp] theorem State.setCh_flash (q : Nat) (x : Chan) : (s.setCh q x).flash = s.flash := rfl
@[simp] theorem State.setCh_locals (q : Nat) (x : Chan) : (s.setCh q x).locals = s.locals := rfl
@[simp] theorem State.setCh_rdata (q : Nat) (x : Chan) : (s.setCh q x).rdata = s.rdata := rfl
@[simp] theorem State.setCh_freeCtr (q : Nat) (x : Chan) : (s.setCh q x).freeCtr = s.freeCtr := rfl
@[simp] theorem State.setCh_chan (q : Nat) (x : Chan) : (s.setCh q x).chan = upd s.chan q x := rfl

/-! ### State.setWr -/

@[simp] theorem State.setWr_pending (q : Nat) (x : WriteSt) : (s.setWr q x).pending = s.pending := rfl
@[simp] theorem State.setWr_variant (q : Nat) (x : WriteSt) : (s.setWr q x).variant = s.variant := rfl
@[simp] theorem State.setWr_dict (q : Nat) (x : WriteSt) : (s.setWr q x).dict = s.dict := rfl
@[simp] theorem State.setWr_edge (q : Nat) (x : WriteSt) : (s.setWr q x).edge = s.edge := rfl
@[simp] theorem State.setWr_held (q : Nat) (x : WriteSt) : (s.setWr q x).held = s.held := rfl
@[simp] theorem State.setWr_blobs (q : Nat) (x : WriteSt) : (s.setWr q x).blobs = s.blobs := rfl
@[simp] theorem State.setWr_ev (q : Nat) (x : WriteSt) : (s.setWr q x).ev = s.ev := rfl
@[simp] theorem State.setWr_sun (q : Nat) (x : WriteSt) : (s.setWr q x).sun = s.sun := rfl
@[simp] theorem State.setWr_motor (q : Nat) (x : WriteSt) : (s.setWr q x).motor = s.motor := rfl
@[simp] theorem State.setWr_acts (q : Nat) (x : WriteSt) : (s.setWr q x).acts = s.acts := rfl
@[simp] theorem State.setWr_links (q : Nat) (x : WriteSt) : (s.setWr q x).links = s.links := rfl
@[simp] theorem State.setWr_servo (q : Nat) (x : WriteSt) : (s.setWr q x).servo = s.servo := rfl
@[simp] theorem State.setWr_chan (q : Nat) (x : WriteSt) : (s.setWr q x).chan = s.chan := rfl
@[simp] theorem State.setWr_grants (q : Nat) (x : WriteSt) : (s.setWr q x).grants = s.grants := rfl
@[simp] theorem State.setWr_deep (q : Nat) (x : WriteSt) : (s.setWr q x).deep = s.deep := rfl
@[simp] theorem State.setWr_engines (q : Nat) (x : WriteSt) : (s.setWr q x).engines = s.engines := rfl
@[simp] theorem State.setWr_pan (q : Nat) (x : WriteSt) : (s.setWr q x).pan = s.pan := rfl
@[simp] theorem State.setWr_zones (q : Nat) (x : WriteSt) : (s.setWr q x).zones = s.zones := rfl
@[simp] theorem State.setWr_host (q : Nat) (x : WriteSt) : (s.setWr q x).host = s.host := rfl
@[simp] theorem State.setWr_picks (q : Nat) (x : WriteSt) : (s.setWr q x).picks = s.picks := rfl
@[simp] theorem State.setWr_sheaf (q : Nat) (x : WriteSt) : (s.setWr q x).sheaf = s.sheaf := rfl
@[simp] theorem State.setWr_memory (q : Nat) (x : WriteSt) : (s.setWr q x).memory = s.memory := rfl
@[simp] theorem State.setWr_sieve (q : Nat) (x : WriteSt) : (s.setWr q x).sieve = s.sieve := rfl
@[simp] theorem State.setWr_strong (q : Nat) (x : WriteSt) : (s.setWr q x).strong = s.strong := rfl
@[simp] theorem State.setWr_power (q : Nat) (x : WriteSt) : (s.setWr q x).power = s.power := rfl
@[simp] theorem State.setWr_mgmt (q : Nat) (x : WriteSt) : (s.setWr q x).mgmt = s.mgmt := rfl
@[simp] theorem State.setWr_mem (q : Nat) (x : WriteSt) : (s.setWr q x).mem = s.mem := rfl
@[simp] theorem State.setWr_flash (q : Nat) (x : WriteSt) : (s.setWr q x).flash = s.flash := rfl
@[simp] theorem State.setWr_locals (q : Nat) (x : WriteSt) : (s.setWr q x).locals = s.locals := rfl
@[simp] theorem State.setWr_rdata (q : Nat) (x : WriteSt) : (s.setWr q x).rdata = s.rdata := rfl
@[simp] theorem State.setWr_freeCtr (q : Nat) (x : WriteSt) : (s.setWr q x).freeCtr = s.freeCtr := rfl
@[simp] theorem State.setWr_write (q : Nat) (x : WriteSt) : (s.setWr q x).write = upd s.write q x := rfl

/-! ### State.setEng -/

@[simp] theorem State.setEng_pending (n : Nat) (x : Engine) : (s.setEng n x).pending = s.pending := rfl
@[simp] theorem State.setEng_variant (n : Nat) (x : Engine) : (s.setEng n x).variant = s.variant := rfl
@[simp] theorem State.setEng_dict (n : Nat) (x : Engine) : (s.setEng n x).dict = s.dict := rfl
@[simp] theorem State.setEng_edge (n : Nat) (x : Engine) : (s.setEng n x).edge = s.edge := rfl
@[simp] theorem State.setEng_held (n : Nat) (x : Engine) : (s.setEng n x).held = s.held := rfl
@[simp] theorem State.setEng_blobs (n : Nat) (x : Engine) : (s.setEng n x).blobs = s.blobs := rfl
@[simp] theorem State.setEng_ev (n : Nat) (x : Engine) : (s.setEng n x).ev = s.ev := rfl
@[simp] theorem State.setEng_sun (n : Nat) (x : Engine) : (s.setEng n x).sun = s.sun := rfl
@[simp] theorem State.setEng_motor (n : Nat) (x : Engine) : (s.setEng n x).motor = s.motor := rfl
@[simp] theorem State.setEng_acts (n : Nat) (x : Engine) : (s.setEng n x).acts = s.acts := rfl
@[simp] theorem State.setEng_links (n : Nat) (x : Engine) : (s.setEng n x).links = s.links := rfl
@[simp] theorem State.setEng_servo (n : Nat) (x : Engine) : (s.setEng n x).servo = s.servo := rfl
@[simp] theorem State.setEng_chan (n : Nat) (x : Engine) : (s.setEng n x).chan = s.chan := rfl
@[simp] theorem State.setEng_write (n : Nat) (x : Engine) : (s.setEng n x).write = s.write := rfl
@[simp] theorem State.setEng_grants (n : Nat) (x : Engine) : (s.setEng n x).grants = s.grants := rfl
@[simp] theorem State.setEng_deep (n : Nat) (x : Engine) : (s.setEng n x).deep = s.deep := rfl
@[simp] theorem State.setEng_pan (n : Nat) (x : Engine) : (s.setEng n x).pan = s.pan := rfl
@[simp] theorem State.setEng_zones (n : Nat) (x : Engine) : (s.setEng n x).zones = s.zones := rfl
@[simp] theorem State.setEng_host (n : Nat) (x : Engine) : (s.setEng n x).host = s.host := rfl
@[simp] theorem State.setEng_picks (n : Nat) (x : Engine) : (s.setEng n x).picks = s.picks := rfl
@[simp] theorem State.setEng_sheaf (n : Nat) (x : Engine) : (s.setEng n x).sheaf = s.sheaf := rfl
@[simp] theorem State.setEng_memory (n : Nat) (x : Engine) : (s.setEng n x).memory = s.memory := rfl
@[simp] theorem State.setEng_sieve (n : Nat) (x : Engine) : (s.setEng n x).sieve = s.sieve := rfl
@[simp] theorem State.setEng_strong (n : Nat) (x : Engine) : (s.setEng n x).strong = s.strong := rfl
@[simp] theorem State.setEng_power (n : Nat) (x : Engine) : (s.setEng n x).power = s.power := rfl
@[simp] theorem State.setEng_mgmt (n : Nat) (x : Engine) : (s.setEng n x).mgmt = s.mgmt := rfl
@[simp] theorem State.setEng_mem (n : Nat) (x : Engine) : (s.setEng n x).mem = s.mem := rfl
@[simp] theorem State.setEng_flash (n : Nat) (x : Engine) : (s.setEng n x).flash = s.flash := rfl
@[simp] theorem State.setEng_locals (n : Nat) (x : Engine) : (s.setEng n x).locals = s.locals := rfl
@[simp] theorem State.setEng_rdata (n : Nat) (x : Engine) : (s.setEng n x).rdata = s.rdata := rfl
@[simp] theorem State.setEng_freeCtr (n : Nat) (x : Engine) : (s.setEng n x).freeCtr = s.freeCtr := rfl
@[simp] theorem State.setEng_engines (n : Nat) (x : Engine) : (s.setEng n x).engines = upd s.engines n x := rfl

/-! ### State.setPick -/

@[simp] theorem State.setPick_pending (a : Nat) (x : PickSt) : (s.setPick a x).pending = s.pending := rfl
@[simp] theorem State.setPick_variant (a : Nat) (x : PickSt) : (s.setPick a x).variant = s.variant := rfl
@[simp] theorem State.setPick_dict (a : Nat) (x : PickSt) : (s.setPick a x).dict = s.dict := rfl
@[simp] theorem State.setPick_edge (a : Nat) (x : PickSt) : (s.setPick a x).edge = s.edge := rfl
@[simp] theorem State.setPick_held (a : Nat) (x : PickSt) : (s.setPick a x).held = s.held := rfl
@[simp] theorem State.setPick_blobs (a : Nat) (x : PickSt) : (s.setPick a x).blobs = s.blobs := rfl
@[simp] theorem State.setPick_ev (a : Nat) (x : PickSt) : (s.setPick a x).ev = s.ev := rfl
@[simp] theorem State.setPick_sun (a : Nat) (x : PickSt) : (s.setPick a x).sun = s.sun := rfl
@[simp] theorem State.setPick_motor (a : Nat) (x : PickSt) : (s.setPick a x).motor = s.motor := rfl
@[simp] theorem State.setPick_acts (a : Nat) (x : PickSt) : (s.setPick a x).acts = s.acts := rfl
@[simp] theorem State.setPick_links (a : Nat) (x : PickSt) : (s.setPick a x).links = s.links := rfl
@[simp] theorem State.setPick_servo (a : Nat) (x : PickSt) : (s.setPick a x).servo = s.servo := rfl
@[simp] theorem State.setPick_chan (a : Nat) (x : PickSt) : (s.setPick a x).chan = s.chan := rfl
@[simp] theorem State.setPick_write (a : Nat) (x : PickSt) : (s.setPick a x).write = s.write := rfl
@[simp] theorem State.setPick_grants (a : Nat) (x : PickSt) : (s.setPick a x).grants = s.grants := rfl
@[simp] theorem State.setPick_deep (a : Nat) (x : PickSt) : (s.setPick a x).deep = s.deep := rfl
@[simp] theorem State.setPick_engines (a : Nat) (x : PickSt) : (s.setPick a x).engines = s.engines := rfl
@[simp] theorem State.setPick_pan (a : Nat) (x : PickSt) : (s.setPick a x).pan = s.pan := rfl
@[simp] theorem State.setPick_zones (a : Nat) (x : PickSt) : (s.setPick a x).zones = s.zones := rfl
@[simp] theorem State.setPick_host (a : Nat) (x : PickSt) : (s.setPick a x).host = s.host := rfl
@[simp] theorem State.setPick_sheaf (a : Nat) (x : PickSt) : (s.setPick a x).sheaf = s.sheaf := rfl
@[simp] theorem State.setPick_memory (a : Nat) (x : PickSt) : (s.setPick a x).memory = s.memory := rfl
@[simp] theorem State.setPick_sieve (a : Nat) (x : PickSt) : (s.setPick a x).sieve = s.sieve := rfl
@[simp] theorem State.setPick_strong (a : Nat) (x : PickSt) : (s.setPick a x).strong = s.strong := rfl
@[simp] theorem State.setPick_power (a : Nat) (x : PickSt) : (s.setPick a x).power = s.power := rfl
@[simp] theorem State.setPick_mgmt (a : Nat) (x : PickSt) : (s.setPick a x).mgmt = s.mgmt := rfl
@[simp] theorem State.setPick_mem (a : Nat) (x : PickSt) : (s.setPick a x).mem = s.mem := rfl
@[simp] theorem State.setPick_flash (a : Nat) (x : PickSt) : (s.setPick a x).flash = s.flash := rfl
@[simp] theorem State.setPick_locals (a : Nat) (x : PickSt) : (s.setPick a x).locals = s.locals := rfl
@[simp] theorem State.setPick_rdata (a : Nat) (x : PickSt) : (s.setPick a x).rdata = s.rdata := rfl
@[simp] theorem State.setPick_freeCtr (a : Nat) (x : PickSt) : (s.setPick a x).freeCtr = s.freeCtr := rfl
@[simp] theorem State.setPick_picks (a : Nat) (x : PickSt) : (s.setPick a x).picks = upd s.picks a x := rfl

/-! ### State.setSieveEng -/

@[simp] theorem State.setSieveEng_pending (n : Nat) (x : SieveEng) : (s.setSieveEng n x).pending = s.pending := rfl
@[simp] theorem State.setSieveEng_variant (n : Nat) (x : SieveEng) : (s.setSieveEng n x).variant = s.variant := rfl
@[simp] theorem State.setSieveEng_dict (n : Nat) (x : SieveEng) : (s.setSieveEng n x).dict = s.dict := rfl
@[simp] theorem State.setSieveEng_edge (n : Nat) (x : SieveEng) : (s.setSieveEng n x).edge = s.edge := rfl
@[simp] theorem State.setSieveEng_held (n : Nat) (x : SieveEng) : (s.setSieveEng n x).held = s.held := rfl
@[simp] theorem State.setSieveEng_blobs (n : Nat) (x : SieveEng) : (s.setSieveEng n x).blobs = s.blobs := rfl
@[simp] theorem State.setSieveEng_ev (n : Nat) (x : SieveEng) : (s.setSieveEng n x).ev = s.ev := rfl
@[simp] theorem State.setSieveEng_sun (n : Nat) (x : SieveEng) : (s.setSieveEng n x).sun = s.sun := rfl
@[simp] theorem State.setSieveEng_motor (n : Nat) (x : SieveEng) : (s.setSieveEng n x).motor = s.motor := rfl
@[simp] theorem State.setSieveEng_acts (n : Nat) (x : SieveEng) : (s.setSieveEng n x).acts = s.acts := rfl
@[simp] theorem State.setSieveEng_links (n : Nat) (x : SieveEng) : (s.setSieveEng n x).links = s.links := rfl
@[simp] theorem State.setSieveEng_servo (n : Nat) (x : SieveEng) : (s.setSieveEng n x).servo = s.servo := rfl
@[simp] theorem State.setSieveEng_chan (n : Nat) (x : SieveEng) : (s.setSieveEng n x).chan = s.chan := rfl
@[simp] theorem State.setSieveEng_write (n : Nat) (x : SieveEng) : (s.setSieveEng n x).write = s.write := rfl
@[simp] theorem State.setSieveEng_grants (n : Nat) (x : SieveEng) : (s.setSieveEng n x).grants = s.grants := rfl
@[simp] theorem State.setSieveEng_deep (n : Nat) (x : SieveEng) : (s.setSieveEng n x).deep = s.deep := rfl
@[simp] theorem State.setSieveEng_engines (n : Nat) (x : SieveEng) : (s.setSieveEng n x).engines = s.engines := rfl
@[simp] theorem State.setSieveEng_pan (n : Nat) (x : SieveEng) : (s.setSieveEng n x).pan = s.pan := rfl
@[simp] theorem State.setSieveEng_zones (n : Nat) (x : SieveEng) : (s.setSieveEng n x).zones = s.zones := rfl
@[simp] theorem State.setSieveEng_host (n : Nat) (x : SieveEng) : (s.setSieveEng n x).host = s.host := rfl
@[simp] theorem State.setSieveEng_picks (n : Nat) (x : SieveEng) : (s.setSieveEng n x).picks = s.picks := rfl
@[simp] theorem State.setSieveEng_sheaf (n : Nat) (x : SieveEng) : (s.setSieveEng n x).sheaf = s.sheaf := rfl
@[simp] theorem State.setSieveEng_memory (n : Nat) (x : SieveEng) : (s.setSieveEng n x).memory = s.memory := rfl
@[simp] theorem State.setSieveEng_strong (n : Nat) (x : SieveEng) : (s.setSieveEng n x).strong = s.strong := rfl
@[simp] theorem State.setSieveEng_power (n : Nat) (x : SieveEng) : (s.setSieveEng n x).power = s.power := rfl
@[simp] theorem State.setSieveEng_mgmt (n : Nat) (x : SieveEng) : (s.setSieveEng n x).mgmt = s.mgmt := rfl
@[simp] theorem State.setSieveEng_mem (n : Nat) (x : SieveEng) : (s.setSieveEng n x).mem = s.mem := rfl
@[simp] theorem State.setSieveEng_flash (n : Nat) (x : SieveEng) : (s.setSieveEng n x).flash = s.flash := rfl
@[simp] theorem State.setSieveEng_locals (n : Nat) (x : SieveEng) : (s.setSieveEng n x).locals = s.locals := rfl
@[simp] theorem State.setSieveEng_rdata (n : Nat) (x : SieveEng) : (s.setSieveEng n x).rdata = s.rdata := rfl
@[simp] theorem State.setSieveEng_freeCtr (n : Nat) (x : SieveEng) : (s.setSieveEng n x).freeCtr = s.freeCtr := rfl

/-! ### State.drawn -/

@[simp] theorem State.drawn_pending : s.drawn.pending = s.pending := rfl
@[simp] theorem State.drawn_variant : s.drawn.variant = s.variant := rfl
@[simp] theorem State.drawn_dict : s.drawn.dict = s.dict := rfl
@[simp] theorem State.drawn_edge : s.drawn.edge = s.edge := rfl
@[simp] theorem State.drawn_held : s.drawn.held = s.held := rfl
@[simp] theorem State.drawn_blobs : s.drawn.blobs = s.blobs := rfl
@[simp] theorem State.drawn_ev : s.drawn.ev = s.ev := rfl
@[simp] theorem State.drawn_sun : s.drawn.sun = s.sun := rfl
@[simp] theorem State.drawn_motor : s.drawn.motor = s.motor := rfl
@[simp] theorem State.drawn_acts : s.drawn.acts = s.acts := rfl
@[simp] theorem State.drawn_links : s.drawn.links = s.links := rfl
@[simp] theorem State.drawn_servo : s.drawn.servo = s.servo := rfl
@[simp] theorem State.drawn_chan : s.drawn.chan = s.chan := rfl
@[simp] theorem State.drawn_write : s.drawn.write = s.write := rfl
@[simp] theorem State.drawn_grants : s.drawn.grants = s.grants := rfl
@[simp] theorem State.drawn_deep : s.drawn.deep = s.deep := rfl
@[simp] theorem State.drawn_engines : s.drawn.engines = s.engines := rfl
@[simp] theorem State.drawn_pan : s.drawn.pan = s.pan := rfl
@[simp] theorem State.drawn_zones : s.drawn.zones = s.zones := rfl
@[simp] theorem State.drawn_host : s.drawn.host = s.host := rfl
@[simp] theorem State.drawn_picks : s.drawn.picks = s.picks := rfl
@[simp] theorem State.drawn_sheaf : s.drawn.sheaf = s.sheaf := rfl
@[simp] theorem State.drawn_memory : s.drawn.memory = s.memory := rfl
@[simp] theorem State.drawn_sieve : s.drawn.sieve = s.sieve := rfl
@[simp] theorem State.drawn_strong : s.drawn.strong = s.strong := rfl
@[simp] theorem State.drawn_power : s.drawn.power = s.power := rfl
@[simp] theorem State.drawn_mgmt : s.drawn.mgmt = s.mgmt := rfl
@[simp] theorem State.drawn_mem : s.drawn.mem = s.mem := rfl
@[simp] theorem State.drawn_flash : s.drawn.flash = s.flash := rfl
@[simp] theorem State.drawn_locals : s.drawn.locals = s.locals := rfl
@[simp] theorem State.drawn_rdata : s.drawn.rdata = s.rdata := rfl
@[simp] theorem State.drawn_freeCtr : s.drawn.freeCtr = s.freeCtr + 1 := rfl

/-! ### State.deliver -/

@[simp] theorem State.deliver_pending (m : Nat) (w : Word) : (s.deliver m w).pending = s.pending := rfl
@[simp] theorem State.deliver_variant (m : Nat) (w : Word) : (s.deliver m w).variant = s.variant := rfl
@[simp] theorem State.deliver_dict (m : Nat) (w : Word) : (s.deliver m w).dict = s.dict := rfl
@[simp] theorem State.deliver_edge (m : Nat) (w : Word) : (s.deliver m w).edge = s.edge := rfl
@[simp] theorem State.deliver_held (m : Nat) (w : Word) : (s.deliver m w).held = s.held := rfl
@[simp] theorem State.deliver_blobs (m : Nat) (w : Word) : (s.deliver m w).blobs = s.blobs := rfl
@[simp] theorem State.deliver_ev (m : Nat) (w : Word) : (s.deliver m w).ev = s.ev := rfl
@[simp] theorem State.deliver_sun (m : Nat) (w : Word) : (s.deliver m w).sun = s.sun := rfl
@[simp] theorem State.deliver_motor (m : Nat) (w : Word) : (s.deliver m w).motor = s.motor := rfl
@[simp] theorem State.deliver_acts (m : Nat) (w : Word) : (s.deliver m w).acts = s.acts := rfl
@[simp] theorem State.deliver_links (m : Nat) (w : Word) : (s.deliver m w).links = s.links := rfl
@[simp] theorem State.deliver_servo (m : Nat) (w : Word) : (s.deliver m w).servo = s.servo := rfl
@[simp] theorem State.deliver_chan (m : Nat) (w : Word) : (s.deliver m w).chan = s.chan := rfl
@[simp] theorem State.deliver_write (m : Nat) (w : Word) : (s.deliver m w).write = s.write := rfl
@[simp] theorem State.deliver_grants (m : Nat) (w : Word) : (s.deliver m w).grants = s.grants := rfl
@[simp] theorem State.deliver_deep (m : Nat) (w : Word) : (s.deliver m w).deep = s.deep := rfl
@[simp] theorem State.deliver_engines (m : Nat) (w : Word) : (s.deliver m w).engines = s.engines := rfl
@[simp] theorem State.deliver_pan (m : Nat) (w : Word) : (s.deliver m w).pan = s.pan := rfl
@[simp] theorem State.deliver_zones (m : Nat) (w : Word) : (s.deliver m w).zones = s.zones := rfl
@[simp] theorem State.deliver_host (m : Nat) (w : Word) : (s.deliver m w).host = s.host := rfl
@[simp] theorem State.deliver_picks (m : Nat) (w : Word) : (s.deliver m w).picks = s.picks := rfl
@[simp] theorem State.deliver_sheaf (m : Nat) (w : Word) : (s.deliver m w).sheaf = s.sheaf := rfl
@[simp] theorem State.deliver_memory (m : Nat) (w : Word) : (s.deliver m w).memory = s.memory := rfl
@[simp] theorem State.deliver_sieve (m : Nat) (w : Word) : (s.deliver m w).sieve = s.sieve := rfl
@[simp] theorem State.deliver_strong (m : Nat) (w : Word) : (s.deliver m w).strong = s.strong := rfl
@[simp] theorem State.deliver_power (m : Nat) (w : Word) : (s.deliver m w).power = s.power := rfl
@[simp] theorem State.deliver_mgmt (m : Nat) (w : Word) : (s.deliver m w).mgmt = s.mgmt := rfl
@[simp] theorem State.deliver_mem (m : Nat) (w : Word) : (s.deliver m w).mem = s.mem := rfl
@[simp] theorem State.deliver_flash (m : Nat) (w : Word) : (s.deliver m w).flash = s.flash := rfl
@[simp] theorem State.deliver_locals (m : Nat) (w : Word) : (s.deliver m w).locals = s.locals := rfl
@[simp] theorem State.deliver_freeCtr (m : Nat) (w : Word) : (s.deliver m w).freeCtr = s.freeCtr := rfl
@[simp] theorem State.deliver_rdata (m : Nat) (w : Word) : (s.deliver m w).rdata = Sp.put s.rdata m w := rfl

end Sys2Proof.Machine
end

