-- ==== Sys2Proof/Laws/Ops.lean ====
section
/-! SUPPORT. What the shared operations do, said once: a read of an object after a write of one, the arrays of units, and a
write of an object by a master (spec/17 R382-R392). -/

namespace Sys2Proof.Machine

variable (s : State)

/-! ### Objects -/

/-- A key's value in a map after a value is set there. -/
theorem dictPut_getD (v : Variant) (d : Sp Word) (k j : Key) (w : Word) :
    (Sp.get (dictPut v d k w) j).getD (defaultOf v j) = if j = k then w else (Sp.get d j).getD (defaultOf v j) := by
  unfold dictPut
  by_cases hw : w = defaultOf v k <;> by_cases hj : j = k
  · subst hj; simp [hw]
  · simp [hw, hj, sp_get_del_ne _ _ _ hj]
  · subst hj; simp [hw]
  · simp [hw, hj, sp_get_put_ne _ _ _ _ hj]

/-- An object after a write of one. -/
theorem State.obj_set (k j : Key) (w : Word) : (s.set k w).obj j = if j = k then w else s.obj j := dictPut_getD _ _ _ _ _

@[simp] theorem State.obj_set_self (k : Key) (w : Word) : (s.set k w).obj k = w := by simp [State.obj_set]
@[simp] theorem State.obj_setN_self (k : Key) (n : Nat) : (s.setN k n).obj k = BitVec.ofNat 64 n := State.obj_set_self _ _ _
@[simp] theorem State.obj_setI_self (k : Key) (i : Int) : (s.setI k i).obj k = BitVec.ofInt 64 i := State.obj_set_self _ _ _
@[simp] theorem State.flag_setB_self (k : Key) (b : Bool) : (s.setB k b).flag k = b := by
  cases b <;> simp [State.flag, State.setB]
/-- An object holds a number below 2^64 as it was set. -/
theorem State.nat_setN_self (k : Key) (n : Nat) (h : n < 2 ^ 64) : (s.setN k n).nat k = n := by
  simp only [State.nat, State.obj_setN_self, BitVec.toNat_ofNat]; exact Nat.mod_eq_of_lt h

theorem State.obj_set_ne {k j : Key} (w : Word) (h : j ≠ k) : (s.set k w).obj j = s.obj j := by simp [State.obj_set, h]
theorem State.obj_setN_ne {k j : Key} (n : Nat) (h : j ≠ k) : (s.setN k n).obj j = s.obj j := State.obj_set_ne _ _ h
theorem State.obj_setI_ne {k j : Key} (i : Int) (h : j ≠ k) : (s.setI k i).obj j = s.obj j := State.obj_set_ne _ _ h
theorem State.obj_setB_ne {k j : Key} (b : Bool) (h : j ≠ k) : (s.setB k b).obj j = s.obj j := State.obj_set_ne _ _ h
theorem State.obj_addN_ne {k j : Key} (n : Nat) (h : j ≠ k) : (s.addN k n).obj j = s.obj j := State.obj_set_ne _ _ h
theorem State.obj_inc_ne {k j : Key} (h : j ≠ k) : (s.inc k).obj j = s.obj j := State.obj_set_ne _ _ h

theorem sat32_le (n : Nat) : sat32 n ≤ 0xFFFFFFFF := by unfold sat32; split <;> omega

/-- A counter after an addition (R52). -/
theorem State.nat_addN_self (k : Key) (n : Nat) : (s.addN k n).nat k = sat32 (s.nat k + n) :=
  State.nat_setN_self _ _ _ (lt_of_le_of_lt (sat32_le _) (by norm_num))
theorem State.nat_inc_self (k : Key) : (s.inc k).nat k = sat32 (s.nat k + 1) := State.nat_addN_self _ _ _

/-- An object that none of the updates of the other parts of the state touches. -/
theorem State.obj_congr {s t : State} (hv : t.variant = s.variant) (hd : t.dict = s.dict) (k : Key) : t.obj k = s.obj k := by
  simp [State.obj, hv, hd]

/-! ### Arrays of units -/

theorem at'_upd_self {α : Type} {n : Nat} (v : Vector α n) (i : Nat) (x d : α) (h : i < n) : at' (upd v i x) i d = x := by
  simp [at', upd, h]
theorem at'_upd_ne {α : Type} {n : Nat} (v : Vector α n) (i j : Nat) (x d : α) (h : j ≠ i) :
    at' (upd v i x) j d = at' v j d := by
  simp [at', upd, Array.getElem?_setIfInBounds, Ne.symm h]

/-! ### Memory -/

/-- A byte outside the bytes stored reads as before. -/
theorem State.store_read_out (a c : Nat) (l : List Byte) (h : c < a ∨ a + l.length ≤ c) :
    Memory.read (s.store a l).mem c = Memory.read s.mem c := memory_read_writeAll_out _ _ _ _ h

/-- A byte stored reads as stored. -/
theorem State.store_read_in (a i : Nat) (l : List Byte) (h : i < l.length) :
    Memory.read (s.store a l).mem (a + i) = l[i] := memory_read_writeAll_in _ _ _ _ h

/-! ### A write of an object by a master -/

/-- An accepted write of a value other than 0 is the write without an action, then the action (R382). -/
theorem kwrite_act {m : Nat} {k : Key} {v : Word} {f : State → State} (h : accepts s m k v = true) (hv : v ≠ 0) :
    kwrite s m k v f = f (kwrite s m k v id) := by
  have h : writeStatus s m (k / 256) (k % 256) v true = .ok := by simpa [accepts] using h
  simp only [kwrite, dwrite, finishWrite, h]
  have ho : objNow s (aliasIndex (k / 256)) (k % 256) ≠ none := by
    intro h0; simp only [writeStatus, h0] at h
    split at h
    · split at h <;> cases h
    · cases h
  rcases hr : objNow s (aliasIndex (k / 256)) (k % 256) with _ | r
  · exact absurd hr ho
  · simp only [hv, and_false, if_false, id]

/-- The same for an object of the access RW, whatever the value. -/
theorem kwrite_act_rw {m : Nat} {k : Key} {v : Word} {f : State → State} {r : ObjRow} (h : accepts s m k v = true)
    (hr : objNow s (aliasIndex (k / 256)) (k % 256) = some r) (ha : r.acc = .rw) :
    kwrite s m k v f = f (kwrite s m k v id) := by
  have h : writeStatus s m (k / 256) (k % 256) v true = .ok := by simpa [accepts] using h
  simp [kwrite, dwrite, finishWrite, h, hr, ha]

/-- A write that is not accepted carries out no action. -/
theorem kwrite_refused {m : Nat} {k : Key} {v : Word} (f g : State → State) (h : accepts s m k v = false) :
    kwrite s m k v f = kwrite s m k v g := by
  have h : writeStatus s m (k / 256) (k % 256) v true ≠ .ok := by simpa [accepts] using h
  simp only [kwrite, dwrite, finishWrite]
  split <;> simp_all

/-- What a write without an action leaves of the state: values, values in force and held words differ. -/
def WriteShape (s t : State) : Prop := ∃ d e h, t = { s with dict := d, edge := e, held := h }

theorem WriteShape.trans {s t u : State} (h1 : WriteShape s t) (h2 : WriteShape t u) : WriteShape s u := by
  obtain ⟨d, e, h, rfl⟩ := h1; obtain ⟨d', e', h', rfl⟩ := h2
  exact ⟨d', e', h', rfl⟩

theorem set_shape (k : Key) (w : Word) : WriteShape s (s.set k w) := ⟨_, _, _, rfl⟩

theorem storeObj_shape (r : ObjRow) (k : Key) (v : Word) : WriteShape s (storeObj s r k v) := by
  unfold storeObj
  split
  · split <;> exact ⟨_, _, _, rfl⟩
  · exact set_shape _ _ _

theorem acceptStore_shape (r : ObjRow) (k : Key) (v : Word) : WriteShape s (acceptStore s r k v) := by
  unfold acceptStore
  split
  · split
    · exact ⟨_, _, _, rfl⟩
    · exact storeObj_shape _ _ _ _
  · exact set_shape _ _ _
  · exact ⟨_, _, _, rfl⟩

theorem recordStatus_shape (m i sub : Nat) (d : DStatus) : WriteShape s (recordStatus s m i sub d) := set_shape _ _ _
theorem dropHeld_shape (m : Nat) (k : Key) (b : Bool) : WriteShape s (dropHeld s m k b) := ⟨_, _, _, rfl⟩

/-- A write without an action changes values, values in force and held words only. -/
theorem kwrite_id_shape (m : Nat) (k : Key) (v : Word) : WriteShape s (kwrite s m k v id) := by
  unfold kwrite dwrite finishWrite
  extract_lets i' k' t
  have ht : WriteShape s t := (dropHeld_shape _ _ _ _).trans (recordStatus_shape _ _ _ _ _)
  clear_value t
  split
  · split
    · exact ht
    · split
      · exact ht
      · exact ht.trans (acceptStore_shape _ _ _ _)
  · exact ht.trans (set_shape _ _ _)
  · exact ht

@[simp] theorem kwrite_id_pending (m : Nat) (k : Key) (v : Word) : (kwrite s m k v id).pending = s.pending := by
  obtain ⟨d, e, h, hk⟩ := kwrite_id_shape s m k v; rw [hk]
@[simp] theorem kwrite_id_variant (m : Nat) (k : Key) (v : Word) : (kwrite s m k v id).variant = s.variant := by
  obtain ⟨d, e, h, hk⟩ := kwrite_id_shape s m k v; rw [hk]
@[simp] theorem kwrite_id_blobs (m : Nat) (k : Key) (v : Word) : (kwrite s m k v id).blobs = s.blobs := by
  obtain ⟨d, e, h, hk⟩ := kwrite_id_shape s m k v; rw [hk]
@[simp] theorem kwrite_id_ev (m : Nat) (k : Key) (v : Word) : (kwrite s m k v id).ev = s.ev := by
  obtain ⟨d, e, h, hk⟩ := kwrite_id_shape s m k v; rw [hk]
@[simp] theorem kwrite_id_sun (m : Nat) (k : Key) (v : Word) : (kwrite s m k v id).sun = s.sun := by
  obtain ⟨d, e, h, hk⟩ := kwrite_id_shape s m k v; rw [hk]
@[simp] theorem kwrite_id_motor (m : Nat) (k : Key) (v : Word) : (kwrite s m k v id).motor = s.motor := by
  obtain ⟨d, e, h, hk⟩ := kwrite_id_shape s m k v; rw [hk]
@[simp] theorem kwrite_id_acts (m : Nat) (k : Key) (v : Word) : (kwrite s m k v id).acts = s.acts := by
  obtain ⟨d, e, h, hk⟩ := kwrite_id_shape s m k v; rw [hk]
@[simp] theorem kwrite_id_links (m : Nat) (k : Key) (v : Word) : (kwrite s m k v id).links = s.links := by
  obtain ⟨d, e, h, hk⟩ := kwrite_id_shape s m k v; rw [hk]
@[simp] theorem kwrite_id_servo (m : Nat) (k : Key) (v : Word) : (kwrite s m k v id).servo = s.servo := by
  obtain ⟨d, e, h, hk⟩ := kwrite_id_shape s m k v; rw [hk]
@[simp] theorem kwrite_id_chan (m : Nat) (k : Key) (v : Word) : (kwrite s m k v id).chan = s.chan := by
  obtain ⟨d, e, h, hk⟩ := kwrite_id_shape s m k v; rw [hk]
@[simp] theorem kwrite_id_write (m : Nat) (k : Key) (v : Word) : (kwrite s m k v id).write = s.write := by
  obtain ⟨d, e, h, hk⟩ := kwrite_id_shape s m k v; rw [hk]
@[simp] theorem kwrite_id_grants (m : Nat) (k : Key) (v : Word) : (kwrite s m k v id).grants = s.grants := by
  obtain ⟨d, e, h, hk⟩ := kwrite_id_shape s m k v; rw [hk]
@[simp] theorem kwrite_id_deep (m : Nat) (k : Key) (v : Word) : (kwrite s m k v id).deep = s.deep := by
  obtain ⟨d, e, h, hk⟩ := kwrite_id_shape s m k v; rw [hk]
@[simp] theorem kwrite_id_engines (m : Nat) (k : Key) (v : Word) : (kwrite s m k v id).engines = s.engines := by
  obtain ⟨d, e, h, hk⟩ := kwrite_id_shape s m k v; rw [hk]
@[simp] theorem kwrite_id_pan (m : Nat) (k : Key) (v : Word) : (kwrite s m k v id).pan = s.pan := by
  obtain ⟨d, e, h, hk⟩ := kwrite_id_shape s m k v; rw [hk]
@[simp] theorem kwrite_id_zones (m : Nat) (k : Key) (v : Word) : (kwrite s m k v id).zones = s.zones := by
  obtain ⟨d, e, h, hk⟩ := kwrite_id_shape s m k v; rw [hk]
@[simp] theorem kwrite_id_host (m : Nat) (k : Key) (v : Word) : (kwrite s m k v id).host = s.host := by
  obtain ⟨d, e, h, hk⟩ := kwrite_id_shape s m k v; rw [hk]
@[simp] theorem kwrite_id_picks (m : Nat) (k : Key) (v : Word) : (kwrite s m k v id).picks = s.picks := by
  obtain ⟨d, e, h, hk⟩ := kwrite_id_shape s m k v; rw [hk]
@[simp] theorem kwrite_id_sheaf (m : Nat) (k : Key) (v : Word) : (kwrite s m k v id).sheaf = s.sheaf := by
  obtain ⟨d, e, h, hk⟩ := kwrite_id_shape s m k v; rw [hk]
@[simp] theorem kwrite_id_memory (m : Nat) (k : Key) (v : Word) : (kwrite s m k v id).memory = s.memory := by
  obtain ⟨d, e, h, hk⟩ := kwrite_id_shape s m k v; rw [hk]
@[simp] theorem kwrite_id_sieve (m : Nat) (k : Key) (v : Word) : (kwrite s m k v id).sieve = s.sieve := by
  obtain ⟨d, e, h, hk⟩ := kwrite_id_shape s m k v; rw [hk]
@[simp] theorem kwrite_id_strong (m : Nat) (k : Key) (v : Word) : (kwrite s m k v id).strong = s.strong := by
  obtain ⟨d, e, h, hk⟩ := kwrite_id_shape s m k v; rw [hk]
@[simp] theorem kwrite_id_power (m : Nat) (k : Key) (v : Word) : (kwrite s m k v id).power = s.power := by
  obtain ⟨d, e, h, hk⟩ := kwrite_id_shape s m k v; rw [hk]
@[simp] theorem kwrite_id_mgmt (m : Nat) (k : Key) (v : Word) : (kwrite s m k v id).mgmt = s.mgmt := by
  obtain ⟨d, e, h, hk⟩ := kwrite_id_shape s m k v; rw [hk]
@[simp] theorem kwrite_id_mem (m : Nat) (k : Key) (v : Word) : (kwrite s m k v id).mem = s.mem := by
  obtain ⟨d, e, h, hk⟩ := kwrite_id_shape s m k v; rw [hk]
@[simp] theorem kwrite_id_flash (m : Nat) (k : Key) (v : Word) : (kwrite s m k v id).flash = s.flash := by
  obtain ⟨d, e, h, hk⟩ := kwrite_id_shape s m k v; rw [hk]
@[simp] theorem kwrite_id_locals (m : Nat) (k : Key) (v : Word) : (kwrite s m k v id).locals = s.locals := by
  obtain ⟨d, e, h, hk⟩ := kwrite_id_shape s m k v; rw [hk]
@[simp] theorem kwrite_id_rdata (m : Nat) (k : Key) (v : Word) : (kwrite s m k v id).rdata = s.rdata := by
  obtain ⟨d, e, h, hk⟩ := kwrite_id_shape s m k v; rw [hk]
@[simp] theorem kwrite_id_freeCtr (m : Nat) (k : Key) (v : Word) : (kwrite s m k v id).freeCtr = s.freeCtr := by
  obtain ⟨d, e, h, hk⟩ := kwrite_id_shape s m k v; rw [hk]

end Sys2Proof.Machine
end

