-- ==== Sys2Proof/WellFormed.lean ====
section
/-! DEFINITION. The shapes that the operands of a command have beyond their types: what can reach the part at all. A command
that breaks one is no command of the part; `exec` is total on it all the same. -/

namespace Sys2Proof

/-- No element twice. -/
def distinct {α : Type} [DecidableEq α] (l : List α) : Bool := decide l.Nodup

/-- A SHA-384 digest is 48 bytes (spec/18 R410). -/
def hashShape (l : List Byte) : Bool := decide (l.length = 48)

/-- A dictionary cycle brings at least one store, and one at most from each master (spec/17 R391). -/
def storesShape (l : List DictStore) : Bool := !l.isEmpty && distinct (l.map (·.master))

/-- A gate stores at most 39,552 bit times (spec/07 R166). -/
def captureShape (i : ReadCloseIn) : Bool := decide (i.bits.toNat ≤ 39552)

/-- A staged sector's firmware area is 32 bytes (spec/08 R174). -/
def stageShape (i : StageIn) : Bool :=
  match i.firmware with
  | none => true
  | some l => decide (l.length = 32)

/-- One request of a slot in a Trellis cycle (spec/05 R116). -/
def grantsShape (l : List GrantReq) : Bool := !l.isEmpty && distinct (l.map (·.q))

/-- A Cellar access stays within its 64-byte line (spec/14 R322). -/
def cellarShape (op : CellarOp) : Bool :=
  match op with
  | .read => true
  | .writeLine d => decide (d.length = 64)
  | .writePart o d => decide (0 < d.length ∧ o.val + d.length ≤ 64)

/-- Line addresses are multiples of 64 (spec/14 R322). -/
def lineShape (a : Addr) : Bool := decide (a.toNat % 64 = 0)

/-- The payload of a Sieve image is its text and its data (spec/16 R366). -/
def programShape (p : ProgImage) : Bool :=
  hashShape p.keyHash && hashShape p.hash && decide (p.payload.length = p.textSize.toNat + p.dataSize.toNat)

/-- What Strongroom reports at an entry to Boot holds whole digests (spec/18 R404, R405). -/
def bootShape (i : BootIn) : Bool := hashShape i.fsHash && hashShape i.hashA && hashShape i.hashB

/-- The links' speeds are 1 to 5, and a x2 link at most (spec/12 R275). -/
def linkShape (speed : BitVec 3) (width : BitVec 2) : Bool := decide (1 ≤ speed.toNat ∧ speed.toNat ≤ 5 ∧ 1 ≤ width.toNat)

/-- A Dataset Management command names 1 to 256 ranges. -/
def rangesShape (l : List (BitVec 64 × BitVec 32)) : Bool := decide (1 ≤ l.length ∧ l.length ≤ 256)

/-- The operands have a shape that can reach the part. -/
def wellFormed (c : Instr) : Bool :=
  match c with
  | .objectWrite l => storesShape l
  | .assistGrantRequest l => grantsShape l
  | .readGateClose _ i => captureShape i
  | .sectorStage _ i => stageShape i
  | .trellisLoadReport _ r _ _ => (match r with | none => true | some x => hashShape x.patchHash && hashShape x.custHash)
  | .datasetManagement _ l => rangesShape l
  | .firmwareCommit _ chk => hashShape chk.hash
  | .cellarAccess _ _ op _ _ => cellarShape op
  | .hoePassEnd c u => c.all lineShape && u.all lineShape
  | .loadProgram _ _ p => programShape p
  | .bootEntry i => bootShape i
  | .pcieLinkTrained v w => linkShape v w
  | _ => true

end Sys2Proof
end

