-- ==== Sys2Proof/Tests/Slice0.lean ====
section
/-! SUPPORT. Tests of the model: ill-formed commands that WellFormed refuses, steps checked against numbers of the spec, and for
every statement with hypotheses the states and operands that meet them. -/

open Sys2Proof Sys2Proof.Machine

namespace Sys2Proof.Tests

set_option Elab.async false
set_option linter.unusedTactic false
set_option linter.unusedVariables false

/-- The state after reset with these objects set. -/
def st (l : List (Nat × Nat)) : State := l.foldl (fun s p => s.setN p.1 p.2) State.reset

def sqe0 : Sqe :=
  { cid := 1, opcode := 0, nsid := 1, slba := 0, nlb := 0, cdw10 := 0, cdw11 := 0, cdw12 := 0, cdw13 := 0, fua := false,
    reservedSet := false, prpBad := false, sglBad := 0 }

/-- An active command of queue q. -/
def entOf (q : Nat) (e : Sqe) : CmdEnt := { sqid := q, sqe := e, st := .active }
def ioEnt (op : Byte) (nsid cdw13 : BitVec 32) : CmdEnt := entOf 1 { sqe0 with opcode := op, nsid := nsid, cdw13 := cdw13 }
def adEnt (op : Byte) (cdw10 cdw11 : BitVec 32) : CmdEnt := entOf 0 { sqe0 with opcode := op, cdw10 := cdw10, cdw11 := cdw11 }
def withHost (s : State) (h : HostSt) : State := { s with host := h }
/-- The state with one command in its table. -/
def withEnt (s : State) (e : CmdEnt) : State := withHost s { table := [e] }

def cycle0 : CycleIn := { iu := 0, iv := 0, iw := 0, supplyMv := 0, speedCrpm := 0, currentMa := 0, railMv := 0 }
def sample0 : SampleIn :=
  { samFound := true, wedge := 0, index := false, gray := 0, burstN := 0, burstQ := 0, preamble := 0, runout := 0, rroParityOk := true,
    samFraction := 0 }

def readGate0 : ReadGateIn := { tag := 0, sector := 0, track := 0, head := 0, ring := 0, lba := 0, ns2 := false, dest := 0 }
def readClose0 : ReadCloseIn := { bits := 0, predicted := 0, gainRail := false, timingRail := false, adc := [] }

def stage0 : StageIn :=
  { tag := 0, sector := 0, head := 0, kind := 0, lba := 0, track := 0, zone := none, range := 0, generation := 0, source := 0, firmware := none,
    fetchFault := false }
def gateIn0 : GateIn :=
  { stamp := 0, tag := 0, sector := 0, head := 0, ring := 0, track := 0, zone := none, trackIndex := 0, lead := 0, left := 0,
    twinB := false, reopening := false, groupPos := 0 }
def staged0 : StageEnt := { tag := 0, sector := 0, kind := 0, lba := 0, complete := true, bits := 0, bytes := [] }
def gate0 (paused : Bool) : Gate :=
  { tag := 0, sector := 0, head := 0, ring := 0, track := 0, zone := none, trackIndex := 0, groupPos := 0, paused := paused,
    twinB := false, dir := 0, outer := false }
def link0 : LinkReq := { cls := 0, cmd := 0, head := 0, addr := 0, data := 0, who := .status }
def load0 : LoadReport :=
  { rejected := [], patch := none, patchMicro := [], patchNano := [], redirects := [], entryTable := [], customer := none,
    custMicro := [], custNano := [], hooks := [], patchHash := [], custHash := [], entryTableId := 0 }
def flush0 : FlushSlot :=
  { cause := 1, seq := 0, oldestSeq := 0, oldestOff := 0, commitSeq := 0, time := 0, journal := [], cache := [], poison := [] }
def job0 : MergeJob := { zone := 0, place := {}, buffer := 0, since := 0 }
def run0 : Run := { slot := 0, owner := .host (1, 1), cparam1 := 0, cparam2 := 0, ranges := [], queue := 0x1FF }
def acc0 : CoreAcc := { master := 2, write := false, addr := 0, size := 4, data := 0 }
def deepJob0 : DeepJob := { stamp := 0, q := 0, entry := some 0, since := 0 }
def image0 : ProgImage :=
  { keySlot := 0, programId := 0, version := 0, entry := 0, textSize := 0, dataSize := 0, bssSize := 0, keyHash := [], sigOk := true,
    persistent := false, hash := [], payload := [] }
def boot0 : BootIn :=
  { fs0 := true, fs1 := true, fsVersion := 0, fsHash := [], imgA := true, imgB := true, verA := 0, verB := 0, hashA := [], hashB := [],
    checkers := 0, comparators := 0 }
def rec0 : Rec := { code := 1, source := 0, time := 0, rev := 0, params := [] }
/-- An Enunile frame that reads one object, and one that writes it: header of eight bytes, then the entries (spec/17 R395, R396). -/
def readFrame0 : List Byte := [0x45, 0x4E, 1, 2, 1, 0, 12, 0, 0x40, 0x10, 0, 1]
def writeFrame0 : List Byte := [0x45, 0x4E, 1, 1, 1, 0, 20, 0, 0x10, 0xB0, 1, 5, 2, 0, 0, 0, 0x28, 0x23, 0, 0]

/-! ### Ill-formed operands are refused, one for each check of WellFormed -/

theorem test_wf_noStores : wellFormed (.objectWrite []) = false := rfl
theorem test_wf_noGrants : wellFormed (.assistGrantRequest []) = false := rfl
theorem test_wf_gateBits : wellFormed (.readGateClose 0 { readClose0 with bits := 39553 }) = false := by decide
theorem test_wf_firmwareArea : wellFormed (.sectorStage 0 { stage0 with firmware := some [] }) = false := by decide
theorem test_wf_loadHashes : wellFormed (.trellisLoadReport 0 (some load0) 0 0) = false := by decide
theorem test_wf_noRanges : wellFormed (.datasetManagement ⟨1, 1⟩ []) = false := by decide
theorem test_wf_imageHash : wellFormed (.firmwareCommit ⟨0, 1⟩ { ok := true, version := 0, hash := [] }) = false := by decide
theorem test_wf_shortLine : wellFormed (.cellarAccess (.other .nvme) 0 (.writeLine []) .clean .clean) = false := by decide
theorem test_wf_lineAddress : wellFormed (.hoePassEnd [1] []) = false := by decide
theorem test_wf_programHash : wellFormed (.loadProgram ⟨0, 1⟩ 4 image0) = false := by decide
theorem test_wf_bootHash : wellFormed (.bootEntry boot0) = false := by decide
theorem test_wf_linkSpeed : wellFormed (.pcieLinkTrained 6 1) = false := by decide

/-! ### Numbers of the spec -/

/-- The presence object of a CA5120-P (spec/01, example under R28). -/
theorem test_presence_p120 :
    ([1, 2, 3, 4, 5, 6, 7].map fun s => (defaultOf .p120 (0x1020 * 256 + s)).toNat) = [4, 1, 1, 0, 0, 0xFE180000, 0xFF0A3] := by
  decide +kernel

/-- Bits of a region and sectors of a track in rings 0 and 47 of the reference drive (spec/07, example under R157). -/
theorem test_ring_bits : (regionBits 512 20000 60 60 7200 3900, regionBits 512 20000 60 60 7200 1600) = (57743, 23689) := by
  decide +kernel
theorem test_ring_sectors :
    (ringSMax (st [(K.spinTargetRpm, 7200), (K.ringFormatRpm 0, 7200), (K.actServoCellMhzC 0, 20000), (K.ringGuardPreNs 0, 60),
        (K.ringGuardPostNs 0, 60), (K.sunWedgesPerRev, 512)]) 0 0x0000861063206F3C,
      ringSMax (st [(K.spinTargetRpm, 7200), (K.ringFormatRpm 0, 7200), (K.actServoCellMhzC 0, 20000), (K.ringGuardPreNs 0, 60),
        (K.ringGuardPostNs 0, 60), (K.sunWedgesPerRev, 512)]) 0 0x0000370061486640) = (806, 328) := by
  decide +kernel

/-- A twin zone with the outer code (spec/11, example under R249): layout 0b10, capacity 65,536, ring 0 with 800 sectors; tracks 44, and
track pair 26 begins at offset 39,156. -/
theorem test_zone_tracks :
    let c : Ctx := 2 * 2 ^ 6 + 2 * 2 ^ 9 + 30000 * 2 ^ 160 + 47 * 2 ^ 192 + 65536 * 2 ^ 224
    (c.findTracks 800 100 0, c.firstBlock 800 26, c.firstBlock 800 27) = (some 44, 39156, 40660) := by
  decide +kernel

/-- The read of the seek example (spec/04, example under R94; spec/12, example under R282): servo track 100,000 to 140,000 at fraction
1,310,720. Its arrival is 7,247,808 counts and its cost 9,426,698. -/
theorem test_pick :
    let d : Desc := { tag := 0, cls := 0, write := false, head := 4, track := 175000, firstSector := 512, count := 32, zone := none,
                      twin := false, pairN := 0, firstFrac := 10737418, length := 0, lba := 0, kind := 0, generation := 0, range := 0,
                      profile := 0, tap := 0, group := false, hookArrival := 0 }
    let s := ((st [(K.sunState, 3), (K.actSeekProfile 0 0, 0x8EF9E0DD2F80C000), (K.actDataPitchQ16 0, 52429)]).setSrv 0
      { head := 4, lastX := 100000 * 65536 })
    let s := { s with sun := { frac := 1310720 } }
    (pickDistance s 0 d, arrival s 0 d, pickCost s 0 d) = (40000, 7247808, 9426698) := by
  dsimp only; decide +kernel

/-- An alarm at wedge 256 in every fourth revolution (spec/02, example under R47): it fires in revolution 4 and not in revolution 3. -/
theorem test_alarm_everyFourth :
    let at0 (r : BitVec 32) : State :=
      { st [(K.sunState, 3), (K.sunAlarm 255, 0x000E610003800000)] with sun := { rev := r } }
    Sp.get (match exec (.angleAlarmFire 255) (at0 4) with | .next t => t.sun.fired | _ => []) 255 = some 4 ∧
      Sp.get (match exec (.angleAlarmFire 255) (at0 3) with | .next t => t.sun.fired | _ => []) 255 = none := by
  dsimp only; decide +kernel

/-- Two writes of one cycle (spec/17, example under R393): PWR's 500 stands over CTL[1]'s 700, which is a conflict. -/
theorem test_conflict :
    let w (m : Master) (v : Word) : DictStore := { master := m, index := 0x4010, sub := 1, width := .low4, data := v }
    let t := match exec (.objectWrite [w 3 700, w 1 500]) State.reset with | .next t => t | _ => State.reset
    (t.nat K.asstAssistBudgetMw, t.nat (K.dictDictLastStatus 3), t.nat (K.dictConflictCount 3)) = (500, 0x40100105, 1) := by
  dsimp only; decide +kernel

/-- The frame of the same example sent by the host: the second entry is access denied, DW0 is 0x0000_0204. -/
theorem test_frame :
    let f : List Byte := [0x45, 0x4E, 1, 1, 2, 0, 0x20, 0, 1, 0x68, 2, 1, 1, 0, 0, 0, 4, 0, 0, 0, 0x10, 0x40, 1, 2, 2, 0, 0, 0, 0x58, 2, 0, 0]
    let t := match exec (.dictionaryWrite ⟨0, 1⟩ f) (withEnt State.reset (adEnt 0xC1 32 0)) with | .next t => t | _ => State.reset
    (t.host.table.map (·.dw0), t.nat (K.dictViolationCount 16), t.nat K.hostOrderedWindow) = ([0x204], 1, 4) := by
  dsimp only; decide +kernel

/-- The 48th item of a queue with high_mark 48 (spec/15, example under R355): the high mark is crossed and counted. -/
theorem test_highMark :
    let s := (st [(K.panDepthMax 0, 64), (K.panHighMark 0, 48), (K.panLowMark 0, 16)]).setQueue 0 { items := List.replicate 47 ⟨0, []⟩ }
    let t := pantryPush raise s 3 0 1 [] .ok
    (t.nat (K.panLevel 0), t.nat (K.panHiCount 0), t.nat (K.panLoCount 0)) = (48, 1, 0) := by
  dsimp only; decide +kernel

/-! ### Steps -/

/-- An empty queue passes a microsecond, and a command leaves the queue's rest (log entry 41). -/
theorem test_idle : (match step State.reset with | .next t => t.now | _ => 7) = 1 := by decide +kernel
theorem test_queue : (match step { State.reset with pending := [.linkNop 0, .linkNop 1] } with | .next t => t.pending | _ => []) =
    [.linkNop 1] := by decide +kernel

/-- spin_enable from OFF on a part whose motor model is set: MEASURE (spec/03 R61). -/
theorem test_spinEnable :
    motorState (match exec (.spinEnableWrite 2 1) (st [(K.spinRsMohm, 1), (K.spinLsUh, 1), (K.spinKeMvKrpm, 1)]) with
      | .next t => t | _ => State.reset) = 1 := by decide +kernel

/-- A store and a load on the fabric to a Sieve engine's memory (spec/01 R20). -/
theorem test_fabric :
    (match exec (.fabricAccess (.core 2) true 0x70000000 .b4 0x12345678 .clean) State.reset with
      | .next t => t.load 0x70000000 4 | _ => []) = [0x78, 0x56, 0x34, 0x12] := by decide +kernel

/-- An unsigned carry of the datapath's addition (spec/10 R227). -/
theorem test_alu : ((aluOf 2 0xFFFFFFFF 1).1, (aluOf 2 0xFFFFFFFF 1).2.1) = (0, some true) := by decide +kernel

/-! ### The conditions of the statements are met -/

/-- Met: the conditions of each clause of TimebaseCommandsComplete that has some. -/
theorem witness_TimebaseCommandsComplete :
    (∃ (m : Master) (v : Word) (s : State),
      accepts s m K.sunSnapshot v = true ∧ v ≠ 0) ∧
    (∃ (w : BitVec 9) (s : State),
      s.sun.expect = some w.toNat ∧ s.sun.errs = [] ∧
      (s.nat K.sunState ≠ 3 ∨ s.sun.misses + 1 < (boundaryIn s .wedge (fun i => decide (i < 0x3000))).cfg K.sunMissLimit)) ∧
    (∃ (w : BitVec 9) (s : State),
      s.sun.expect = some w.toNat ∧ s.sun.errs ≠ [] ∧ s.nat K.sunState = 3 ∧
      let b := boundaryIn s .wedge (fun i => decide (i < 0x3000))
      let n := b.cfg K.sunWedgesPerRev
      let next := (w.toNat + 1) % (if n = 0 then 1 else n)
      let src := s.sun.contributed.foldl (fun n q => setBit n q true) (b2n (observerValid b) * 16)
      let k := s.sun.errs.length
      let num := if s.sun.first then errSum s.sun.errs else 3 * s.sun.fNum * k + errSum s.sun.errs * s.sun.fDen
      let den := if s.sun.first then k else 4 * s.sun.fDen * k
      let t : State := ({ b.setN K.sunLockSources src with sun := { s.sun with
        wedge := some next, expect := some next, errs := [], heard := [], contributed := [], misses := 0, first := false,
        fNum := num, fDen := den } }).setI K.sunPhaseError (rnd num den)
      errWithin t num den (t.cfg K.sunLossErrorPs) = true) ∧
    (∃ (m : Master) (v : Word) (s : State),
      accepts s m K.sunSundialEnable v = true) ∧
    (∃ (s : State),
      s.nat K.sunState = 1) ∧
    (∃ (s : State),
      s.nat K.sunState ≠ 0) ∧
    (∃ (n : Fin 256) (s : State),
      let w := s.nat (K.sunAlarm n)
      let rev := s.sun.rev.toNat
      s.nat K.sunState ≠ 0 ∧ bitAt w 51 = true ∧ rev % 256 &&& bitsOf w 24 8 = bitsOf w 32 8 &&& bitsOf w 24 8 ∧
      Sp.get s.sun.fired n ≠ some rev ∧ (bitAt w 50 = false ∨ s.nat K.sunState = 3)) ∧
    (∃ (m : Master) (n : Fin 256) (v : Word) (s : State),
      accepts s m (K.sunAlarm n) v = true) ∧
    (∃ (m : Master) (v : Word) (s : State),
      accepts s m K.sunSyncEnable v = true) ∧
    (∃ (falling : Bool) (s : State),
      s.nat K.sunSyncState ≠ 0 ∧ s.cfg K.sunSyncPolarity = b2n falling ∧
      (∀ p, s.sun.lastPulse = some p → syncBadInterval s (s.elapsed p) = false)) ∧
    (∃ (s : State) (p : Nat),
      s.nat K.sunSyncState = 1 ∧ s.sun.lastPulse = some p) :=
  ⟨⟨2, 1, State.reset, by decide +kernel⟩,
    ⟨0, { State.reset with sun := { expect := some 0 } }, by decide +kernel⟩,
    ⟨0, { st [(K.sunState, 3)] with sun := { expect := some 0, errs := [0] } }, by (dsimp only; decide +kernel)⟩,
    ⟨2, 1, State.reset, by decide +kernel⟩,
    ⟨st [(K.sunState, 1)], by decide +kernel⟩,
    ⟨st [(K.sunState, 1)], by decide +kernel⟩,
    ⟨255, st [(K.sunState, 1), (K.sunAlarm 255, 2 ^ 51)], by (dsimp only; decide +kernel)⟩,
    ⟨2, 255, 1, State.reset, by decide +kernel⟩,
    ⟨2, 1, State.reset, by decide +kernel⟩,
    ⟨false, st [(K.sunSyncState, 1)], by exact ⟨by decide +kernel, by decide +kernel, fun _ h => by cases h⟩⟩,
    ⟨{ st [(K.sunSyncState, 1)] with sun := { lastPulse := some 0 } }, 0, by decide +kernel⟩⟩

/-- Met: the conditions of each clause of SpindleCommandsComplete that has some. -/
theorem witness_SpindleCommandsComplete :
    (∃ (i : CycleIn) (s : State),
      let t := measureCycle { s with power := { s.power with cycleTrim := s.power.adcTrim } } i
      motorState t = 0 ∧ t.flag K.spinSpinEnable = true ∧ t.power.loss = false ∧ modelValid t = true) ∧
    (∃ (s : State),
      motorState s = 4) ∧
    (∃ (m : Master) (v : Word) (s : State),
      accepts s m K.spinSpinEnable v = true) ∧
    (∃ (e : BitVec 16) (v : BitVec 32) (s : State),
      motorState s = 1 ∧ s.cfg K.spinEmfRestMv ≤ e.toNat ∧ 0 < v.toInt ∧
      s.cfg K.spinRestRpm * 100 ≤ v.toInt.natAbs) ∧
    (∃ (e : BitVec 16) (s : State),
      motorState s = 1 ∧ e.toNat < s.cfg K.spinEmfRestMv) ∧
    (∃ (p1 : BitVec 16) (p2 : BitVec 16) (p3 : BitVec 16) (p4 : BitVec 16) (p5 : BitVec 16) (p6 : BitVec 16) (s : State),
      motorState s = 2 ∧
      let peaks := [p1, p2, p3, p4, p5, p6].map fun p => min p.toNat (s.cfg K.spinIpdCurrentMa)
      let best := (List.range 6).foldl (fun b k => if peaks.getD b 0 < peaks.getD k 0 then k else b) 0
      let top := peaks.getD best 0
      0 < top ∧ 3 * top ≤ (top - peaks.getD ((best + 3) % 6) 0) * 100) ∧
    (∃ (s : State),
      motorState s = 4 ∧ s.motor.confirmed = false) ∧
    (∃ (s : State),
      motorState s = 6 ∧ s.nat K.spinBrakeCause = 1) ∧
    (∃ (s : State),
      motorState s = 7 ∧ s.flag K.spinSpinEnable = true ∧ s.power.loss = false) ∧
    (∃ (s : State),
      motorState s = 4) ∧
    (∃ (s : State),
      motorState s ≠ 0 ∧ motorState s ≠ 9) ∧
    (∃ (s : State),
      motorState s = 8 ∧ s.nat K.sheafFlushState ≠ 1 ∧
      (∀ a, a < 2 → hasAct s.variant a = true → s.nat (K.actActState a) = 0)) :=
  ⟨⟨cycle0, st [(K.spinSpinEnable, 1), (K.spinRsMohm, 1), (K.spinLsUh, 1), (K.spinKeMvKrpm, 1)], by (dsimp only; decide +kernel)⟩,
    ⟨st [(K.spinState, 4)], by decide +kernel⟩,
    ⟨2, 0, State.reset, by decide +kernel⟩,
    ⟨65535, 0x7FFFFFFF, st [(K.spinState, 1)], by decide +kernel⟩,
    ⟨0, st [(K.spinState, 1)], by decide +kernel⟩,
    ⟨1, 0, 0, 0, 0, 0, st [(K.spinState, 2)], by (dsimp only; decide +kernel)⟩,
    ⟨st [(K.spinState, 4)], by decide +kernel⟩,
    ⟨st [(K.spinState, 6), (K.spinBrakeCause, 1)], by decide +kernel⟩,
    ⟨st [(K.spinState, 7), (K.spinSpinEnable, 1)], by decide +kernel⟩,
    ⟨st [(K.spinState, 4)], by decide +kernel⟩,
    ⟨st [(K.spinState, 4)], by decide +kernel⟩,
    ⟨st [(K.spinState, 8)], by decide +kernel⟩⟩

/-- Met: the conditions of each clause of ServoSampleCommandsComplete that has some. -/
theorem witness_ServoSampleCommandsComplete :
    (∃ (q : Slot) (s : State),
      readsServo s q = true) ∧
    (∃ (q : Slot) (mv : BitVec 16) (ua : BitVec 32) (before : BitVec 32) (s : State),
      let a := q.val / 2
      let u := (s.setI (K.actVcmCurrentUa a) ua.toInt).setI (K.actVcmBemfMv a)
        (vcmBemf s a mv.toInt ua.toInt before.toInt)
      let word (o n : Nat) : Nat := leNat (u.load (tcmBase a + 0x3F100 + o) n)
      readsServo u q = true ∧ word 0x3C 4 % 256 = (u.srv q).seq) ∧
    (∃ (a : Act) (s : State),
      let x := s.act a
      let q := 2 * a.val + x.seekSlot
      x.seeking = true ∧ onRead s q = false ∧ onWrite' s q = false ∧ twinOn s a = false) ∧
    (∃ (a : Act) (s : State),
      let x := s.act a
      let q := 2 * a.val + x.seekSlot
      (if x.seekWrite then writeOk s q else onRead s q) = false) :=
  ⟨⟨2, st [(K.sunState, 3), (K.actActState 1, 3)], by decide +kernel⟩,
    ⟨2, 0, 0, 0, st [(K.sunState, 3), (K.actActState 1, 3)], by (dsimp only; decide +kernel)⟩,
    ⟨1, State.reset.setAct 1 { seeking := true }, by (dsimp only; decide +kernel)⟩,
    ⟨1, State.reset, by (dsimp only; decide +kernel)⟩⟩

/-- Met: the conditions of each clause of LoadCommandsComplete that has some. -/
theorem witness_LoadCommandsComplete :
    (∃ (m : Master) (a : Act) (v : Word) (s : State),
      accepts s m (K.actLoadRequest a) v = true ∧ v ≠ 0 ∧
      let t := wrote s m (K.actLoadRequest a) v
      t.nat (K.actActState a) = 0 ∧ vcmModel t a = true ∧ t.flag K.spinLoadPermit = true) ∧
    (∃ (m : Master) (a : Act) (v : Word) (s : State),
      accepts s m (K.actUnloadRequest a) v = true ∧ v ≠ 0 ∧
      let t := wrote s m (K.actUnloadRequest a) v
      t.nat (K.actActState a) ≠ 6) ∧
    (∃ (a : Act) (s : State),
      s.nat (K.actActState a) = 1) ∧
    (∃ (a : Act) (s : State),
      s.nat (K.actActState a) = 2) ∧
    (∃ (a : Act) (s : State),
      s.nat (K.actActState a) = 4) ∧
    (∃ (a : Act) (s : State),
      s.nat (K.actActState a) = 4 ∧ (s.act a).passed0 = false) ∧
    (∃ (a : Act) (s : State),
      s.nat (K.actActState a) = 5) ∧
    (∃ (m : Master) (a : Act) (v : Word) (s : State),
      accepts s m (K.actServoDegraded a) v = true ∧ v ≠ 0) :=
  ⟨⟨2, 1, 1, st [(K.actVcmRsMohm 1, 1), (K.actVcmLsUh 1, 1), (K.spinLoadPermit, 1)], by (dsimp only; decide +kernel)⟩,
    ⟨2, 0, 1, State.reset, by (dsimp only; decide +kernel)⟩,
    ⟨1, st [(K.actActState 1, 1)], by decide +kernel⟩,
    ⟨1, st [(K.actActState 1, 2)], by decide +kernel⟩,
    ⟨1, st [(K.actActState 1, 4)], by decide +kernel⟩,
    ⟨1, st [(K.actActState 1, 4)], by decide +kernel⟩,
    ⟨1, st [(K.actActState 1, 5)], by decide +kernel⟩,
    ⟨2, 0, 1, State.reset, by decide +kernel⟩⟩

/-- Met: the conditions of each clause of ConcurrentHeadCommandsComplete that has some. -/
theorem witness_ConcurrentHeadCommandsComplete :
    (∃ (a : Act) (v : BitVec 16) (s : State),
      let st := s.nat (K.actActState a)
      (st = 1 ∨ st = 4 ∨ st = 5) ∧ s.cfg (K.actOverspeedBemfMv a) < v.toNat) ∧
    (∃ (m : Master) (a : Act) (v : Word) (s : State),
      accepts s m (K.actMapValid a) v = true) ∧
    (∃ (m : Master) (a : Act) (v : Word) (s : State),
      accepts s m (K.actCaptureStart a) v = true ∧ v ≠ 0 ∧
      let t := wrote s m (K.actCaptureStart a) v
      captureReady t a = true) ∧
    (∃ (a : Act) (c : MapCap) (s : State),
      (s.act a).capture = some c ∧ s.nat (K.actCaptureState a) = 2 ∧ c.moved = false ∧
      s.cfg (K.actCaptureRevs a) ≤ c.good ∧
      let base := rnd (c.sums.foldl (· + ·) 0) (512 * c.good)
      let deltas := c.sums.map fun x => rnd (x - base * c.good) (256 * c.good)
      (deltas.any fun d => 32767 < d.natAbs) = false) ∧
    (∃ (m : Master) (v : Word) (s : State),
      accepts s m K.asstAssistBudgetMw v = true) :=
  ⟨⟨0, 65535, st [(K.actActState 0, 1)], by (dsimp only; decide +kernel)⟩,
    ⟨2, 0, 1, State.reset, by decide +kernel⟩,
    ⟨2, 0, 1, st [(K.actActState 0, 3), (K.actTwinActive 0, 1)], by (dsimp only; decide +kernel)⟩,
    ⟨0, { good := 255 }, (st [(K.actCaptureState 0, 2)]).setAct 0 { capture := some { good := 255 } }, by (dsimp only; decide +kernel)⟩,
    ⟨2, 3000, State.reset, by decide +kernel⟩⟩

/-- Met: the conditions of each clause of LinkPostsComplete that has some. -/
theorem witness_LinkPostsComplete :
    (∃ (a : Act) (s : State),
      (s.link a).clock = true) ∧
    (∃ (a : Act) (r : Byte) (s : State),
      (s.link a).clock = true ∧ r.toNat < 0x80) ∧
    (∃ (q : Slot) (r : Byte) (s : State),
      let a := q.val / 2
      (s.link a).clock = true ∧ r.toNat < 0x80) ∧
    (∃ (r : Byte),
      0x80 ≤ r.toNat) ∧
    (∃ (q : Slot) (gate : Stamp) (s : State),
      let a := q.val / 2
      let due := gate.toNat - s.cfg (K.lnkPrebiasLeadCounts a)
      s.cfg (K.lnkAssistKind a) ≠ 0 ∧ (at' s.grants q none).isSome = true) ∧
    (∃ (q : Slot) (s : State),
      let a := q.val / 2
      (s.wr q).assist ≠ .off ∧ (s.wr q).assist ≠ .stopping ∧ (s.link a).clock = true ∧ s.nat (K.lnkLinkState a) = 2) ∧
    (∃ (a : Act) (s : State),
      (s.link a).clock = true) ∧
    (∃ (a : Act) (s : State),
      ((s.wr (2 * a.val)).assist = .prebias ∨ (s.wr (2 * a.val)).assist = .writing
      ∨ (s.wr (2 * a.val + 1)).assist = .prebias ∨ (s.wr (2 * a.val + 1)).assist = .writing)) ∧
    (∃ (m : Master) (a : Act) (s : State),
      accepts s m (K.lnkRegOp a) 1 = true ∧
      let t := wrote s m (K.lnkRegOp a) 1
      (t.link a).clock = true) ∧
    (∃ (m : Master) (a : Act) (s : State),
      accepts s m (K.lnkRegOp a) 2 = true ∧
      let t := wrote s m (K.lnkRegOp a) 2
      (t.link a).clock = true ∧ regRefused t a = false) :=
  ⟨⟨0, State.reset.setLink 0 { clock := true }, by decide +kernel⟩,
    ⟨0, 0, State.reset.setLink 0 { clock := true }, by decide +kernel⟩,
    ⟨0, 0, State.reset.setLink 0 { clock := true }, by (dsimp only; decide +kernel)⟩,
    ⟨0x80, by decide +kernel⟩,
    ⟨0, 0, { st [(K.lnkAssistKind 0, 1)] with grants := #v[some (0, 0), none, none, none] }, by (dsimp only; decide +kernel)⟩,
    ⟨0, ((st [(K.lnkLinkState 0, 2)]).setLink 0 { clock := true }).setWr 0 { assist := .armed }, by (dsimp only; decide +kernel)⟩,
    ⟨0, State.reset.setLink 0 { clock := true }, by decide +kernel⟩,
    ⟨0, State.reset.setWr 0 { assist := .writing }, by decide +kernel⟩,
    ⟨2, 0, State.reset.setLink 0 { clock := true }, by (dsimp only; decide +kernel)⟩,
    ⟨2, 0, State.reset.setLink 0 { clock := true }, by (dsimp only; decide +kernel)⟩⟩

/-- Met: the conditions of each clause of LinkAnswersComplete that has some. -/
theorem witness_LinkAnswersComplete :
    (∃ (a : Act) (st : Byte) (r : LinkReq) (s : State),
      (s.link a).cur = some r ∧
      st.toNat % 4 = 0) ∧
    (∃ (a : Act) (r : LinkReq) (s : State),
      (s.link a).cur = some r) ∧
    (∃ (m : Master) (a : Act) (v : Word) (s : State),
      accepts s m (K.lnkLinkDegraded a) v = true ∧ v ≠ 0) ∧
    (∃ (m : Master) (a : Act) (v : Word) (s : State),
      accepts s m (K.lnkLinkInit a) v = true ∧ v ≠ 0) ∧
    (∃ (a : Act) (s : State),
      (s.link a).fltLow = false) ∧
    (∃ (q : Slot) (s : State),
      (s.wr q).assist ≠ .off ∧ (s.wr q).confirmed = true) :=
  ⟨⟨0, 0, link0, State.reset.setLink 0 { cur := some link0 }, by decide +kernel⟩,
    ⟨0, link0, State.reset.setLink 0 { cur := some link0 }, by decide +kernel⟩,
    ⟨2, 0, 1, State.reset, by decide +kernel⟩,
    ⟨2, 0, 1, State.reset, by decide +kernel⟩,
    ⟨0, State.reset, by decide +kernel⟩,
    ⟨0, State.reset.setWr 0 { assist := .armed, confirmed := true }, by decide +kernel⟩⟩

/-- Met: the conditions of each clause of ReadFrontCommandsComplete that has some. -/
theorem witness_ReadFrontCommandsComplete :
    (∃ (q : Slot) (i : ReadGateIn) (s : State) (e : Nat),
      let s1 := boundaryIn s .sector (slotOwns q)
      s1.nat K.sunState = 3 ∧ onRead s1 q = true ∧ (s1.ch q).gate = none ∧ (s1.ch q).inReset = false ∧ twinHeld s1 q = false ∧
      let s2 := takeSurface s1 q i.head i.track.toNat
      let s2 := if s2.nat (K.slotBufPolicy q) = 1 then shed s2 q 16 else s2
      takeEntry (s2.ch q) = some e) ∧
    (∃ (q : Slot) (e : Fin 16) (s : State),
      (s.ch q).gate = some e) ∧
    (∃ (q : Slot) (f : Fin 4) (mean : BitVec 16) (s : State),
      readerInUse s q f = true ∧
      s.bit (K.slotDefectFlags q) f = false ∧ meanPasses s q f mean.toInt false = true) ∧
    (∃ (q : Slot) (f : Fin 4) (mean : BitVec 16) (s : State),
      s.bit (K.slotDefectFlags q) f = true ∧
      meanPasses s q f mean.toInt true = true) ∧
    (∃ (q : Slot) (s : State),
      s.bit (K.slotDefectFlags q) 4 = true) ∧
    (∃ (q : Slot) (f : Fin 4) (s : State),
      s.bit (K.slotDefectFlags q) f = true ∧ (s.ch q).longRaised.contains f.val = false) ∧
    (∃ (q : Slot) (l : Fin 3) (s : State),
      (s.ch q).railRaised.contains l.val = false) ∧
    (∃ (m : Master) (a : Act) (n : Fin 64) (v : Word) (s : State),
      accepts s m (K.ringRingFormat a n) v = true) ∧
    (∃ (m : Master) (q : Slot) (v : Word) (s : State),
      accepts s m (K.slotBufPin q) v = true) :=
  ⟨⟨0, readGate0, st [(K.sunState, 3), (K.actOnTrackRead 0, 1)], 0, by (dsimp only; decide +kernel)⟩,
    ⟨0, 15, State.reset.setCh 0 { gate := some 15 }, by decide +kernel⟩,
    ⟨0, 0, 0x7FFF, State.reset, by decide +kernel⟩,
    ⟨0, 1, 0, st [(K.slotDefectFlags 0, 2)], by decide +kernel⟩,
    ⟨0, st [(K.slotDefectFlags 0, 16)], by decide +kernel⟩,
    ⟨0, 3, st [(K.slotDefectFlags 0, 8)], by decide +kernel⟩,
    ⟨0, 0, State.reset, by decide +kernel⟩,
    ⟨2, 0, 0, 0x0000861063206F3C,
      st [(K.spinTargetRpm, 7200), (K.ringFormatRpm 0, 7200), (K.actServoCellMhzC 0, 20000), (K.ringGuardPreNs 0, 60), (K.ringGuardPostNs 0, 60), (K.sunWedgesPerRev, 512)],
      by decide +kernel⟩,
    ⟨2, 0, 1, State.reset, by decide +kernel⟩⟩

/-- Met: the conditions of each clause of DetectionCommandsComplete that has some. -/
theorem witness_DetectionCommandsComplete :
    (∃ (q : Slot) (e : Fin 16) (s : State),
      let b := bufAt (s.ch q) e
      b.st = .held ∧ b.work = .live) ∧
    (∃ (q : Slot) (e : Fin 16) (al : Nat × Nat × Int) (s : State),
      let b := bufAt (s.ch q) e
      b.aligns[b.tried]? = some al ∧ itsTurn s q e = true) ∧
    (∃ (q : Slot) (e : Fin 16) (p : Fin 4) (s : State),
      let b := bufAt (s.ch q) e
      itsTurn s q e = true ∧ b.aligns.length ≤ b.tried ∧ b.passes.head? = some p.val) ∧
    (∃ (j : DeepJob) (e : Fin 16) (s : State),
      let u := takeDeep s
      u.deep.run = some j ∧ j.entry = some e) ∧
    (∃ (m : Master) (q : Slot) (v : Word) (s : State),
      accepts s m (K.slotCombineStart q) v = true ∧ v ≠ 0 ∧
      let t := wrote s m (K.slotCombineStart q) v
      t.nat (K.slotCombineState q) ≠ 1 ∧ combineOk t q = true) ∧
    (∃ (s : State),
      s.nat K.detOcState = 2 ∧ (failedPos s).length ≤ 2) ∧
    (∃ (m : Master) (v : Word) (s : State),
      accepts s m K.detOcRelease v = true ∧ v ≠ 0) :=
  ⟨⟨0, 15, (State.reset).setCh 0 { bufs := Vector.replicate 16 { st := .held, work := .live } }, by (dsimp only; decide +kernel)⟩,
    ⟨0, 15, (0, 0, 0),
      (State.reset).setCh 0 { bufs := (Vector.replicate 16 {}).set 15 { st := .held, work := .inPlace, aligns := [(0, 0, 0)] } },
      by (dsimp only; decide +kernel)⟩,
    ⟨0, 15, 3, (State.reset).setCh 0 { bufs := (Vector.replicate 16 {}).set 15 { st := .held, work := .inPlace, passes := [3] } },
      by (dsimp only; decide +kernel)⟩,
    ⟨deepJob0, 0, { State.reset with deep := { queue := [deepJob0] } }, by (dsimp only; decide +kernel)⟩,
    ⟨2, 0, 1,
      (st [(K.slotCombineEntries 0, 3), (K.detDeepEnable, 1)]).setCh 0 { bufs := Vector.replicate 16 { st := .pinned, work := .none } },
      by (dsimp only; decide +kernel)⟩,
    ⟨st [(K.detOcState, 2)], by decide +kernel⟩,
    ⟨2, 1, State.reset, by decide +kernel⟩⟩

/-- Met: the conditions of each clause of WritePathCommandsComplete that has some. -/
theorem witness_WritePathCommandsComplete :
    (∃ (q : Slot) (s : State),
      (s.wr q).staging.length < 8) ∧
    (∃ (q : Slot) (i : GateIn) (e : StageEnt) (s : State),
      let b0 := boundaryIn s .sector (slotOwns q)
      let b := takeSurface b0 q i.head i.track.toNat
      let w := b.wr q
      let t := b.setWr q { w with active := true, tag := i.tag.toNat, twinB := i.twinB }
      let kind := b.cfg (K.lnkAssistKind (q.val / 2))
      i.reopening = false ∧ (b0.wr q).gate = none ∧ twinHeld b0 q = false ∧ (b.link (q.val / 2)).preampSafe = false ∧
      stagedEnt w i.tag.toNat i.sector.toNat = some e ∧ e.bad = false ∧
      requestCause t q i = none ∧ stageShort b e i = 0 ∧
      (∀ z g p, requestGroup b i = some (z, g, p) → groupReady w z g p = true) ∧
      (kind = 0 ∨ ((at' b.grants q none).isSome = true ∧ w.confirmed = true ∧
        (w.runOpen = true ∨ b.cfg (K.lnkPrebiasMinCounts (q.val / 2)) ≤ i.lead.toNat)))) ∧
    (∃ (q : Slot) (i : GateIn) (g : Gate) (s : State),
      let b := boundaryIn s .sector (slotOwns q)
      i.reopening = true ∧ (b.wr q).gate = some g ∧ g.paused = true ∧
      (causeOrder.find? fun c => c != 5 && !interlock b q c) = none) ∧
    (∃ (q : Slot) (g : Gate) (s : State),
      (s.wr q).gate = some g ∧ g.paused = false) ∧
    (∃ (q : Slot) (g : Gate) (s : State),
      (s.wr q).gate = some g ∧ g.paused = false) :=
  ⟨⟨0, State.reset, by decide +kernel⟩,
    ⟨0, { gateIn0 with stamp := 0x1000000 }, staged0,
      ((st [(K.sunState, 3), (K.actWriteOk 0, 1), (K.ringUnshingled 0 0 0, 2 ^ 63), (K.lnkAssistKind 0, 0)]).setWr 0 { staging := [staged0] }).setLink 0 { preampSafe := false },
      by refine ⟨?_, ?_, ?_, ?_, ?_, ?_, ?_, ?_, fun _ _ _ h => by simp [requestGroup, gateIn0] at h, ?_⟩ <;> decide +kernel⟩,
    ⟨0, { gateIn0 with reopening := true }, gate0 true,
      (st [(K.sunState, 3), (K.actWriteOk 0, 1), (K.ringUnshingled 0 0 0, 2 ^ 63), (K.lnkAssistKind 0, 0)]).setWr 0 { gate := some (gate0 true) },
      by (dsimp only; decide +kernel)⟩,
    ⟨0, gate0 false, State.reset.setWr 0 { gate := some (gate0 false) }, by decide +kernel⟩,
    ⟨0, gate0 false, State.reset.setWr 0 { gate := some (gate0 false) }, by decide +kernel⟩⟩

/-- Met: the conditions of each clause of TrellisControlsComplete that has some. -/
theorem witness_TrellisControlsComplete :
    (∃ (n : Eng) (r : Option Nat) (s : State),
      let e := s.eng n
      e.fabric = some r) ∧
    (∃ (m : Master) (n : Eng) (s : State),
      accepts s m (K.trlRun n) 1 = true ∧
      let t := wrote s m (K.trlRun n) 1
      (trlState t n = 2 ∨ trlState t n = 4)) ∧
    (∃ (m : Master) (n : Eng) (c : TrlCtx) (irq : Option TrlCtx) (s : State),
      accepts s m (K.trlRun n) 2 = true ∧
      let t := wrote s m (K.trlRun n) 2
      (t.eng n).halt = some (c, irq) ∧ trlState t n = 4 ∧ (t.nat (K.trlHaltCause n) = 1 ∨ t.nat (K.trlHaltCause n) = 2)) ∧
    (∃ (m : Master) (n : Eng) (v : Word) (s : State),
      accepts s m (K.trlHaltReq n) v = true ∧ v ≠ 0 ∧
      let t := wrote s m (K.trlHaltReq n) v
      trlState t n = 3) ∧
    (∃ (m : Master) (n : Eng) (v : Word) (s : State),
      accepts s m (K.trlSoftIrq n) v = true ∧ v ≠ 0) ∧
    (∃ (n : Eng) (r : LoadReport) (s : State),
      trlState s n = 1 ∧ s.eccFailed 14 = false ∧
      let t := r.rejected.foldl (fun u x => loaderReject u n x) s
      (∀ v, r.patch = some v → s.nat K.trlxPatchFloor ≤ v.toNat) ∧ (r.patch = none → s.nat K.trlxPatchFloor = 0) ∧
      ((s.eng n).reload && !reloadSame s n r) = false ∧
      (r.customer = none ∨ n.val = 6 ∨ custFits r = true) ∧ (r.patch = none ∨ patchFits r = true)) ∧
    (∃ (n : Eng) (s : State),
      trlState s n = 1 ∧ s.eccFailed 14 = false) ∧
    (∃ (n : Eng) (st : TrlStore) (a : BitVec 13) (s : State),
      trlState s n = 3 ∧ storeRegion st a.toNat ≠ 0) ∧
    (∃ (n : Eng) (st : TrlStore) (a : BitVec 13) (s : State),
      trlState s n = 3 ∧ storeRegion st a.toNat = 0) :=
  ⟨⟨0, none, State.reset.setEng 0 { fabric := some none }, by (dsimp only; decide +kernel)⟩,
    ⟨2, 0, st [(K.trlState 0, 2)], by (dsimp only; decide +kernel)⟩,
    ⟨2, 0, {}, none, (st [(K.trlState 0, 4), (K.trlHaltCause 0, 1)]).setEng 0 { halt := some ({}, none) },
      by (dsimp only; decide +kernel)⟩,
    ⟨2, 0, 1, st [(K.trlState 0, 3)], by (dsimp only; decide +kernel)⟩,
    ⟨2, 0, 1, State.reset, by decide +kernel⟩,
    ⟨0, load0, st [(K.trlState 0, 1)], by exact ⟨by decide +kernel, by decide +kernel, fun _ h => by simp [load0] at h,
      by decide +kernel, by decide +kernel⟩⟩,
    ⟨0, st [(K.trlState 0, 1)], by decide +kernel⟩,
    ⟨0, .micro, 8191, st [(K.trlState 0, 3)], by decide +kernel⟩,
    ⟨0, .micro, 4095, st [(K.trlState 0, 3)], by decide +kernel⟩⟩

/-- Met: the conditions of each clause of ZoneCommandsComplete that has some. -/
theorem witness_ZoneCommandsComplete :
    (∃ (m : Master) (v : Word) (s : State),
      accepts s m K.zoneFormatCommit v = true ∧ v ≠ 0) ∧
    (∃ (s : State),
      s.nat K.zoneFormatState = 1 ∧ larderFailed s = false ∧ formatScan s (listedZones s) 0 = none) ∧
    (∃ (z : Nat) (n : Nat) (s : State),
      s.nat K.zoneFormatState = 1 ∧ larderFailed s = false ∧
      formatScan s (listedZones s) 0 = some (z, n)) ∧
    (∃ (m : Master) (v : Word) (s : State),
      accepts s m K.zoneZoneHwEnable v = true ∧ v ≠ 0 ∧ s.flag K.zoneZoneHwEnable = false) ∧
    (∃ (c : CmdRef) (zone : ZoneNo) (act : Nat) (e : CmdEnt) (s : State),
      sendEnt s c act = some e ∧
      let l := sendZones s e act zone.toNat
      s.nat K.pmMode ≠ 5 ∧ e.zoneOpen = 0 ∧ l ≠ [] ∧ (∀ z ∈ l, z < s.nat K.zoneZoneCount ∧ (s.ctx z).busy = 0)) ∧
    (∃ (c : CmdRef) (e : CmdEnt) (s : State),
      sendEnt s c 0x10 = some e) ∧
    (∃ (c : CmdRef) (e : CmdEnt) (s : State),
      activeEnt s.host.table (refOf c) false 0x7A = some e ∧
      bitsOf e.sqe.cdw13.toNat 0 8 ≤ 1 ∧ bitsOf e.sqe.cdw13.toNat 8 8 ≤ 7) ∧
    (∃ (j : MergeJob) (s : State),
      s.zones.job = some j) ∧
    (∃ (m : Master) (v : Word) (j : MergeJob) (s : State),
      accepts s m K.zoneMergeCancel v = true ∧ v ≠ 0 ∧
      let t := wrote s m K.zoneMergeCancel v
      t.zones.job = some j ∧ t.nat K.zoneMergeState ≠ 3) :=
  ⟨⟨2, 1, State.reset, by decide +kernel⟩,
    ⟨st [(K.zoneFormatState, 1)], by decide +kernel⟩,
    ⟨0, 1, st [(K.zoneFormatState, 1), (K.zoneZoneCount, 1)], by decide +kernel⟩,
    ⟨2, 1, st [(K.zoneFormatState, 2)], by decide +kernel⟩,
    ⟨⟨1, 1⟩, 0, 1, ioEnt 0x79 1 1, withEnt (st [(K.zoneZoneCount, 1)]) (ioEnt 0x79 1 1), by (dsimp only; decide +kernel)⟩,
    ⟨⟨1, 1⟩, ioEnt 0x79 1 0x10, withEnt State.reset (ioEnt 0x79 1 0x10), by decide +kernel⟩,
    ⟨⟨1, 1⟩, ioEnt 0x7A 1 1, withEnt State.reset (ioEnt 0x7A 1 1), by decide +kernel⟩,
    ⟨job0, { State.reset with zones := { job := some job0 } }, by decide +kernel⟩,
    ⟨2, 1, job0, { State.reset with zones := { job := some job0 } }, by (dsimp only; decide +kernel)⟩⟩

/-- Met: the conditions of each clause of PortCommandsComplete that has some. -/
theorem witness_PortCommandsComplete :
    (∃ (m : Master) (p : Fin 4) (v : Word) (s : State) (u : State),
      accepts s m (K.zoneAllocRequest p) v = true ∧ v ≠ 0 ∧
      let t := wrote s m (K.zoneAllocRequest p) v
      let z := bitsOf v.toNat 0 18
      let off := if bitAt v.toNat 52 then none else some (bitsOf v.toNat 35 17)
      bitAt v.toNat 53 = false ∧ allocCheck t z (bitsOf v.toNat 18 17) off = 0 ∧ openLimits t z = (0, u)) ∧
    (∃ (m : Master) (p : Fin 4) (v : Word) (s : State),
      accepts s m (K.zoneAllocRequest p) v = true ∧ v ≠ 0 ∧
      let t := wrote s m (K.zoneAllocRequest p) v
      let z := bitsOf v.toNat 0 18
      bitAt v.toNat 53 = true ∧ z < zoneTotal t ∧ t.flag K.zoneZoneHwEnable = true) ∧
    (∃ (m : Master) (p : Fin 6) (n : Nat) (s : State),
      (p.val < 4 → accepts s m (K.shfOp p) 1 = true) ∧
      let t := if p.val < 4 then wrote s m (K.shfOp p) 1 else s
      t.nat K.sheafSheafState ≠ 1 ∧ freeSlot t = some n) ∧
    (∃ (p : Nat) (n : Nat) (rest : List Nat) (s : State),
      s.sheaf.opens = p :: rest ∧ freeSlot s = some n ∧
      (s.sheaf.commits.find? fun c => c.port == p && c.wait == 4) = none) ∧
    (∃ (m : Master) (p : Fin 6) (k : Byte) (act : BitVec 256) (x : Txn) (s : State),
      (p.val < 4 → accepts s m (K.shfOp p) 2 = true) ∧
      let t := if p.val < 4 then wrote s m (K.shfOp p) 2 else s
      let n := txnOf t p k
      let a := actionOf t p act
      ownTxn t p n = some x ∧ x.actions.length < 64 ∧ formOk t p a.toNat = true) ∧
    (∃ (m : Master) (p : Fin 6) (k : Byte) (x : Txn) (s : State),
      (p.val < 4 → accepts s m (K.shfOp p) 3 = true) ∧
      let t := if p.val < 4 then wrote s m (K.shfOp p) 3 else s
      let n := txnOf t p k
      ownTxn t p n = some x ∧ t.nat K.sheafSheafState ≠ 1) ∧
    (∃ (m : Master) (p : Fin 6) (k : Byte) (x : Txn) (s : State),
      (p.val < 4 → accepts s m (K.shfOp p) 4 = true) ∧
      let t := if p.val < 4 then wrote s m (K.shfOp p) 4 else s
      let n := txnOf t p k
      ownTxn t p n = some x) ∧
    (∃ (m : Master) (v : Word) (s : State),
      accepts s m K.sheafReleaseSeq v = true) :=
  ⟨⟨5, 3, 0x40000, (st [(K.zoneZoneHwEnable, 1), (K.zoneZoneCount, 1)]).store (ctxAddr 0 + 28) [1],
      wrote ((st [(K.zoneZoneHwEnable, 1), (K.zoneZoneCount, 1)]).store (ctxAddr 0 + 28) [1]) 5 (K.zoneAllocRequest 3) 0x40000,
      by (dsimp only; decide +kernel)⟩,
    ⟨5, 3, 0x20000000000000, st [(K.zoneZoneHwEnable, 1), (K.zoneZoneCount, 1)], by (dsimp only; decide +kernel)⟩,
    ⟨2, 0, 0, State.reset, by (dsimp only; decide +kernel)⟩,
    ⟨0, 0, [], { State.reset with sheaf := { opens := [0] } }, by decide +kernel⟩,
    ⟨2, 0, 0, 0, { port := 0 }, { st [(K.shfAction 0 0, 0x202)] with sheaf := { txns := [(0, { port := 0 })] } },
      by (dsimp only; decide +kernel)⟩,
    ⟨2, 0, 0, { port := 0 }, { State.reset with sheaf := { txns := [(0, { port := 0 })] } }, by (dsimp only; decide +kernel)⟩,
    ⟨2, 0, 0, { port := 0 }, { State.reset with sheaf := { txns := [(0, { port := 0 })] } }, by (dsimp only; decide +kernel)⟩,
    ⟨2, 0, State.reset, by decide +kernel⟩⟩

/-- Met: the conditions of each clause of FlushAndRecoveryComplete that has some. -/
theorem witness_FlushAndRecoveryComplete :
    (∃ (s : State),
      s.power.loss = false) ∧
    (∃ (img : FlushSlot) (slot : Nat) (since : Nat) (s : State),
      s.sheaf.flush = some (img, slot, since)) ∧
    (∃ (img : FlushSlot) (slot : Nat) (since : Nat) (s : State),
      s.sheaf.flush = some (img, slot, since) ∧ img.cause = 1) ∧
    (∃ (s : State),
      holdUpOk s = false ∧ s.flag K.sheafPwcArmed = true ∧ s.sheaf.changed = true ∧ s.sheaf.flush = none) ∧
    (∃ (m : Master) (v : Word) (s : State),
      accepts s m K.sheafFlushNow v = true ∧ v ≠ 0 ∧
      let t := wrote s m K.sheafFlushNow v
      t.sheaf.flush = none) ∧
    (∃ (m : Master) (v : Word) (s : State),
      accepts s m K.sheafRecoverLoad v = true ∧ v ≠ 0) ∧
    (∃ (c0 : Bool) (c1 : Bool) (f : FlushSlot) (s : State),
      s.nat K.sheafRecoverState = 1 ∧ chosenSlot s c0 c1 = some f) ∧
    (∃ (c0 : Bool) (c1 : Bool) (s : State),
      s.nat K.sheafRecoverState = 1 ∧ chosenSlot s c0 c1 = none) ∧
    (∃ (m : Master) (v : Word) (s : State),
      accepts s m K.sheafReplayStart v = true ∧ v ≠ 0) ∧
    (∃ (s : State),
      s.nat K.sheafReplayState = 1 ∧ s.nat K.sheafImageCommitSeq < s.nat K.sheafReplayFrom) :=
  ⟨⟨State.reset, by decide +kernel⟩,
    ⟨flush0, 0, 0, { State.reset with sheaf := { flush := some (flush0, 0, 0) } }, by decide +kernel⟩,
    ⟨flush0, 0, 0, { State.reset with sheaf := { flush := some (flush0, 0, 0) } }, by decide +kernel⟩,
    ⟨{ st [(K.sheafPwcArmed, 1)] with sheaf := { changed := true } }, by decide +kernel⟩,
    ⟨2, 1, st [(K.sheafPwcArmed, 1)], by (dsimp only; decide +kernel)⟩,
    ⟨2, 1, State.reset, by decide +kernel⟩,
    ⟨true, false, flush0, { st [(K.sheafRecoverState, 1)] with sheaf := { slots := #v[some flush0, none] } }, by decide +kernel⟩,
    ⟨false, false, st [(K.sheafRecoverState, 1)], by decide +kernel⟩,
    ⟨2, 1, State.reset, by decide +kernel⟩,
    ⟨st [(K.sheafReplayState, 1), (K.sheafReplayFrom, 1)], by decide +kernel⟩⟩

/-- Met: the conditions of each clause of FabricAndLinkCommandsComplete that has some. -/
theorem witness_FabricAndLinkCommandsComplete :
    (∃ (m : Master) (i : BitVec 16) (sub : Byte) (v : Word) (s : State),
      accepts s m (i.toNat * 256 + sub.toNat) v = true ∧ v ≠ 0 ∧
      isClear (aliasIndex i.toNat) sub.toNat = true) ∧
    (∃ (m : Master) (v : Word) (s : State),
      accepts s m K.hostHostTransport v = true) ∧
    (∃ (m : Master) (v : Word) (s : State),
      accepts s m K.hostLinkEnable v = true ∧ v ≠ 0) ∧
    (∃ (s : State),
      s.host.ccEn = false ∧ s.flag K.hostLinkUp = true) ∧
    (∃ (s : State),
      s.host.ccEn = true) ∧
    (∃ (s : State),
      s.nat K.hostCtrlState = 3 ∧ s.nat K.sheafPwcValid = 0 ∧ s.sheaf.commits = []) ∧
    (∃ (s : State),
      s.nat K.hostHostTransport = 0 ∧ s.flag K.hostLinkUp = true) ∧
    (∃ (g : BitVec 3) (w : BitVec 2) (s : State),
      s.nat K.hostHostTransport = 0 ∧ s.flag K.hostLinkEnable = true ∧
      1 ≤ g.toNat ∧ g.toNat ≤ 5 ∧ 1 ≤ w.toNat ∧ w.toNat ≤ 2) ∧
    (∃ (s : State),
      s.nat K.hostHostTransport = 1 ∧ s.flag K.hostLinkEnable = true) :=
  ⟨⟨2, 0x2805, 15, 1, State.reset, by decide +kernel⟩,
    ⟨2, 1, State.reset, by decide +kernel⟩,
    ⟨2, 1, st [(K.srSrState, 4)], by decide +kernel⟩,
    ⟨st [(K.hostLinkUp, 1)], by decide +kernel⟩,
    ⟨withHost State.reset { ccEn := true }, by decide +kernel⟩,
    ⟨st [(K.hostCtrlState, 3)], by decide +kernel⟩,
    ⟨st [(K.hostLinkUp, 1)], by decide +kernel⟩,
    ⟨5, 2, st [(K.hostLinkEnable, 1)], by decide +kernel⟩,
    ⟨st [(K.hostHostTransport, 1), (K.hostLinkEnable, 1)], by decide +kernel⟩⟩

/-- Met: the conditions of each clause of HostQueueCommandsComplete that has some. -/
theorem witness_HostQueueCommandsComplete :
    (∃ (s : State),
      s.nat K.hostHostTransport = 1 ∧ s.flag K.hostLinkUp = true ∧
      s.host.assoc = none) ∧
    (∃ (q : BitVec 16) (h : BitVec 64) (n : BitVec 16) (s : State),
      s.nat K.hostHostTransport = 1 ∧
      s.flag K.hostLinkUp = true ∧ s.host.assoc = some (h.toNat, n.toNat) ∧ 0 < q.toNat ∧ q.toNat ≤ 32 ∧
      (s.subQ q.toNat).isSome = false ∧ s.host.ccEn = true) ∧
    (∃ (c : BitVec 16) (s : State),
      s.host.conns.contains c.toNat = true) ∧
    (∃ (c : BitVec 16) (s : State),
      s.host.conns.contains c.toNat = true) ∧
    (∃ (v : Nat) (s : State),
      s.host.assoc.isSome = true ∧ Sp.get s.host.features 0x0F = some v) ∧
    (∃ (q : BitVec 16) (v : BitVec 32) (x : SubQ) (s : State),
      s.subQ q.toNat = some x ∧ v.toNat < x.size) ∧
    (∃ (q : BitVec 16) (v : BitVec 32) (x : ComplQ) (s : State),
      Sp.get s.host.cqs q.toNat = some x ∧ v.toNat < x.size ∧
      (v.toNat + x.size - x.head) % x.size ≤ x.used) ∧
    (∃ (qid : BitVec 16) (x : SubQ) (s : State),
      let q := qid.toNat
      s.subQ q = some x ∧ fetchWanted s x = true ∧ s.host.table.length < 1024 ∧
      (queueEnts s q).length < s.nat K.hostSqInflightMax ∧ cqRoom s q x = true) ∧
    (∃ (q : BitVec 16) (x : SubQ) (s : State),
      s.subQ q.toNat = some x) ∧
    (∃ (c : CmdRef) (e : CmdEnt) (s : State),
      (s.host.table.find? fun e => e.ref == refOf c && (e.st == .active || e.st == .aborting)) = some e) ∧
    (∃ (q : BitVec 16) (e : CmdEnt) (x : ComplQ) (s : State),
      oldestCommit s q.toNat = some e ∧
      Sp.get s.host.cqs q.toNat = some x ∧ ¬ postWaits s e ∧ x.used + 1 < x.size) ∧
    (∃ (a : Act) (l : List Desc) (s : State),
      let u := postFresh (boundaryIn s .command (actOwns a)) a l
      let t := twinSettle raise u a
      trlState u a = 3 ∧ mayPick (admitPool t a) a = true) ∧
    (∃ (c : CmdRef) (e : CmdEnt) (s : State),
      s.cmd (refOf c) = some e ∧ e.st = .aborting) ∧
    (∃ (c : CmdRef) (e : CmdEnt) (x : SubQ) (s : State),
      activeEnt s.host.table (refOf c) true 0xC4 = some e ∧
      let w := e.sqe.cdw10.toNat
      let q := bitsOf w 0 16
      s.subQ q = some x ∧ x.restart = none ∧ restartStatus s e = 0) :=
  ⟨⟨st [(K.hostHostTransport, 1), (K.hostLinkUp, 1)], by decide +kernel⟩,
    ⟨32, 0, 0, withHost (st [(K.hostHostTransport, 1), (K.hostLinkUp, 1)]) { assoc := some (0, 0), ccEn := true }, by decide +kernel⟩,
    ⟨1, withHost State.reset { conns := [1] }, by decide +kernel⟩,
    ⟨1, withHost State.reset { conns := [1] }, by decide +kernel⟩,
    ⟨1, withHost State.reset { assoc := some (0, 0), features := [(0x0F, 1)] }, by decide +kernel⟩,
    ⟨1, 1, { size := 2, cqid := 1 }, withHost State.reset { sqs := [(1, { size := 2, cqid := 1 })] }, by decide +kernel⟩,
    ⟨1, 1, { size := 2, tail := 1 }, withHost State.reset { cqs := [(1, { size := 2, tail := 1 })] }, by decide +kernel⟩,
    ⟨1, { size := 2, cqid := 1, tail := 1 },
      withHost State.reset { ccEn := true, sqs := [(1, { size := 2, cqid := 1, tail := 1 })], cqs := [(1, { size := 2 })] },
      by (dsimp only; decide +kernel)⟩,
    ⟨1, { size := 2, cqid := 1 }, withHost State.reset { sqs := [(1, { size := 2, cqid := 1 })] }, by decide +kernel⟩,
    ⟨⟨0, 1⟩, adEnt 0 0 0, withEnt State.reset (adEnt 0 0 0), by decide +kernel⟩,
    ⟨1, { ioEnt 0 1 0 with st := .committed }, { size := 2 },
      withHost State.reset { table := [{ ioEnt 0 1 0 with st := .committed }], cqs := [(1, { size := 2 })] }, by decide +kernel⟩,
    ⟨0, [], st [(K.pmMode, 1), (K.sunState, 3), (K.actActState 0, 3), (K.trlState 0, 3)], by (dsimp only; decide +kernel)⟩,
    ⟨⟨0, 1⟩, { adEnt 0 0 0 with st := .aborting }, withEnt State.reset { adEnt 0 0 0 with st := .aborting }, by decide +kernel⟩,
    ⟨⟨0, 1⟩, adEnt 0xC4 1 0, { size := 2, cqid := 1, ordered := true, frozen := true },
      withHost State.reset { table := [adEnt 0xC4 1 0], sqs := [(1, { size := 2, cqid := 1, ordered := true, frozen := true })] },
      by (dsimp only; decide +kernel)⟩⟩

/-- Met: the conditions of each clause of HostIoCommandsComplete that has some. -/
theorem witness_HostIoCommandsComplete :
    (∃ (c : CmdRef) (e : CmdEnt) (s : State),
      activeEnt s.host.table (refOf c) false 0x02 = some e ∧ s.nat K.pmMode ≠ 5) ∧
    (∃ (bs : List BlockSrc) (s : State),
      s.flag K.zoneDulbe = false ∧ bs.contains .media = false) ∧
    (∃ (e : CmdEnt) (s : State),
      s.nat K.pmMode ≠ 5 ∧ e.sqe.nsid = 1 ∧ s.nat K.zoneZoneMode = 1 ∧ e.alloc = none) ∧
    (∃ (c : CmdRef) (e : CmdEnt) (s : State),
      activeEnt s.host.table (refOf c) false 0x00 = some e ∧ s.nat K.pmMode ≠ 5 ∧
      e.flushSlots = []) ∧
    (∃ (c : CmdRef) (e : CmdEnt) (s : State),
      activeEnt s.host.table (refOf c) false 0x09 = some e ∧ s.nat K.pmMode ≠ 5 ∧
      (s.sheaf.commits.any fun q => q.cont == .completes e.ref) = false) :=
  ⟨⟨⟨1, 1⟩, ioEnt 2 1 0, withEnt (State.reset) (ioEnt 2 1 0), by decide +kernel⟩,
    ⟨[], State.reset, by decide +kernel⟩,
    ⟨ioEnt 2 1 0, st [(K.zoneZoneMode, 1)], by decide +kernel⟩,
    ⟨⟨1, 1⟩, ioEnt 0 1 0, withEnt (State.reset) (ioEnt 0 1 0), by decide +kernel⟩,
    ⟨⟨1, 1⟩, ioEnt 9 1 0, withEnt (State.reset) (ioEnt 9 1 0), by decide +kernel⟩⟩

/-- Met: the conditions of each clause of AdminCommandsComplete that has some. -/
theorem witness_AdminCommandsComplete :
    (∃ (c : CmdRef) (e : CmdEnt) (s : State),
      activeEnt s.host.table (refOf c) true 0x08 = some e ∧
      (s.host.table.any fun g => g.aborter == some e.ref && g.st != .committed) = false) ∧
    (∃ (c : CmdRef) (e : CmdEnt) (s : State),
      activeEnt s.host.table (refOf c) true 0x01 = some e ∧
      let q := bitsOf e.sqe.cdw10.toNat 0 16
      let size := bitsOf e.sqe.cdw10.toNat 16 16 + 1
      1 ≤ q ∧ q ≤ 32 ∧ (s.subQ q).isSome = false ∧ 2 ≤ size ∧ size ≤ 4096 ∧ bitsOf e.sqe.cdw11.toNat 16 16 = q ∧
      (Sp.get s.host.cqs q).isNone = false) ∧
    (∃ (c : CmdRef) (e : CmdEnt) (s : State),
      activeEnt s.host.table (refOf c) true 0x05 = some e ∧
      let q := bitsOf e.sqe.cdw10.toNat 0 16
      let size := bitsOf e.sqe.cdw10.toNat 16 16 + 1
      let iv := bitsOf e.sqe.cdw11.toNat 16 16
      1 ≤ q ∧ q ≤ 32 ∧ (Sp.get s.host.cqs q).isSome = false ∧ 2 ≤ size ∧ size ≤ 4096 ∧ iv ≤ 32) ∧
    (∃ (c : CmdRef) (e : CmdEnt) (s : State),
      activeEnt s.host.table (refOf c) true 0x00 = some e ∧
      let q := bitsOf e.sqe.cdw10.toNat 0 16
      q ≠ 0 ∧ (s.subQ q).isNone = false) ∧
    (∃ (c : CmdRef) (e : CmdEnt) (s : State),
      activeEnt s.host.table (refOf c) true 0x04 = some e ∧
      let q := bitsOf e.sqe.cdw10.toNat 0 16
      q ≠ 0 ∧ (Sp.get s.host.cqs q).isNone = false ∧ (s.subQ q).isSome = false) ∧
    (∃ (c : CmdRef) (e : CmdEnt) (l : List Byte) (s : State),
      activeEnt s.host.table (refOf c) true 0x02 = some e ∧
      let w := e.sqe.cdw10.toNat
      let n := 4 * (bitsOf w 16 16 + bitsOf e.sqe.cdw11.toNat 0 16 * 2 ^ 16 + 1)
      let off := e.sqe.cdw12.toNat + e.sqe.cdw13.toNat * 2 ^ 32
      logPage s (bitsOf w 0 8) (bitsOf w 8 7) (bitsOf e.sqe.cdw11.toNat 16 16) off n = some l) ∧
    (∃ (c : CmdRef) (e : CmdEnt) (s : State),
      activeEnt s.host.table (refOf c) true 0x06 = some e) ∧
    (∃ (c : CmdRef) (e : CmdEnt) (s : State),
      activeEnt s.host.table (refOf c) true 0x09 = some e ∧
      let fid := bitsOf e.sqe.cdw10.toNat 0 8
      let v := e.sqe.cdw11.toNat
      (fid = 0x02 → bitsOf v 0 5 ≤ 4)) ∧
    (∃ (c : CmdRef) (e : CmdEnt) (s : State),
      activeEnt s.host.table (refOf c) true 0x0A = some e) ∧
    (∃ (c : CmdRef) (e : CmdEnt) (ty : Nat) (info : Nat) (log : Nat) (r : List (Nat × Nat × Nat)) (s : State),
      activeEnt s.host.table (refOf c) true 0x0C = some e ∧ s.host.asyncs = (ty, info, log) :: r) ∧
    (∃ (c : CmdRef) (e : CmdEnt) (s : State),
      activeEnt s.host.table (refOf c) true 0x11 = some e) ∧
    (∃ (c : CmdRef) (chk : ImageCheck) (e : CmdEnt) (s : State),
      activeEnt s.host.table (refOf c) true 0x10 = some e ∧
      let slot := bitsOf e.sqe.cdw10.toNat 0 3
      let act := bitsOf e.sqe.cdw10.toNat 3 3
      let v := chk.version.toNat
      act ≤ 2 ∧ 1 ≤ slot ∧ slot ≤ 2 ∧ slot ≠ s.strong.running ∧ commitImageFault s slot chk = none) :=
  ⟨⟨⟨0, 1⟩, adEnt 8 0 0, withEnt State.reset (adEnt 8 0 0), by decide +kernel⟩,
    ⟨⟨0, 1⟩, adEnt 1 0x10001 0x10000,
      withHost State.reset { table := [adEnt 1 0x10001 0x10000], cqs := [(1, { size := 2, tail := 1 })] },
      by (dsimp only; decide +kernel)⟩,
    ⟨⟨0, 1⟩, adEnt 5 0x10001 0, withEnt State.reset (adEnt 5 0x10001 0), by (dsimp only; decide +kernel)⟩,
    ⟨⟨0, 1⟩, adEnt 0 1 0, withHost State.reset { table := [adEnt 0 1 0], sqs := [(1, { size := 2, cqid := 1 })] },
      by (dsimp only; decide +kernel)⟩,
    ⟨⟨0, 1⟩, adEnt 4 1 0, withHost State.reset { table := [adEnt 4 1 0], cqs := [(1, { size := 2, tail := 1 })] },
      by (dsimp only; decide +kernel)⟩,
    ⟨⟨0, 1⟩, adEnt 2 0xC2 0, ((pageC2 (withEnt State.reset (adEnt 2 0xC2 0))).drop 0).take 4, withEnt State.reset (adEnt 2 0xC2 0),
      by (dsimp only; decide +kernel)⟩,
    ⟨⟨0, 1⟩, adEnt 6 0 0, withEnt State.reset (adEnt 6 0 0), by decide +kernel⟩,
    ⟨⟨0, 1⟩, adEnt 9 0 0, withEnt State.reset (adEnt 9 0 0), by (dsimp only; decide +kernel)⟩,
    ⟨⟨0, 1⟩, adEnt 0xA 0 0, withEnt State.reset (adEnt 0xA 0 0), by decide +kernel⟩,
    ⟨⟨0, 1⟩, adEnt 0xC 0 0, 1, 2, 3, [], withHost State.reset { table := [adEnt 0xC 0 0], asyncs := [(1, 2, 3)] }, by decide +kernel⟩,
    ⟨⟨0, 1⟩, adEnt 0x11 0 0, withEnt State.reset (adEnt 0x11 0 0), by decide +kernel⟩,
    ⟨⟨0, 1⟩, { ok := true, version := 0, hash := [] }, adEnt 0x10 1 0, withEnt State.reset (adEnt 0x10 1 0),
      by (dsimp only; decide +kernel)⟩⟩

/-- Met: the conditions of each clause of MemoryCommandsComplete that has some. -/
theorem witness_MemoryCommandsComplete :
    (∃ (s : State),
      s.nat K.memCellarState = 2) ∧
    (∃ (m : Master) (v : Word) (s : State),
      accepts s m K.memCacheEnable v = true) ∧
    (∃ (s : State),
      s.flag K.memCleanInProgress = true) ∧
    (∃ (m : Master) (v : Word) (s : State),
      accepts s m K.memScratchWays v = true) ∧
    (∃ (addr : Addr) (x : CoreAcc) (l : List CoreAcc) (ms : List Maint) (s : State),
      let a := lineOf addr.toNat
      Sp.get s.memory.fills a = some (x :: l, ms) ∧ fillStalls s a = false ∧ cellarServes s = true ∧
      let t := { s with memory := { s.memory with fills := Sp.del s.memory.fills a } }
      badCause s a .clean = none) ∧
    (∃ (addr : Addr) (x : CoreAcc) (l : List CoreAcc) (ms : List Maint) (ecc : Ecc) (n : Nat) (s : State),
      let a := lineOf addr.toNat
      Sp.get s.memory.fills a = some (x :: l, ms) ∧ fillStalls s a = false ∧ cellarServes s = true ∧
      let t := { s with memory := { s.memory with fills := Sp.del s.memory.fills a } }
      badCause s a ecc = some n) ∧
    (∃ (m : Master) (v : Word) (s : State),
      accepts s m K.memTrackerClear v = true ∧ v ≠ 0) ∧
    (∃ (m : Master) (v : Word) (s : State),
      accepts s m K.memHoeStart v = true ∧ v ≠ 0 ∧
      let t := wrote s m K.memHoeStart v
      hoeRangeOk t (t.nat K.memHoeBase) (t.nat K.memHoeLength) = true ∧ t.nat K.memCellarState ≠ 2 ∧ t.memory.hoeRun = false ∧
      t.nat K.pmMode ≠ 2 ∧ t.nat K.pmMode ≠ 3) ∧
    (∃ (m : Master) (v : Word) (s : State),
      accepts s m K.memHoeCancel v = true ∧ v ≠ 0) ∧
    (∃ (s : State),
      s.memory.hoeRun = true) ∧
    (∃ (m : Master) (q : BitVec 9) (v : Word) (s : State),
      accepts s m (K.panQueueReset q.toNat) v = true ∧ v ≠ 0) ∧
    (∃ (q : BitVec 9) (s : State),
      (s.queue q.toNat).sweep = true) :=
  ⟨⟨st [(K.memCellarState, 2)], by decide +kernel⟩,
    ⟨2, 1, State.reset, by decide +kernel⟩,
    ⟨st [(K.memCleanInProgress, 1)], by decide +kernel⟩,
    ⟨2, 12, st [(K.memCacheEnable, 0)], by decide +kernel⟩,
    ⟨0x80000000, acc0, [], [],
      { st [(K.memCellarState, 3), (K.memFillPointer, 0x200000000)] with memory := { fills := [(0x80000000, ([acc0], []))] } },
      by (dsimp only; decide +kernel)⟩,
    ⟨0x80000000, acc0, [], [], .uncorrectable, 0,
      { st [(K.memCellarState, 3), (K.memFillPointer, 0x200000000)] with memory := { fills := [(0x80000000, ([acc0], []))] } },
      by (dsimp only; decide +kernel)⟩,
    ⟨2, 1, State.reset, by decide +kernel⟩,
    ⟨2, 1, st [(K.memHoeBase, 0x40000000), (K.memHoeLength, 64)], by (dsimp only; decide +kernel)⟩,
    ⟨2, 1, State.reset, by decide +kernel⟩,
    ⟨{ State.reset with memory := { hoeRun := true } }, by decide +kernel⟩,
    ⟨2, 511, 1, State.reset, by decide +kernel⟩,
    ⟨0, State.reset.setQueue 0 { sweep := true }, by decide +kernel⟩⟩

/-- Met: the conditions of each clause of SieveCommandsComplete that has some. -/
theorem witness_SieveCommandsComplete :
    (∃ (c : CmdRef) (slot : BitVec 4) (e : CmdEnt) (s : State),
      activeEnt s.host.table (refOf c) true 0x22 = some e ∧
      4 ≤ slot.toNat) ∧
    (∃ (c : CmdRef) (slot : BitVec 4) (up : Bool) (e : CmdEnt) (s : State),
      activeEnt s.host.table (refOf c) true 0x23 = some e ∧
      slotLoaded s slot.toNat = true ∧ (up = false → slotBusy s slot.toNat = false)) ∧
    (∃ (c : CmdRef) (l : List (BitVec 32 × BitVec 32)) (i : Nat) (e : CmdEnt) (s : State),
      activeEnt s.host.table (refOf c) true 0x21 = some e ∧
      ((List.range 16).find? fun i => (Sp.get s.sieve.sets i).isNone) = some i ∧ l.length ≤ 8 ∧ l.all (rangeOk s) = true) ∧
    (∃ (c : CmdRef) (set : BitVec 4) (e : CmdEnt) (s : State),
      activeEnt s.host.table (refOf c) true 0x21 = some e ∧ (Sp.get s.sieve.sets set.toNat).isNone = false) ∧
    (∃ (c : CmdRef) (slot : BitVec 4) (set : BitVec 4) (e : CmdEnt) (s : State),
      sieveEnt s (refOf c) 3 = some e ∧ s.nat K.pmMode ≠ 5 ∧
      slotActive s slot.toNat = true ∧ (Sp.get s.sieve.sets set.toNat).isNone = false ∧
      (s.sieve.waiting.any fun w => w.1 == e.ref) = false ∧
      ((List.range 8).any fun n => match (s.sieveEng n).run with
        | some x => x.owner == .host e.ref
        | none => false) = false) ∧
    (∃ (c : CmdRef) (d : BitVec 32) (e : CmdEnt) (blocks : Nat) (s : State),
      sieveEnt s (refOf c) 4 = some e ∧ s.nat K.pmMode ≠ 5 ∧
      let ns := e.sqe.cdw13.toNat
      let first := e.sqe.slba.toNat
      let count := e.sqe.nlb.toNat + 1
      let bs := (List.range count).map fun i => resolveBlock s ns (first + i)
      nsBlocks s ns = some blocks ∧ first + count ≤ blocks ∧ slmOk s d.toNat (4096 * count) = true ∧
      lockedRange s false ns first count = none ∧ bs.contains .media = false) ∧
    (∃ (c : CmdRef) (e : CmdEnt) (s : State),
      sieveEnt s (refOf c) 4 = some e ∧ s.nat K.pmMode ≠ 5) ∧
    (∃ (m : Master) (n : Fin 8) (v : Word) (s : State),
      accepts s m (K.engFwStart n) v = true ∧ v ≠ 0 ∧
      let t := wrote s m (K.engFwStart n) v
      let slot := t.nat (K.engFwSlot n)
      let f := fwRanges t (t.nat (K.engFwRanges n))
      t.flag K.sivSieveEnable = true ∧ slotActive t slot = true) ∧
    (∃ (m : Master) (n : Fin 8) (v : Word) (s : State),
      accepts s m (K.engFwStop n) v = true ∧ v ≠ 0) ∧
    (∃ (n : Fin 8) (x : Run) (s : State),
      (s.sieveEng n).run = some x ∧ mayStart s n = true ∧ deviceFault x = none) ∧
    (∃ (n : Fin 8) (x : Run) (s : State),
      runningRun s n = some x) ∧
    (∃ (n : Fin 8) (x : Run) (s : State),
      runningRun s n = some x) ∧
    (∃ (n : Fin 8) (x : Run) (s : State),
      runningRun s n = some x) ∧
    (∃ (n : Fin 8) (x : Run) (r : Ref) (s : State),
      (s.sieveEng n).run = some x ∧ x.owner = .host r ∧ engState s n = 2 ∧
      x.granted = false) ∧
    (∃ (n : Fin 8) (s : State),
      engState s n = 4) :=
  ⟨⟨⟨0, 1⟩, 15, adEnt 0x22 0 0, withEnt State.reset (adEnt 0x22 0 0), by decide +kernel⟩,
    ⟨⟨0, 1⟩, 0, true, adEnt 0x23 0 0, withEnt State.reset (adEnt 0x23 0 0), by decide +kernel⟩,
    ⟨⟨0, 1⟩, [], 0, adEnt 0x21 0 0, withEnt State.reset (adEnt 0x21 0 0), by decide +kernel⟩,
    ⟨⟨0, 1⟩, 15, adEnt 0x21 0 0, { withEnt State.reset (adEnt 0x21 0 0) with sieve := { sets := [(15, [])] } }, by decide +kernel⟩,
    ⟨⟨1, 1⟩, 0, 0, ioEnt 1 3 0,
      { withEnt (st [(K.sivSieveHostEnable, 1), (K.sivProgramSlot 0, 2)]) (ioEnt 1 3 0) with sieve := { sets := [(0, [])] } },
      by decide +kernel⟩,
    ⟨⟨1, 1⟩, 0, ioEnt 1 4 1, 65536,
      withEnt (st [(K.sivSieveHostEnable, 1), (K.sivSlmSize, 4096), (K.zoneZoneMode, 1), (K.zoneZoneCount, 1)]) (ioEnt 1 4 1),
      by (dsimp only; decide +kernel)⟩,
    ⟨⟨1, 1⟩, ioEnt 1 4 0, withEnt (st [(K.sivSieveHostEnable, 1)]) (ioEnt 1 4 0), by decide +kernel⟩,
    ⟨2, 7, 1, st [(K.sivSieveEnable, 1), (K.sivProgramSlot 0, 2), (K.engEngineState 7, 1), (K.sivHostEngineMask, 0)],
      by (dsimp only; decide +kernel)⟩,
    ⟨2, 7, 1, State.reset, by decide +kernel⟩,
    ⟨0, { run0 with granted := true },
      (st [(K.sivSieveEnable, 1), (K.engEngineState 0, 2)]).setSieveEng 0 { run := some { run0 with granted := true } },
      by decide +kernel⟩,
    ⟨0, run0, (st [(K.engEngineState 0, 3)]).setSieveEng 0 { run := some run0 }, by decide +kernel⟩,
    ⟨0, run0, (st [(K.engEngineState 0, 3)]).setSieveEng 0 { run := some run0 }, by decide +kernel⟩,
    ⟨0, run0, (st [(K.engEngineState 0, 3)]).setSieveEng 0 { run := some run0 }, by decide +kernel⟩,
    ⟨0, run0, (1, 1), (st [(K.engEngineState 0, 2)]).setSieveEng 0 { run := some run0 }, by decide +kernel⟩,
    ⟨0, st [(K.engEngineState 0, 4)], by decide +kernel⟩⟩

/-- Met: the conditions of each clause of ManagementCommandsComplete that has some. -/
theorem witness_ManagementCommandsComplete :
    (∃ (l : List Byte) (f : FrameRun) (s : State), runFrame s 15 l = some f) ∧
    (∃ (m : Master) (i : Fin 16) (v : Word) (s : State),
      accepts s m (K.dictLock i) v = true) ∧
    (∃ (i : BitVec 16) (sub : Byte) (r : ObjRow) (s : State),
      objNow s (aliasIndex i.toNat) sub.toNat = some r ∧ unitAbsent s.variant i.toNat = false ∧ r.acc = .rw) ∧
    (∃ (s : State),
      miBusy s = false) ∧
    (∃ (c : Byte) (s : State),
      miBusy s = false ∧ miConfig c = true) ∧
    (∃ (m : Master) (v : Word) (s : State),
      accepts s m K.mgmtMgmtReset v = true ∧ v ≠ 0) :=
  ⟨⟨readFrame0, _, State.reset, (Option.some_get (by decide +kernel : (runFrame State.reset 15 readFrame0).isSome = true)).symm⟩,
    ⟨2, 0, 1, State.reset, by decide +kernel⟩,
    ⟨0xB010, 1, (objNow State.reset 0xB010 1).get (by decide +kernel), State.reset, by decide +kernel⟩,
    ⟨st [(K.pmMode, 1)], by decide +kernel⟩,
    ⟨1, st [(K.pmMode, 1)], by decide +kernel⟩,
    ⟨2, 1, State.reset, by decide +kernel⟩⟩

/-- Met: the conditions of each clause of StrongroomCommandsComplete that has some. -/
theorem witness_StrongroomCommandsComplete :
    (∃ (s : State),
      s.nat K.pmMode = 0 ∧ s.nat K.srSrState = 0 ∧ s.power.loss = false) ∧
    (∃ (m : Master) (v : Word) (s : State),
      accepts s m K.srMeasGo v = true ∧ v ≠ 0 ∧
      let t := wrote s m K.srMeasGo v
      t.strong.entries.length < 57) ∧
    (∃ (m : Master) (v : Word) (s : State),
      accepts s m K.srSealRequest v = true ∧ v ≠ 0) ∧
    (∃ (s : State),
      s.strong.sealed = false ∧ s.strong.sealWait = none ∧ s.nat K.srSrState = 2) ∧
    (∃ (m : Master) (v : Word) (s : State),
      accepts s m K.srFwConfirm v = true ∧ v ≠ 0 ∧
      let t := wrote s m K.srFwConfirm v
      let x := t.strong
      x.running ≠ 0 ∧ x.running = x.trialImage) ∧
    (∃ (m : Master) (v : Word) (s : State),
      accepts s m K.srRollbackAdvance v = true ∧ v ≠ 0) ∧
    (∃ (s : State),
      s.flag K.srSpdmEnable = true ∧ s.strong.sealed = true) ∧
    (∃ (s : State),
      eraseHeld s = false) ∧
    (∃ (m : Master) (v : Word) (x : EraseSource) (s : State),
      accepts s m K.srEraseDone v = true ∧ v ≠ 0 ∧
      let t := wrote s m K.srEraseDone v
      t.nat K.srErasePending ≠ 0 ∧ t.strong.erase = some x ∧ (x = .genkey ∨ x = .revert)) ∧
    (∃ (c : SrFault),
      c ≠ .keyStore) :=
  ⟨⟨State.reset, by decide +kernel⟩,
    ⟨2, 1, State.reset, by (dsimp only; decide +kernel)⟩,
    ⟨2, 1, State.reset, by decide +kernel⟩,
    ⟨st [(K.srSrState, 2)], by decide +kernel⟩,
    ⟨2, 1, { State.reset with strong := { running := 1, trialImage := 1 } }, by (dsimp only; decide +kernel)⟩,
    ⟨2, 1, { State.reset with strong := { running := 1, confirmed := 1 } }, by decide +kernel⟩,
    ⟨{ st [(K.srSpdmEnable, 1)] with strong := { sealed := true } }, by decide +kernel⟩,
    ⟨State.reset, by decide +kernel⟩,
    ⟨2, 1, .genkey, { st [(K.srErasePending, 1)] with strong := { erase := some .genkey } }, by (dsimp only; decide +kernel)⟩,
    ⟨.sram, by decide +kernel⟩⟩

/-- Met: the conditions of each clause of EventCommandsComplete that has some. -/
theorem witness_EventCommandsComplete :
    (∃ (u : Fin 20) (x : Blank) (s : State),
      at' s.ev.blank u none = some x) ∧
    (∃ (m : Master) (b : Fin 20) (hi : Bool) (v : Word) (s : State),
      let k := if hi then K.statLatchedHi b else K.statLatchedLo b
      accepts s m k v = true ∧ v ≠ 0) ∧
    (∃ (m : Master) (b : Fin 20) (v : Word) (s : State),
      accepts s m (K.statCaptureRelease b) v = true ∧ v ≠ 0) ∧
    (∃ (m : Master) (v : Word) (s : State),
      accepts s m K.evtCaptureMode v = true) ∧
    (∃ (m : Master) (v : Word) (s : State),
      accepts s m K.injInjectGo v = true ∧ v ≠ 0) ∧
    (∃ (p : Fin 3) (r : Rec) (rest : List Rec) (s : State),
      (s.ev.part p).ingress = r :: rest) ∧
    (∃ (m : Master) (v : Word) (s : State),
      accepts s m K.fwrFwWrite v = true ∧ v ≠ 0) ∧
    (∃ (m : Master) (p : Fin 3) (v : Word) (s : State),
      accepts s m (K.almCursor p) v = true) ∧
    (∃ (m : Master) (p : Fin 3) (v : Word) (s : State),
      accepts s m (K.almRelease p) v = true ∧ v ≠ 0) ∧
    (∃ (m : Master) (p : Fin 3) (v : Word) (s : State),
      accepts s m (K.almPersistGo p) v = true ∧ v ≠ 0) ∧
    (∃ (p : Fin 3) (s : State),
      s.nat (K.almPersistState p) = 1) :=
  ⟨⟨19, { cause := 0, seq := 0, inFault := false },
      { State.reset with ev := { blank := (Vector.replicate 20 none).set 19 (some { cause := 0, seq := 0, inFault := false }) } },
      by decide +kernel⟩,
    ⟨2, 19, true, 1, { State.reset with ev := { blks := Vector.replicate 20 { latched := 0x100000000 } } },
      by (dsimp only; decide +kernel)⟩,
    ⟨2, 19, 1, State.reset, by decide +kernel⟩,
    ⟨2, 1, State.reset, by decide +kernel⟩,
    ⟨2, 1, st [(K.idnFactoryMode, 1), (K.injInjectEvent, 1)], by decide +kernel⟩,
    ⟨2, rec0, [], { State.reset with ev := { parts := Vector.replicate 3 { ingress := [rec0] } } }, by decide +kernel⟩,
    ⟨2, 1, State.reset, by decide +kernel⟩,
    ⟨2, 2, 0, State.reset, by decide +kernel⟩,
    ⟨2, 2, 1, State.reset, by decide +kernel⟩,
    ⟨2, 2, 1, State.reset, by decide +kernel⟩,
    ⟨2, st [(K.almPersistState 2, 1)], by decide +kernel⟩⟩

/-- Met: the conditions of each clause of PowerCommandsComplete that has some. -/
theorem witness_PowerCommandsComplete :
    (∃ (s : State),
      s.nat K.pmMode ≠ 5) ∧
    (∃ (row : Nat) (s : State),
      s.power.row = some row) ∧
    (∃ (m : Master) (v : Word) (s : State),
      accepts s m K.pmSafeRestart v = true ∧ v ≠ 0) ∧
    (∃ (s : State),
      flushIdle s = true) ∧
    (∃ (s : State),
      s.nat K.pmMode = 4 ∧ s.power.electronicsWake = false) ∧
    (∃ (s : State),
      s.nat K.pmMode = 4 ∧ s.power.electronicsWake = true ∧ s.power.row = none ∧ (modeTargetOf s).1 = 4 ∧
      (s.host.table.all fun e => e.st == .committed) = true) ∧
    (∃ (m : Master) (d : Fin 52) (v : Word) (s : State),
      accepts s m (K.pmDomainRequest d) v = true ∧ d ≠ 19) ∧
    (∃ (d : Fin 52) (s : State),
      s.nat (K.pmDomainState d) = 2 ∨ s.nat (K.pmDomainState d) = 5) ∧
    (∃ (n : Fin 8) (s : State),
      engState s n = 2 ∧ (s.sieveEng n).run.isSome = true) ∧
    (∃ (h : Holder),
      (∀ n, h ≠ .sieve n)) ∧
    (∃ (a : Act) (s : State),
      slotState s (2 * a.val + 1) ≤ 1) ∧
    (∃ (m : Master) (v : Word) (s : State),
      accepts s m K.pmEnvelopeMw v = true) ∧
    (∃ (a : Act) (ma : Int) (s : State),
      (s.act a).vcm = .parkHold ma) :=
  ⟨⟨State.reset, by decide +kernel⟩,
    ⟨1, { State.reset with power := { row := some 1 } }, by decide +kernel⟩,
    ⟨2, 1, st [(K.pmMode, 5)], by decide +kernel⟩,
    ⟨State.reset, by decide +kernel⟩,
    ⟨st [(K.pmMode, 4)], by decide +kernel⟩,
    ⟨{ st [(K.pmMode, 4), (K.pmHostPs, 4)] with power := { electronicsWake := true } }, by decide +kernel⟩,
    ⟨2, 51, 0, State.reset, by decide +kernel⟩,
    ⟨0, st [(K.pmDomainState 0, 2)], by decide +kernel⟩,
    ⟨0, (st [(K.engEngineState 0, 2)]).setSieveEng 0 { run := some run0 }, by decide +kernel⟩,
    ⟨.ethernet, by exact fun _ h => by cases h⟩,
    ⟨0, State.reset, by decide +kernel⟩,
    ⟨2, 12000, State.reset, by decide +kernel⟩,
    ⟨0, 0, State.reset.setAct 0 { vcm := .parkHold 0 }, by decide +kernel⟩⟩

/-- Met: the conditions of each clause of ThermalCommandsComplete that has some. -/
theorem witness_ThermalCommandsComplete :
    (∃ (s : State),
      0 < s.nat K.pmThrottleStep ∧ s.nat K.pmLevel < 2 ∧ s.power.substHold = false ∧
      s.nat K.pmStepDownMs * 1000 ≤ s.elapsed s.power.stepAt ∧ s.nat K.pmStepDownMs * 1000 ≤ s.elapsed s.power.fallAt) ∧
    (∃ (s : State),
      s.power.substHold = true) ∧
    (∃ (mask : Byte) (s : State),
      mask ≠ 0 ∧ s.power.trip = none) ∧
    (∃ (m : Nat) (s : State),
      s.power.trip = some m) ∧
    (∃ (s : State),
      s.power.trip.isSome = true ∧ flushIdle s = true) ∧
    (∃ (s : State),
      s.flag K.pmCompEnable = false) ∧
    (∃ (s : State),
      s.flag K.pmCompEnable = true) :=
  ⟨⟨st [(K.pmThrottleStep, 1), (K.pmStepDownMs, 0)], by decide +kernel⟩,
    ⟨{ State.reset with power := { substHold := true } }, by decide +kernel⟩,
    ⟨1, State.reset, by decide +kernel⟩,
    ⟨1, { State.reset with power := { trip := some 1 } }, by decide +kernel⟩,
    ⟨{ State.reset with power := { trip := some 1 } }, by decide +kernel⟩,
    ⟨st [(K.pmCompEnable, 0)], by decide +kernel⟩,
    ⟨st [(K.pmCompEnable, 1)], by decide +kernel⟩⟩

/-- Met: the conditions of each clause of SecurityAndDictionaryCommandsComplete that has some. -/
theorem witness_SecurityAndDictionaryCommandsComplete :
    (∃ (c : CmdRef) (e : CmdEnt) (s : State),
      activeEnt s.host.table (refOf c) true 0x80 = some e ∧
      (e.sqe.nsid.toNat = 1 ∨ e.sqe.nsid.toNat = 2 ∨ e.sqe.nsid.toNat = 0xFFFFFFFF)) ∧
    (∃ (c : CmdRef) (e : CmdEnt) (s : State),
      activeEnt s.host.table (refOf c) true 0x84 = some e) ∧
    (∃ (c : CmdRef) (e : CmdEnt) (s : State),
      activeEnt s.host.table (refOf c) true 0x81 = some e ∧
      ((secProtocol e).1 = 1 ∨ (secProtocol e).1 = 2) ∧ (secProtocol e).2 = 0x1000) ∧
    (∃ (c : CmdRef) (e : CmdEnt) (s : State),
      activeEnt s.host.table (refOf c) true 0x82 = some e) ∧
    (∃ (c : CmdRef) (l : List Byte) (f : FrameRun) (e : CmdEnt) (s : State),
      activeEnt s.host.table (refOf c) true 0x1D = some e ∧ runFrame s 16 l = some f) ∧
    (∃ (c : CmdRef) (e : CmdEnt) (s : State),
      activeEnt s.host.table (refOf c) true 0x1E = some e) ∧
    (∃ (c : CmdRef) (l : List Byte) (n : Nat) (f : FrameRun) (e : CmdEnt) (s : State),
      activeEnt s.host.table (refOf c) true 0xC1 = some e ∧ e.sqe.cdw10.toNat = l.length ∧ 4 ≤ l.length ∧ l.length ≤ 4096 ∧
      frameHead l = some (1, n) ∧ runFrame s 16 l = some f) ∧
    (∃ (c : CmdRef) (e : CmdEnt) (s : State),
      activeEnt s.host.table (refOf c) true 0xC2 = some e ∧
      let w := e.sqe.cdw10.toNat
      bitsOf w 24 8 ≠ 0 ∧ 4 ≤ e.sqe.cdw11.toNat ∧ e.sqe.cdw11.toNat ≤ 4096) :=
  ⟨⟨⟨0, 1⟩, adEnt 0x80 0 0, withEnt State.reset (adEnt 0x80 0 0), by decide +kernel⟩,
    ⟨⟨0, 1⟩, adEnt 0x84 0 0, withEnt State.reset (adEnt 0x84 0 0), by decide +kernel⟩,
    ⟨⟨0, 1⟩, adEnt 0x81 0x1100000 0, withEnt State.reset (adEnt 0x81 0x1100000 0), by decide +kernel⟩,
    ⟨⟨0, 1⟩, adEnt 0x82 0 0, withEnt State.reset (adEnt 0x82 0 0), by decide +kernel⟩,
    ⟨⟨0, 1⟩, readFrame0, _, adEnt 0x1D 0 0, withEnt State.reset (adEnt 0x1D 0 0),
      by decide +kernel,
      (Option.some_get (by decide +kernel : (runFrame (withEnt State.reset (adEnt 0x1D 0 0)) 16 readFrame0).isSome = true)).symm⟩,
    ⟨⟨0, 1⟩, adEnt 0x1E 0 0, withEnt State.reset (adEnt 0x1E 0 0), by decide +kernel⟩,
    ⟨⟨0, 1⟩, writeFrame0, 1, _, adEnt 0xC1 20 0, withEnt State.reset (adEnt 0xC1 20 0), by decide +kernel, by decide, by decide,
      by decide,
      by decide,
      (Option.some_get (by decide +kernel : (runFrame (withEnt State.reset (adEnt 0xC1 20 0)) 16 writeFrame0).isSome = true)).symm⟩,
    ⟨⟨0, 1⟩, adEnt 0xC2 0x1000000 4, withEnt State.reset (adEnt 0xC2 0x1000000 4), by (dsimp only; decide +kernel)⟩⟩

/-- An engine in RUN with a return address and a handler running, at a word of the ROM. -/
def trlRunning : State := (st [(K.trlState 0, 3)]).setEng 0 { cur := { stack := [0] }, irq := some {} }

/-- Met: the conditions of MicrowordsExecute for each of the fourteen operations, taken or not, with any of the addresses they give. -/
theorem witness_MicrowordsExecute : trlState trlRunning 0 = 3 ∧ ∀ op : Fin 14,
    let m := microOf ((trlRunning.eng 0).microAt ((trlRunning.eng 0).fetchAt) (BitVec.ofNat 40 (op.val * 2 ^ 36)))
    m.op = op.val ∧ ∀ taken : Bool, ∀ next : Fin 3,
      wordFault trlRunning 0 (trlRunning.eng 0).fetchAt m (nanoOf ((trlRunning.eng 0).nanoAt m.nano 0)) taken next.val = none := by
  dsimp only; decide +kernel

/-- A drive-managed zone 0 of one block on ring 0 of the reference drive (spec/07 R157). -/
def mergeState : State :=
  (st [(K.zoneZoneMode, 2), (K.zoneZoneCount, 1), (K.zoneNsBlocks, 1), (K.ringRingFormat 0 0, 0x0000861063206F3C),
    (K.ringRingStart 0 0 0, 2 ^ 31), (K.spinTargetRpm, 7200), (K.ringFormatRpm 0, 7200), (K.actServoCellMhzC 0, 20000),
    (K.ringGuardPreNs 0, 60), (K.ringGuardPostNs 0, 60), (K.sunWedgesPerRev, 512)]).store (ctxAddr 0 + 28) [1]

theorem mergeCheck_of (u : State) (z p : Nat) (d : Ctx) (hh : formatHeads u z ((u.ctx z).placed p) = true)
    (hd : withTracks u ((u.ctx z).placed p) = some d ∧ z < u.nat K.zoneZoneCount ∧ u.nat K.zoneZoneMode = 2 ∧ ((u.ctx z).busy == 0) = true ∧
      (formatRing u d && formatCapacity u z d && formatTwin u d && formatTracks d && formatApart u z d) = true) :
    mergeCheck u z p = true := by
  obtain ⟨hw, hz, hm, hb, hf⟩ := hd
  simp only [Bool.and_eq_true] at hf
  simp [mergeCheck, placementCause, hh, hw, hm, hz, hb, hf]

/-- Met: the conditions of the merge in ZoneCommandsComplete, on a drive with a head on actuator 0 (log entry 8). -/
theorem witness_ZoneCommandsComplete_merge (h : 0 < Config.headsUsed 0) :
    ∃ (m : Master) (v : Word) (s : State), accepts s m K.zoneMergeStart v = true ∧ v ≠ 0 ∧
      let t := wrote s m K.zoneMergeStart v
      let l := t.load (t.nat K.zoneMergeJob) 64
      let z := bitsOf (leNat (l.take 4)) 0 18
      let p := jobPlacement l
      let job : MergeJob := { zone := z, place := placementOf p, buffer := leNat ((l.drop 16).take 8), since := t.now }
      let u := (({ t with zones := { t.zones with job := some job } }.setN K.zoneMergeState 1).setN K.zoneMergeCause 0).setN
        K.zoneMergeProgress 0
      t.zones.job = none ∧ mergeCheck u z p = true := by
  refine ⟨2, 1, mergeState, by decide +kernel, by decide, ?_⟩
  intro t l z p job u
  have hz : z = 0 := by decide +kernel
  have hp : p = 0 := by decide +kernel
  rw [hz, hp]
  refine ⟨by decide +kernel, ?_⟩
  refine mergeCheck_of u 0 0 ((withTracks u ((u.ctx 0).placed 0)).getD 0) ?_ (by decide +kernel)
  have e1 : ((u.ctx 0).placed 0).act = 0 := by decide +kernel
  have e2 : ((u.ctx 0).placed 0).twin = false := by decide +kernel
  have e3 : ((u.ctx 0).placed 0).head = 0 := by decide +kernel
  have e4 : zoneAct u 0 = 0 := by decide +kernel
  simp [formatHeads, e1, e2, e3, e4, h]

theorem reset_sound : State.reset.Sound := by unfold State.Sound; decide +kernel

/-- Met: the conditions of StepRunsTheFrontCommand and EmptyQueuePassesAMicrosecond. -/
theorem witness_Step : (∃ (c : Instr) (rest : List Instr) (s : State), s.pending = c :: rest) ∧ State.reset.pending = [] :=
  ⟨⟨.linkNop 0, [], { State.reset with pending := [.linkNop 0] }, rfl⟩, rfl⟩

/-- Met: the conditions of CommandsKeepQueueAndVariant and StepsKeepSoundness. -/
theorem witness_Soundness : (∃ (c : Instr) (s t : State), s.Sound ∧ exec c s = .next t) ∧
    ∃ s t : State, s.Sound ∧ step s = .next t :=
  ⟨⟨.linkNop 0, State.reset, _, reset_sound, rfl⟩, State.reset, _, reset_sound, rfl⟩

/-- Met: the conditions of AccessCodesActAsStated: an RO object, and a write status of ok for an RW, a W1C and a W1S object. -/
theorem witness_AccessCodesActAsStated :
    (∃ (i sub : Nat) (r : ObjRow) (s : State), unitAbsent s.variant i = false ∧ objNow s (aliasIndex i) sub = some r ∧ r.acc = .ro) ∧
    ∀ a ∈ [Acc.rw, .w1c, .w1s], ∃ (m : Master) (i sub : Nat) (v : Word) (r : ObjRow) (s : State), sub < 256 ∧
      writeStatus s m i sub v true = .ok ∧ objNow s (aliasIndex i) sub = some r ∧ r.acc = a := by
  refine ⟨⟨0x2800, 1, (objNow State.reset 0x2800 1).get (by decide +kernel), State.reset, by decide +kernel⟩, ?_⟩
  intro a ha
  simp only [List.mem_cons, List.not_mem_nil, or_false] at ha
  rcases ha with rfl | rfl | rfl
  · exact ⟨2, 0xB010, 1, 12000, (objNow State.reset 0xB010 1).get (by decide +kernel), State.reset, by decide +kernel⟩
  · exact ⟨2, 0x2880, 1, 1, (objNow State.reset 0x2880 1).get (by decide +kernel), State.reset, by decide +kernel⟩
  · exact ⟨2, 0x1010, 6, 1, (objNow State.reset 0x1010 6).get (by decide +kernel), State.reset, by decide +kernel⟩

/-- Met: a write that is not accepted (WritesFrameTheState, WriteStatusesInOrder), an accepted store, and each cause of WriteStatusesInOrder. -/
theorem witness_WriteStatuses :
    accepts State.reset 2 K.sunState 1 = false ∧
    writes State.reset { master := 2, index := 0xB010, sub := 1, width := .low4, data := 12000 } = true ∧
    writeStatus State.reset 2 0x1001 255 0 true = .noObject ∧
    writeStatus { State.reset with variant := .p32 } 2 0x8000 1 0 true = .objectAbsent ∧
    writeStatus State.reset 2 0x2800 1 0 true = .accessDenied ∧
    writeStatus State.reset 2 0xB010 1 12000 false = .typeMismatch ∧
    writeStatus State.reset 2 0x3300 2 0 true = .stagedOnly ∧
    writeStatus (st [(K.memCacheEnable, 1)]) 2 0x7100 3 2 true = .blockActive ∧
    writeStatus State.reset 2 0xB010 1 12001 true = .invalidValue := by
  decide +kernel

/-- Met: the conditions of EdgeValuesWaitForTheirBoundary, for each of its boundaries that an object has. -/
theorem witness_EdgeValuesWaitForTheirBoundary :
    (∃ (k : Key) (r : ObjRow) (b : Boundary) (s : State), r.apply = .edge b ∧ (b ≠ .revolution ∨ s.nat K.sunState ≠ 0) ∧
      objRow (k / 256) (k % 256) = some r) ∧
    (∃ (r : ObjRow) (s : State), r.apply = .edge .revolution ∧ s.nat K.sunState = 0) ∧
    ∃ (b c : Boundary) (k : Key) (r : ObjRow), objRow (k / 256) (k % 256) = some r ∧ r.apply = .edge c ∧ b ≠ c :=
  ⟨⟨0x280401, (objRow 0x2804 1).get (by decide +kernel), .revolution, st [(K.sunState, 1)], by decide +kernel⟩,
    ⟨(objRow 0x2804 1).get (by decide +kernel), State.reset, by decide +kernel⟩,
    .wedge, .command, 0x350001, (objRow 0x3500 1).get (by decide +kernel), by decide +kernel⟩

/-- Met: the conditions of PopTakesTheHead and PushFillsOrOverruns: a queue with an item, an empty one, one with room under its reserve or in
the pool, one at its depth, one at its reserve with the pool used up, and one whose overrun bit stands. -/
theorem witness_PantryQueues :
    (∃ (q : Nat) (it : PanItem) (rest : List PanItem) (s : State), s.flag K.poolPantryDegraded = false ∧
      (s.queue q).items = it :: rest ∧ s.nat (K.panDepthMax q) ≤ (s.queue q).items.length) ∧
    (∃ (q : Nat) (s : State), (s.queue q).items = [] ∧ s.flag K.poolPantryDegraded = false ∧
      (s.queue q).items.length < s.nat (K.panDepthMax q) ∧
      ((s.queue q).items.length < s.nat (K.panReserve q) ∨ heldBack s < poolCells - s.pan.used)) ∧
    (∃ (q : Nat) (s : State), s.flag K.poolPantryDegraded = false ∧ (s.queue q).items.length < s.nat (K.panDepthMax q) ∧
      s.nat (K.panReserve q) ≤ (s.queue q).items.length ∧ poolCells - s.pan.used ≤ heldBack s) ∧
    ∃ (q : Nat) (s : State), s.bit (K.panFlags q) 1 = true :=
  ⟨⟨0, ⟨0, []⟩, [], (st [(K.panDepthMax 0, 1)]).setQueue 0 { items := [⟨0, []⟩] }, by decide +kernel⟩,
    ⟨511, st [(K.panDepthMax 511, 1)], by decide +kernel⟩,
    ⟨0, { st [(K.panDepthMax 0, 1)] with pan := { used := 16384 } }, by decide +kernel⟩,
    0, st [(K.panFlags 0, 2)], by decide +kernel⟩

def capture1 : Capture :=
  { event := 1, conseq := false, injected := false, master := 0, access := 0, cls := 0, cause := none, addr := 0, time := 0, angle := 0,
    sunState := 0, params := [] }
def ctx1 (native : Bool) : EvCtx := { State.reset.evCtx with native := native }

/-- Met: the conditions of CaptureModeClearsAndSelects, RaisedEventsLatch and AlmanacWindowMovesTheCursor: both modes with an empty and a
full capture, an event that the part has, one that it lacks and one that is not defined, and the cursor at a record and at the end. -/
theorem witness_Events :
    (∃ (m : Master) (v : Word), accepts State.reset m K.evtCaptureMode v = true ∧ (v = 0 ∨ v = 1)) ∧
    (∀ n : Bool, ∃ (b : StatBlk) (c : EvCtx), b.capture = none ∧ b.missed = 0 ∧ b.first = none ∧ b.overflow = false ∧ c.native = n) ∧
    (∀ n : Bool, ∃ (b : StatBlk) (c : EvCtx) (old : Capture) (f : Nat), b.capture = some old ∧ b.missed ≤ 255 ∧ b.first = some f ∧
      c.native = n) ∧
    (∃ (e : Fin 512) (s : State), eventDefined e = true ∧ eventAbsent s.variant e = false) ∧
    (∃ (e : Fin 512) (s : State), eventDefined e = true ∧ eventAbsent s.variant e = true) ∧
    (∃ e : Fin 512, eventDefined e = false) ∧
    (∃ (p : Partition) (r : Rec), p.recs[(p.cursor + 2 ^ 24 - p.oldest) % 2 ^ 24]? = some r ∧ p.cursor ≠ p.next) ∧
    (∃ p : Partition, p.recs.length < 2 ^ 24 ∧ p.oldest < 2 ^ 24 ∧ p.cursor = p.next) ∧
    ∃ (m : Master) (p : Fin 3) (v : Word), accepts State.reset m (K.almCursor p) v = true :=
  ⟨⟨2, 1, by decide +kernel⟩, fun n => ⟨{}, ctx1 n, rfl, rfl, rfl, rfl, rfl⟩,
    fun n => ⟨{ capture := some capture1, missed := 255, first := some 1 }, ctx1 n, capture1, 1, rfl, by decide, rfl, rfl⟩,
    ⟨498, State.reset, by decide +kernel⟩, ⟨459, { State.reset with variant := .p32 }, by decide +kernel⟩, ⟨254, by decide +kernel⟩,
    ⟨{ recs := [rec0] }, rec0, by decide⟩, ⟨{}, by decide⟩, 2, 2, 0, by decide +kernel⟩

/-- Met: the conditions of MemoryReadsWhatWasStored: the Sieve engines' memory, the journal and the zone contexts. -/
theorem witness_MemoryReadsWhatWasStored :
    (∃ (a : Addr) (n : AccessSize), regionOf a.toNat (sizeBytes n) = .sieve ∧ hasSieve State.reset.variant = true) ∧
    (∃ (a : Addr) (n : AccessSize) (fm : FabricMaster), regionOf a.toNat (sizeBytes n) = .journal ∧ fm = .sheafUnit) ∧
    ∃ (a : Addr) (n : AccessSize), regionOf a.toNat (sizeBytes n) = .context :=
  ⟨⟨0x7003FFF8, .b8, by decide +kernel⟩, ⟨0x4083FFFC, .b4, .sheafUnit, by decide +kernel⟩, 0x407FFFFF, .b1, by decide +kernel⟩

/-- Met: the conditions of WriteGateNeedsLockedWedge. -/
theorem witness_WriteGateNeedsLockedWedge :
    (∃ (q : Slot) (i : GateIn) (e : StageEnt) (s : State), let b := takeSurface (boundaryIn s .sector (slotOwns q)) q i.head i.track.toNat
      b.nat K.sunState ≠ 3 ∧ i.reopening = false ∧ (s.wr q).gate = none ∧ twinHeld s q = false ∧ (b.link (q / 2)).preampSafe = false ∧
      stagedEnt (b.wr q) i.tag.toNat i.sector.toNat = some e ∧ e.bad = false) ∧
    ∃ (q : Slot) (i : GateIn) (g : Gate) (s : State), s.nat K.sunState ≠ 3 ∧ i.reopening = true ∧ (s.wr q).gate = some g ∧
      g.paused = true :=
  ⟨⟨0, gateIn0, staged0, (State.reset.setWr 0 { staging := [staged0] }).setLink 0 { preampSafe := false }, by decide +kernel⟩,
    3, { gateIn0 with reopening := true }, gate0 true, State.reset.setWr 3 { gate := some (gate0 true) }, by decide +kernel⟩

/-- Met: the conditions of LocksShutOthersOut: an entry held by master 2 over 0xB010 to 0xB010, a write there by master 3, one to the entry. -/
theorem witness_LocksShutOthersOut :
    let s := st [(K.dictLock 15, 0x22B010B010)]
    let w := s.nat (K.dictLock 15)
    lockHeld w = true ∧ lockOwner w = 2 ∧ aliasIndex 0xB010 ≠ 0x1040 ∧ lockFirst w ≤ aliasIndex 0xB010 ∧ aliasIndex 0xB010 ≤ lockLast w ∧
      unitAbsent s.variant 0xB010 = false ∧ (objNow s (aliasIndex 0xB010) 1).isSome = true := by
  dsimp only; decide +kernel

/-- Met: the conditions of HostCommandsTurnedAway and QueueCommandsTouchOnlyQueues. -/
theorem witness_HostQueues :
    (∀ op ∈ ([0x02, 0x01, 0x7D, 0x08, 0x00, 0x09] : List Byte), ∃ (c : CmdRef) (e : CmdEnt) (s : State), s.nat K.pmMode = 5 ∧
      activeEnt s.host.table (refOf c) false op.toNat = some e) ∧
    (∃ (q : BitVec 16) (v : BitVec 32) (x : SubQ) (s t : State), s.subQ q.toNat = some x ∧ v.toNat < x.size ∧
      exec (.sqTailDoorbell q v) s = .next t) ∧
    (∃ (q : BitVec 16) (v : BitVec 32) (x : SubQ) (s : State), s.subQ q.toNat = some x ∧ x.size ≤ v.toNat) ∧
    (∃ (q : BitVec 16) (v : BitVec 32) (x : ComplQ) (s t : State), Sp.get s.host.cqs q.toNat = some x ∧ v.toNat < x.size ∧
      (v.toNat + x.size - x.head) % x.size ≤ x.used ∧ exec (.cqHeadDoorbell q v) s = .next t) ∧
    (∃ (q : BitVec 16) (v : BitVec 32) (x : ComplQ) (s : State), Sp.get s.host.cqs q.toNat = some x ∧ x.size ≤ v.toNat) ∧
    ∃ (q : BitVec 16) (s t : State), exec (.cqePost q) s = .next t := by
  have h5 : (st [(K.pmMode, 5)]).nat K.pmMode = 5 := by decide +kernel
  have ho : ∀ op ∈ ([0x02, 0x01, 0x7D, 0x08, 0x00, 0x09] : List Byte),
      activeEnt (withEnt (st [(K.pmMode, 5)]) (ioEnt op 1 0)).host.table (refOf ⟨1, 1⟩) false op.toNat = some (ioEnt op 1 0) := by
    decide +kernel
  exact ⟨fun op h => ⟨⟨1, 1⟩, ioEnt op 1 0, withEnt (st [(K.pmMode, 5)]) (ioEnt op 1 0), h5, ho op h⟩,
    ⟨1, 1, { size := 2, cqid := 1 }, withHost State.reset { sqs := [(1, { size := 2, cqid := 1 })] }, _, by decide +kernel, by decide, rfl⟩,
    ⟨1, 2, { size := 2, cqid := 1 }, withHost State.reset { sqs := [(1, { size := 2, cqid := 1 })] }, by decide +kernel⟩,
    ⟨1, 1, { size := 2, tail := 1 }, withHost State.reset { cqs := [(1, { size := 2, tail := 1 })] }, _, by decide +kernel, by decide,
      by decide, rfl⟩,
    ⟨1, 2, { size := 2 }, withHost State.reset { cqs := [(1, { size := 2 })] }, by decide +kernel⟩, 0, State.reset, _, rfl⟩

/-- Met: the conditions of CountersSaturate, DatapathComputes, CommandsFrameByGroup and OneWriteOfACycleWins: two writes of one cycle, the
one of master 2 before that of master 15, and a write that meets none. -/
theorem witness_Others :
    (∃ (k : Key) (s : State), s.nat k < 0xFFFFFFFF) ∧ (∃ (k : Key) (s : State), 0xFFFFFFFF ≤ s.nat k) ∧
    (∃ s t : State, exec .faultPulseEnd s = .next t) ∧
    let x : DictStore := { master := 2, index := 0x287F, sub := 4, width := .full8, data := 0 }
    let y : DictStore := { x with master := 15 }
    writes State.reset x = true ∧ writes State.reset y = true ∧ storeKey x = storeKey y ∧ beats x y = true :=
  ⟨⟨0, State.reset, by decide +kernel⟩, ⟨K.poolOverrunCount, st [(K.poolOverrunCount, 0xFFFFFFFF)], by decide +kernel⟩,
    ⟨State.reset, _, rfl⟩, by decide +kernel⟩

end Sys2Proof.Tests
end

/-! PROOF. What every command keeps: the canonical form of the listed data, the queue and the variant (O32). -/

namespace Sys2Proof.Machine

section
variable {v : Variant} {q : List Instr} {s : State}

/-- A state in canonical form is sound, whichever variant and queue the form names. -/
theorem Canon.sound (h : Canon v q s) : s.Sound :=
  ⟨h.mem, h.variant ▸ h.dict, h.edge⟩

/-- Soundness is the canonical form under the state's own variant and queue. `Canon` fixes these two besides, so that one fact about a
command says both what it keeps sound and what it leaves alone. -/
theorem sound_iff_canon : s.Sound ↔ Canon s.variant s.pending s :=
  ⟨fun ⟨hmem, hdict, hedge⟩ => ⟨rfl, rfl, hmem, hdict, hedge⟩, Canon.sound⟩

theorem ends_next_iff : Ends v q (.next s) ↔ Canon v q s := Iff.rfl

/-- The dispatcher keeps the canonical form, the queue and the variant: each arm is the meaning of one command, and the law of that
meaning in Laws/Canon… says what it keeps. -/
theorem exec_canon (c : Instr) (hs : Canon v q s) : Ends v q (exec c s) := by
  cases c with
  | fabricAccess => exact execFabricAccess_canon hs
  | objectWrite => exact execObjectWrite_canon hs
  | countersClear => exact execCountersClear_canon hs
  | stagingMiss => exact execStagingMiss_canon hs
  | snapshot => exact execSnapshot_canon hs
  | acceptWindowClose => exact execAcceptWindowClose_canon hs
  | sundialEnableWrite => exact execSundialEnableWrite_canon hs
  | freeLimitExpiry => exact execFreeLimitExpiry_canon hs
  | fractionWrap => exact execFractionWrap_canon hs
  | angleAlarmFire => exact execAngleAlarmFire_canon hs
  | alarmWordWrite => exact execAlarmWordWrite_canon hs
  | syncEnableWrite => exact execSyncEnableWrite_canon hs
  | syncInPulse => exact execSyncInPulse_canon hs
  | syncPulseTimeout => exact execSyncPulseTimeout_canon hs
  | controlCycle => exact execControlCycle_canon hs
  | speedLoopTick => exact execSpeedLoopTick_canon hs
  | spinEnableWrite => exact execSpinEnableWrite_canon hs
  | measureEnd => exact execMeasureEnd_canon hs
  | ipdComplete => exact execIpdComplete_canon hs
  | convergeTimeout => exact execConvergeTimeout_canon hs
  | brakeTimeout => exact execBrakeTimeout_canon hs
  | recatchDelayExpiry => exact execRecatchDelayExpiry_canon hs
  | bridgeOvercurrent => exact execBridgeOvercurrent_canon hs
  | bridgeFault => exact execBridgeFault_canon hs
  | powerLossSequenceComplete => exact execPowerLossSequenceComplete_canon hs
  | servoSample => exact execServoSample_canon hs
  | outputLatch => exact execOutputLatch_canon hs
  | seekMailboxWrite => exact execSeekMailboxWrite_canon hs
  | seekTimeout => exact execSeekTimeout_canon hs
  | settleMiss => exact execSettleMiss_canon hs
  | accelSample => exact execAccelSample_canon hs
  | shockHoldoffExpiry => exact execShockHoldoffExpiry_canon hs
  | loadRequest => exact execLoadRequest_canon hs
  | unloadRequest => exact execUnloadRequest_canon hs
  | loadMsExpiry => exact execLoadMsExpiry_canon hs
  | loadSearchTimeout => exact execLoadSearchTimeout_canon hs
  | unloadComplete => exact execUnloadComplete_canon hs
  | unloadTimeout => exact execUnloadTimeout_canon hs
  | retractExpiry => exact execRetractExpiry_canon hs
  | bemfOverspeed => exact execBemfOverspeed_canon hs
  | vcmDriverFault => exact execVcmDriverFault_canon hs
  | pztDriverFault => exact execPztDriverFault_canon hs
  | servoDegradedClear => exact execServoDegradedClear_canon hs
  | mapValidWrite => exact execMapValidWrite_canon hs
  | captureStart => exact execCaptureStart_canon hs
  | mapCaptureDone => exact execMapCaptureDone_canon hs
  | assistGrantRequest => exact execAssistGrantRequest_canon hs
  | assistBudgetWrite => exact execAssistBudgetWrite_canon hs
  | linkNop => exact execLinkNop_canon hs
  | linkRead => exact execLinkRead_canon hs
  | linkWrite => exact execLinkWrite_canon hs
  | assistArm => exact execAssistArm_canon hs
  | assistOff => exact execAssistOff_canon hs
  | preampSafe => exact execPreampSafe_canon hs
  | linkResponse => exact execLinkResponse_canon hs
  | linkResponseTimeout => exact execLinkResponseTimeout_canon hs
  | linkDegradedClear => exact execLinkDegradedClear_canon hs
  | linkInit => exact execLinkInit_canon hs
  | preampFaultLine => exact execPreampFaultLine_canon hs
  | monitorPoll => exact execMonitorPoll_canon hs
  | monitorAgeExpiry => exact execMonitorAgeExpiry_canon hs
  | headTempPoll => exact execHeadTempPoll_canon hs
  | regOpRead => exact execRegOpRead_canon hs
  | regOpWrite => exact execRegOpWrite_canon hs
  | readGateRequest => exact execReadGateRequest_canon hs
  | readGateClose => exact execReadGateClose_canon hs
  | defectDetect => exact execDefectDetect_canon hs
  | defectClear => exact execDefectClear_canon hs
  | defectHoldoffExpiry => exact execDefectHoldoffExpiry_canon hs
  | defectLong => exact execDefectLong_canon hs
  | loopRail => exact execLoopRail_canon hs
  | ringFormatWrite => exact execRingFormatWrite_canon hs
  | bufPinWrite => exact execBufPinWrite_canon hs
  | liveDecode => exact execLiveDecode_canon hs
  | markTrial => exact execMarkTrial_canon hs
  | redetectPass => exact execRedetectPass_canon hs
  | deepJob => exact execDeepJob_canon hs
  | combineStart => exact execCombineStart_canon hs
  | outerCodeSolve => exact execOuterCodeSolve_canon hs
  | ocRelease => exact execOcRelease_canon hs
  | decoderFault => exact execDecoderFault_canon hs
  | sectorStage => exact execSectorStage_canon hs
  | writeGateRequest => exact execWriteGateRequest_canon hs
  | writeGateClose => exact execWriteGateClose_canon hs
  | encoderFault => exact execEncoderFault_canon hs
  | next => exact execNext_canon hs
  | jump => exact execJump_canon hs
  | brT => exact execBrT_canon hs
  | brF => exact execBrF_canon hs
  | disp => exact execDisp_canon hs
  | call => exact execCall_canon hs
  | callT => exact execCallT_canon hs
  | ret => exact execRet_canon hs
  | retT => exact execRetT_canon hs
  | loop => exact execLoop_canon hs
  | wait => exact execWait_canon hs
  | reti => exact execReti_canon hs
  | halt => exact execHalt_canon hs
  | skip => exact execSkip_canon hs
  | fabricResponse => exact execFabricResponse_canon hs
  | runRestart => exact execRunRestart_canon hs
  | runResume => exact execRunResume_canon hs
  | haltReq => exact execHaltReq_canon hs
  | softIrq => exact execSoftIrq_canon hs
  | trellisLoadReport => exact execTrellisLoadReport_canon hs
  | storeError => exact execStoreError_canon hs
  | formatCommit => exact execFormatCommit_canon hs
  | formatCheckDone => exact execFormatCheckDone_canon hs
  | zoneHwEnable => exact execZoneHwEnable_canon hs
  | allocWrite => exact execAllocWrite_canon hs
  | allocAppend => exact execAllocAppend_canon hs
  | allocRewind => exact execAllocRewind_canon hs
  | zoneOpen => exact execZoneOpen_canon hs
  | zoneClose => exact execZoneClose_canon hs
  | zoneFinish => exact execZoneFinish_canon hs
  | zoneReset => exact execZoneReset_canon hs
  | zoneOffline => exact execZoneOffline_canon hs
  | zoneSetDescriptorExtension _ zone => exact execZoneSetDescriptorExtension_canon (_zone := zone) hs
  | zoneManagementReceive => exact execZoneManagementReceive_canon hs
  | mergeStart => exact execMergeStart_canon hs
  | mergeEnd => exact execMergeEnd_canon hs
  | mergeCancel => exact execMergeCancel_canon hs
  | contextUncorrectable => exact execContextUncorrectable_canon hs
  | hostTransportWrite => exact execHostTransportWrite_canon hs
  | linkEnable => exact execLinkEnable_canon hs
  | perstAssert => exact execPerstAssert_canon hs
  | functionLevelReset => exact execFunctionLevelReset_canon hs
  | ccEnClear => exact execCcEnClear_canon hs
  | shutdownNotification => exact execShutdownNotification_canon hs
  | shutdownComplete => exact execShutdownComplete_canon hs
  | sqTailDoorbell => exact execSqTailDoorbell_canon hs
  | cqHeadDoorbell => exact execCqHeadDoorbell_canon hs
  | commandFetch => exact execCommandFetch_canon hs
  | sqFetchError => exact execSqFetchError_canon hs
  | tlpReceive => exact execTlpReceive_canon hs
  | dataTransferError => exact execDataTransferError_canon hs
  | completionWrite => exact execCompletionWrite_canon hs
  | cqePost => exact execCqePost_canon hs
  | descriptorPick => exact execDescriptorPick_canon hs
  | abortBudgetExpiry => exact execAbortBudgetExpiry_canon hs
  | read => exact execRead_canon hs
  | write => exact execWrite_canon hs
  | zoneAppend => exact execZoneAppend_canon hs
  | writeZeroes => exact execWriteZeroes_canon hs
  | flush => exact execFlush_canon hs
  | datasetManagement => exact execDatasetManagement_canon hs
  | abort => exact execAbort_canon hs
  | createIoSq => exact execCreateIoSq_canon hs
  | createIoCq => exact execCreateIoCq_canon hs
  | deleteIoSq => exact execDeleteIoSq_canon hs
  | deleteIoCq => exact execDeleteIoCq_canon hs
  | getLogPage => exact execGetLogPage_canon hs
  | identify => exact execIdentify_canon hs
  | setFeatures => exact execSetFeatures_canon hs
  | getFeatures => exact execGetFeatures_canon hs
  | asynchronousEventRequest => exact execAsynchronousEventRequest_canon hs
  | firmwareImageDownload => exact execFirmwareImageDownload_canon hs
  | firmwareCommit => exact execFirmwareCommit_canon hs
  | deviceSelfTest => exact execDeviceSelfTest_canon hs
  | formatNvm => exact execFormatNvm_canon hs
  | sanitize => exact execSanitize_canon hs
  | securitySend => exact execSecuritySend_canon hs
  | securityReceive => exact execSecurityReceive_canon hs
  | nvmeMiSend => exact execNvmeMiSend_canon hs
  | nvmeMiReceive => exact execNvmeMiReceive_canon hs
  | keepAlive => exact execKeepAlive_canon hs
  | keepAliveTimeout => exact execKeepAliveTimeout_canon hs
  | dictionaryWrite => exact execDictionaryWrite_canon hs
  | dictionaryRead => exact execDictionaryRead_canon hs
  | orderedQueueRestart => exact execOrderedQueueRestart_canon hs
  | orderedMaskWrite => exact execOrderedMaskWrite_canon hs
  | fabricsConnect => exact execFabricsConnect_canon hs
  | tcpPduError => exact execTcpPduError_canon hs
  | tcpConnectionClose => exact execTcpConnectionClose_canon hs
  | pcieLinkDown => exact execPcieLinkDown_canon hs
  | ethLinkChange => exact execEthLinkChange_canon hs
  | sheafOpen => exact execSheafOpen_canon hs
  | sheafSlotFreed => exact execSheafSlotFreed_canon hs
  | sheafAppend => exact execSheafAppend_canon hs
  | sheafCommit => exact execSheafCommit_canon hs
  | sheafCommitProceed => exact execSheafCommitProceed_canon hs
  | sheafAbort => exact execSheafAbort_canon hs
  | releaseSeqWrite => exact execReleaseSeqWrite_canon hs
  | powerLossSignal => exact execPowerLossSignal_canon hs
  | flushDone => exact execFlushDone_canon hs
  | flushFail => exact execFlushFail_canon hs
  | holdUpLost => exact execHoldUpLost_canon hs
  | flushNow => exact execFlushNow_canon hs
  | recoverLoad => exact execRecoverLoad_canon hs
  | recoveryLoaded => exact execRecoveryLoaded_canon hs
  | replayStart => exact execReplayStart_canon hs
  | replayEnd => exact execReplayEnd_canon hs
  | cellarAccess => exact execCellarAccess_canon hs
  | cellarFillDone => exact execCellarFillDone_canon hs
  | refreshRateIndication => exact execRefreshRateIndication_canon hs
  | cacheEnableWrite => exact execCacheEnableWrite_canon hs
  | llcCleanDone => exact execLlcCleanDone_canon hs
  | scratchWaysWrite => exact execScratchWaysWrite_canon hs
  | cacheClean => exact execCacheClean_canon hs
  | cacheFlush => exact execCacheFlush_canon hs
  | cacheInvalidate => exact execCacheInvalidate_canon hs
  | zeroLine => exact execZeroLine_canon hs
  | lineFill => exact execLineFill_canon hs
  | trackerClear => exact execTrackerClear_canon hs
  | hoeStart => exact execHoeStart_canon hs
  | hoeCancel => exact execHoeCancel_canon hs
  | hoePassEnd => exact execHoePassEnd_canon hs
  | pantryPush => exact execPantryPush_canon hs
  | pantryPop => exact execPantryPop_canon hs
  | queueReset => exact execQueueReset_canon hs
  | sweepDone => exact execSweepDone_canon hs
  | loadProgram => exact execLoadProgram_canon hs
  | programActivationManagement => exact execProgramActivationManagement_canon hs
  | memoryRangeSetManagement => exact execMemoryRangeSetManagement_canon hs
  | executeProgram => exact execExecuteProgram_canon hs
  | memoryCopy => exact execMemoryCopy_canon hs
  | slmRead => exact execSlmRead_canon hs
  | slmWrite => exact execSlmWrite_canon hs
  | fwStart => exact execFwStart_canon hs
  | fwStop => exact execFwStop_canon hs
  | programStart => exact execProgramStart_canon hs
  | ecallExit => exact execEcallExit_canon hs
  | ecallPop => exact execEcallPop_canon hs
  | ecallPush => exact execEcallPush_canon hs
  | programFault => exact execProgramFault_canon hs
  | execTimeout => exact execExecTimeout_canon hs
  | grantWaitExpiry => exact execGrantWaitExpiry_canon hs
  | pauseLimitExpiry => exact execPauseLimitExpiry_canon hs
  | frameWrite => exact execFrameWrite_canon hs
  | frameRead => exact execFrameRead_canon hs
  | frameDescribe => exact execFrameDescribe_canon hs
  | lockAcquire => exact execLockAcquire_canon hs
  | lockRelease => exact execLockRelease_canon hs
  | dictStoreError => exact execDictStoreError_canon hs
  | readNvmeMiDataStructure dtyp => exact execReadNvmeMiDataStructure_canon (_dtyp := dtyp) hs
  | nvmSubsystemHealthStatusPoll clear => exact execNvmSubsystemHealthStatusPoll_canon (_clear := clear) hs
  | controllerHealthStatusPoll => exact execControllerHealthStatusPoll_canon hs
  | configurationGet => exact execConfigurationGet_canon hs
  | configurationSet => exact execConfigurationSet_canon hs
  | mgmtLinkReset => exact execMgmtLinkReset_canon hs
  | mgmtReset => exact execMgmtReset_canon hs
  | bootEntry => exact execBootEntry_canon hs
  | measGo => exact execMeasGo_canon hs
  | sealRequest => exact execSealRequest_canon hs
  | sealTimeout => exact execSealTimeout_canon hs
  | fwConfirm => exact execFwConfirm_canon hs
  | rollbackAdvance => exact execRollbackAdvance_canon hs
  | getVersion => exact execGetVersion_canon hs
  | getCapabilities => exact execGetCapabilities_canon hs
  | negotiateAlgorithms => exact execNegotiateAlgorithms_canon hs
  | getDigests => exact execGetDigests_canon hs
  | getCertificate => exact execGetCertificate_canon hs
  | challenge => exact execChallenge_canon hs
  | getMeasurements => exact execGetMeasurements_canon hs
  | genkey => exact execGenkey_canon hs
  | revert => exact execRevert_canon hs
  | revertsp => exact execRevertsp_canon hs
  | psidRevert => exact execPsidRevert_canon hs
  | opalLockChange => exact execOpalLockChange_canon hs
  | eraseDone => exact execEraseDone_canon hs
  | strongroomFault => exact execStrongroomFault_canon hs
  | blockReset => exact execBlockReset_canon hs
  | blankingEnd => exact execBlankingEnd_canon hs
  | faultPulseEnd => exact execFaultPulseEnd_canon hs
  | faultHoldWrite => exact execFaultHoldWrite_canon hs
  | latchedClear => exact execLatchedClear_canon hs
  | captureRelease => exact execCaptureRelease_canon hs
  | captureModeWrite => exact execCaptureModeWrite_canon hs
  | eventCfgWrite => exact execEventCfgWrite_canon hs
  | injectGo => exact execInjectGo_canon hs
  | almanacRecordWrite => exact execAlmanacRecordWrite_canon hs
  | fwWrite => exact execFwWrite_canon hs
  | window3Read => exact execWindow3Read_canon hs
  | cursorWrite => exact execCursorWrite_canon hs
  | partitionRelease => exact execPartitionRelease_canon hs
  | persistGo => exact execPersistGo_canon hs
  | persistEnd => exact execPersistEnd_canon hs
  | modeTick => exact execModeTick_canon hs
  | modeRowComplete => exact execModeRowComplete_canon hs
  | modeRowTimeout => exact execModeRowTimeout_canon hs
  | mgmtRequestWrite => exact execMgmtRequestWrite_canon hs
  | safeEntry => exact execSafeEntry_canon hs
  | safeRestart => exact execSafeRestart_canon hs
  | supplyOutOfRange => exact execSupplyOutOfRange_canon hs
  | powerOnReset => exact execPowerOnReset_canon hs
  | warmReset => exact execWarmReset_canon hs
  | standbyWake => exact execStandbyWake_canon hs
  | standbyIdleExpiry => exact execStandbyIdleExpiry_canon hs
  | domainRequest => exact execDomainRequest_canon hs
  | domainTransitionDone => exact execDomainTransitionDone_canon hs
  | domainTimeout => exact execDomainTimeout_canon hs
  | reservationRequest => exact execReservationRequest_canon hs
  | reservationRelease => exact execReservationRelease_canon hs
  | slotReleaseExpiry => exact execSlotReleaseExpiry_canon hs
  | envelopeWrite => exact execEnvelopeWrite_canon hs
  | powerMeasurement => exact execPowerMeasurement_canon hs
  | sensorSample => exact execSensorSample_canon hs
  | throttleStepDown => exact execThrottleStepDown_canon hs
  | substitutionHoldExpiry => exact execSubstitutionHoldExpiry_canon hs
  | thermalTrip => exact execThermalTrip_canon hs
  | tripRecovery => exact execTripRecovery_canon hs
  | compensationUpdate => exact execCompensationUpdate_canon hs
  | ccEnSet => exact execCcEnSet_canon hs
  | pcieLinkTrained => exact execPcieLinkTrained_canon hs
  | parkHoldExpiry => exact execParkHoldExpiry_canon hs
  | debugPortActive => exact execDebugPortActive_canon hs
  | hsFltLRelease => exact execHsFltLRelease_canon hs
  | mctpControlMessage => exact execMctpControlMessage_canon hs

end

/-- Settles O32 (spec/00 R3, R4): the state before the command is in canonical form under its own variant and queue, and `exec_canon`
carries that form over to the next state. That the commands wait in a queue of the model's own is its choice (log 1). -/
theorem commandsKeepQueueAndVariant : Obligations.CommandsKeepQueueAndVariant := by
  intro c s t hs hexec
  have hends : Ends s.variant s.pending (exec c s) := exec_canon c (sound_iff_canon.1 hs)
  rw [hexec, ends_next_iff] at hends
  exact ⟨hends.sound, hends.pending, hends.variant⟩

end Sys2Proof.Machine

/-! PROOF. Accesses of the fabric and of the dictionary, and the commands of the host's transport and link (O16). -/

namespace Sys2Proof.Machine

section
variable {s : State} {m i sub : Nat} {v : Word}

/-! ### Writes of an object by index and subindex (spec/17 R382) -/

theorem key_index (hsub : sub < 256) : (i * 256 + sub) / 256 = i := by omega
theorem key_sub (hsub : sub < 256) : (i * 256 + sub) % 256 = sub := by omega

/-- A write by index and subindex is the write of the key they form. -/
theorem hookWrite_eq_kwrite (hsub : sub < 256) :
    hookWrite s m i sub v = kwrite s m (i * 256 + sub) v (onWrite s m (aliasIndex i * 256 + sub) v) := by
  rw [kwrite, key_index hsub, key_sub hsub, hookWrite]

/-- An accepted write of a value other than 0 stores it and then has the object's effect, whatever the access code. -/
theorem hookWrite_accepted (hsub : sub < 256) (ha : accepts s m (i * 256 + sub) v = true) (hv : v ≠ 0) :
    hookWrite s m i sub v = onWrite s m (aliasIndex i * 256 + sub) v (wrote s m (i * 256 + sub) v) := by
  rw [hookWrite_eq_kwrite hsub, kwrite_act s ha hv, wrote]

/-- An accepted write of an RW object stores the value and then has the object's effect, also where the value is 0. -/
theorem hookWrite_accepted_rw {r : ObjRow} (hsub : sub < 256) (ha : accepts s m (i * 256 + sub) v = true)
    (hr : objNow s (aliasIndex i) sub = some r) (hacc : r.acc = .rw) :
    hookWrite s m i sub v = onWrite s m (aliasIndex i * 256 + sub) v (wrote s m (i * 256 + sub) v) := by
  rw [hookWrite_eq_kwrite hsub, kwrite_act_rw s ha (by rw [key_index hsub, key_sub hsub]; exact hr) hacc, wrote]

/-- The effect of a write of a counters_clear object is that of its unit's clear, and no other. -/
theorem onWrite_clear {t : State} (hsub : sub < 256) (hc : isClear i sub = true) :
    onWrite s m (i * 256 + sub) v t = clearAct i t := by
  simp only [onWrite, key_index hsub, key_sub hsub, hc, if_true]

/-- The row of host_transport is found in every state, for its index lies below those of the factory test mode (R380). -/
theorem objNow_hostHostTransport (s : State) :
    objNow s (aliasIndex 0x6800) 1 = some ⟨0x6800, 0x6800, 1, 1, .enum, .rw, .halt .hostLink, 0x7FFD, 0, .enum [0, 1]⟩ :=
  (if_neg fun h => absurd h.1 (by decide)).trans (by decide)

/-! ### Conditional effects -/

theorem State.on_true {c : Bool} (f : State → State) (h : c = true) : s.on c f = f s := if_pos h

end

/-! ### Commands of the dictionary (spec/17 R382-R401, spec/12 R274) -/

theorem exec_countersClear_accepted {m : Master} {i : BitVec 16} {sub : Byte} {v : Word} {s : State}
    (ha : accepts s m (i.toNat * 256 + sub.toNat) v = true) (hv : v ≠ 0)
    (hc : isClear (aliasIndex i.toNat) sub.toNat = true) :
    exec (.countersClear m i sub v) s =
      .next (servePorts s (clearAct (aliasIndex i.toNat) (wrote s m (i.toNat * 256 + sub.toNat) v))) := by
  have hwrite := (hookWrite_accepted sub.isLt ha hv).trans (onWrite_clear sub.isLt hc)
  exact congrArg (fun t => Host.Outcome.next (servePorts s t)) hwrite

theorem exec_hostTransportWrite_accepted {m : Master} {v : Word} {s : State} (ha : accepts s m K.hostHostTransport v = true) :
    exec (.hostTransportWrite m v) s = .next (onWrite s m K.hostHostTransport v (wrote s m K.hostHostTransport v)) :=
  congrArg Host.Outcome.next (hookWrite_accepted_rw (by decide) ha (objNow_hostHostTransport s) rfl)

/-! ### Commands of the controller (spec/12 R275, R277, R278) -/

section
variable {s : State}

theorem exec_linkEnable_accepted {m : Master} {v : Word} (ha : accepts s m K.hostLinkEnable v = true) (hv : v ≠ 0) :
    exec (.linkEnable m v) s =
      .next { wrote s m K.hostLinkEnable v with power := { (wrote s m K.hostLinkEnable v).power with released := true } } :=
  congrArg Host.Outcome.next ((kwrite_act s ha hv).trans (State.on_true _ (decide_eq_true hv)))

theorem exec_ccEnClear_of_enabled (h : s.host.ccEn = true) :
    exec .ccEnClear s = .next (controllerReset raise s 2 false) :=
  congrArg Host.Outcome.next (State.on_true _ h)

theorem exec_ccEnSet_of_disabled (hen : s.host.ccEn = false) (hup : s.flag K.hostLinkUp = true) :
    exec .ccEnSet s =
      .next ((s.setHost { s.host with ccEn := true, shst := 0, sqs := Sp.put s.host.sqs 0 { size := adminSize, cqid := 0 }
                                      cqs := Sp.put s.host.cqs 0 { size := adminSize } }).setN K.hostCtrlState 2) :=
  if_neg (by simp [hen, hup])

theorem exec_shutdownNotification_of_enabled (h : s.host.ccEn = true) :
    exec .shutdownNotification s = .next ((s.setHost { s.host with shst := 1 }).setN K.hostCtrlState 3) :=
  congrArg Host.Outcome.next (State.on_true _ h)

/-- That a shutdown completes once the cache is clean and no commit is left is the model's reading of R277 (log 36). -/
theorem exec_shutdownComplete_of_clean (hst : s.nat K.hostCtrlState = 3) (hpwc : s.nat K.sheafPwcValid = 0)
    (hcommits : s.sheaf.commits = []) :
    exec .shutdownComplete s = .next ((s.setHost { s.host with shst := 2 }).setN K.hostCtrlState 4) :=
  congrArg Host.Outcome.next (State.on_true _ (by simp [hst, hpwc, hcommits]))

/-! ### The links (spec/12 R275, R299) -/

theorem exec_pcieLinkDown_of_up {l : Byte} (htr : s.nat K.hostHostTransport = 0) (hup : s.flag K.hostLinkUp = true) :
    exec (.pcieLinkDown l) s = .next (raise (linkDown s) 353 [s.host.lastSpeed, s.host.lastWidth, l.toNat] {}) :=
  if_neg (by simp [htr, hup])

theorem exec_pcieLinkTrained_of_enabled {g : BitVec 3} {w : BitVec 2} (htr : s.nat K.hostHostTransport = 0)
    (hen : s.flag K.hostLinkEnable = true) (hg : 1 ≤ g.toNat) (hg5 : g.toNat ≤ 5) (hw : 1 ≤ w.toNat) (hw2 : w.toNat ≤ 2) :
    let t := ((s.setN K.hostLinkSpeed g.toNat).setN K.hostLinkWidth w.toNat).setB K.hostLinkUp true
    let t := t.setHost { t.host with lastSpeed := g.toNat, lastWidth := w.toNat }
    exec (.pcieLinkTrained g w) s =
      .next (if g.toNat < 5 ∨ w.toNat < 2 then raise t 354 [g.toNat, w.toNat] {} else t) := by
  have hg0 : g ≠ 0#3 := by bv_omega
  have hw0 : w ≠ 0#2 := by bv_omega
  exact if_neg (by simp [htr, hen, hg0, hw0, hg5, hw2])

/-- The width of 1 that an Ethernet link shows is the model's (log 36). -/
theorem exec_ethLinkChange_up {d : BitVec 32} (htr : s.nat K.hostHostTransport = 1) (hen : s.flag K.hostLinkEnable = true) :
    exec (.ethLinkChange true d) s =
      .next (raise (((s.setN K.hostLinkSpeed 6).setN K.hostLinkWidth 1).setB K.hostLinkUp true) 384 [6, d.toNat] {}) :=
  if_neg (by simp [htr, hen])

theorem exec_ethLinkChange_down {d : BitVec 32} (htr : s.nat K.hostHostTransport = 1) (hen : s.flag K.hostLinkEnable = true) :
    exec (.ethLinkChange false d) s = .next (raise (linkDown s) 385 [d.toNat] {}) :=
  if_neg (by simp [htr, hen])

end

/-- Settles O16 (spec/01 R21; spec/17 R380-R401; spec/12 R274-R278, R293): a command that writes an object does so by `dwrite`, whose
accepted write stores the value and then acts; the others act where their guard holds. The admin queues' size is presumed (log 20); the
width of an Ethernet link and the conditions of SHUTDOWN_COMPLETE are deduced (log 36). -/
theorem fabricAndLinkCommandsComplete : Obligations.FabricAndLinkCommandsComplete :=
  ⟨fun _ _ _ _ _ _ _ => rfl,
    fun _ _ => rfl,
    fun _ _ _ _ _ => exec_countersClear_accepted,
    fun _ _ _ => exec_hostTransportWrite_accepted,
    fun _ _ _ => exec_linkEnable_accepted,
    fun _ => ⟨rfl, rfl, exec_ccEnClear_of_enabled⟩,
    fun _ => exec_ccEnSet_of_disabled,
    fun _ => exec_shutdownNotification_of_enabled,
    fun _ => exec_shutdownComplete_of_clean,
    fun _ _ => exec_pcieLinkDown_of_up,
    fun _ _ _ => exec_pcieLinkTrained_of_enabled,
    fun _ _ htr hen => ⟨exec_ethLinkChange_up htr hen, exec_ethLinkChange_down htr hen⟩⟩

end Sys2Proof.Machine

/-! PROOF. Counters, the state after reset and the idle microsecond (O49, O30, O29). -/

namespace Sys2Proof.Machine

/-! ### Counters (spec/02 R52) -/

theorem sat32_eq_min (n : Nat) : sat32 n = min 0xFFFFFFFF n := by unfold sat32; split <;> omega

theorem State.nat_inc_of_lt {s : State} {k : Key} (h : s.nat k < 0xFFFFFFFF) : (s.inc k).nat k = s.nat k + 1 := by
  rw [State.nat_inc_self, sat32_eq_min]; omega

theorem State.nat_inc_of_full {s : State} {k : Key} (h : 0xFFFFFFFF ≤ s.nat k) : (s.inc k).nat k = 0xFFFFFFFF := by
  rw [State.nat_inc_self, sat32_eq_min]; omega

theorem State.inc_sameObjects (s : State) (k : Key) : SameObjects (fun x => x == k) s (s.inc k) :=
  fun _ hx => State.obj_inc_ne s (beq_eq_false_iff_ne.1 hx)

/-- Settles O49 (spec/02 R52): an increment is a saturating addition of 1, and setting one object writes the dictionary alone. -/
theorem countersSaturate : Obligations.CountersSaturate :=
  fun k n s => ⟨State.nat_inc_of_lt, State.nat_inc_of_full, (State.nat_addN_self s k n).trans (sat32_eq_min _),
    State.inc_sameObjects s k, rfl⟩

/-! ### The state after reset -/

/-- The dictionary lists no value after reset, so every object holds its default (spec/17 R394). -/
theorem reset_obj (k : Key) : State.reset.obj k = defaultOf State.reset.variant k := rfl

theorem reset_pmMode : State.reset.nat K.pmMode = 0 := by rw [State.nat, reset_obj]; decide

theorem reset_sunState : State.reset.nat K.sunState = 0 := by rw [State.nat, reset_obj]; decide

/-- Settles O30 (spec/02 R33, R40; spec/17 R394; spec/20 R450, R458): nothing is listed after reset, so each listed part is in its canonical
form and each object at its default. That the memory lists no byte and what fused objects hold are the model's choices (log 10, log 2). -/
theorem resetIsSound : Obligations.ResetIsSound :=
  ⟨⟨rfl, rfl, rfl⟩, rfl, rfl, reset_obj, reset_pmMode, reset_sunState, rfl, rfl⟩

/-! ### The microsecond counter and the angle (spec/02 R32, R33, R38-R40) -/

theorem tickUs_now (s : State) : (tickUs s).now = (s.now + 1) % 2 ^ 48 := BitVec.toNat_add _ _

theorem fracOn_ge (f : Frac) (n : Nat) : f.toNat ≤ (fracOn f n).toNat := by
  have hf : f.toNat < 2 ^ 24 := f.isLt
  have hmin : min (f.toNat + n) (2 ^ 24 - 1) < 2 ^ 24 := by omega
  rw [fracOn, revCounts, BitVec.toNat_ofNat, Nat.mod_eq_of_lt hmin]
  omega

/-- A free move short of the wrap does not take the fraction back. -/
theorem ofNat_frac_add_mod_ge (f : Frac) (n : Nat) : f.toNat ≤ (BitVec.ofNat 24 (f.toNat + n % (2 ^ 24 - f.toNat))).toNat := by
  have hf : f.toNat < 2 ^ 24 := f.isLt
  have hn : n % (2 ^ 24 - f.toNat) < 2 ^ 24 - f.toNat := Nat.mod_lt _ (by omega)
  rw [BitVec.toNat_ofNat, Nat.mod_eq_of_lt (by omega)]
  omega

/-- What a microsecond does to Sundial beside its clock: the fraction does not fall and stands still in INVALID; the internal angle and the
coasting remainder may move, and nothing else. -/
theorem tickAngle_sun (s : State) : ∃ f i r, (tickAngle s).sun = { s.sun with frac := f, internal := i, rem := r } ∧
    s.sun.frac.toNat ≤ f.toNat ∧ (s.nat K.sunState = 0 → f = s.sun.frac) := by
  unfold tickAngle
  extract_lets st u
  split
  case isTrue hinvalid =>
    split
    · exact ⟨_, _, _, rfl, le_rfl, fun _ => rfl⟩
    · exact ⟨_, _, _, rfl, le_rfl, fun _ => rfl⟩
  case isFalse hvalid =>
    split
    case isTrue hfree => exact ⟨_, _, _, rfl, fracOn_ge _ _, fun h => absurd h hvalid⟩
    case isFalse =>
      split
      case isTrue hobserver => exact ⟨_, _, _, rfl, le_rfl, fun _ => rfl⟩
      case isFalse hcorrected => exact ⟨_, _, _, rfl, ofNat_frac_add_mod_ge _ _, fun h => absurd h hvalid⟩

theorem tickAngle_now (s : State) : (tickAngle s).now = s.now := by
  obtain ⟨f, i, r, hsun, -, -⟩ := tickAngle_sun s
  rw [State.now, hsun, State.now]

theorem tickAngle_rev (s : State) : (tickAngle s).sun.rev = s.sun.rev := by
  obtain ⟨f, i, r, hsun, -, -⟩ := tickAngle_sun s
  rw [hsun]

theorem tickAngle_frac_ge (s : State) : s.sun.frac.toNat ≤ (tickAngle s).sun.frac.toNat := by
  obtain ⟨f, i, r, hsun, hge, -⟩ := tickAngle_sun s
  rw [hsun]; exact hge

theorem tickAngle_frac_invalid {s : State} (h : s.nat K.sunState = 0) : (tickAngle s).sun.frac = s.sun.frac := by
  obtain ⟨f, i, r, hsun, -, hstill⟩ := tickAngle_sun s
  rw [hsun]; exact hstill h

theorem step_of_no_pending {s : State} (h : s.pending = []) : step s = .next (idleTick s) := by rw [step, h]

/-- Settles O29 (spec/02 R33): an empty queue gives the idle tick, which is the model's choice (log 41). -/
theorem emptyQueuePassesAMicrosecond : Obligations.EmptyQueuePassesAMicrosecond :=
  ⟨rfl, fun _ h => step_of_no_pending h, fun s => ⟨tickUs_now s, (tickAngle_now _).trans (tickUs_now s)⟩,
    fun s => ⟨tickAngle_rev s, tickAngle_frac_ge s, tickAngle_frac_invalid⟩⟩

end Sys2Proof.Machine

/-! PROOF. A write gate needs LOCKED_WEDGE (O45). -/

namespace Sys2Proof.Machine

section
variable {s : State} {q : Nat} {i : GateIn}

/-- The first condition of R207's order that fails with Sundial outside LOCKED_WEDGE: power loss, trip, Safe, else Sundial. -/
def sundialCause (s : State) : Nat :=
  if s.power.loss then 6 else if s.power.trip.isSome then 7 else if s.nat K.pmMode = 5 then 8 else 1

theorem sundialCause_cases (s : State) : sundialCause s = 6 ∨ sundialCause s = 7 ∨ sundialCause s = 8 ∨ sundialCause s = 1 := by
  unfold sundialCause; split_ifs <;> simp

/-- Any test that agrees with the interlock on the conditions 6, 7, 8 and 1 finds that cause, whatever it says of the later ones. -/
theorem causeOrder_find?_sundialCause {p : Nat → Bool} (hs : s.nat K.sunState ≠ 3)
    (h6 : p 6 = !interlock s q 6) (h7 : p 7 = !interlock s q 7) (h8 : p 8 = !interlock s q 8) (h1 : p 1 = !interlock s q 1) :
    causeOrder.find? p = some (sundialCause s) := by
  simp only [interlock] at h6 h7 h8 h1
  rw [beq_eq_false_iff_ne.2 hs, Bool.not_false] at h1
  unfold causeOrder sundialCause
  rw [List.find?_cons, List.find?_cons, List.find?_cons, List.find?_cons, h6, h7, h8, h1]
  cases s.power.loss with
  | true => rfl
  | false =>
    cases s.power.trip with
    | some _ => rfl
    | none =>
      by_cases hsafe : s.nat K.pmMode = 5
      · simp [hsafe]
      · simp [hsafe, bne, beq_eq_false_iff_ne.2 hsafe]

theorem requestCause_sundialCause (hs : s.nat K.sunState ≠ 3) : requestCause s q i = some (sundialCause s) :=
  causeOrder_find?_sundialCause hs rfl rfl rfl rfl

/-- A request ends its part for that cause where the preamp is out of its safe state and no staged entry fetched bad data. -/
theorem request_of_not_locked (hs : (takeSurface s q i.head i.track.toNat).nat K.sunState ≠ 3)
    (hsafe : ((takeSurface s q i.head i.track.toNat).link (q / 2)).preampSafe = false)
    (hgood : ∀ e, stagedEnt ((takeSurface s q i.head i.track.toNat).wr q) i.tag.toNat i.sector.toNat = some e → e.bad = false) :
    let b := takeSurface s q i.head i.track.toNat
    request s q i =
      endPart raise (b.setWr q { b.wr q with active := true, tag := i.tag.toNat, twinB := i.twinB }) q (sundialCause b) := by
  intro b
  unfold request
  extract_lets w kind t
  rw [if_neg (Bool.eq_false_iff.1 hsafe)]
  have hcause : requestCause t q i = some (sundialCause b) := requestCause_sundialCause hs
  rw [hcause]
  split
  case h_1 e hent =>
    rw [if_neg (Bool.eq_false_iff.1 (hgood e hent))]
    rcases sundialCause_cases b with h | h | h | h <;> rw [h] <;> rfl
  case h_2 => rcases sundialCause_cases b with h | h | h | h <;> rw [h] <;> rfl

/-- A paused gate that asks to open again ends its part for that cause. -/
theorem reopen_of_not_locked {g : Gate} (hs : s.nat K.sunState ≠ 3) (hg : (s.wr q).gate = some g) (hp : g.paused = true) :
    reopen s q = endPart raise s q (sundialCause s) := by
  have hfind : causeOrder.find? (fun c => c != 5 && !interlock s q c) = some (sundialCause s) :=
    causeOrder_find?_sundialCause hs rfl rfl rfl rfl
  unfold reopen
  simp only [hg, hp, hfind]
  rcases sundialCause_cases s with h | h | h | h <;> rw [h] <;> rfl

end

theorem exec_writeGateRequest_begin {q : Slot} {i : GateIn} {s : State} (hr : i.reopening = false) (hg : (s.wr q).gate = none)
    (ht : twinHeld s q = false) :
    exec (.writeGateRequest q i) s = .next (twinSettle raise (request (boundaryIn s .sector (slotOwns q)) q i) (q / 2)) := by
  have hfree : ¬((((boundaryIn s .sector (slotOwns q)).wr q).gate.isSome || twinHeld (boundaryIn s .sector (slotOwns q)) q) = true) := by
    rw [show ((boundaryIn s .sector (slotOwns q)).wr q).gate = none from hg,
      show twinHeld (boundaryIn s .sector (slotOwns q)) q = false from ht]
    decide
  refine congrArg (fun u => Host.Outcome.next (twinSettle raise u (q / 2))) ?_
  rw [if_neg (Bool.eq_false_iff.1 hr), if_neg hfree]

theorem exec_writeGateRequest_reopen {q : Slot} {i : GateIn} {s : State} (hr : i.reopening = true) :
    exec (.writeGateRequest q i) s = .next (twinSettle raise (reopen (boundaryIn s .sector (slotOwns q)) q) (q / 2)) :=
  congrArg (fun u => Host.Outcome.next (twinSettle raise u (q / 2))) (if_pos hr)

/-- Settles O45 (spec/02 R42; spec/09 R206, R207, R212): outside LOCKED_WEDGE condition 1 of the interlock fails, and only 6, 7 and 8 come
before it in R207's order. That no gate is requested in the preamp's safe state or while a twin exit waits is the model's (log 49, log 47). -/
theorem writeGateNeedsLockedWedge : Obligations.WriteGateNeedsLockedWedge := by
  refine ⟨?begins, ?reopens⟩
  case begins =>
    intro q i s b c hs hr hg ht hsafe hgood
    exact (exec_writeGateRequest_begin hr hg ht).trans
      (congrArg (fun u => Host.Outcome.next (twinSettle raise u (q / 2))) (request_of_not_locked hs hsafe hgood))
  case reopens =>
    intro q i g s c hs hr hg hp
    exact (exec_writeGateRequest_reopen hr).trans
      (congrArg (fun u => Host.Outcome.next (twinSettle raise u (q / 2))) (reopen_of_not_locked hs hg hp))

end Sys2Proof.Machine

/-! PROOF. The timebase's commands (O1). -/

namespace Sys2Proof.Machine

/-! ### The rows of the timebase's objects (spec/02 R52) -/

/-- The row of sundial_enable is found in every state, for its index lies below those of the factory test mode (R380). -/
theorem objNow_sunSundialEnable (s : State) :
    objNow s (aliasIndex 0x2802) 7 = some ⟨0x2802, 0x2802, 7, 7, .bool, .rw, .live, 0xFFFF, 1, .bool⟩ :=
  (if_neg fun h => absurd h.1 (by decide)).trans (by decide)

theorem objNow_sunSyncEnable (s : State) :
    objNow s (aliasIndex 0x2804) 1 = some ⟨0x2804, 0x2804, 1, 1, .bool, .rw, .edge .revolution, 0xFFFF, 0, .bool⟩ :=
  (if_neg fun h => absurd h.1 (by decide)).trans (by decide)

/-! ### Writes of the timebase's objects (spec/02 R34, R41, R47, R51) -/

section
variable {s : State} {m : Master} {v : Word}

theorem exec_snapshot_accepted (ha : accepts s m K.sunSnapshot v = true) (hv : v ≠ 0) :
    exec (.snapshot m v) s = .next (((wrote s m K.sunSnapshot v).setN K.sunSnapAngle s.stamp).setN K.sunSnapUs s.now) := by
  have hact : exec (.snapshot m v) s = .next (snapshotAct (wrote s m K.sunSnapshot v)) := congrArg Host.Outcome.next (kwrite_act s ha hv)
  have hsun : (wrote s m K.sunSnapshot v).sun = s.sun := kwrite_id_sun s m _ v
  rw [hact, snapshotAct, State.stamp, State.now, hsun]
  rfl

theorem exec_sundialEnableWrite_accepted (ha : accepts s m K.sunSundialEnable v = true) :
    exec (.sundialEnableWrite m v) s = .next (sundialEnableWriteAct (wrote s m K.sunSundialEnable v)) :=
  congrArg Host.Outcome.next (kwrite_act_rw s ha (objNow_sunSundialEnable s) rfl)

theorem exec_syncEnableWrite_accepted (ha : accepts s m K.sunSyncEnable v = true) :
    exec (.syncEnableWrite m v) s = .next (syncEnableCheck (wrote s m K.sunSyncEnable v)) :=
  congrArg Host.Outcome.next (kwrite_act_rw s ha (objNow_sunSyncEnable s) rfl)

end

/-! ### Judging a wedge (spec/02 R37, R39, R41) -/

section
variable {s : State} {w : Nat}

/-- The wedge expected after wedge w. -/
def nextWedge (s : State) (w : Nat) : Nat :=
  (w + 1) % (if s.cfg K.sunWedgesPerRev = 0 then 1 else s.cfg K.sunWedgesPerRev)

/-- lock_sources after a judged wedge: the slots that contributed, and the observer as bit 4. -/
def wedgeSources (s : State) : Nat :=
  s.sun.contributed.foldl (fun n q => setBit n q true) (b2n (observerValid s) * 16)

/-- The window of wedge w is closed, and the next wedge is expected. -/
def wedgeClosed (s : State) (w : Nat) : State :=
  { s.setN K.sunLockSources (wedgeSources s) with sun := { s.sun with
      wedge := some (nextWedge s w), expect := some (nextWedge s w), errs := [], heard := [], contributed := [] } }

/-- The filtered error's numerator with the wedge's errors taken in (R39). -/
def filterNum (u : Sundial) : Int :=
  if u.first then errSum u.errs else 3 * u.fNum * u.errs.length + errSum u.errs * u.fDen

/-- The filtered error's denominator with the wedge's errors taken in (R39). -/
def filterDen (u : Sundial) : Nat := if u.first then u.errs.length else 4 * u.fDen * u.errs.length

/-- Wedge w is closed and its accepted detections have moved the filtered error. -/
def wedgeFiltered (s : State) (w : Nat) : State :=
  setFilter { wedgeClosed s w with sun := { (wedgeClosed s w).sun with misses := 0, first := false } } (filterNum s.sun) (filterDen s.sun)

/-- A wedge with no accepted detection counts as missed, and short of miss_limit, or outside LOCKED_WEDGE, does no more. -/
theorem judgeWedge_missed (hw : s.sun.wedge = some w) (herrs : s.sun.errs = [])
    (hmiss : s.nat K.sunState ≠ 3 ∨ s.sun.misses + 1 < s.cfg K.sunMissLimit) :
    judgeWedge s = { wedgeClosed s w with sun := { (wedgeClosed s w).sun with run := 0, misses := s.sun.misses + 1, first := false } } := by
  have hkept : ¬(s.nat K.sunState = 3 ∧ s.cfg K.sunMissLimit ≤ s.sun.misses + 1) := by omega
  simp only [judgeWedge, hw, herrs, List.isEmpty_nil, if_true, if_neg hkept]
  rfl

/-- A wedge with an accepted detection moves the filtered error, by which the lock is judged. -/
theorem judgeWedge_detected (hw : s.sun.wedge = some w) (herrs : s.sun.errs ≠ []) :
    judgeWedge s = judgeAccepted (wedgeFiltered s w) := by
  simp only [judgeWedge, hw, List.isEmpty_iff, if_neg herrs]
  rfl

/-- LOCKED_WEDGE stays while the filtered error is within loss_error_ps. -/
theorem judgeAccepted_locked (hs : s.nat K.sunState = 3)
    (herr : errWithin s s.sun.fNum s.sun.fDen (s.cfg K.sunLossErrorPs) = true) : judgeAccepted s = s := by
  simp only [judgeAccepted, hs, herr, if_true]

/-- Neither lock_sources nor phase_error is Sundial's state. -/
theorem nat_sunState_wedgeFiltered : (wedgeFiltered s w).nat K.sunState = s.nat K.sunState :=
  congrArg BitVec.toNat ((State.obj_setI_ne _ _ (by decide)).trans (State.obj_setN_ne s _ (by decide)))

/-- In LOCKED_WEDGE a wedge with an accepted detection does no more than move the filtered error, while that is within loss_error_ps. -/
theorem judgeWedge_locked (hw : s.sun.wedge = some w) (herrs : s.sun.errs ≠ []) (hs : s.nat K.sunState = 3)
    (hwithin : errWithin (wedgeFiltered s w) (filterNum s.sun) (filterDen s.sun) ((wedgeFiltered s w).cfg K.sunLossErrorPs) = true) :
    judgeWedge s = wedgeFiltered s w :=
  (judgeWedge_detected hw herrs).trans (judgeAccepted_locked (nat_sunState_wedgeFiltered.trans hs) hwithin)

/-- The window of the wedge that the angle expects closes: the EDGE (wedge) values take effect, and the wedge is judged. -/
theorem exec_acceptWindowClose_expected {w : BitVec 9} (hexp : s.sun.expect = some w.toNat) :
    exec (.acceptWindowClose w) s = .next (judgeWedge { boundaryIn s .wedge (fun i => decide (i < 0x3000)) with
      sun := { s.sun with wedge := some w.toNat } }) :=
  congrArg Host.Outcome.next (if_pos hexp)

end

/-! ### The FREE limit and the fraction's wrap (spec/02 R32, R41) -/

section
variable {s : State}

/-- INVALID from FREE: the acquisition and the run of wedges end (R32, R39). -/
theorem sunEnter_invalid_of_free (h : s.nat K.sunState = 1) :
    sunEnter raise s 0 = { s.setN K.sunState 0 with
      sun := { s.sun with internal := none, acquiring := false, first := false, run := 0, misses := 0, rem := 0 } } := by
  simp only [sunEnter, h]
  rfl

/-- A free timeout (row 7 of R41) takes zero_known away and raises event 83; no lock was held, so no gate closes. -/
theorem sunInvalid_of_free (h : s.nat K.sunState = 1) :
    sunInvalid raise s 1 =
      let u := ((sunEnter raise s 0).setB K.sunZeroKnown false).setN K.sunZeroSource 0
      syncCheck (raise u 83 [1, 1, u.nat K.sunState] {}) := by
  simp only [sunInvalid, h]
  rfl

theorem exec_freeLimitExpiry_of_free (h : s.nat K.sunState = 1) : exec .freeLimitExpiry s = .next (sunInvalid raise s 1) :=
  congrArg Host.Outcome.next (if_pos h)

/-- The revolution period that a wrap measures: the microseconds since the last one, times 1,000 (log 46); 0 where there was none. -/
def wrapPeriodNs (s : State) : Nat := match s.sun.lastWrap with
  | some w => s.elapsed w * 1000
  | none => 0

theorem exec_fractionWrap_of_running (h : s.nat K.sunState ≠ 0) :
    let t : State := { s with sun := { s.sun with
      rev := s.sun.rev + 1, frac := 0, rem := 0, lastWrap := if 2 ≤ s.nat K.sunState then some s.now else none } }
    let t := if 2 ≤ s.nat K.sunState ∧ wrapPeriodNs s ≠ 0 then t.setN K.sunRevPeriodNs (wrapPeriodNs s % 2 ^ 32) else t
    let t := syncEnableCheck (boundary t .revolution)
    exec .fractionWrap s = .next (if s.sun.rev = 0xFFFFFFFF then raise t 90 [s.nat K.sunState, t.nat K.sunState] {} else t) := by
  refine (if_neg h).trans ?_
  simp only [State.on, Bool.and_eq_true, decide_eq_true_eq]
  rfl

end

/-! ### Angle alarms (spec/02 R45-R48) -/

section
variable {s : State} {n : Fin 256}

theorem alarmRevOk_iff {w rev : Nat} :
    alarmRevOk w rev = true ↔ rev % 256 &&& bitsOf w 24 8 = bitsOf w 32 8 &&& bitsOf w 24 8 := beq_iff_eq

/-- An armed alarm whose revolution matches and that has not fired in it fires, unless it is held to LOCKED_WEDGE and that is not the state. -/
theorem exec_angleAlarmFire_fires (hs : s.nat K.sunState ≠ 0) (harmed : alarmArmed (s.nat (K.sunAlarm n)) = true)
    (hrev : alarmRevOk (s.nat (K.sunAlarm n)) s.sun.rev.toNat = true) (honce : Sp.get s.sun.fired n ≠ some s.sun.rev.toNat)
    (hlock : bitAt (s.nat (K.sunAlarm n)) 50 = false ∨ s.nat K.sunState = 3) :
    let w := s.nat (K.sunAlarm n)
    let t : State := { s with sun := { s.sun with fired := Sp.put s.sun.fired n s.sun.rev.toNat } }
    let t := t.setBitOf (K.sunAlarmFired (n / 32)) (n % 32) true
    let t := if bitAt w 49 then t else t.setBitOf (K.sunAlarm n) 51 false
    let t := if bitAt w 40 then postTrigger t (bitsOf w 42 3) (bitsOf w 45 4) else t
    exec (.angleAlarmFire n) s = .next (if bitAt w 41 then raise t 85 [n, s.nat K.sunState, t.nat K.sunState] {} else t) := by
  have hdue : ¬(s.nat K.sunState = 0 ∨ alarmArmed (s.nat (K.sunAlarm n)) = false ∨
      alarmRevOk (s.nat (K.sunAlarm n)) s.sun.rev.toNat = false ∨ Sp.get s.sun.fired n = some s.sun.rev.toNat) := by
    simp [hs, harmed, hrev, honce]
  have hheld : ¬((bitAt (s.nat (K.sunAlarm n)) 50 && decide (s.nat K.sunState ≠ 3)) = true) := by
    rcases hlock with h | h <;> simp [h]
  exact (if_neg hdue).trans (if_neg hheld)

end

/-! ### SYNC_IN (spec/02 R49-R51) -/

section
variable {s : State}

/-- The edge that sync_polarity selects, at no bad interval from the last accepted pulse, is an accepted pulse. -/
theorem exec_syncInPulse_accepted {falling : Bool} {f : Frac} (hon : s.nat K.sunSyncState ≠ 0)
    (hedge : s.cfg K.sunSyncPolarity = b2n falling)
    (hgood : ∀ p, s.sun.lastPulse = some p → syncBadInterval s (s.elapsed p) = false) :
    exec (.syncInPulse falling f) s = .next (syncAccepted s (fracDiff f.toNat (s.cfg K.sunSyncOffset))) := by
  have hsampled : ¬(s.nat K.sunSyncState = 0 ∨ s.cfg K.sunSyncPolarity ≠ b2n falling) := by simp [hon, hedge]
  refine (if_neg hsampled).trans ?_
  cases hlast : s.sun.lastPulse with
  | none => rfl
  | some p => exact congrArg Host.Outcome.next (if_neg (Bool.eq_false_iff.1 (hgood p hlast)))

/-- In ACQUIRE a missing pulse is counted and reported; the run of missed ones ends no lock. -/
theorem syncIgnored_acquire (interval : Nat) (h : s.nat K.sunSyncState = 1) :
    syncIgnored s interval =
      let u := s.inc K.sunSyncIgnoredCount
      let t := raise u 89 [interval, 1, s.nat K.sunState, u.nat K.sunState] {}
      { t with sun := { t.sun with syncBad := s.sun.syncBad + 1 } } := by
  simp only [syncIgnored, h]
  exact if_neg (by omega)

theorem exec_syncPulseTimeout_on {p : Nat} (hon : s.nat K.sunSyncState ≠ 0) (hlast : s.sun.lastPulse = some p) :
    exec .syncPulseTimeout s = .next (syncIgnored s (s.elapsed p)) := by
  refine (if_neg hon).trans ?_
  rw [hlast]

end

/-- Settles O1 (spec/02 R31-R51): a write of an object stores it and then acts; a close judges its wedge, the FREE limit, a wrap, an alarm
and a pulse act where their guards hold. That rev_period_ns is the microseconds between two wraps, times 1,000, is the model's choice
(log 46). -/
theorem timebaseCommandsComplete : Obligations.TimebaseCommandsComplete := by
  refine ⟨?snapshot, ?missed, ?detected, ?sundialEnable, ?freeLimit, ?wrap, ?alarm, ?alarmWord, ?syncEnable, ?pulse, ?timeout⟩
  case snapshot => exact fun _ _ _ => exec_snapshot_accepted
  case missed =>
    intro w s hexp herrs hmiss b n next src
    exact (exec_acceptWindowClose_expected hexp).trans (congrArg Host.Outcome.next (judgeWedge_missed rfl herrs hmiss))
  case detected =>
    intro w s hexp herrs hs b n next src k num den t hwithin
    exact (exec_acceptWindowClose_expected hexp).trans
      (congrArg Host.Outcome.next (judgeWedge_locked (w := w.toNat) rfl herrs hs hwithin))
  case sundialEnable => exact fun _ _ _ => exec_sundialEnableWrite_accepted
  case freeLimit =>
    intro s h
    exact (exec_freeLimitExpiry_of_free h).trans
      (congrArg Host.Outcome.next ((sunInvalid_of_free h).trans (by rw [sunEnter_invalid_of_free h])))
  case wrap => exact fun _ => exec_fractionWrap_of_running
  case alarm =>
    intro n s w rev hs harmed hrev honce hlock
    exact exec_angleAlarmFire_fires hs harmed (alarmRevOk_iff.2 hrev) honce hlock
  case alarmWord => exact fun _ _ _ _ _ => rfl
  case syncEnable => exact fun _ _ _ => exec_syncEnableWrite_accepted
  case pulse => exact fun _ _ _ => exec_syncInPulse_accepted
  case timeout =>
    intro s p h hlast
    exact (exec_syncPulseTimeout_on (by omega) hlast).trans (congrArg Host.Outcome.next (syncIgnored_acquire _ h))

end Sys2Proof.Machine

/-! PROOF. The spindle's commands (O2). -/

namespace Sys2Proof.Machine

/-! ### The control cycle and the speed loop (spec/03 R55, R58, R61) -/

section
variable {s : State}

/-- Row 6 of R61: OFF is left for the first step of a catch, where no power loss keeps the engine from it. -/
theorem motorCycle_of_off {i : CycleIn} (hst : motorState s = 0) (hon : s.flag K.spinSpinEnable = true)
    (hloss : s.power.loss = false) (hmodel : modelValid s = true) : motorCycle s i = motorEnter s 1 := by
  refine (if_neg ?row5).trans ((if_pos hst).trans (if_pos ?row6))
  case row5 => simp [hon]
  case row6 => simp [hon, hloss, hmodel]

/-- A control cycle takes its measurements, runs the state in hand, and gives Sundial the observer's angle. -/
theorem exec_controlCycle (i : CycleIn) :
    let t := measureCycle { s with power := { s.power with cycleTrim := s.power.adcTrim } } i
    let u := observerCheck raise (modulation (motorCycle t i))
    exec (.controlCycle i) s = .next (observerAngle u u.motor.est.angle) := by intros; rfl

/-- A tick of the speed loop regulates the speed measured of a running spindle. -/
theorem exec_speedLoopTick_of_running (hst : motorState s = 4 ∨ motorState s = 5) :
    let speed := measuredSpeed s
    exec .speedLoopTick s = .next (speedChecks (torqueTick (judgeCapped (s.setI K.spinSpeedCrpm speed)) speed) speed) := if_pos hst

end

/-! ### spin_enable (spec/03 R61) -/

/-- The row of spin_enable is found in every state, for its index lies below those of the factory test mode (R380). -/
theorem objNow_spinSpinEnable (s : State) :
    objNow s (aliasIndex 0x2000) 1 = some ⟨0x2000, 0x2000, 1, 1, .bool, .rw, .live, 0xFFFF, 0, .bool⟩ :=
  (if_neg fun h => absurd h.1 (by decide)).trans (by decide)

theorem exec_spinEnableWrite_accepted {s : State} {m : Master} {v : Word} (ha : accepts s m K.spinSpinEnable v = true) :
    exec (.spinEnableWrite m v) s = .next (spinAct (wrote s m K.spinSpinEnable v)) :=
  congrArg Host.Outcome.next (kwrite_act_rw s ha (objNow_spinSpinEnable s) rfl)

/-! ### The steps of the catch procedure (spec/03 R62-R66) -/

section
variable {s : State}

/-- Row 7 of R61: a back-EMF below emf_rest_mv is a rotor at rest, whatever the speed. -/
theorem exec_measureEnd_rest {e : BitVec 16} {ang : Frac} {v : BitVec 32} (hst : motorState s = 1)
    (hemf : e.toNat < s.cfg K.spinEmfRestMv) :
    exec (.measureEnd e ang v) s = .next (motorEnter (s.setI K.spinSpeedCrpm v.toInt) 2) :=
  (if_neg (not_not.2 hst)).trans (if_pos (Or.inl hemf))

/-- Row 8 of R61: a rotor that turns forward at rest_rpm or more is taken over without a stop. -/
theorem exec_measureEnd_forward {e : BitVec 16} {ang : Frac} {v : BitVec 32} (hst : motorState s = 1)
    (hemf : s.cfg K.spinEmfRestMv ≤ e.toNat) (hforward : 0 < v.toInt) (hspeed : s.cfg K.spinRestRpm * 100 ≤ v.toInt.natAbs) :
    let t := seedObserver (motorEnter (s.setI K.spinSpeedCrpm v.toInt) 4) (ang.toNat + 3 * (revCounts / 4)) v.toInt
    let t : State := { t with motor := { t.motor with runCatch := some s.now, catchPath := 1, cmd := v.toInt * 100, integ := 0 } }
    exec (.measureEnd e ang v) s = .next (t.setI K.spinTorqueCmdUnm (torqueClamp t v.toInt (t.int K.spinTorqueCmdUnm))) := by
  have hturns : ¬(e.toNat < s.cfg K.spinEmfRestMv ∨ v.toInt.natAbs < s.cfg K.spinRestRpm * 100) := by omega
  exact (if_neg (not_not.2 hst)).trans ((if_neg hturns).trans (if_pos hforward))

/-- The peaks of an IPD, each held to ipd_current_ma (R63). -/
def ipdPeaks (s : State) (ps : List (BitVec 16)) : List Nat := ps.map fun p => min p.toNat (s.cfg K.spinIpdCurrentMa)

/-- The vector with the highest peak, counted from 0; of equal peaks the first. -/
def ipdBest (peaks : List Nat) : Nat := (List.range 6).foldl (fun b k => if peaks.getD b 0 < peaks.getD k 0 then k else b) 0

/-- Row 10 of R61: peaks whose highest stands out by 3 % of itself (the model's base, log 7) give the position. -/
theorem exec_ipdComplete_found {p1 p2 p3 p4 p5 p6 : BitVec 16} (hst : motorState s = 2) :
    let peaks := ipdPeaks s [p1, p2, p3, p4, p5, p6]
    let best := ipdBest peaks
    let top := peaks.getD best 0
    0 < top → 3 * top ≤ (top - peaks.getD ((best + 3) % 6) 0) * 100 →
    exec (.ipdComplete p1 p2 p3 p4 p5 p6) s =
      .next (motorEnter { s with motor := { s.motor with ipdAngle := ipdAngleOf peaks best } } 3) := by
  intro peaks best top htop hdiff
  have hconclusive : ¬((top - peaks.getD ((best + 3) % 6) 0) * 100 < 3 * top ∨ top = 0) := by omega
  exact (if_neg (not_not.2 hst)).trans (congrArg Host.Outcome.next (if_neg hconclusive))

/-- Row 14 of R61: the seeded observer has not been confirmed in time. -/
theorem exec_convergeTimeout_unconfirmed (hst : motorState s = 4) (hconf : s.motor.confirmed = false) :
    exec .convergeTimeout s = .next (observerCheck raise (catchFail s 4 2)) := congrArg Host.Outcome.next (if_pos ⟨hst, hconf⟩)

/-- Row 20 of R61: only a brake of the catch procedure times out. -/
theorem exec_brakeTimeout_of_catch (hst : motorState s = 6) (hcause : s.nat K.spinBrakeCause = 1) :
    exec .brakeTimeout s = .next (catchFail (spinEvent raise (motorEnter s 7) 6 70 [param32 (s.int K.spinSpeedCrpm)]) 6 3) :=
  if_pos ⟨hst, hcause⟩

/-- Row 22 of R61: the next attempt begins, where no power loss is latched. -/
theorem exec_recatchDelayExpiry_enabled (hst : motorState s = 7) (hon : s.flag K.spinSpinEnable = true) (hloss : s.power.loss = false) :
    exec .recatchDelayExpiry s = .next (motorEnter s 1) := congrArg Host.Outcome.next (if_pos ⟨hst, hon, hloss⟩)

end

/-! ### Bridge protection and the end of the power-loss sequence (spec/03 R74, R75) -/

section
variable {s : State} {e : Nat} {items : List Nat} {overcurrent : Bool}

/-- Row 4 of R61 where no catch is under way, or none that this trip fails: the trip is counted and reported, and the rotor freewheels. -/
theorem bridgeTrip_freewheels (hoff : motorState s ≠ 0) (hfault : motorState s ≠ 9) (hcatch : overcurrent = false ∨ motorState s = 4) :
    bridgeTrip s e items overcurrent =
      observerCheck raise (spinEvent raise (motorEnter (s.inc K.spinBridgeTripCount) 7) (motorState s) e items) := by
  have hruns : ¬(motorState s = 0 ∨ motorState s = 9) := by omega
  rcases hcatch with rfl | h4
  · simp [bridgeTrip, hruns]
  · simp [bridgeTrip, h4]

/-- The sequence is done where no flush runs and every actuator that the variant has is parked. -/
theorem sequenceDone_of_parked (hflush : s.nat K.sheafFlushState ≠ 1)
    (hparked : ∀ a, a < 2 → hasAct s.variant a = true → s.nat (K.actActState a) = 0) : sequenceDone s = true := by
  have hall : ∀ a ∈ List.range 2, (!hasAct s.variant a || s.nat (K.actActState a) == 0) = true := by
    intro a ha
    cases hact : hasAct s.variant a with
    | false => rfl
    | true => simpa using hparked a (List.mem_range.1 ha) hact
  simp only [sequenceDone, bne_iff_ne.2 hflush, List.all_eq_true.2 hall, Bool.and_self]

/-- Row 24 of R61: after_brake chooses between BRAKE with the cause stop and OFF. -/
theorem exec_powerLossSequenceComplete_done (hst : motorState s = 8) (hdone : sequenceDone s = true) :
    exec .powerLossSequenceComplete s =
      .next (observerCheck raise (if s.cfgB K.spinAfterBrake then enterBrake s 2 else motorEnter s 0)) := if_pos ⟨hst, hdone⟩

end

/-- Settles O2 (spec/03 R54-R76): each command acts by the row of R61 whose condition it meets. That the 3 % of an IPD are of the highest
peak is the model's choice (log 7), and that MEASURE seeds the observer with the EMF angle less 90 degrees its reading of R64 (log 48). -/
theorem spindleCommandsComplete : Obligations.SpindleCommandsComplete := by
  refine ⟨?offCycle, ?cycle, ?speedLoop, ?spinEnable, ?forward, ?rest, ?ipd, ?converge, ?brake, ?recatch, ?overcurrent, ?bridgeFault,
    ?sequence⟩
  case offCycle =>
    intro i s t hst hon hloss hmodel u
    have henter : motorCycle t i = motorEnter t 1 := motorCycle_of_off hst hon hloss hmodel
    exact (exec_controlCycle i).trans (by rw [henter])
  case cycle => exact fun i _ => exec_controlCycle i
  case speedLoop => exact fun _ hst => exec_speedLoopTick_of_running (Or.inl hst)
  case spinEnable => exact fun _ _ _ => exec_spinEnableWrite_accepted
  case forward => exact fun _ _ _ _ => exec_measureEnd_forward
  case rest => exact fun _ _ _ _ => exec_measureEnd_rest
  case ipd => exact fun _ _ _ _ _ _ _ => exec_ipdComplete_found
  case converge => exact fun _ => exec_convergeTimeout_unconfirmed
  case brake => exact fun _ => exec_brakeTimeout_of_catch
  case recatch => exact fun _ => exec_recatchDelayExpiry_enabled
  case overcurrent =>
    intro leg p s hst t
    have htrip : bridgeTrip s 77 [leg, p.toNat] true = observerCheck raise (spinEvent raise t (motorState s) 77 [leg, p.toNat]) :=
      bridgeTrip_freewheels (by omega) (by omega) (Or.inr hst)
    rw [hst] at htrip
    exact congrArg Host.Outcome.next htrip
  case bridgeFault => exact fun c s hoff hfault => congrArg Host.Outcome.next (bridgeTrip_freewheels hoff hfault (Or.inl rfl))
  case sequence => exact fun _ hst hflush hparked => exec_powerLossSequenceComplete_done hst (sequenceDone_of_parked hflush hparked)

end Sys2Proof.Machine

/-! PROOF. The commands of servo sampling and seeking (O3). -/

namespace Sys2Proof.Machine

/-! ### Seeks (spec/04 R93) -/

section
variable {s : State}

/-- A seek whose slot is on track for neither reading nor writing at its deadline: outside twin mode its own slot alone returns its
sectors. -/
theorem exec_seekTimeout_of_waiting {a : Act} :
    let x := s.act a
    let q := 2 * a.val + x.seekSlot
    let t := (s.setAct a { x with seeking := false }).inc (K.actSeekTimeoutCount a)
    let t := actEvent raise t a 102 [x.seekSeq, cap32 (s.srv q).target, cap32 (s.srv q).lastX] (some q)
    x.seeking = true → onRead s q = false → onWrite' s q = false → twinOn s a = false →
    exec (.seekTimeout a) s = .next (returnSlot raise t q 12) := by
  intro x q t' t hseek hread hwrite htwin
  have hwaits : ¬(!x.seeking || onRead s q || onWrite' s q) = true := by simp [hseek, hread, hwrite]
  exact (if_neg hwaits).trans (congrArg Host.Outcome.next (if_neg (ne_true_of_eq_false htwin)))

end

/-- Settles O3 (spec/04 R78-R99): a command whose guard holds carries out its rule. That a valid sample below 0 in UNLOADING ends the wait
for track 0 is the model's reading of R97 (log 47). -/
theorem servoSampleCommandsComplete : Obligations.ServoSampleCommandsComplete := by
  refine ⟨?sample, ?latch, ?mailbox, ?deadline, ?settle, ?accel, ?holdoff⟩
  case sample =>
    intro q i s hreads
    have hslot : ¬(!readsServo s q) = true := by simp [hreads]
    exact if_neg hslot
  case latch =>
    intro q rot mv ua before s a u word hreads hready
    have hslot : ¬(!readsServo u q) = true := by simp [hreads]
    exact (if_neg hslot).trans (if_pos hready)
  case mailbox => exact fun _ _ _ => rfl
  case deadline => exact fun _ _ => exec_seekTimeout_of_waiting
  case settle => exact fun _ _ _ hflag => if_neg (ne_true_of_eq_false hflag)
  case accel => exact fun _ _ _ _ _ => rfl
  case holdoff => exact fun _ _ => rfl

end Sys2Proof.Machine

/-! PROOF. The commands of head loading and unloading (O4). -/

namespace Sys2Proof.Machine

/-! ### Requests (spec/04 R97, R100) -/

section
variable {s : State} {m : Master} {a : Act} {v : Word}

theorem exec_loadRequest_accepted (ha : accepts s m (K.actLoadRequest a) v = true) (hv : v ≠ 0) :
    exec (.loadRequest m a v) s = .next (loadRequestAct m a (wrote s m (K.actLoadRequest a) v)) :=
  congrArg Host.Outcome.next (kwrite_act s ha hv)

theorem exec_unloadRequest_accepted (ha : accepts s m (K.actUnloadRequest a) v = true) (hv : v ≠ 0) :
    exec (.unloadRequest m a v) s = .next (unloadRequestAct m a (wrote s m (K.actUnloadRequest a) v)) :=
  congrArg Host.Outcome.next (kwrite_act s ha hv)

theorem exec_servoDegradedClear_accepted (ha : accepts s m (K.actServoDegraded a) v = true) (hv : v ≠ 0) :
    exec (.servoDegradedClear m a v) s = .next ((slotsOf a).foldl writeOkRise (wrote s m (K.actServoDegraded a) v)) :=
  congrArg Host.Outcome.next (kwrite_act s ha hv)

/-- Row 3 of R97: with a valid VCM model and a load permit the heads are driven inward under the reservation of slot A. -/
theorem loadNow_of_permit {a : Nat} (hmodel : vcmModel s a = true) (hpermit : s.flag K.spinLoadPermit = true) :
    loadNow s a = actEnter (holdRes raise s (slotAHolder a) 0) a 1 (driverMove s a (-outward s a (s.cfg (K.actLoadBemfMv a)))) :=
  if_pos (by simp [hmodel, hpermit])

end

/-! ### Limits of the states (spec/04 R97) -/

section
variable {s : State} {a : Act}

/-- Row 5 of R97. -/
theorem exec_loadMsExpiry_of_loading (hst : s.nat (K.actActState a) = 1) :
    let t := (slotsOf a).foldl (fun u q => u.setSrv q { u.srv q with x1 := none, x2 := none, readRun := 0, decodeRun := 0 }) s
    let t := actEnter t a 2 .hold
    exec (.loadMsExpiry a) s = .next (if (s.act a).unloadHeld then unloadNow raise t a else t) := if_neg (not_not.2 hst)

/-- Row 7 of R97. -/
theorem exec_loadSearchTimeout_of_search (hst : s.nat (K.actActState a) = 2) :
    exec (.loadSearchTimeout a) s = .next (unloadNow raise (loadFail raise s a 2) a) := if_neg (not_not.2 hst)

/-- Row 9 of R97. -/
theorem exec_unloadComplete_of_unloading (hst : s.nat (K.actActState a) = 4) :
    exec (.unloadComplete a) s = .next (parked (s.inc (K.actUnloadCount a)) a 0) := if_neg (not_not.2 hst)

/-- Row 10 of R97: heads that have not passed track 0 go over to RETRACT, and the link stops. -/
theorem exec_unloadTimeout_of_unloading (hst : s.nat (K.actActState a) = 4) (hpassed : (s.act a).passed0 = false) :
    let t := stopLink s a
    let t := t.setAct a { t.act a with unloadHeld := false, passed0 := false }
    let t := actEnter t a 5 (driverMove s a (outward s a (s.cfg (K.actRetractBemfMv a))))
    exec (.unloadTimeout a) s = .next (actEvent raise t a 100 [cap32 (s.srv (2 * a.val)).lastX] none) :=
  if_neg (by simp [hst, hpassed])

/-- Row 2 of R97. -/
theorem exec_retractExpiry_of_retract (hst : s.nat (K.actActState a) = 5) :
    exec (.retractExpiry a) s = .next (parked (s.inc (K.actRetractCount a)) a 1) := if_neg (not_not.2 hst)

end

/-- Settles O4 (spec/04 R88-R100): an accepted request acts by the row of R97 for the state it meets, and a limit passes in its own state
alone. -/
theorem loadCommandsComplete : Obligations.LoadCommandsComplete := by
  refine ⟨?load, ?unload, ?loadMs, ?search, ?unloaded, ?unloadLimit, ?retracted, ?degraded⟩
  case load =>
    intro m a v s ha hv t hst hmodel hpermit
    have hact : loadRequestAct m a t = loadNow t a := if_pos hst
    rw [exec_loadRequest_accepted ha hv, hact, loadNow_of_permit hmodel hpermit]
  case unload =>
    intro m a v s ha hv t hst
    have hact : unloadRequestAct m a t = unloadNow raise t a := if_neg hst
    rw [exec_unloadRequest_accepted ha hv, hact]
  case loadMs => exact fun _ _ => exec_loadMsExpiry_of_loading
  case search => exact fun _ _ => exec_loadSearchTimeout_of_search
  case unloaded => exact fun _ _ => exec_unloadComplete_of_unloading
  case unloadLimit => exact fun _ _ => exec_unloadTimeout_of_unloading
  case retracted => exact fun _ _ => exec_retractExpiry_of_retract
  case degraded => exact fun _ _ _ _ => exec_servoDegradedClear_accepted

end Sys2Proof.Machine

/-! PROOF. The commands of the drivers and of concurrent heads (O5). -/

namespace Sys2Proof.Machine

/-! ### The rows of the objects (spec/05 R120, R121) -/

/-- The row of map_valid is found in every state, for its index lies below those of the factory test mode (R380). -/
theorem objNow_actMapValid (s : State) (a : Act) :
    objNow s (aliasIndex (0x3701 + 0x800 * a)) 3 =
      some ⟨0x3701, 0x3701, 3, 3, .bits32, .rw, .live, 0xFFFF, 0, .bits 0x3F⟩ := by
  have hfound : ∀ b : Act, aliasIndex (0x3701 + 0x800 * b) < 0xF000 ∧ objRow (aliasIndex (0x3701 + 0x800 * b)) 3 =
      some ⟨0x3701, 0x3701, 3, 3, .bits32, .rw, .live, 0xFFFF, 0, .bits 0x3F⟩ := by decide
  obtain ⟨hbelow, hrow⟩ := hfound a
  exact (if_neg fun h => absurd h.1 (Nat.not_le.2 hbelow)).trans hrow

theorem objNow_asstAssistBudgetMw (s : State) :
    objNow s (aliasIndex 0x4010) 1 = some ⟨0x4010, 0x4010, 1, 1, .u16, .rw, .live, 0x7FFE, 800, .range 100 4000⟩ :=
  (if_neg fun h => absurd h.1 (by decide)).trans (by decide)

/-! ### Writes of the objects (spec/05 R106, R107, R119) -/

section
variable {s : State} {m : Master} {a : Act} {v : Word}

theorem exec_mapValidWrite_accepted (ha : accepts s m (K.actMapValid a) v = true) :
    exec (.mapValidWrite m a v) s = .next (mapValidWriteAct a (wrote s m (K.actMapValid a) v)) := by
  have hrow : objNow s (aliasIndex (K.actMapValid a / 256)) (K.actMapValid a % 256) =
      some ⟨0x3701, 0x3701, 3, 3, .bits32, .rw, .live, 0xFFFF, 0, .bits 0x3F⟩ := by
    rw [K.actMapValid, key_index (by decide), key_sub (by decide)]
    exact objNow_actMapValid s a
  exact congrArg Host.Outcome.next (kwrite_act_rw s ha hrow rfl)

theorem exec_captureStart_accepted (ha : accepts s m (K.actCaptureStart a) v = true) (hv : v ≠ 0) :
    exec (.captureStart m a v) s = .next (captureStartAct a (wrote s m (K.actCaptureStart a) v)) :=
  congrArg Host.Outcome.next (kwrite_act s ha hv)

theorem exec_assistBudgetWrite_accepted (ha : accepts s m K.asstAssistBudgetMw v = true) :
    exec (.assistBudgetWrite m v) s = .next (regrant (wrote s m K.asstAssistBudgetMw v)) :=
  congrArg Host.Outcome.next (kwrite_act_rw s ha (objNow_asstAssistBudgetMw s) rfl)

end

/-! ### Overspeed (spec/04 R97) -/

/-- Row 12 of R97. -/
theorem exec_bemfOverspeed_of_over {s : State} {a : Act} {v : BitVec 16}
    (hst : s.nat (K.actActState a) = 1 ∨ s.nat (K.actActState a) = 4 ∨ s.nat (K.actActState a) = 5)
    (hover : s.cfg (K.actOverspeedBemfMv a) < v.toNat) :
    exec (.bemfOverspeed a v) s = .next (actEvent raise (s.setAct a { s.act a with vcm := .brake }) a 115
      [v.toNat, s.nat (K.actActState a)] none) := if_pos ⟨hst, hover⟩

/-! ### Captures of a shift map (spec/05 R107) -/

section
variable {s : State} {c : MapCap}

/-- The revolutions of a running capture have ended. -/
theorem exec_mapCaptureDone_ended {a : Act} (hcap : (s.act a).capture = some c) (hst : s.nat (K.actCaptureState a) = 2)
    (hended : captureEnded c (s.cfg (K.actCaptureRevs a)) = true) :
    exec (.mapCaptureDone a) s = .next (captureResult s a c) := by
  have hexec : exec (.mapCaptureDone a) s = execMapCaptureDone a s := rfl
  simp only [hexec, execMapCaptureDone, hcap, hst, hended, and_self, if_true]

/-- Steps 4 and 5 of R107: a capture in which no microactuator moved, with enough good revolutions and deltas within ±32,767, is written
to its table. -/
theorem captureResult_written {a : Nat} (hrest : c.moved = false) (hgood : s.cfg (K.actCaptureRevs a) ≤ c.good)
    (hfits : ((captureDeltas c).any fun d => 32767 < d.natAbs) = false) :
    let t := writeCapture s a c.pair c.point (captureBase c) (captureDeltas c)
    let t := (t.setN (K.actCaptureState a) 3).setAct a { t.act a with capture := none }
    captureResult s a c = actEvent raise t a 134 [c.pair, c.point, (captureBase c % 2 ^ 32).toNat] none := by
  have hnoOverflow := ne_true_of_eq_false hfits
  exact (if_neg (ne_true_of_eq_false hrest)).trans ((if_neg (Nat.not_lt.2 hgood)).trans (if_neg hnoOverflow))

end

/-- Settles O5 (spec/04 R97, R99; spec/05 R106, R107, R116-R119): a write acts by its object's rule, the driver faults and the grants act
in every state, and a capture without a failure is written. Which of the two integers around an inexact mean is taken is open (log 5);
that each stamp raises one tie event is the model's reading of R117 (log 49). -/
theorem concurrentHeadCommandsComplete : Obligations.ConcurrentHeadCommandsComplete := by
  refine ⟨?overspeed, ?vcmFault, ?pztFault, ?mapValid, ?start, ?done, ?grants, ?budget⟩
  case overspeed => exact fun _ _ _ => exec_bemfOverspeed_of_over
  case vcmFault => exact fun _ _ _ => rfl
  case pztFault => exact fun _ _ _ _ => rfl
  case mapValid => exact fun _ _ _ _ => exec_mapValidWrite_accepted
  case start =>
    intro m a v s ha hv t hready u
    exact (exec_captureStart_accepted ha hv).trans (congrArg Host.Outcome.next (if_pos hready))
  case done =>
    intro a c s hcap hst hrest hgood base deltas hfits
    have hended : captureEnded c (s.cfg (K.actCaptureRevs a)) = true := by simp [captureEnded, hgood]
    exact (exec_mapCaptureDone_ended hcap hst hended).trans (congrArg Host.Outcome.next (captureResult_written hrest hgood hfits))
  case grants => exact fun _ _ => rfl
  case budget => exact fun _ _ _ => exec_assistBudgetWrite_accepted

end Sys2Proof.Machine

/-! PROOF. What is sent over the head-stack link (O6). -/

namespace Sys2Proof.Machine

/-! ### Requests to the link controller (spec/06 R130-R134) -/

section
variable {s : State} {a : Nat} {r : LinkReq}

/-- A running link queues the request and starts what it may start next. -/
theorem linkPost_of_clock (hclock : (s.link a).clock = true) :
    linkPost s a r = linkPump (s.setLink a { s.link a with queue := (s.link a).queue ++ [r] }) a := if_pos hclock

end

section
variable {s : State} {a : Act} {q : Slot} {h : BitVec 4} {r : Byte} {d : BitVec 16} {due : Stamp}

theorem exec_linkRead_of_low (hr : r.toNat < 0x80) :
    exec (.linkRead a h r) s = .next (linkPost s a (plainReq 3 1 h.toNat r.toNat 0 .poll)) :=
  congrArg Host.Outcome.next (if_neg (Nat.not_le.2 hr))

theorem exec_linkWrite_of_low (hr : r.toNat < 0x80) :
    exec (.linkWrite q h r d due) s = .next (linkPost s (q.val / 2) { plainReq 1 2 h.toNat r.toNat d.toNat .seq with
      slot := some q.val, due := some due.toNat }) :=
  congrArg Host.Outcome.next (if_neg (Nat.not_le.2 hr))

theorem exec_linkRead_of_vendor (hr : 0x80 ≤ r.toNat) : exec (.linkRead a h r) s = .next s :=
  congrArg Host.Outcome.next (if_pos hr)

theorem exec_linkWrite_of_vendor (hr : 0x80 ≤ r.toNat) : exec (.linkWrite q h r d due) s = .next s :=
  congrArg Host.Outcome.next (if_pos hr)

end

/-! ### Assist (spec/06 R138, R139, R142) -/

section
variable {s : State}

/-- A slot that holds its grant on a drive with assist is armed. -/
theorem exec_assistArm_granted {q : Slot} {h : Head} {gate : Stamp} :
    let a := q.val / 2
    let due := gate.toNat - s.cfg (K.lnkPrebiasLeadCounts a)
    let t := if (s.wr q).assist = .off then levelWrites s q h due else s
    let t := t.setWr q { t.wr q with assist := .armed, assistHead := h.val, confirmed := false }
    s.cfg (K.lnkAssistKind a) ≠ 0 → (at' s.grants q none).isSome = true →
    exec (.assistArm q h gate) s =
      .next (linkPost t a { plainReq 1 3 h.val 0 0 .seq with slot := some q.val, due := some due }) := by
  intro a due t' t hkind hgrant
  exact if_neg (not_or.2 ⟨hkind, by simp [Option.isSome_iff_ne_none.1 hgrant]⟩)

/-- Taking a slot's assist back leaves the objects as they are. -/
theorem nat_unpost_setWr (w : WriteSt) (q : Nat) (cmds : List Nat) (k : Key) : (unpost (s.setWr q w) q cmds).nat k = s.nat k := rfl

/-- On a link that is up, an assist that is on and does not stop yet is ended by an ASSIST_OFF; an ASSIST_ARM still queued is not sent. -/
theorem assistOff_of_up {q cls : Nat} (hon : (s.wr q).assist ≠ .off) (hstays : (s.wr q).assist ≠ .stopping)
    (hclock : (s.link (q / 2)).clock = true) (hup : s.nat (K.lnkLinkState (q / 2)) = 2) :
    let t := unpost (s.setWr q { s.wr q with assist := .stopping, confirmed := false, runOpen := false }) q [3]
    assistOff s q cls = linkPost t (q / 2)
      { cls := cls, cmd := 4, head := (t.wr q).assistHead, addr := 0, data := 0, who := .seq, slot := some q } := by
  intro t
  have hstopped : ¬(!(s.link (q / 2)).clock) = true := by simp [hclock]
  have hupStill : t.nat (K.lnkLinkState (q / 2)) = 2 := (nat_unpost_setWr _ q _ _).trans hup
  exact (if_neg fun h => hon h.1).trans ((if_neg hstopped).trans ((if_neg hstays).trans (if_neg (not_not.2 hupStill))))

theorem exec_assistOff_of_on {q : Slot} {h : Head} (hon : (s.wr q).assist ≠ .off) :
    exec (.assistOff q h) s = .next (assistOff s q 1) :=
  congrArg (fun u => Host.Outcome.next (assistOff u q 1)) (if_neg hon)

/-- One slot of the actuator in pre-bias or writing is enough for a poll of the monitor. -/
theorem exec_monitorPoll_of_busy {a : Act} (hbusy : ∃ q ∈ slotsOf a, (s.wr q).assist = .prebias ∨ (s.wr q).assist = .writing) :
    exec (.monitorPoll a) s = .next (linkPost s a (plainReq 2 0 15 0 0 .monitor)) :=
  congrArg Host.Outcome.next (if_pos (by simpa using hbusy))

end

/-! ### Register access of firmware (spec/06 R146) -/

section
variable {s : State} {m : Master} {a : Act}

theorem regGo_of_clock {a cmd data : Nat} (hclock : (s.link a).clock = true) :
    regGo s a cmd data =
      linkPost (s.setN (K.lnkRegResult a) 1) a (plainReq 4 cmd (regHead s a) (regAddr s a) data .regOp) := if_pos hclock

theorem exec_regOpRead_accepted (ha : accepts s m (K.lnkRegOp a) 1 = true) :
    exec (.regOpRead m a) s = .next (regGo (wrote s m (K.lnkRegOp a) 1) a 1 0) :=
  congrArg Host.Outcome.next (kwrite_act s ha (by decide))

theorem exec_regOpWrite_allowed (ha : accepts s m (K.lnkRegOp a) 2 = true) :
    let t := wrote s m (K.lnkRegOp a) 2
    regRefused t a = false → exec (.regOpWrite m a) s = .next (regGo t a 2 (t.nat (K.lnkRegData a))) :=
  fun hallowed => congrArg Host.Outcome.next ((kwrite_act s ha (by decide)).trans (if_neg (ne_true_of_eq_false hallowed)))

end

/-- Settles O6 (spec/06 R126, R130-R134, R138-R146): each command posts the request of its rule. That LINK_READ and LINK_WRITE of registers
0x80 and above have no effect is the model's reading of R131 (log 49). -/
theorem linkPostsComplete : Obligations.LinkPostsComplete := by
  refine ⟨?nop, ?read, ?write, ?vendor, ?arm, ?off, ?stop, ?keep, ?monitor, ?temp, ?regRead, ?regWrite⟩
  case nop => exact fun _ _ hclock => congrArg Host.Outcome.next (linkPost_of_clock hclock)
  case read => exact fun _ _ _ _ hclock hr => (exec_linkRead_of_low hr).trans (congrArg Host.Outcome.next (linkPost_of_clock hclock))
  case write =>
    intro q h r d due s a hclock hr
    exact (exec_linkWrite_of_low hr).trans (congrArg Host.Outcome.next (linkPost_of_clock hclock))
  case vendor => exact fun _ _ _ _ _ _ _ hr => ⟨exec_linkRead_of_vendor hr, exec_linkWrite_of_vendor hr⟩
  case arm => exact fun _ _ _ _ => exec_assistArm_granted
  case off =>
    intro q h s a hon hstays hclock hup
    exact (exec_assistOff_of_on hon).trans (congrArg Host.Outcome.next (assistOff_of_up hon hstays hclock hup))
  case stop => exact fun _ _ => rfl
  case keep => exact fun _ _ hclock => congrArg Host.Outcome.next (linkPost_of_clock hclock)
  case monitor =>
    intro a s hbusy
    exact exec_monitorPoll_of_busy (by simpa [slotsOf, or_assoc] using hbusy)
  case temp => exact fun _ _ => rfl
  case regRead =>
    intro m a s ha t hclock
    exact (exec_regOpRead_accepted ha).trans (congrArg Host.Outcome.next (regGo_of_clock hclock))
  case regWrite =>
    intro m a s ha t hclock hallowed
    exact (exec_regOpWrite_allowed ha hallowed).trans (congrArg Host.Outcome.next (regGo_of_clock hclock))

end Sys2Proof.Machine

/-! PROOF. Answers and states of the head-stack link (O7). -/

namespace Sys2Proof.Machine

/-! ### Answers (spec/06 R127-R129, R135) -/

section
variable {s : State} {a : Act} {r : LinkReq}

theorem State.on_false {c : Bool} (f : State → State) (h : c = false) : s.on c f = s := if_neg (ne_true_of_eq_false h)

/-- The transaction outstanding has been answered without a failure of the link: the link is free, and the run of failures ends. -/
def linkAnswered (s : State) (a : Nat) (r : LinkReq) : State :=
  s.setLink a { s.link a with cur := none, failRun := 0, nopSince := (s.link a).nopSince || r.cmd == 0 }

/-- An answer with a good CRC, a stop bit and code 0 has had its request executed. -/
theorem exec_linkResponse_executed {st : Byte} {d sa sb : BitVec 16} (hcur : (s.link a).cur = some r) (hcode : st.toNat % 4 = 0) :
    let t := linkDone (linkAnswered s a r) a r d.toNat
    let t := monitorBits (safeStopBit t a r) a st.toNat sa.toNat sb.toNat
    exec (.linkResponse a st d (responseCrc st d) true sa sb) s = .next (linkPump (degradedNops t a) a) := by
  have hexec : exec (.linkResponse a st d (responseCrc st d) true sa sb) s = execLinkResponse a st d (responseCrc st d) true sa sb s := rfl
  have hcrc : decide (responseCrc st d ≠ responseCrc st d) = false := decide_eq_false (not_not.2 rfl)
  have hexecuted : st.toNat % 4 ≠ 2 ∧ (st.toNat % 4 == 1) = false ∧ (st.toNat % 4 == 3) = false := by simp [hcode]
  obtain ⟨hcode2, hcode1, hcode3⟩ := hexecuted
  simp only [hexec, execLinkResponse, linkAnswered, hcur, hcrc, hcode1, hcode3, Bool.or_false, Bool.and_false, State.on_false,
    Bool.not_true, Bool.false_eq_true, if_false, if_neg hcode2]

theorem exec_linkResponseTimeout_of_cur (hcur : (s.link a).cur = some r) :
    exec (.linkResponseTimeout a) s = .next (linkFailed (s.inc (K.lnkTimeoutCount a)) a r 0) := by
  have hexec : exec (.linkResponseTimeout a) s = execLinkResponseTimeout a s := rfl
  rw [hexec, execLinkResponseTimeout, hcur]

end

/-! ### link_degraded and the start of the link (spec/06 R135, R136) -/

section
variable {s : State} {m : Master} {a : Act} {v : Word}

theorem exec_linkDegradedClear_accepted (ha : accepts s m (K.lnkLinkDegraded a) v = true) (hv : v ≠ 0) :
    exec (.linkDegradedClear m a v) s = .next (linkDegradedClearAct a (wrote s m (K.lnkLinkDegraded a) v)) :=
  congrArg Host.Outcome.next (kwrite_act s ha hv)

/-- A link in state degraded is up again; in any other state link_state stays. -/
theorem linkDegradedClearAct_eq (t : State) (a : Nat) :
    linkDegradedClearAct a t = if t.nat (K.lnkLinkState a) = 3 then t.setN (K.lnkLinkState a) 2 else t := by
  simp only [linkDegradedClearAct, State.on, decide_eq_true_eq]

theorem exec_linkInit_accepted (ha : accepts s m (K.lnkLinkInit a) v = true) (hv : v ≠ 0) :
    exec (.linkInit m a v) s = .next (linkInitAct a (wrote s m (K.lnkLinkInit a) v)) :=
  congrArg Host.Outcome.next (kwrite_act s ha hv)

/-- An initialisation begins with a SAFE. -/
theorem initStep_first (t : State) (a : Nat) :
    initStep t a 1 = linkPost (t.setLink a { t.link a with init := 1 }) a (plainReq 0 5 15 0 0 .init) := rfl

end

/-! ### Faults of the preamp (spec/06 R137, R139, R141) -/

section
variable {s : State}

/-- A fall of HS_FLT_L closes the open gates of the actuator for cause 4 and asks for STATUS. -/
theorem exec_preampFaultLine_falls {a : Act} (hhigh : (s.link a).fltLow = false) :
    let t := s.setLink a { s.link a with fltLow := true, fltGates := gatesMask s, fltWait := true }
    let t := (slotsOf a).foldl (fun u q => if (u.wr q).gate.isSome then endPart raise u q 4 else u) t
    exec (.preampFaultLine a) s = .next (faultTick (linkPost t a (plainReq 0 1 15 3 0 .status)) a) :=
  if_neg (ne_true_of_eq_false hhigh)

theorem exec_monitorAgeExpiry_of_confirmed {q : Slot} (hon : (s.wr q).assist ≠ .off) (hconf : (s.wr q).confirmed = true) :
    exec (.monitorAgeExpiry q) s = .next (monitorFault s q) :=
  congrArg Host.Outcome.next (if_neg (by simp [hon, hconf]))

end

/-- Settles O7 (spec/06 R127, R134-R146): an answer or a state of the link acts by its rule where its guard holds. That the requests of an
initialisation go out in class 0 is the model's reading of R134 (log 49). -/
theorem linkAnswersComplete : Obligations.LinkAnswersComplete := by
  refine ⟨?answer, ?timeout, ?degraded, ?init, ?fault, ?age⟩
  case answer => exact fun _ _ _ _ _ _ _ => exec_linkResponse_executed
  case timeout => exact fun _ _ _ => exec_linkResponseTimeout_of_cur
  case degraded =>
    intro m a v s ha hv t
    exact (exec_linkDegradedClear_accepted ha hv).trans (congrArg Host.Outcome.next (linkDegradedClearAct_eq t a))
  case init =>
    intro m a v s ha hv t u
    exact (exec_linkInit_accepted ha hv).trans (congrArg Host.Outcome.next (initStep_first u a))
  case fault => exact fun _ _ => exec_preampFaultLine_falls
  case age => exact fun _ _ => exec_monitorAgeExpiry_of_confirmed

end Sys2Proof.Machine

/-! PROOF. The commands of the read front end (O8). -/

namespace Sys2Proof.Machine

/-! ### The guards (spec/07 R164, R165; spec/02 R44) -/

section
variable {s : State} {q f : Nat}

/-- In LOCKED_WEDGE, on track for reading, with no gate open, no reset and no twin exit waiting, a request is not turned away. -/
theorem readGate_admitted (hsun : s.nat K.sunState = 3) (htrack : onRead s q = true) (hgate : (s.ch q).gate = none)
    (hreset : (s.ch q).inReset = false) (htwin : twinHeld s q = false) :
    ¬(s.nat K.sunState ≠ 3 ∨ onRead s q = false ∨ (s.ch q).gate.isSome ∨ (s.ch q).inReset = true ∨ twinHeld s q = true) := by
  simp [hsun, htrack, hgate, hreset, htwin]

/-- A reader in use raises a flag that is down when the mean passes its threshold. -/
theorem defectDetect_admitted {mean : Int} (huse : readerInUse s q f = true) (hdown : s.bit (K.slotDefectFlags q) f = false)
    (hpass : meanPasses s q f mean false = true) :
    ¬((!readerInUse s q f || s.bit (K.slotDefectFlags q) f || !meanPasses s q f mean false) = true) := by
  simp [huse, hdown, hpass]

/-- A flag that is up falls when the mean passes the threshold of its fall. -/
theorem defectClear_admitted {mean : Int} (hup : s.bit (K.slotDefectFlags q) f = true) (hpass : meanPasses s q f mean true = true) :
    ¬((!s.bit (K.slotDefectFlags q) f || !meanPasses s q f mean true) = true) := by
  simp [hup, hpass]

/-- A flag that is up is reported as long where its rise has not been. -/
theorem defectLong_admitted (hup : s.bit (K.slotDefectFlags q) f = true) (hfirst : (s.ch q).longRaised.contains f = false) :
    ¬((!s.bit (K.slotDefectFlags q) f || (s.ch q).longRaised.contains f) = true) := by
  rw [hup, hfirst]
  decide

end

/-! ### Pins (spec/07 R168) -/

/-- The row of buf_pin is found in every state, for its index lies below those of the factory test mode (R380). -/
theorem objNow_slotBufPin (s : State) (q : Slot) :
    objNow s (aliasIndex (0x5005 + 0x400 * q)) 2 =
      some ⟨0x5005, 0x5005, 2, 2, .bits32, .rw, .live, 0xFFFF, 0, .bits 0xFFFF⟩ := by
  have hfound : ∀ p : Slot, aliasIndex (0x5005 + 0x400 * p) < 0xF000 ∧ objRow (aliasIndex (0x5005 + 0x400 * p)) 2 =
      some ⟨0x5005, 0x5005, 2, 2, .bits32, .rw, .live, 0xFFFF, 0, .bits 0xFFFF⟩ := by decide
  obtain ⟨hbelow, hrow⟩ := hfound q
  exact (if_neg fun h => absurd h.1 (Nat.not_le.2 hbelow)).trans hrow

theorem exec_bufPinWrite_accepted {s : State} {m : Master} {q : Slot} {v : Word} (ha : accepts s m (K.slotBufPin q) v = true) :
    exec (.bufPinWrite m q v) s = .next (bufPinWriteAct q (wrote s m (K.slotBufPin q) v)) := by
  have hrow : objNow s (aliasIndex (K.slotBufPin q / 256)) (K.slotBufPin q % 256) =
      some ⟨0x5005, 0x5005, 2, 2, .bits32, .rw, .live, 0xFFFF, 0, .bits 0xFFFF⟩ := by
    rw [K.slotBufPin, key_index (by decide), key_sub (by decide)]
    exact objNow_slotBufPin s q
  exact congrArg Host.Outcome.next (kwrite_act_rw s ha hrow rfl)

/-- Settles O8 (spec/07 R150-R168): a read gate and its close act on the entry they find, a detector's command acts where its guard holds,
and an accepted write is stored and, for the pins, meets the entries. That the samples of an entry being captured are free values, for
which the counter moves on by the size of the sample area, is the model's (log 4, log 13). -/
theorem readFrontCommandsComplete : Obligations.ReadFrontCommandsComplete := by
  refine ⟨?opens, ?closes, ?detect, ?clear, ?holdoff, ?long, ?rail, ?format, ?pin⟩
  case opens =>
    intro q i s e s1 hsun htrack hgate hreset htwin s2 s2' hentry s3 b c c' t
    refine (if_neg (readGate_admitted hsun htrack hgate hreset htwin)).trans ?_
    split
    case h_1 hnone => cases hnone.symm.trans hentry
    case h_2 e' hsome =>
      cases hsome.symm.trans hentry
      rfl
  case closes =>
    intro q i e s hgate
    have hexec : exec (.readGateClose q i) s = execReadGateClose q i s := rfl
    rw [hexec, execReadGateClose]
    split
    case h_1 hnone => cases hnone.symm.trans hgate
    case h_2 e' hsome =>
      cases hsome.symm.trans hgate
      rfl
  case detect =>
    intro q f mean bit s huse hdown hpass
    exact (if_neg (defectDetect_admitted huse hdown hpass)).trans (apply_ite Host.Outcome.next _ _ _).symm
  case clear => exact fun _ _ _ _ _ hup hpass => if_neg (defectClear_admitted hup hpass)
  case holdoff => exact fun _ _ hrunning => if_neg (by rw [hrunning]; decide)
  case long => exact fun _ _ _ hup hfirst => if_neg (defectLong_admitted hup hfirst)
  case rail => exact fun _ _ _ _ hfirst => if_neg (ne_true_of_eq_false hfirst)
  case format => exact fun _ _ _ _ _ _ => rfl
  case pin => exact fun _ _ _ _ => exec_bufPinWrite_accepted

end Sys2Proof.Machine

/-! PROOF. The commands of sector detection (O9). -/

namespace Sys2Proof.Machine

/-! ### The guards (spec/08 R179, R183, R184) -/

section
variable {s : State} {q e : Nat} {b : BufEntry}

/-- A HELD entry whose live decode waits is decoded. -/
theorem liveDecode_admitted (hheld : b.st = .held) (hlive : b.work = .live) : ¬(b.st ≠ .held ∨ b.work ≠ .live) := by
  simp [hheld, hlive]

/-- In-place work on an entry is done in its turn. -/
theorem markTrial_admitted (hturn : itsTurn s q e = true) : ¬((!itsTurn s q e) = true) := by
  simp [hturn]

/-- In its turn, and with no alignment left to try, the entry's next pass is run. -/
theorem redetectPass_admitted {p : Nat} (hturn : itsTurn s q e = true) (htried : b.aligns.length ≤ b.tried)
    (hnext : b.passes.head? = some p) :
    ¬((!itsTurn s q e) = true ∨ b.tried < b.aligns.length ∨ b.passes.head? ≠ some p) := by
  simp [hturn, htried, hnext]

end

/-! ### Writes of the objects (spec/08 R193, R195) -/

section
variable {s : State} {m : Master} {v : Word}

theorem exec_combineStart_accepted {q : Slot} (ha : accepts s m (K.slotCombineStart q) v = true) (hv : v ≠ 0) :
    exec (.combineStart m q v) s = .next (combineStartAct q (wrote s m (K.slotCombineStart q) v)) :=
  congrArg Host.Outcome.next (kwrite_act s ha hv)

theorem exec_ocRelease_accepted (ha : accepts s m K.detOcRelease v = true) (hv : v ≠ 0) :
    exec (.ocRelease m v) s = .next (ocReleaseAct (wrote s m K.detOcRelease v)) :=
  congrArg Host.Outcome.next (kwrite_act s ha hv)

end

/-- Settles O9 (spec/08 R181-R196): an attempt in its turn decodes its entry and ends in the sector's delivery or its next attempt, and an
accepted write has its rule's effect. The turn of an entry, that of equal results the earlier stands, and the best alignment of a deep job
are the model's choices (log 12), and so is that DEEP_JOB has an idle deep decoder take its job first (log 41). -/
theorem detectionCommandsComplete : Obligations.DetectionCommandsComplete := by
  refine ⟨?live, ?trial, ?pass, ?deep, ?combine, ?solve, ?release, ?fault⟩
  case live =>
    intro q e s b hheld hlive l al r ok b1 t t'
    calc exec (.liveDecode q e) s
        = if ok then .next (decoded t' q e 0 0 al r)
          else if noSignal s q b then .next (sectorEnds raise t' q e 11 0 0 0 0 false) else .next (goesOn t' q e) :=
          if_neg (liveDecode_admitted hheld hlive)
      _ = _ := by simp only [apply_ite Host.Outcome.next]
  case trial =>
    intro q e al s b hal hturn r ok better b1 t
    have hexec : exec (.markTrial q e) s = execMarkTrial q e s := rfl
    rw [hexec, execMarkTrial]
    split
    case h_1 hnone => cases hnone.symm.trans hal
    case h_2 al' hsome =>
      cases hsome.symm.trans hal
      exact (if_neg (markTrial_admitted hturn)).trans (apply_ite Host.Outcome.next _ _ _).symm
  case pass =>
    intro q e p s b hturn htried hnext al d r ok better b1 t
    exact (if_neg (redetectPass_admitted hturn htried hnext)).trans (apply_ite Host.Outcome.next _ _ _).symm
  case deep =>
    intro j e s u hrun hentry r b ok t t'
    have hexec : exec .deepJob s = execDeepJob s := rfl
    rw [hexec, execDeepJob]
    split
    case h_1 hnone => cases hnone.symm.trans hrun
    case h_2 j' hsome =>
      cases hsome.symm.trans hrun
      obtain ⟨stamp, q, entry, since, code, det⟩ := j
      cases hentry
      exact (apply_ite Host.Outcome.next _ _ _).symm
  case combine =>
    intro m q v s ha hv t hidle hok b job u
    exact (exec_combineStart_accepted ha hv).trans (congrArg Host.Outcome.next ((if_neg hidle).trans (if_pos hok)))
  case solve =>
    intro s hwaits hfew
    have hexec : exec .outerCodeSolve s = execOuterCodeSolve s := rfl
    rw [hexec, execOuterCodeSolve, if_neg (not_not.2 hwaits)]
    simp only [hfew, true_and, apply_ite Host.Outcome.next]
  case release => exact fun _ _ _ => exec_ocRelease_accepted
  case fault => exact fun _ _ _ _ => rfl

end Sys2Proof.Machine

/-! PROOF. The commands of the write path (O10). -/

namespace Sys2Proof.Machine

section
variable {s : State} {q : Slot} {i : GateIn}

/-! ### The opening of a gate (spec/09 R205-R211; spec/06 R140) -/

/-- A request opens its gate where the sector is staged in time, no condition of R206 fails, its group is ready and so is its assist. -/
theorem request_opens {e : StageEnt} :
    let b := takeSurface s q i.head i.track.toNat
    let w := b.wr q
    let t := b.setWr q { w with active := true, tag := i.tag.toNat, twinB := i.twinB }
    let kind := b.cfg (K.lnkAssistKind (q.val / 2))
    (b.link (q.val / 2)).preampSafe = false →
    stagedEnt w i.tag.toNat i.sector.toNat = some e → e.bad = false →
    requestCause t q i = none → stageShort b e i = 0 →
    (∀ z g p, requestGroup b i = some (z, g, p) → groupReady w z g p = true) →
    (kind = 0 ∨ ((at' b.grants q none).isSome = true ∧ w.confirmed = true ∧
      (w.runOpen = true ∨ b.cfg (K.lnkPrebiasMinCounts (q.val / 2)) ≤ i.lead.toNat))) →
    request s q i = gateOpens t q i := by
  intro b w t kind hsafe hstaged hgood hcause hshort hgroup hassist
  unfold request
  extract_lets
  rw [if_neg (Bool.eq_false_iff.1 hsafe), hstaged]
  refine (if_neg (Bool.eq_false_iff.1 hgood)).trans ?_
  rw [hcause]
  refine (if_neg (Nat.not_lt.2 hshort.le)).trans ((if_neg ?group).trans
    ((if_neg ?grant).trans ((if_neg ?lead).trans (if_neg ?confirmed))))
  case group =>
    split
    case h_1 z g p hsome => simp [hgroup z g p hsome]
    case h_2 => exact Bool.false_ne_true
  case grant =>
    rintro ⟨hkind, hnone⟩
    obtain ⟨hgrant, -, -⟩ := hassist.resolve_left hkind
    simp [Option.isNone_iff_eq_none.1 hnone] at hgrant
  case lead =>
    rintro ⟨hkind, hfirst, hlate⟩
    obtain ⟨-, -, hopen | hlead⟩ := hassist.resolve_left hkind
    · exact Bool.false_ne_true (hfirst.symm.trans hopen)
    · exact Nat.not_lt.2 hlead hlate
  case confirmed =>
    rintro ⟨hkind, hno⟩
    obtain ⟨-, hconf, -⟩ := hassist.resolve_left hkind
    exact Bool.false_ne_true (hno.symm.trans hconf)

/-- A paused gate opens again where each condition of R206 but 5 holds. -/
theorem reopen_opens {g : Gate} (hg : (s.wr q).gate = some g) (hp : g.paused = true)
    (hcause : (causeOrder.find? fun c => c != 5 && !interlock s q c) = none) :
    reopen s q = refreshWrite (s.setWr q { s.wr q with
      gate := some { g with paused := false, kbps := scaledRate s (q.val / 2) (bitsOf (surfaceFmt s q g.head) 0 13) } }) q := by
  unfold reopen
  simp only [hg, hp, hcause]
  rfl

/-! ### The closing of a gate (spec/09 R205, R212) -/

/-- At the end of its pad an open gate's sector is written whole. -/
theorem exec_writeGateClose_last {g : Gate} (descEnd runEnd : Bool) (hg : (s.wr q).gate = some g) (hp : g.paused = false) :
    let t := sectorWritten s q g
    exec (.writeGateClose q true descEnd runEnd) s = .next (twinSettle raise
      (if descEnd then endPartWith raise t q 0 runEnd else if runEnd then assistOff t q 1 else t) (q.val / 2)) := by
  have hexec : exec (.writeGateClose q true descEnd runEnd) s = execWriteGateClose q true descEnd runEnd s := rfl
  rw [hexec, execWriteGateClose, hg]
  exact (if_neg (Bool.eq_false_iff.1 hp)).trans (if_neg Bool.false_ne_true)

/-- Over a wedge an open gate's sector stays in flight. -/
theorem exec_writeGateClose_wedge {g : Gate} (descEnd runEnd : Bool) (hg : (s.wr q).gate = some g) (hp : g.paused = false) :
    exec (.writeGateClose q false descEnd runEnd) s =
      .next (refreshWrite (s.setWr q { s.wr q with gate := some { g with paused := true } }) q) := by
  have hexec : exec (.writeGateClose q false descEnd runEnd) s = execWriteGateClose q false descEnd runEnd s := rfl
  rw [hexec, execWriteGateClose, hg]
  exact (if_neg (Bool.eq_false_iff.1 hp)).trans (if_pos rfl)

end

/-- Settles O10 (spec/09 R202-R214): a sector is staged where an entry is free, a request opens its gate where nothing holds it, a gate
reopens after its wedge and closes, and a staging miss and an encoder fault act in every state. That a reopening leaves condition 5 out of
account, and that an encoder fault holds condition 10 failed until the part in hand ends, is the model's (log 39). -/
theorem writePathCommandsComplete : Obligations.WritePathCommandsComplete := by
  refine ⟨?stages, ?misses, ?opens, ?reopens, ?closes, ?pauses, ?faults⟩
  case stages => exact fun _ _ _ hfree => if_neg (Nat.not_le.2 hfree)
  case misses => exact fun _ _ _ _ _ => rfl
  case opens =>
    intro q i e s b0 b w t kind hr hg htwin hsafe hstaged hgood hcause hshort hgroup hassist
    exact (exec_writeGateRequest_begin (s := s) hr hg htwin).trans (congrArg (fun u => Host.Outcome.next (twinSettle raise u (q / 2)))
      (request_opens hsafe hstaged hgood hcause hshort hgroup hassist))
  case reopens =>
    intro q i g s b hr hg hp hcause kbps
    exact (exec_writeGateRequest_reopen (s := s) hr).trans
      (congrArg (fun u => Host.Outcome.next (twinSettle raise u (q / 2))) (reopen_opens hg hp hcause))
  case closes => exact fun _ descEnd runEnd _ _ => exec_writeGateClose_last descEnd runEnd
  case pauses => exact fun _ descEnd runEnd _ _ => exec_writeGateClose_wedge descEnd runEnd
  case faults => exact fun _ _ _ _ => rfl

end Sys2Proof.Machine

/-! PROOF. The sequencing of the Trellis engines' microwords (O11). -/

namespace Sys2Proof.Machine

section
variable {s : State} {n : Nat} {w : BitVec 40} {nano : BitVec 128} {fix : BitVec 2} {ops : List Nat}

/-- A word whose operation is one of those a command carries out is that command's word: where no cause holds it back it acts, with the
branch and the next address that its operation gives (spec/10 R223). -/
theorem runWord_executes {op : Nat} {taken : Bool} {next : Nat} :
    let e := s.eng n
    let pc := e.fetchAt
    let m := microOf (e.microAt pc w)
    let x := nanoOf (e.nanoAt m.nano nano)
    let u := storeFixed s n pc m.nano fix
    trlState s n = 3 → m.op = op → ops.contains op = true →
    takes { m with op := op } (condOf u n m.cond) (e.lcOf m.lc) = taken →
    nextAddr { m with op := op } pc taken (e.cur.stack.headD 0) (e.reg m.dreg) = next →
    wordFault u n pc m x taken next = none →
    runWord s n ops w nano fix = wordActs u n pc m x taken next := by
  intro e pc m x u hrun hop hmem htaken hnext hfault
  have hm : { m with op := op } = m := by rw [← hop]
  rw [hm] at htaken hnext
  have hexec : ¬(trlState s n ≠ 3 ∨ ops.contains m.op = false) := by simpa [hrun, hop] using hmem
  refine (if_neg hexec).trans ?_
  subst htaken hnext
  split
  case h_1 cause hcause => cases hfault.symm.trans hcause
  case h_2 => rfl

end

/-- Settles O11 (spec/10 R222-R231): an engine in RUN executes its word with the branch taken and the next address that the operation's
row of R223 gives. That a ROM word is the command's operand is the model's (log 22). -/
theorem microwordsExecute : Obligations.MicrowordsExecute := by
  intro n w nano fix s e pc m x u c l runs acts hrun
  refine ⟨?next, ?jump, ?brT, ?brF, ?disp, ?call, ?callT, ?ret, ?retT, ?loop, ?wait, ?reti, ?halt, ?skip⟩
  all_goals
    rintro ⟨hop, hfault⟩
    exact congrArg Host.Outcome.next (runWord_executes hrun hop rfl rfl rfl hfault)

end Sys2Proof.Machine

/-! PROOF. The controls of the Trellis engines (O12). -/

namespace Sys2Proof.Machine

section
variable {s : State} {m : Master} {n : Eng} {v : Word}

/-! ### The fabric's answer (spec/10 R227) -/

/-- With an operation outstanding the answer ends it, and the value of an answer without an error goes to the register that waits. -/
theorem exec_fabricResponse_outstanding {err : Bool} {d : BitVec 32} {r : Option Nat} :
    (s.eng n).fabric = some r →
    let bad := err || (Sp.get s.memory.errs (8 + n.val)).isSome
    let v := (((Sp.get s.rdata (8 + n.val)).map (·.toNat)).getD d.toNat) % 2 ^ 32
    let f := { s.eng n with fabric := none, fabReady := true, fabError := bad }
    let f := match r with | some x => if bad then f else f.setReg x v | none => f
    exec (.fabricResponse n err d) s = .next (trlShow (s.setEng n f) n) := by
  intro hout bad v f f'
  have hexec : exec (.fabricResponse n err d) s = execFabricResponse n err d s := rfl
  rw [hexec, execFabricResponse]
  split
  case h_1 hnone => cases hnone.symm.trans hout
  case h_2 r' hsome =>
    cases hsome.symm.trans hout
    rfl

/-! ### Writes of the objects (spec/10 R230, R231) -/

theorem exec_runRestart_accepted (ha : accepts s m (K.trlRun n) 1 = true) :
    exec (.runRestart m n) s = .next (runRestartAct n (wrote s m (K.trlRun n) 1)) :=
  congrArg Host.Outcome.next (kwrite_act s ha (by decide))

theorem exec_runResume_accepted (ha : accepts s m (K.trlRun n) 2 = true) :
    exec (.runResume m n) s = .next (runResumeAct n (wrote s m (K.trlRun n) 2)) :=
  congrArg Host.Outcome.next (kwrite_act s ha (by decide))

theorem exec_haltReq_accepted (ha : accepts s m (K.trlHaltReq n) v = true) (hv : v ≠ 0) :
    exec (.haltReq m n v) s = .next (haltReqAct n (wrote s m (K.trlHaltReq n) v)) :=
  congrArg Host.Outcome.next (kwrite_act s ha hv)

theorem exec_softIrq_accepted (ha : accepts s m (K.trlSoftIrq n) v = true) (hv : v ≠ 0) :
    exec (.softIrq m n v) s = .next (softIrqAct n v (wrote s m (K.trlSoftIrq n) v)) :=
  congrArg Host.Outcome.next (kwrite_act s ha hv)

/-- Row 12 of R230: an engine halted by a word or a request resumes with the context it saved. -/
theorem runResumeAct_of_saved {n : Nat} {c : TrlCtx} {irq : Option TrlCtx} (hsaved : (s.eng n).halt = some (c, irq))
    (hst : trlState s n = 4) (hcause : s.nat (K.trlHaltCause n) = 1 ∨ s.nat (K.trlHaltCause n) = 2) :
    runResumeAct n s =
      trlShow ((s.setEng n { s.eng n with cur := c, irq := irq, halt := none }).setN (K.trlState n) 3) n := by
  simp only [runResumeAct, hsaved, hst, hcause, and_self, if_true]

/-! ### The loader's report (spec/10 R235) -/

section
variable {r : LoadReport} {k c : BitVec 8}

/-- A customer image is turned away for its words alone on a format or head sequencer, and there only where it does not fit. -/
theorem customer_notRejected {w : BitVec 32} (hcust : r.customer = none ∨ n.val = 6 ∨ custFits r = true)
    (hsome : r.customer = some w) : ¬(n.val < 6 ∧ custFits r = false) := by
  rintro ⟨hformat, hbad⟩
  rcases hcust with hnone | hmotor | hgood
  · cases hnone.symm.trans hsome
  · omega
  · cases hgood.symm.trans hbad

/-- Images that fit, at or above the floor and for a reload the measured ones, are loaded. -/
theorem loadReported_done (hecc : s.eccFailed 14 = false) :
    let t := r.rejected.foldl (fun u x => loaderReject u n x) s
    (∀ v, r.patch = some v → s.nat K.trlxPatchFloor ≤ v.toNat) → (r.patch = none → s.nat K.trlxPatchFloor = 0) →
    ((s.eng n).reload && !reloadSame s n r) = false →
    (r.customer = none ∨ n.val = 6 ∨ custFits r = true) → (r.patch = none ∨ patchFits r = true) →
    loadReported s n (some r) k c = loadDone t n r := by
  intro t hpatch hrom hreload hcust hfits
  have hcheck : (match r.customer with
      | some w => if n.val < 6 ∧ custFits r = false then loaderReject t.drawn n (true, w, s.free.setWidth 8) else t
      | none => t) = t := by
    cases hsome : r.customer with
    | none => rfl
    | some w => exact if_neg (customer_notRejected hcust hsome)
  have hloads : ∀ t', t' = t → (if (s.eng n).reload && !reloadSame s n r then loadFailed t'.drawn n 0 (t'.free.toNat % 256)
      else loadDone t' n r) = loadDone t n r := by
    rintro t' rfl
    exact if_neg (ne_true_of_eq_false hreload)
  unfold loadReported
  rw [if_neg (ne_true_of_eq_false hecc)]
  dsimp only
  cases hp : r.patch with
  | none =>
    simp only [hp, hrom hp, Nat.lt_irrefl, decide_false, Bool.false_eq_true, if_false]
    exact hloads _ hcheck
  | some v =>
    have hfit : patchFits r = true := hfits.resolve_left (by simp [hp])
    simp only [hp, hfit, if_true, Nat.not_lt.2 (hpatch v hp), decide_false, Bool.false_eq_true, if_false]
    exact hloads _ hcheck

/-- A report without an image is a failed load. -/
theorem loadReported_none (hecc : s.eccFailed 14 = false) : loadReported s n none k c = loadFailed s n k.toNat c.toNat :=
  if_neg (ne_true_of_eq_false hecc)

/-- A report acts on an engine in LOAD, and a seal that waited for it is made. -/
theorem exec_trellisLoadReport_of_load {o : Option LoadReport} (hst : trlState s n = 1) :
    exec (.trellisLoadReport n o k c) s = .next (sealDue (loadReported s n o k c)) := if_neg (not_not.2 hst)

end

/-! ### Errors of a store (spec/10 R230) -/

section
variable {st : TrlStore} {a : BitVec 13}

/-- Row 6 of R230: outside ROM the engine goes back to LOAD. -/
theorem exec_storeError_loaded (hst : trlState s n = 3) (hregion : storeRegion st a.toNat ≠ 0) :
    let t := (s.setN (K.trlHaltCause n) 7).setN (K.trlHaltUpc n) (s.eng n).cur.upc
    let t := (t.setEng n { t.eng n with reload := true }).setN (K.trlLoadState n) 1
    exec (.storeError n st a) s =
      .next (leaveRun t n 1 (289 + 4 * n.val) [storeCode st, storeRegion st a.toNat, a.toNat]) :=
  (if_neg (not_not.2 hst)).trans (if_neg hregion)

/-- Row 5 of R230: in ROM the engine goes to FAULT and the module to Safe. -/
theorem exec_storeError_rom (hst : trlState s n = 3) (hregion : storeRegion st a.toNat = 0) :
    let e := 289 + 4 * n.val
    let t := (s.setN (K.trlHaltCause n) 7).setN (K.trlHaltUpc n) (s.eng n).cur.upc
    exec (.storeError n st a) s = .next (safeNow raise (leaveRun t n 5 e [storeCode st, 0, a.toNat]) e) :=
  (if_neg (not_not.2 hst)).trans (if_pos hregion)

end

end

/-- Settles O12 (spec/10 R227-R241): an accepted write acts by the row of R230 for the state it meets, and an answer, a report and a store
error act where something waits for them. The codes of stores and regions are deduced (log 22), and so is that a value held for the engine
comes before the answer's operand (log 23). -/
theorem trellisControlsComplete : Obligations.TrellisControlsComplete := by
  refine ⟨?answer, ?restart, ?resume, ?halt, ?softIrq, ?loaded, ?failed, ?storeLoaded, ?storeRom⟩
  case answer => exact fun _ _ _ _ _ => exec_fabricResponse_outstanding
  case restart =>
    intro m n s ha t hst
    exact (exec_runRestart_accepted ha).trans (congrArg Host.Outcome.next (if_pos hst))
  case resume =>
    intro m n c irq s ha t hsaved hst hcause
    exact (exec_runResume_accepted ha).trans (congrArg Host.Outcome.next (runResumeAct_of_saved hsaved hst hcause))
  case halt =>
    intro m n v s ha hv t hst
    exact (exec_haltReq_accepted ha hv).trans (congrArg Host.Outcome.next (if_pos hst))
  case softIrq => exact fun _ _ _ _ => exec_softIrq_accepted
  case loaded =>
    intro n r k c s hst hecc t hpatch hrom hreload hcust hfits
    rw [exec_trellisLoadReport_of_load hst, loadReported_done hecc hpatch hrom hreload hcust hfits]
  case failed =>
    intro n k c s hst hecc
    rw [exec_trellisLoadReport_of_load hst, loadReported_none hecc]
  case storeLoaded => exact fun _ _ _ _ => exec_storeError_loaded
  case storeRom => exact fun _ _ _ _ => exec_storeError_rom

end Sys2Proof.Machine

/-! PROOF. The datapath of the Trellis engines (O50). -/

namespace Sys2Proof.Machine

/-! ### Registers (spec/10 R221) -/

section
variable {e : Engine} {i j v : Nat}

theorem Engine.reg_setReg_self (hpos : 0 < i) (hlt : i < 32) : (e.setReg i v).reg i = v % 2 ^ 32 := by
  have hne := Nat.pos_iff_ne_zero.1 hpos
  rw [setReg, if_neg hne, reg, if_neg hne, at'_upd_self _ _ _ _ hlt, BitVec.toNat_ofNat]

theorem Engine.reg_setReg_ne (hij : j ≠ i) : (e.setReg i v).reg j = e.reg j := by
  by_cases hi : i = 0
  · rw [setReg, if_pos hi]
  · rw [setReg, if_neg hi, reg, reg, at'_upd_ne _ _ _ _ _ hij]

end

/-! ### Local memory (spec/10 R221) -/

/-- The little-endian bytes of a number, read back, are the number within their width. -/
theorem leNat_leBytes (n v : Nat) : leNat (leBytes n v) = v % 256 ^ n := by
  induction n generalizing v with
  | zero => simp [leBytes, leNat, Nat.mod_one]
  | succ n ih =>
    have hcons : leBytes (n + 1) v = BitVec.ofNat 8 v :: leBytes n (v / 256) := by
      simp [leBytes, List.range_succ_eq_map, Nat.pow_succ', Nat.div_div_eq_div_mul]
    rw [hcons, leNat, ih, BitVec.toNat_ofNat, Nat.pow_succ' (m := 256), Nat.mod_mul]

/-- Bytes written, read back from where they start, are those written. -/
theorem memory_readN_writeAll_self (m : List Host.Cell) (a : Nat) (l : List Byte) :
    Memory.readN (Memory.writeAll m a l) a l.length = l :=
  List.ext_getElem (by simp [Memory.readN]) fun i _ hi => by simp [Memory.readN, memory_read_writeAll_in _ _ _ _ hi]

/-- Bytes apart from those written read as before. -/
theorem memory_readN_writeAll_out (m : List Host.Cell) (a c k : Nat) (l : List Byte) (h : c + k ≤ a ∨ a + l.length ≤ c) :
    Memory.readN (Memory.writeAll m a l) c k = Memory.readN m c k :=
  List.map_congr_left fun i hi => memory_read_writeAll_out _ _ _ _ (by have := List.mem_range.1 hi; omega)

section
variable {e : Engine} {a c v : Nat}

/-- A local word is the little-endian value of its four bytes. -/
theorem Engine.localRead_eq : e.localRead a = leNat (Memory.readN e.mem (a - a % 4) 4) := rfl

theorem Engine.localRead_localWrite_self : (e.localWrite a v).localRead a = v % 2 ^ 32 := by
  rw [localRead_eq]
  exact (congrArg leNat (memory_readN_writeAll_self e.mem (a - a % 4) (leBytes 4 v))).trans (leNat_leBytes 4 v)

theorem Engine.localRead_localWrite_ne (h : c / 4 ≠ a / 4) : (e.localWrite a v).localRead c = e.localRead c := by
  have hapart : c - c % 4 + 4 ≤ a - a % 4 ∨ a - a % 4 + (leBytes 4 v).length ≤ c - c % 4 := by
    have hlen : (leBytes 4 v).length = 4 := rfl
    omega
  rw [localRead_eq, localRead_eq]
  exact congrArg leNat (memory_readN_writeAll_out e.mem _ _ 4 _ hapart)

end

/-! ### The ALU (spec/10 R227) -/

/-- Every result of the ALU is a 32-bit word. -/
theorem aluOf_result_lt (op : Nat) (a b : BitVec 32) : (aluOf op a.toNat b.toNat).1 < 2 ^ 32 := by
  unfold aluOf
  extract_lets x y
  split
  case h_11 => dsimp only; split <;> exact BitVec.isLt _
  case h_12 => dsimp only; split <;> exact BitVec.isLt _
  case h_13 => exact Nat.two_pow_pos 32
  all_goals exact BitVec.isLt _

/-- Settles O50 (spec/10 R221, R227): the ALU's results are those of the 32-bit words, register 0 keeps no write, and a local word reads as
its four bytes were written. The carry of a subtraction has no stated sense (log 23). -/
theorem datapathComputes : Obligations.DatapathComputes := by
  refine ⟨?alu, ?registers, ?memory⟩
  case alu =>
    intro a b r
    refine ⟨rfl, ?add, ?sub, ?and, ?or, ?xor, ?shl, ?shr, ?sar, ?compare, (min_def_lt _ _).symm, (max_def_lt _ _).symm, ?carry,
      fun op _ _ => aluOf_result_lt op a b⟩
    all_goals simp only [r, aluOf, BitVec.ofNat_toNat, BitVec.setWidth_eq]
  case registers => exact fun _ _ _ _ => ⟨⟨rfl, rfl⟩, Engine.reg_setReg_self, Engine.reg_setReg_ne⟩
  case memory => exact fun _ _ _ _ => ⟨Engine.localRead_localWrite_self, Engine.localRead_localWrite_ne⟩

end Sys2Proof.Machine

/-! PROOF. The commands of formats, zones and merges (O13). -/

namespace Sys2Proof.Machine

/-- A command of the host whose entry is active does its work on that entry. -/
theorem match_active {o : Option CmdEnt} {a : Host.Outcome State Fault Refusal} {f : CmdEnt → Host.Outcome State Fault Refusal}
    {e : CmdEnt} : o = some e → (match o with | none => a | some x => f x) = f e := by
  rintro rfl
  rfl

/-! ### Formats and the zone hardware (spec/11 R244, R251, R257) -/

section
variable {s : State} {m : Master} {v : Word}

theorem exec_formatCommit_accepted (ha : accepts s m K.zoneFormatCommit v = true) (hv : v ≠ 0) :
    exec (.formatCommit m v) s = .next ((wrote s m K.zoneFormatCommit v).setN K.zoneFormatState 1) :=
  congrArg Host.Outcome.next (kwrite_act s ha hv)

/-- Where no Larder bank failed its self-test, what a format check finds is what the scan of the contexts finds. -/
theorem formatCheck_scans (hlarder : larderFailed s = false) :
    (if larderFailed s then some (0, 1) else formatScan s (listedZones s) 0) = formatScan s (listedZones s) 0 :=
  if_neg (ne_true_of_eq_false hlarder)

/-- A check without a failure gives each zone its tracks and makes the format valid. -/
theorem exec_formatCheckDone_passes (hst : s.nat K.zoneFormatState = 1) (hlarder : larderFailed s = false)
    (hscan : formatScan s (listedZones s) 0 = none) :
    let t := (List.range (zoneTotal s)).foldl (fun t z =>
      match withTracks t (t.ctx z) with
      | some c => t.store (ctxAddr z) (leBytes 32 c)
      | none => t) s
    exec .formatCheckDone s = .next (t.setN K.zoneFormatState 2) := by
  intro t
  refine (if_neg (not_not.2 hst)).trans ?_
  split
  case h_1 z n hfound => cases hfound.symm.trans ((formatCheck_scans hlarder).trans hscan)
  case h_2 => rfl

/-- The first zone that fails its check is shown with its cause and reported. -/
theorem exec_formatCheckDone_fails {z n : Nat} (hst : s.nat K.zoneFormatState = 1) (hlarder : larderFailed s = false)
    (hscan : formatScan s (listedZones s) 0 = some (z, n)) :
    let t := ((s.setN K.zoneFormatState 3).setN K.zoneFormatErrorZone z).setN K.zoneFormatErrorCause n
    exec .formatCheckDone s = .next (raise t 331 [z, n] {}) := by
  intro t
  refine (if_neg (not_not.2 hst)).trans ?_
  split
  case h_1 z' n' hfound =>
    cases hfound.symm.trans ((formatCheck_scans hlarder).trans hscan)
    rfl
  case h_2 hnone => cases hnone.symm.trans ((formatCheck_scans hlarder).trans hscan)

theorem exec_zoneHwEnable_accepted (ha : accepts s m K.zoneZoneHwEnable v = true) (hv : v ≠ 0) :
    exec (.zoneHwEnable m v) s = .next (zoneHwEnableAct v s (wrote s m K.zoneZoneHwEnable v)) :=
  congrArg Host.Outcome.next (kwrite_act s ha hv)

/-- A change of the enable to 1 counts the open and active zones, once the first of a Boot has resolved every context. -/
theorem zoneHwEnableAct_of_off (t : State) (hv : v ≠ 0) (hoff : s.flag K.zoneZoneHwEnable = false) :
    let u := if t.zones.resolved then t
      else (listedZones t).foldl (fun u z => u.store (ctxAddr z) (leBytes 32 (u.ctx z).resolved)) t
    zoneHwEnableAct v s t = recountZones { u with zones := { u.zones with resolved := true } } :=
  if_neg (not_or.2 ⟨ne_true_of_eq_false hoff, hv⟩)

end

/-! ### The host's zone actions and reports (spec/11 R252, R256, R258) -/

section
variable {s : State} {c : CmdRef} {zone : ZoneNo} {e : CmdEnt}

/-- An action on zones in the namespace of which none is busy is carried out zone by zone, and then what waits for it is served. -/
theorem zoneSend_of_free {act : Nat} {place : Option Nat} (hent : sendEnt s c act = some e) :
    let l := sendZones s e act zone.toNat
    let t := s.setCmd { e with zoneOpen := l.length, zoneStatus := 0, heldZone := none }
    s.nat K.pmMode ≠ 5 → e.zoneOpen = 0 → l ≠ [] → (∀ z ∈ l, z < s.nat K.zoneZoneCount ∧ (s.ctx z).busy = 0) →
    zoneSend s c act zone place = runCommits (l.foldl (fun u z => sendOne u e act z place) t) := by
  intro l t hmode hopen hsome hfree
  have hlist : ¬l.isEmpty = true := by simpa using hsome
  have hrange : ¬(l.any fun z => decide (s.nat K.zoneZoneCount ≤ z)) = true := by simpa using fun z hz => (hfree z hz).1
  have hidle : (l.find? fun z => (s.ctx z).busy != 0) = none := by simpa using fun z hz => (hfree z hz).2
  rw [zoneSend, hent]
  refine (if_neg hmode).trans ((if_neg (not_not.2 hopen)).trans ((if_neg hlist).trans ((if_neg hrange).trans ?_)))
  rw [hidle]

theorem exec_zoneSetDescriptorExtension_active (hent : sendEnt s c 0x10 = some e) :
    exec (.zoneSetDescriptorExtension c zone) s = .next (complete raise s e.ref (stat 0 0x02) 0) := by
  have hexec : exec (.zoneSetDescriptorExtension c zone) s = execZoneSetDescriptorExtension c zone s := rfl
  rw [hexec, execZoneSetDescriptorExtension, hent]

/-- A report with a known action and reporting option is returned. -/
theorem exec_zoneManagementReceive_active (hent : activeEnt s.host.table (refOf c) false 0x7A = some e)
    (haction : bitsOf e.sqe.cdw13.toNat 0 8 ≤ 1) (hoption : bitsOf e.sqe.cdw13.toNat 8 8 ≤ 7) :
    exec (.zoneManagementReceive c) s = .next (complete raise (returnData s e.ref (zoneReport s e)) e.ref 0 0) :=
  (match_active hent).trans (if_neg (by omega))

end

/-! ### Merges (spec/11 R269) -/

section
variable {s : State} {m : Master} {v : Word} {j : MergeJob}

theorem exec_mergeStart_accepted (ha : accepts s m K.zoneMergeStart v = true) (hv : v ≠ 0) :
    exec (.mergeStart m v) s = .next (mergeStartAct (wrote s m K.zoneMergeStart v)) :=
  congrArg Host.Outcome.next (kwrite_act s ha hv)

/-- With no job running, outside the idle modes, a job that passes its check makes its zone busy and begins. -/
theorem mergeStartAct_of_checked (t : State) :
    let l := t.load (t.nat K.zoneMergeJob) 64
    let z := bitsOf (leNat (l.take 4)) 0 18
    let p := jobPlacement l
    let job : MergeJob := { zone := z, place := placementOf p, buffer := leNat ((l.drop 16).take 8), since := t.now }
    let u := (({ t with zones := { t.zones with job := some job } }.setN K.zoneMergeState 1).setN K.zoneMergeCause 0).setN
      K.zoneMergeProgress 0
    t.zones.job = none → mergeCheck u z p = true → u.nat K.pmMode ≠ 2 → u.nat K.pmMode ≠ 3 →
    mergeStartAct t = (u.putCtx z ((u.ctx z).setBusy 3)).setN K.zoneMergeConsumed (ptrAt u (headAt u z 0)) := by
  intro l z p job u hnone hcheck hidle2 hidle3
  refine (if_neg (by simp [hnone])).trans (if_pos ?_)
  have hmode : (u.nat K.pmMode == 2 || u.nat K.pmMode == 3) = false := by simp [hidle2, hidle3]
  exact congrArg₂ (fun a b => a && !b) hcheck hmode

theorem exec_mergeEnd_committed (hjob : s.zones.job = some j) :
    exec (.mergeEnd .committed) s = .next (moduleCommit (s.setN K.zoneMergeState 3) 5
      [placeAction j.zone (placementWord j.place)] .merge) := by
  have hexec : exec (.mergeEnd .committed) s = execMergeEnd .committed s := rfl
  rw [hexec, execMergeEnd, hjob]

theorem exec_mergeCancel_accepted (ha : accepts s m K.zoneMergeCancel v = true) (hv : v ≠ 0) :
    exec (.mergeCancel m v) s = .next (mergeCancelAct (wrote s m K.zoneMergeCancel v)) :=
  congrArg Host.Outcome.next (kwrite_act s ha hv)

/-- A job whose commit has not been asked for is broken off. -/
theorem mergeCancelAct_of_job {t : State} (hjob : t.zones.job = some j) (hst : t.nat K.zoneMergeState ≠ 3) :
    mergeCancelAct t =
      mergeStops (t.drawn.setN K.zoneMergeProgress (t.free.toNat % ((t.ctx j.zone).capacity + 1))) 6 0 := by
  rw [mergeCancelAct, if_neg hst, mergeBroken, hjob]

end

/-- Settles O13 (spec/11 R244, R251-R259, R269-R271): an accepted write acts by its object's rule, an active zone command acts on its zones,
and a merge goes from its job to its commit or is broken off. The progress of a cancelled merge and the address of a lost context are the
model's (log 38); the codes of the zone actions and the opcode of a report are presumed (log 20). -/
theorem zoneCommandsComplete : Obligations.ZoneCommandsComplete := by
  refine ⟨?commit, ?passes, ?fails, ?enable, ?actions, ?extension, ?report, ?start, ?ends, ?cancel, ?lost⟩
  case commit => exact fun _ _ _ => exec_formatCommit_accepted
  case passes => exact fun _ => exec_formatCheckDone_passes
  case fails => exact fun _ _ _ => exec_formatCheckDone_fails
  case enable =>
    intro m v s ha hv hoff t u
    exact (exec_zoneHwEnable_accepted ha hv).trans (congrArg Host.Outcome.next (zoneHwEnableAct_of_off t hv hoff))
  case actions =>
    intro c zone place act e s hent l hmode hopen hsome hfree t acts
    have hsend (p : Option Nat) : Host.Outcome.next (zoneSend s c act zone p) = acts p :=
      congrArg Host.Outcome.next (zoneSend_of_free hent hmode hopen hsome hfree)
    refine ⟨?_, ?_, ?_, ?_, ?_⟩
    all_goals
      rintro rfl
      exact hsend _
  case extension => exact fun _ _ _ _ => exec_zoneSetDescriptorExtension_active
  case report => exact fun _ _ _ => exec_zoneManagementReceive_active
  case start =>
    intro m v s ha hv t l z p job u hnone hcheck hidle2 hidle3
    exact (exec_mergeStart_accepted ha hv).trans
      (congrArg Host.Outcome.next (mergeStartAct_of_checked t hnone hcheck hidle2 hidle3))
  case ends => exact fun _ _ => exec_mergeEnd_committed
  case cancel =>
    intro m v j s ha hv t hjob hst
    exact (exec_mergeCancel_accepted ha hv).trans (congrArg Host.Outcome.next (mergeCancelAct_of_job hjob hst))
  case lost => exact fun _ _ => rfl

end Sys2Proof.Machine

/-! PROOF. The ports of allocation and of transactions (O14). -/

namespace Sys2Proof.Machine

/-! ### The allocation ports (spec/11 R254, R255) -/

section
variable {s u : State} {m : Master} {p : Fin 4} {v : Word}

theorem allocRequest_accepted (ha : accepts s m (K.zoneAllocRequest p) v = true) (hv : v ≠ 0) :
    allocRequest s m p v = allocRequestAct p v (wrote s m (K.zoneAllocRequest p) v) := kwrite_act s ha hv

/-- An allocation of blocks from a zone's ap, which it opens where it was Empty or Closed; the zone is then the one used last. -/
def allocated (u : State) (z count : Nat) : State :=
  let c := u.ctx z
  let c' := if c.st = 1 ∨ c.st = 4 then c.setSt 2 else c
  let u' := u.putCtx z (c'.setAp (c.ap + count))
  let n := u'.zones.useSeq + 1
  { u' with zones := { u'.zones with useSeq := n, lastUse := Sp.put u'.zones.lastUse z n } }

/-- A request that passes the checks and the limits is allocated at ap. -/
theorem allocate_granted {z count : Nat} {offset : Option Nat} (hcheck : allocCheck s z count offset = 0)
    (hlimits : openLimits s z = (0, u)) : allocate s z count offset = (0, (u.ctx z).ap, allocated u z count) := by
  rw [allocate, hcheck, hlimits]
  rfl

/-- A request without rewind that is granted shows the offset it was given. -/
theorem allocRequestAct_granted {t : State} {port : Nat} :
    let z := bitsOf v.toNat 0 18
    let off := if bitAt v.toNat 52 then none else some (bitsOf v.toNat 35 17)
    bitAt v.toNat 53 = false → allocCheck t z (bitsOf v.toNat 18 17) off = 0 → openLimits t z = (0, u) →
    allocRequestAct port v t =
      (allocated u z (bitsOf v.toNat 18 17)).setN (K.zoneAllocResult port) ((u.ctx z).ap % 2 ^ 17 + 0 % 16 * 2 ^ 17 + 2 ^ 31) := by
  intro z off hkeep hcheck hlimits
  unfold allocRequestAct
  extract_lets
  rw [if_neg (ne_true_of_eq_false hkeep), allocate_granted hcheck hlimits]
  rfl

/-- A rewind of a zone of the format takes ap back to wp and fails what was accepted above it; the new ap is its result (log 17). -/
theorem allocRequestAct_rewound {t : State} {port : Nat} :
    let z := bitsOf v.toNat 0 18
    bitAt v.toNat 53 = true → z < zoneTotal t → t.flag K.zoneZoneHwEnable = true →
    let u := t.putCtx z ((t.ctx z).setAp (t.ctx z).wp)
    let r := u.setN (K.zoneAllocResult port) ((u.ctx z).ap % 2 ^ 17 + 0 % 16 * 2 ^ 17 + 2 ^ 31)
    allocRequestAct port v t = runCommits (cascade r z) := by
  intro z hrewind hzone hon u r
  have hrewound : rewindZone t z = (0, u) := if_neg (by simp [hon, hzone])
  unfold allocRequestAct
  extract_lets
  rw [if_pos hrewind, hrewound]
  rfl

end

/-! ### The ports of transactions (spec/13 R300-R302) -/

section
variable {s t : State} {m : Master} {p : Fin 6} {n : Nat}

/-- An operation at a port acts on the state in which its op object, where the port has one, has been written. -/
theorem portWrite_accepted {op : Nat} {f : State → State} (hop : BitVec.ofNat 64 op ≠ 0)
    (ha : p.val < 4 → accepts s m (K.shfOp p) (BitVec.ofNat 64 op) = true) :
    portWrite s m p op f = f (if p.val < 4 then wrote s m (K.shfOp p) (BitVec.ofNat 64 op) else s) := by
  by_cases hfw : p.val < 4
  · rw [if_pos hfw]
    exact (if_pos (decide_eq_true hfw)).trans (kwrite_act s (ha hfw) hop)
  · rw [if_neg hfw]
    exact if_neg (by simpa [fwPort] using hfw)

/-- A free slot is allocated at once. -/
theorem sheafOpenAct_of_free {port : Nat} (hst : t.nat K.sheafSheafState ≠ 1) (hfree : freeSlot t = some n) :
    sheafOpenAct port t = openTxn t port n := by
  rw [sheafOpenAct, if_neg hst, hfree]

/-- The oldest open that waits is served by a freed slot. -/
theorem exec_sheafSlotFreed_of_open {port : Nat} {rest : List Nat} (hopens : s.sheaf.opens = port :: rest) (hfree : freeSlot s = some n)
    (hown : (s.sheaf.commits.find? fun c => c.port == port && c.wait == 4) = none) :
    exec .sheafSlotFreed s = .next (openTxn { s with sheaf := { s.sheaf with opens := rest } } port n) := by
  have hexec : exec .sheafSlotFreed s = execSheafSlotFreed s := rfl
  simp only [hexec, execSheafSlotFreed, hopens, hfree, hown]

section
variable {port : Nat} {k : Byte} {x : Txn}

/-- A well-formed action joins its transaction while that has room. -/
theorem sheafAppendAct_of_room {act : BitVec 256} :
    let n := txnOf t port k
    let a := actionOf t port act
    ownTxn t port n = some x → x.actions.length < 64 → formOk t port a.toNat = true →
    sheafAppendAct port k act t =
      portResult (setTxns t (Sp.put t.sheaf.txns n { x with actions := x.actions ++ [a] })) port 0 n (x.actions.length + 1) := by
  intro n a hown hroom hform
  rw [sheafAppendAct, hown]
  exact (if_neg (Nat.not_le.2 hroom)).trans (if_pos hform)

/-- A commit of an open transaction joins the commits that wait. The result shows it with its count, and done is 0 until it is served
(log 45). -/
theorem sheafCommitAct_of_open :
    let n := txnOf t port k
    ownTxn t port n = some x → t.nat K.sheafSheafState ≠ 1 →
    let u := setTxns t (Sp.del t.sheaf.txns n)
    let u := if fwPort port then u.setN (K.shfResult port) (n * 2 ^ 8 + x.actions.length * 2 ^ 16) else u
    sheafCommitAct port k t = runCommits { u with sheaf := { u.sheaf with
      commits := u.sheaf.commits ++ [{ port := port, slot := some n, actions := x.actions }] } } := by
  intro n hown hst u u'
  rw [sheafCommitAct, hown]
  exact if_neg hst

theorem sheafAbortAct_of_open (hown : ownTxn t port (txnOf t port k) = some x) :
    sheafAbortAct port k t =
      portResult ((setTxns t (Sp.del t.sheaf.txns (txnOf t port k))).inc K.sheafAbortCount) port 0 (txnOf t port k) 0 := by
  rw [sheafAbortAct, hown]

end

end

/-! ### The journal's release (spec/13 R305) -/

/-- The row of release_seq is found in every state, for its index lies below those of the factory test mode (R380). -/
theorem objNow_sheafReleaseSeq (s : State) :
    objNow s (aliasIndex 0x6100) 5 = some ⟨0x6100, 0x6100, 5, 5, .u64, .rw, .live, 0x7FFD, 0, .any⟩ :=
  (if_neg fun h => absurd h.1 (by decide)).trans (by decide)

theorem exec_releaseSeqWrite_accepted {s : State} {m : Master} {v : Word} (ha : accepts s m K.sheafReleaseSeq v = true) :
    exec (.releaseSeqWrite m v) s = .next (releaseRecs (wrote s m K.sheafReleaseSeq v) v.toNat) :=
  congrArg Host.Outcome.next (kwrite_act_rw s ha (objNow_sheafReleaseSeq s) rfl)

/-- Settles O14 (spec/11 R254, R255; spec/13 R300-R305): an accepted request of an allocation port is granted at ap or rewinds it, and an
operation at a transaction port acts on its slot. The result offset of a rewind is deduced (log 17), and so is the result that a commit
shows while it waits (log 45). -/
theorem portCommandsComplete : Obligations.PortCommandsComplete := by
  refine ⟨?alloc, ?rewind, ?opens, ?freed, ?append, ?commit, ?proceed, ?abort, ?release⟩
  case alloc =>
    intro m p v s u ha hv t z off hkeep hcheck hlimits c c' u' n w r
    have hgranted : allocRequest s m p v = r := (allocRequest_accepted ha hv).trans (allocRequestAct_granted hkeep hcheck hlimits)
    exact ⟨congrArg Host.Outcome.next hgranted, congrArg Host.Outcome.next hgranted⟩
  case rewind =>
    intro m p v s ha hv t z hrewind hzone hon u r
    exact congrArg Host.Outcome.next ((allocRequest_accepted ha hv).trans (allocRequestAct_rewound hrewind hzone hon))
  case opens =>
    intro m p n s ha t hst hfree u
    exact congrArg Host.Outcome.next ((portWrite_accepted (by decide) ha).trans (sheafOpenAct_of_free hst hfree))
  case freed => exact fun _ _ _ _ => exec_sheafSlotFreed_of_open
  case append =>
    intro m p k act x s ha t n a hown hroom hform u
    exact congrArg Host.Outcome.next ((portWrite_accepted (by decide) ha).trans (sheafAppendAct_of_room hown hroom hform))
  case commit =>
    intro m p k x s ha t n hown hst u u'
    exact congrArg Host.Outcome.next ((portWrite_accepted (by decide) ha).trans (sheafCommitAct_of_open hown hst))
  case proceed => exact fun _ => rfl
  case abort =>
    intro m p k x s ha t n hown u
    exact congrArg Host.Outcome.next ((portWrite_accepted (by decide) ha).trans (sheafAbortAct_of_open hown))
  case release => exact fun _ _ _ => exec_releaseSeqWrite_accepted

end Sys2Proof.Machine

/-! PROOF. The host's I/O commands (O18). -/

namespace Sys2Proof.Machine

section
variable {s : State} {c : CmdRef} {e : CmdEnt}

/-- Out of Safe the work of an active I/O command is carried out (spec/20 R456). -/
theorem ioWork_active {op : Nat} {f : CmdEnt → State} (hent : activeEnt s.host.table (refOf c) false op = some e)
    (hmode : s.nat K.pmMode ≠ 5) : ioWork s c op f = f e := by
  rw [ioWork, hent]
  exact if_neg hmode

/-! ### Reads (spec/11 R256, R261, R262, R268) -/

/-- A read is held by a zone that a Reset or Finish before it changes, refused at an Offline zone, and else answered block by block. -/
theorem exec_read_active (hent : activeEnt s.host.table (refOf c) false 0x02 = some e) (hmode : s.nat K.pmMode ≠ 5) :
    let ns := e.sqe.nsid.toNat
    let seq := ns == 1 && s.nat K.zoneZoneMode == 1
    let zs := if seq then zonesOf e else []
    let bs := (List.range (e.sqe.nlb.toNat + 1)).map fun i => resolveBlock s ns (e.sqe.slba.toNat + i)
    let fast := seq && fastRead s e
    let t := s.setCmd { e with heldZone := none, fast := fast }
    let t := t.on (fast && !e.fast) fun u => u.inc K.zoneFastPathCount
    exec (.read c) s = .next (match zs.find? fun z => zoneHolds s e z with
      | some z => s.setCmd { e with st := .held, heldZone := some z }
      | none => if zs.any fun z => (s.ctx z).st == 0xF then complete raise s e.ref (stat 1 0xBB) 0
        else readBlocks t e (fast && !e.fast) bs) :=
  congrArg Host.Outcome.next (ioWork_active hent hmode)

/-- Blocks that need no media are answered with their data; a read of zeros alone is counted (the count's rule is deduced, log 35). -/
theorem readBlocks_answered {post : Bool} {bs : List BlockSrc} (hdulbe : s.flag K.zoneDulbe = false)
    (hmedia : bs.contains .media = false) :
    let t := s.on (bs.all fun b => b == .zeros || b == .unwritten) fun u => u.inc K.zoneZeroReadCount
    readBlocks s e post bs = complete raise (returnData t e.ref (bs.flatMap (blockData s))) e.ref 0 0 :=
  (if_neg (by simp [hdulbe])).trans (if_neg (ne_true_of_eq_false hmedia))

/-! ### Writes (spec/11 R254) -/

/-- A write of the sequential namespace that has no blocks yet asks for them; an append is for the start of its zone. -/
theorem writeWork_allocates {append : Bool} (hns : e.sqe.nsid = 1) (hseq : s.nat K.zoneZoneMode = 1) (hnew : e.alloc = none)
    (hstart : append = true → e.sqe.slba.toNat % 65536 = 0) :
    writeWork s e append = allocFor s e (e.sqe.slba.toNat / 65536) (e.sqe.nlb.toNat + 1)
      (if append then none else some (e.sqe.slba.toNat % 65536)) :=
  (if_neg (by simp [hns, hseq, hnew])).trans (if_neg fun h => h.2 (hstart h.1))

/-- An append that is not for the start of a zone is an invalid field. -/
theorem writeWork_append_refused (hns : e.sqe.nsid = 1) (hseq : s.nat K.zoneZoneMode = 1) (hnew : e.alloc = none)
    (hinside : e.sqe.slba.toNat % 65536 ≠ 0) : writeWork s e true = complete raise s e.ref (stat 0 0x02) 0 :=
  (if_neg (by simp [hns, hseq, hnew])).trans (if_pos ⟨rfl, hinside⟩)

/-! ### Flushes (spec/12 R278) -/

/-- A flush completes at once where nothing is cached, and else waits for what is. -/
theorem exec_flush_active (hent : activeEnt s.host.table (refOf c) false 0x00 = some e) (hmode : s.nat K.pmMode ≠ 5)
    (hnew : e.flushSlots = []) :
    exec (.flush c) s = .next (if (validSlots s).isEmpty then complete raise s e.ref 0 0
      else s.setCmd { e with flushSlots := validSlots s }) :=
  congrArg Host.Outcome.next ((ioWork_active hent hmode).trans (if_neg (by simp [hnew])))

/-! ### Deallocation (spec/11 R267, R268) -/

section
variable {l : List (BitVec 64 × BitVec 32)}

/-- Without Deallocate the command completes without effect (log 35). -/
theorem exec_datasetManagement_plain (hent : activeEnt s.host.table (refOf c) false 0x09 = some e) (hmode : s.nat K.pmMode ≠ 5)
    (hnew : (s.sheaf.commits.any fun q => q.cont == .completes e.ref) = false) (hattr : bitAt e.sqe.cdw11.toNat 2 = false) :
    exec (.datasetManagement c l) s = .next (complete raise s e.ref 0 0) :=
  congrArg Host.Outcome.next ((ioWork_active hent hmode).trans
    ((if_neg (ne_true_of_eq_false hnew)).trans (if_pos (by rw [hattr]; rfl))))

/-- Ranges within the namespace that no lock covers are deallocated by a commit, where they hold a granule. -/
theorem exec_datasetManagement_deallocates (hent : activeEnt s.host.table (refOf c) false 0x09 = some e) (hmode : s.nat K.pmMode ≠ 5)
    (hnew : (s.sheaf.commits.any fun q => q.cont == .completes e.ref) = false) :
    let rs := l.map fun r => (r.1.toNat, r.2.toNat)
    let size := (nsBlocks s 1).getD 0
    bitAt e.sqe.cdw11.toNat 2 = true → (rs.any fun r => decide (size < r.1 + r.2)) = false →
    (rs.findSome? fun r => lockedRange s true 1 r.1 r.2) = none →
    let x := rs.foldl (fun (acc : State × List Action × Nat) r =>
      let (u, l, n) := deallocActions acc.1 r.1 r.2 acc.2.2
      (u, acc.2.1 ++ l, n)) (s, ([] : List Action), 0)
    exec (.datasetManagement c l) s = .next (if x.2.1.isEmpty then complete raise x.1 e.ref 0 0
      else runCommits (askAll x.1 e (x.2.1.length + 1) x.2.1)) := by
  intro rs size hattr hinside hunlocked x
  refine congrArg Host.Outcome.next ((ioWork_active hent hmode).trans
    ((if_neg (ne_true_of_eq_false hnew)).trans ((if_neg (by simp [hattr])).trans ((if_neg (ne_true_of_eq_false hinside)).trans ?_))))
  split
  case h_1 g hlocked => cases hlocked.symm.trans hunlocked
  case h_2 => rfl

end

end

/-- Settles O18 (spec/11 R254, R261, R262, R267, R268; spec/12 R278): out of Safe an active command of the host has its work done. When a
read of zeros counts and that Dataset Management without Deallocate has no effect are the model's (log 35); the opcodes are presumed
(log 20). -/
theorem hostIoCommandsComplete : Obligations.HostIoCommandsComplete := by
  refine ⟨?read, ?blocks, ?writes, ?flush, ?deallocate⟩
  case read =>
    intro c e s hent hmode ns seq zs bs fast t t'
    refine ⟨?held, ?answered⟩
    case held =>
      intro z hz
      rw [exec_read_active hent hmode, hz]
    case answered =>
      intro hfree
      have hnone : (zs.find? fun z => zoneHolds s e z) = none := by simpa using fun z hz => (hfree z hz).1
      have honline : ¬(zs.any fun z => (s.ctx z).st == 0xF) = true := by simpa using fun z hz => (hfree z hz).2
      rw [exec_read_active hent hmode, hnone]
      exact congrArg Host.Outcome.next (if_neg honline)
  case blocks => exact fun _ _ _ _ => readBlocks_answered
  case writes =>
    intro c e s hmode hns hseq hnew z o n
    refine ⟨fun hent => ?_, fun hent => ?_, fun hent hstart => ?_, fun hent hinside => ?_⟩
    case refine_1 | refine_2 =>
      exact congrArg Host.Outcome.next ((ioWork_active hent hmode).trans (writeWork_allocates hns hseq hnew nofun))
    case refine_3 =>
      exact congrArg Host.Outcome.next ((ioWork_active hent hmode).trans (writeWork_allocates hns hseq hnew fun _ => hstart))
    case refine_4 =>
      exact congrArg Host.Outcome.next ((ioWork_active hent hmode).trans (writeWork_append_refused hns hseq hnew hinside))
  case flush =>
    intro c e s hent hmode hnew
    exact ⟨fun hnone => (exec_flush_active hent hmode hnew).trans (congrArg Host.Outcome.next (if_pos (by simp [hnone]))),
      fun hsome => (exec_flush_active hent hmode hnew).trans (congrArg Host.Outcome.next (if_neg (by simp [hsome])))⟩
  case deallocate =>
    exact fun _ _ _ _ hent hmode hnew =>
      ⟨exec_datasetManagement_plain hent hmode hnew, exec_datasetManagement_deallocates hent hmode hnew⟩

end Sys2Proof.Machine

/-! PROOF. The Admin commands (O19). -/

namespace Sys2Proof.Machine

section
variable {s : State} {c : CmdRef} {e : CmdEnt}

/-! ### Abort (spec/12 R289) -/

/-- The entries that an Abort names. -/
def namedEnts (s : State) (e : CmdEnt) : List CmdEnt :=
  s.host.table.filter fun g => g.ref == namedRef e && g.order != e.order

/-- An Abort that is not waiting for its command reaches the first entry it names that has not committed. -/
theorem exec_abort_active (hent : activeEnt s.host.table (refOf c) true 0x08 = some e)
    (hnew : (s.host.table.any fun g => g.aborter == some e.ref && g.st != .committed) = false) :
    exec (.abort c) s = .next (match (namedEnts s e).find? fun g => g.st != .committed with
      | some f => if f.st = .aborting then notAborted s e else abortEnt s e f
      | none =>
        let t := s.inc K.hostAbortMissedCount
        let t := if (namedEnts s e).isEmpty then t else raise t 359 [(namedRef e).1, (namedRef e).2] {}
        notAborted t e) :=
  (match_active hent).trans (if_neg (ne_true_of_eq_false hnew))

/-! ### Queues (spec/12 R285, R286, R291) -/

/-- A submission queue of a free number, with a size in its limits and its own completion queue, is created. -/
theorem exec_createIoSq_valid (hent : activeEnt s.host.table (refOf c) true 0x01 = some e) :
    let q := bitsOf e.sqe.cdw10.toNat 0 16
    let size := bitsOf e.sqe.cdw10.toNat 16 16 + 1
    1 ≤ q → q ≤ 32 → (s.subQ q).isSome = false → 2 ≤ size → size ≤ 4096 → bitsOf e.sqe.cdw11.toNat 16 16 = q →
    (Sp.get s.host.cqs q).isNone = false →
    let t := boundary s .queueCreation
    exec (.createIoSq c) s = .next (complete raise (showOq (t.setSubQ q (newSubQ t q size)) q) e.ref 0 0) := by
  intro q size hq hq32 hfree hsize hsize4096 hcq hhas t
  have hnumber : ¬(q = 0 ∨ 32 < q ∨ (s.subQ q).isSome = true) :=
    not_or.2 ⟨Nat.ne_of_gt hq, not_or.2 ⟨Nat.not_lt.2 hq32, ne_true_of_eq_false hfree⟩⟩
  have hlimits : ¬(size < 2 ∨ 4096 < size) := by omega
  have hqueue : ¬(bitsOf e.sqe.cdw11.toNat 16 16 ≠ q ∨ (Sp.get s.host.cqs q).isNone = true) :=
    not_or.2 ⟨not_not.2 hcq, ne_true_of_eq_false hhas⟩
  exact (match_active hent).trans (congrArg Host.Outcome.next ((if_neg hnumber).trans ((if_neg hlimits).trans (if_neg hqueue))))

/-- A completion queue of a free number, with a size and a vector in their limits, is created. -/
theorem exec_createIoCq_valid (hent : activeEnt s.host.table (refOf c) true 0x05 = some e) :
    let q := bitsOf e.sqe.cdw10.toNat 0 16
    let size := bitsOf e.sqe.cdw10.toNat 16 16 + 1
    let iv := bitsOf e.sqe.cdw11.toNat 16 16
    1 ≤ q → q ≤ 32 → (Sp.get s.host.cqs q).isSome = false → 2 ≤ size → size ≤ 4096 → iv ≤ 32 →
    exec (.createIoCq c) s =
      .next (complete raise (s.setHost { s.host with cqs := Sp.put s.host.cqs q { size := size, vector := iv } }) e.ref 0 0) := by
  intro q size iv hq hq32 hfree hsize hsize4096 hiv
  have hnumber : ¬(q = 0 ∨ 32 < q ∨ (Sp.get s.host.cqs q).isSome = true) :=
    not_or.2 ⟨Nat.ne_of_gt hq, not_or.2 ⟨Nat.not_lt.2 hq32, ne_true_of_eq_false hfree⟩⟩
  have hlimits : ¬(size < 2 ∨ 4096 < size) := by omega
  exact (match_active hent).trans
    (congrArg Host.Outcome.next ((if_neg hnumber).trans ((if_neg hlimits).trans (if_neg (Nat.not_lt.2 hiv)))))

/-- An existing I/O submission queue is deleted once its commands are ended. -/
theorem exec_deleteIoSq_existing (hent : activeEnt s.host.table (refOf c) true 0x00 = some e) :
    let q := bitsOf e.sqe.cdw10.toNat 0 16
    q ≠ 0 → (s.subQ q).isNone = false →
    let t := endQueue s q
    let t := showOq (t.setHost { t.host with sqs := Sp.del t.host.sqs q }) q
    exec (.deleteIoSq c) s = .next (runCommits (complete raise t e.ref 0 0)) := by
  intro q hq hhas t t'
  exact (match_active hent).trans (congrArg Host.Outcome.next (if_neg (not_or.2 ⟨hq, ne_true_of_eq_false hhas⟩)))

/-- An existing I/O completion queue that no submission queue uses is deleted. -/
theorem exec_deleteIoCq_unused (hent : activeEnt s.host.table (refOf c) true 0x04 = some e) :
    let q := bitsOf e.sqe.cdw10.toNat 0 16
    q ≠ 0 → (Sp.get s.host.cqs q).isNone = false → (s.subQ q).isSome = false →
    let h := { s.host with cqs := Sp.del s.host.cqs q, table := s.host.table.filter fun f => f.sqid != q }
    exec (.deleteIoCq c) s = .next (complete raise (s.setHost h) e.ref 0 0) := by
  intro q hq hhas hunused h
  have hexists : ¬(q = 0 ∨ (Sp.get s.host.cqs q).isNone = true) := not_or.2 ⟨hq, ne_true_of_eq_false hhas⟩
  exact (match_active hent).trans (congrArg Host.Outcome.next ((if_neg hexists).trans (if_neg (ne_true_of_eq_false hunused))))

/-! ### Log pages, features and events (spec/12 R283, R288, R292) -/

/-- A page that the part has is returned; a whole read of 0xC3 that does not retain it clears its counts. -/
theorem exec_getLogPage_found {l : List Byte} (hent : activeEnt s.host.table (refOf c) true 0x02 = some e) :
    let w := e.sqe.cdw10.toNat
    let n := 4 * (bitsOf w 16 16 + bitsOf e.sqe.cdw11.toNat 0 16 * 2 ^ 16 + 1)
    let off := e.sqe.cdw12.toNat + e.sqe.cdw13.toNat * 2 ^ 32
    logPage s (bitsOf w 0 8) (bitsOf w 8 7) (bitsOf e.sqe.cdw11.toNat 16 16) off n = some l →
    let t := returnData { s with freeCtr := s.freeCtr + off + n } e.ref l
    let t := t.on (decide (bitsOf w 0 8 = 0xC3) && !bitAt w 15 && off == 0 && decide (1088 ≤ n)) fun u =>
      u.setHost { u.host with viols := [] }
    exec (.getLogPage c) s = .next (complete raise t e.ref 0 0) := by
  intro w n off hpage t t'
  refine (match_active hent).trans (congrArg Host.Outcome.next ?_)
  split
  case h_1 hnone => cases hnone.symm.trans hpage
  case h_2 l' hsome =>
    cases hsome.symm.trans hpage
    rfl

/-- A feature is set, but for a power state above 4. -/
theorem exec_setFeatures_valid (hent : activeEnt s.host.table (refOf c) true 0x09 = some e) :
    let fid := bitsOf e.sqe.cdw10.toNat 0 8
    let v := e.sqe.cdw11.toNat
    (fid = 0x02 → bitsOf v 0 5 ≤ 4) →
    exec (.setFeatures c) s =
      .next (complete raise (setFeature s fid v) e.ref 0 (if fid = 0x07 then 31 + 31 * 2 ^ 16 else 0)) := by
  intro fid v hpower
  exact (match_active hent).trans (congrArg Host.Outcome.next (if_neg fun h => Nat.not_lt.2 (hpower h.1) h.2))

/-- The oldest event that waits is carried to the host. -/
theorem exec_asynchronousEventRequest_waiting {ty info log : Nat} {r : List (Nat × Nat × Nat)}
    (hent : activeEnt s.host.table (refOf c) true 0x0C = some e) (hwaits : s.host.asyncs = (ty, info, log) :: r) :
    exec (.asynchronousEventRequest c) s =
      .next (complete raise (s.setHost { s.host with asyncs := r }) e.ref 0 (ty + info * 2 ^ 8 + log * 2 ^ 16)) := by
  refine (match_active hent).trans ?_
  rw [hwaits]

/-! ### Images (spec/18 R407) -/

/-- An image that passes its checks is stored in a slot that is not running and made the trial image as the action asks. -/
theorem exec_firmwareCommit_passes {chk : ImageCheck} (hent : activeEnt s.host.table (refOf c) true 0x10 = some e) :
    let slot := bitsOf e.sqe.cdw10.toNat 0 3
    let act := bitsOf e.sqe.cdw10.toNat 3 3
    let v := chk.version.toNat
    act ≤ 2 → 1 ≤ slot → slot ≤ 2 → slot ≠ s.strong.running → commitImageFault s slot chk = none →
    let u := storeImage s slot
    let t := { u with strong := { u.strong with staged := Sp.put u.strong.staged slot (v, chk.hash) } }
    let t := measureRuntime (t.setN (imageKey slot) v) (imageEntry 4 v chk.hash)
    exec (.firmwareCommit c chk) s = .next (complete raise
      (if act = 2 then setTrial s slot else if act = 1 then setTrial t slot else t) e.ref 0 0) := by
  intro slot act v hact hslot hslot2 hidle hpasses u t t'
  have hplace : ¬(slot = 0 ∨ 2 < slot ∨ slot = s.strong.running) := by omega
  refine (match_active hent).trans (congrArg Host.Outcome.next ((if_neg (Nat.not_lt.2 hact)).trans ((if_neg hplace).trans ?_)))
  split
  case h_1 st f hfault => cases hfault.symm.trans hpasses
  case h_2 => exact (apply_ite (fun x => complete raise x e.ref 0 0) _ _ _).symm

end

/-- Settles O19 (spec/12 R278-R292; spec/18 R407, R420; spec/19 R447): an active Admin command has its work done where its operands pass
their checks. The opcodes, the identifiers of features and pages, the number of queues answered and the value of a feature that was never
set are presumed (log 20). -/
theorem adminCommandsComplete : Obligations.AdminCommandsComplete := by
  refine ⟨?abort, ?createSq, ?createCq, ?deleteSq, ?deleteCq, ?logPage, ?identify, ?setFeatures, ?getFeatures, ?event, ?download, ?commit,
    ?accepted⟩
  case abort =>
    intro c e f s hent hnew
    refine ⟨fun hfound => ?_, fun hnone => ?_⟩
    · rw [exec_abort_active hent hnew, namedEnts, hfound]
    · rw [exec_abort_active hent hnew, namedEnts, hnone]
      rfl
  case createSq => exact fun _ _ _ => exec_createIoSq_valid
  case createCq => exact fun _ _ _ => exec_createIoCq_valid
  case deleteSq => exact fun _ _ _ => exec_deleteIoSq_existing
  case deleteCq => exact fun _ _ _ => exec_deleteIoCq_unused
  case logPage => exact fun _ _ _ _ => exec_getLogPage_found
  case identify => exact fun _ _ _ hent => match_active hent
  case setFeatures => exact fun _ _ _ => exec_setFeatures_valid
  case getFeatures => exact fun _ _ _ hent => match_active hent
  case event => exact fun _ _ _ _ _ _ _ => exec_asynchronousEventRequest_waiting
  case download => exact fun _ _ _ _ hent => match_active hent
  case commit => exact fun _ _ _ _ => exec_firmwareCommit_passes
  case accepted => exact fun _ _ _ => ⟨match_active, match_active⟩

end Sys2Proof.Machine

/-! PROOF. The step, the next state that every command answers, and the soundness that every step keeps (O28, O31, O33). -/

namespace Sys2Proof.Machine

section
variable {s t : State}

theorem step_of_pending {c : Instr} {rest : List Instr} (h : s.pending = c :: rest) : step s = exec c { s with pending := rest } := by
  rw [step, h]

/-- An outcome in canonical form is a next state. -/
theorem Ends.exists_next {v : Variant} {q : List Instr} {o : Host.Outcome State Fault Refusal} (h : Ends v q o) :
    ∃ t, o = .next t ∧ Canon v q t := by
  cases o with
  | next t => exact ⟨t, rfl, h⟩
  | fault r => exact h.elim
  | refused r => exact h.elim

/-- A step from a sound state has a next state, and that is sound: an idle tick keeps the canonical form, and so does the command in
front, carried out with the rest of the queue waiting. -/
theorem step_sound (hs : s.Sound) : ∃ t, step s = .next t ∧ t.Sound := by
  obtain ⟨hmem, hdict, hedge⟩ := hs
  cases hp : s.pending with
  | nil => exact ⟨_, step_of_no_pending hp, (idleTick_canon ⟨rfl, rfl, hmem, hdict, hedge⟩).sound⟩
  | cons c rest =>
    obtain ⟨t, hexec, ht⟩ := (exec_canon c (s := { s with pending := rest }) ⟨rfl, rfl, hmem, hdict, hedge⟩).exists_next
    exact ⟨t, (step_of_pending hp).trans hexec, ht.sound⟩

theorem safeRun_of_sound (n : Nat) : ∀ s : State, s.Sound → SafeRun n s := by
  induction n with
  | zero => exact fun s hs => hs
  | succ n ih =>
    intro s hs
    obtain ⟨t, hstep, ht⟩ := step_sound hs
    exact ⟨hs, t, hstep, ih t ht⟩

end

/-- Settles O33 (spec/17 R390, R394; spec/01 R20): each step keeps the canonical form of the listed data, so a run of any length does, by
induction on its length. -/
theorem stepsKeepSoundness : Obligations.StepsKeepSoundness := by
  refine ⟨?step, safeRun_of_sound⟩
  case step =>
    intro s t hs hstep
    obtain ⟨u, hu, hsound⟩ := step_sound hs
    cases hu.symm.trans hstep
    exact hsound

/-- Settles O28 (spec/00, spec/01): a step is what its front command does. That the commands wait in a queue of which a step takes the
front one is the model's choice (log 1). -/
theorem stepRunsTheFrontCommand : Obligations.StepRunsTheFrontCommand := fun _ _ _ => step_of_pending

end Sys2Proof.Machine

/-! PROOF. The next state that every command answers (O31). -/

namespace Sys2Proof.Machine

/-- An outcome is a next state. -/
def Answers (o : Host.Outcome State Fault Refusal) : Prop := ∃ t, o = .next t

theorem answers_next (t : State) : Answers (.next t) := ⟨t, rfl⟩

/-- A command with a guard answers where both of its branches do. -/
theorem answers_ite {p : Prop} {_ : Decidable p} {a b : Host.Outcome State Fault Refusal} (ha : Answers a) (hb : Answers b) :
    Answers (if p then a else b) := by
  split <;> assumption

/-- A command of the host answers where it does with and without its entry. -/
theorem answers_entry {o : Option CmdEnt} {a : Host.Outcome State Fault Refusal} {f : CmdEnt → Host.Outcome State Fault Refusal}
    (ha : Answers a) (hf : ∀ e, Answers (f e)) : Answers (match o with | none => a | some e => f e) := by
  cases o with
  | none => exact ha
  | some e => exact hf e

/-- Each command's meaning branches on the state and its operands, and each branch is a next state: no arm faults or refuses. -/
theorem exec_answers (c : Instr) (s : State) : Answers (exec c s) := by
  cases c
  -- one guard, two and three
  case fractionWrap | syncPulseTimeout | speedLoopTick | ipdComplete | brakeTimeout | powerLossSequenceComplete | servoSample |
    seekTimeout | settleMiss | loadMsExpiry | loadSearchTimeout | unloadComplete | unloadTimeout | retractExpiry | bemfOverspeed |
    assistArm | preampFaultLine | defectClear | defectHoldoffExpiry | defectLong | loopRail | sectorStage | trellisLoadReport |
    descriptorPick | keepAliveTimeout | tcpPduError | pcieLinkDown | powerLossSignal | holdUpLost | recoveryLoaded | cellarFillDone
    | llcCleanDone | zeroLine | hoePassEnd | sweepDone | bootEntry | compensationUpdate | ccEnSet | pcieLinkTrained =>
    exact answers_ite (answers_next _) (answers_next _)
  case angleAlarmFire | outputLatch | defectDetect | redetectPass | outerCodeSolve | storeError | ethLinkChange | persistEnd =>
    exact answers_ite (answers_next _) (answers_ite (answers_next _) (answers_next _))
  case measureEnd | liveDecode | powerMeasurement =>
    exact answers_ite (answers_next _) (answers_ite (answers_next _) (answers_ite (answers_next _) (answers_next _)))
  -- the entry of a command of the host
  case dataTransferError | completionWrite | createIoSq | createIoCq | deleteIoSq | deleteIoCq | getLogPage | identify | setFeatures
    | getFeatures | firmwareImageDownload | firmwareCommit | deviceSelfTest | sanitize | securitySend | securityReceive |
    nvmeMiReceive | keepAlive =>
    exact answers_entry (answers_next _) fun _ => answers_next _
  case zoneManagementReceive | abort | formatNvm | dictionaryRead =>
    exact answers_entry (answers_next _) fun _ => answers_ite (answers_next _) (answers_next _)
  -- a lookup
  case mapCaptureDone | linkResponseTimeout | readGateClose | fabricResponse | zoneSetDescriptorExtension | flushDone | flushFail |
    ecallExit | execTimeout | blankingEnd | almanacRecordWrite | reservationRequest =>
    dsimp only [exec, execMapCaptureDone, execLinkResponseTimeout, execReadGateClose, execFabricResponse,
      execZoneSetDescriptorExtension, execFlushDone, execFlushFail, execEcallExit, execExecTimeout, execBlankingEnd,
      execAlmanacRecordWrite, execReservationRequest]
    split <;> exact answers_next _
  -- a lookup and its guards
  case sqFetchError | lineFill | programStart | dictStoreError =>
    dsimp only [exec, execSqFetchError, execLineFill, execProgramStart, execDictStoreError]
    split
    · exact answers_next _
    · exact answers_ite (answers_next _) (answers_next _)
  case cqePost | abortBudgetExpiry =>
    dsimp only [exec, execCqePost, execAbortBudgetExpiry]
    split
    · exact answers_ite (answers_next _) (answers_next _)
    · exact answers_next _
  case linkResponse | markTrial | writeGateClose | ecallPop | ecallPush =>
    dsimp only [exec, execLinkResponse, execMarkTrial, execWriteGateClose, execEcallPop, execEcallPush]
    split
    · exact answers_next _
    · exact answers_ite (answers_next _) (answers_ite (answers_next _) (answers_next _))
  -- guards before a lookup, and several lookups
  case syncInPulse | formatCheckDone =>
    dsimp only [exec, execSyncInPulse, execFormatCheckDone]
    refine answers_ite (answers_next _) ?_
    split <;> exact answers_next _
  case asynchronousEventRequest | nvmeMiSend | dictionaryWrite =>
    refine answers_entry (answers_next _) fun e => ?_
    dsimp only
    split <;> exact answers_next _
  case orderedQueueRestart =>
    refine answers_entry (answers_next _) fun e => ?_
    dsimp only
    split
    · exact answers_next _
    · exact answers_ite (answers_next _) (answers_ite (answers_next _) (answers_next _))
  case sheafSlotFreed =>
    dsimp only [exec, execSheafSlotFreed]
    split
    · split <;> exact answers_next _
    · exact answers_next _
  case mergeEnd r =>
    cases r <;> (dsimp only [exec, execMergeEnd]; split <;> exact answers_next _)
  case grantWaitExpiry =>
    dsimp only [exec, execGrantWaitExpiry]
    split
    · exact answers_next _
    · split
      · exact answers_next _
      · exact answers_ite (answers_next _) (answers_next _)
  case deepJob =>
    dsimp only [exec, execDeepJob]
    split
    · exact answers_next _
    · split <;> exact answers_ite (answers_next _) (answers_next _)
  case replayEnd =>
    refine answers_ite (answers_next _) (answers_ite (answers_next _) (answers_ite (answers_next _) ?_))
    split <;> exact answers_next _
  case fabricsConnect =>
    refine answers_ite (answers_next _) (answers_ite (answers_ite (answers_next _) (answers_next _)) ?_)
    split
    · exact answers_next _
    · exact answers_ite (answers_next _) (answers_ite (answers_next _) (answers_next _))
  case commandFetch =>
    dsimp only [exec, execCommandFetch]
    split
    · exact answers_next _
    · exact answers_ite (answers_next _) (answers_ite (answers_ite (answers_next _) (answers_next _)) (answers_ite (answers_next _)
        (answers_ite (answers_ite (answers_next _) (answers_next _)) (answers_next _))))
  case readGateRequest =>
    refine answers_ite (answers_next _) ?_
    split <;> exact answers_next _
  -- no branch at all
  all_goals exact answers_next _

/-- Settles O31 (spec/12 R291): no branch of a command's meaning ends in a fault or a refusal. That an access which the spec rejects is
answered with the error it names, and that no command faults or is refused, is the model's reading (log 55). -/
theorem everyCommandAnswers : Obligations.EveryCommandAnswers := exec_answers

end Sys2Proof.Machine

/-! PROOF. Writes and reads of the dictionary: their status, what they record and what they leave (O38, O34, O36, O35, O46). -/

namespace Sys2Proof.Machine

/-! ### The status of a write (spec/17 R385) -/

section
variable {s : State} {m i sub : Nat} {v : Word} {ty : Bool} {r : ObjRow}

/-- The access code, the rank mask or a lock forbids the write. -/
abbrev WriteDenied (s : State) (m i sub : Nat) (r : ObjRow) : Prop :=
  r.acc = .ro ∨ bitAt (objMask r i sub) m = false ∨ lockedOut s m i = true ∨ lockEntryDenied s m i sub = true

/-- The owner of a HALT object runs. -/
def haltRuns (s : State) (r : ObjRow) (i : Nat) : Bool :=
  match r.apply with | .halt o => ownerRuns s o i | _ => false

theorem haltRuns_iff : haltRuns s r i = true ↔ ∃ o, r.apply = .halt o ∧ ownerRuns s o i = true := by
  unfold haltRuns
  cases r.apply <;> simp

theorem writeStatus_absent (hunit : unitAbsent s.variant i = true) :
    writeStatus s m i sub v ty = if (objNow s i sub).isSome then .objectAbsent else .noObject :=
  if_pos hunit

theorem writeStatus_noObject (hunit : unitAbsent s.variant i = false) (hrow : objNow s (aliasIndex i) sub = none) :
    writeStatus s m i sub v ty = .noObject := by
  rw [writeStatus, if_neg (ne_true_of_eq_false hunit)]
  simp only [hrow]

/-- The causes of a write to an object of the part, in the order of R385. -/
theorem writeStatus_row (hunit : unitAbsent s.variant i = false) (hrow : objNow s (aliasIndex i) sub = some r) :
    writeStatus s m i sub v ty =
      if WriteDenied s m (aliasIndex i) sub r then .accessDenied
      else if ty = false then .typeMismatch
      else if r.apply = .staged then .stagedOnly
      else if haltRuns s r (aliasIndex i) || ruleActive s (aliasIndex i * 256 + sub) v then .blockActive
      else if chkOk r v && !ruleInvalid s m (aliasIndex i * 256 + sub) v then .ok
      else .invalidValue := by
  rw [writeStatus, if_neg (ne_true_of_eq_false hunit)]
  simp only [hrow]
  rfl

/-- A write that is accepted finds its object, in a unit of the part, and is not denied. -/
theorem writeStatus_ok (h : writeStatus s m i sub v ty = .ok) :
    ∃ r, objNow s (aliasIndex i) sub = some r ∧ ¬ WriteDenied s m (aliasIndex i) sub r := by
  cases hunit : unitAbsent s.variant i with
  | true =>
    rw [writeStatus_absent hunit] at h
    split at h <;> cases h
  | false =>
    cases hrow : objNow s (aliasIndex i) sub with
    | none =>
      rw [writeStatus_noObject hunit hrow] at h
      cases h
    | some r =>
      refine ⟨r, rfl, fun hdenied => ?_⟩
      rw [writeStatus_row hunit hrow, if_pos hdenied] at h
      cases h

theorem writeStatus_ne_conflict : writeStatus s m i sub v ty ≠ .conflict := by
  cases hunit : unitAbsent s.variant i with
  | true =>
    rw [writeStatus_absent hunit]
    split <;> nofun
  | false =>
    cases hrow : objNow s (aliasIndex i) sub with
    | none =>
      rw [writeStatus_noObject hunit hrow]
      nofun
    | some r =>
      rw [writeStatus_row hunit hrow]
      split_ifs <;> nofun

end

/-- Settles O38 (spec/17 R385): the status of a write is the first of its causes in the model's order, which is R385's; only a write whose
own status is ok has an effect. -/
theorem writeStatusesInOrder : Obligations.WriteStatusesInOrder := by
  refine ⟨rfl, ?order, ?effect, fun _ _ _ _ _ _ => writeStatus_ne_conflict, ?cycle⟩
  case order =>
    intro m i sub v ty s d k
    refine ⟨writeStatus_absent, writeStatus_noObject, ?_⟩
    intro r hunit hrow denied active bad
    have hd : d = _ := writeStatus_row hunit hrow
    have hactive : (haltRuns s r (aliasIndex i) || ruleActive s k v) = true ↔ active := by rw [Bool.or_eq_true, haltRuns_iff]
    have hbad : (chkOk r v && !ruleInvalid s m k v) = true ↔ ¬ bad := by
      simp [bad]
    refine ⟨fun h => ?_, fun h hty => ?_, fun h hty hst => ?_, fun h hty hst ha => ?_, fun h hty hst ha hb => ?_, fun h hty hst ha hb => ?_⟩
    · rw [hd, if_pos h]
    all_goals rw [hd, if_neg h]
    · rw [if_pos hty]
    all_goals rw [if_neg (by rw [hty]; decide)]
    · rw [if_pos hst]
    all_goals rw [if_neg hst]
    · rw [if_pos (hactive.2 ha)]
    all_goals rw [if_neg (mt hactive.1 ha)]
    · rw [if_neg (mt hbad.1 (not_not.2 hb))]
    · rw [if_pos (hbad.2 hb)]
  case effect => exact fun _ _ _ _ _ _ => kwrite_refused _ _ _
  case cycle =>
    intro x s h
    rw [writes, Bool.and_eq_true, beq_iff_eq] at h
    exact h.1


/-! ### What a write does (spec/17 R382, R387, R389, R392) -/

section
variable {s t : State} {m : Master} {i sub : Nat} {k j : Key} {v : Word} {d : DStatus} {r : ObjRow}

/-- The state once the status of a write of k is recorded. -/
def recorded (s : State) (m : Nat) (k : Key) (d : DStatus) : State :=
  recordStatus (dropHeld s m (aliasIndex (k / 256) * 256 + k % 256) (decide (d = .ok))) m (k / 256) (k % 256) d

/-- A write without an action records its status, and then counts a violation, stores the value, or does nothing more. -/
theorem wrote_cases (s : State) (m : Nat) (k : Key) (v : Word) :
    let d := writeStatus s m (k / 256) (k % 256) v true
    wrote s m k v = recorded s m k d ∨ (d = .accessDenied ∧ wrote s m k v = violation (recorded s m k d) m) ∨
      d = .ok ∧ ∃ r, objNow s (aliasIndex (k / 256)) (k % 256) = some r ∧
        wrote s m k v = acceptStore (recorded s m k d) r (aliasIndex (k / 256) * 256 + k % 256) v := by
  intro d
  have hw : wrote s m k v = finishWrite s m (k / 256) (k % 256) v d id := rfl
  rw [hw]
  cases hd : d with
  | ok =>
    obtain ⟨r, hrow, -⟩ := writeStatus_ok hd
    have hfinish : finishWrite s m (k / 256) (k % 256) v .ok id = if (r.acc = .w1s ∨ r.acc = .w1c) ∧ v = 0 then recorded s m k .ok
        else acceptStore (recorded s m k .ok) r (aliasIndex (k / 256) * 256 + k % 256) v := by
      simp only [finishWrite, hrow]
      rfl
    rw [hfinish]
    split
    · exact .inl rfl
    · exact .inr (.inr ⟨rfl, r, hrow, rfl⟩)
  | accessDenied => exact .inr (.inl ⟨rfl, rfl⟩)
  | _ => exact .inl rfl

/-- A write that is denied is recorded and counted, whatever its action. -/
theorem kwrite_denied {m : Nat} (f : State → State) (hd : writeStatus s m (k / 256) (k % 256) v true = .accessDenied) :
    kwrite s m k v f = violation (recorded s m k .accessDenied) m := by
  rw [kwrite, dwrite, hd]
  rfl

theorem storeObj_obj_ne (h : j ≠ k) : (storeObj s r k v).obj j = s.obj j := by
  unfold storeObj
  split
  · split <;> exact State.obj_set_ne s _ h
  · exact State.obj_set_ne s _ h

theorem acceptStore_obj_ne (h : j ≠ k) : (acceptStore s r k v).obj j = s.obj j := by
  unfold acceptStore
  split
  · split
    · rfl
    · exact storeObj_obj_ne h
  · exact State.obj_set_ne s _ h
  · rfl

/-! ### The last access of a master (spec/17 R389) -/

theorem recordStatus_obj_ne {m : Nat} (h : j ≠ K.dictDictLastStatus m) : (recordStatus s m i sub d).obj j = s.obj j :=
  State.obj_setN_ne s _ h

theorem dropHeld_obj {m : Nat} {b : Bool} : (dropHeld s m k b).obj j = s.obj j := by
  unfold State.obj dropHeld
  rfl

theorem recorded_obj_ne {m : Nat} (h : j ≠ K.dictDictLastStatus m) : (recorded s m k d).obj j = s.obj j := by
  rw [recorded, recordStatus_obj_ne h, dropHeld_obj]

theorem DStatus.code_lt (d : DStatus) : d.code < 256 := by
  cases d <;> decide

/-- The status of the access in bits [7:0], index × 256 + subindex above. -/
theorem recordStatus_lastStatus {m : Nat} (hk : i * 256 + sub < 2 ^ 24) :
    (recordStatus s m i sub d).nat (K.dictDictLastStatus m) = d.code + (i * 256 + sub) * 256 := by
  have hcode := d.code_lt
  exact State.nat_setN_self _ _ _ (by omega)

theorem recordStatus_lastStatus_fields {x : Nat} (hx : x = d.code + k * 256) : x % 256 = d.code ∧ x / 256 = k := by
  have hcode := d.code_lt
  omega

theorem violationCount_ne_lastStatus (m : Nat) : K.dictDictLastStatus m ≠ K.dictViolationCount m := by
  have hlt : 0x1050 * 256 + (1 + m) < 0x1051 * 256 + (1 + m) := by omega
  exact Nat.ne_of_lt hlt

/-- No write stores to dict_last_status: its row is RO. -/
theorem accepted_ne_lastStatus (hsub : sub < 256) (hd : writeStatus s m i sub v true = .ok) :
    K.dictDictLastStatus m ≠ aliasIndex i * 256 + sub := by
  intro hkey
  obtain ⟨r, hrow, hallowed⟩ := writeStatus_ok hd
  have hindex : aliasIndex i = 0x1050 ∧ sub = 1 + m.val := by
    have hm := m.isLt
    have hkey : 0x1050 * 256 + (1 + m.val) = aliasIndex i * 256 + sub := hkey
    omega
  have hro : ∀ n : Master, ∃ r, objRow 0x1050 (1 + n.val) = some r ∧ r.acc = .ro := by decide
  obtain ⟨r', hr', hacc⟩ := hro m
  rw [hindex.1, hindex.2, objNow, if_neg fun h => absurd h.1 (by decide), hr'] at hrow
  cases hrow
  exact hallowed (.inl hacc)

theorem wrote_lastStatus (hsub : sub < 256) (hi : i < 2 ^ 16) :
    (wrote s m (i * 256 + sub) v).nat (K.dictDictLastStatus m) =
      (writeStatus s m i sub v true).code + (i * 256 + sub) * 256 := by
  have hrecorded (d : DStatus) : (recorded s m (i * 256 + sub) d).nat (K.dictDictLastStatus m) = d.code + (i * 256 + sub) * 256 := by
    rw [recorded, key_index hsub, key_sub hsub]
    exact recordStatus_lastStatus (by omega)
  have hcases := wrote_cases s m (i * 256 + sub) v
  rw [key_index hsub, key_sub hsub] at hcases
  rcases hcases with h | ⟨-, h⟩ | ⟨hok, r, -, h⟩
  · rw [h, hrecorded]
  · rw [h, ← hrecorded]
    exact congrArg BitVec.toNat (State.obj_inc_ne _ (violationCount_ne_lastStatus m))
  · rw [h, ← hrecorded]
    exact congrArg BitVec.toNat (acceptStore_obj_ne (accepted_ne_lastStatus hsub hok))

theorem windowAdvance_obj (p : Nat) (k : Key) : (windowAdvance s p).obj k = s.obj k := by
  unfold windowAdvance
  extract_lets
  split <;> rfl

theorem readAccess_lastStatus (hk : i * 256 + sub < 2 ^ 24) :
    (readAccess s m i sub).2.2.nat (K.dictDictLastStatus m) = (readStatus s i sub).code + (i * 256 + sub) * 256 := by
  unfold readAccess
  extract_lets d i'
  change _ = d.code + _
  split
  case h_1 r hd hrow =>
    rw [hd]
    split
    split
    · rw [State.nat, windowAdvance_obj]
      exact recordStatus_lastStatus hk
    · exact recordStatus_lastStatus hk
  case h_2 hd =>
    rw [hd, ← recordStatus_lastStatus hk]
    exact congrArg BitVec.toNat (State.obj_inc_ne _ (violationCount_ne_lastStatus m))
  case h_3 => exact recordStatus_lastStatus hk

end

/-- Settles O34 (spec/17 R389): each access records its status, and what follows the record is the store of the object, never RO, the count of a
violation or the move of a window. -/
theorem lastAccessIsRecorded : Obligations.LastAccessIsRecorded := by
  refine ⟨fun m i sub v s => ?writes, fun m i sub s => ?reads⟩
  case writes => exact recordStatus_lastStatus_fields (wrote_lastStatus sub.isLt i.isLt)
  case reads =>
    have hi := i.isLt
    have hsub := sub.isLt
    exact recordStatus_lastStatus_fields (readAccess_lastStatus (by omega))

/-! ### What a write leaves (spec/17 R382, R392) -/

section
variable {s : State} {m : Master} {k j : Key} {v : Word} {d : DStatus}

theorem recorded_edge {m : Nat} : (recorded s m k d).edge = s.edge := by
  unfold recorded recordStatus dropHeld
  rfl

theorem wrote_eq_withValues (s : State) (m : Nat) (k : Key) (v : Word) :
    let t := wrote s m k v
    t = { s with dict := t.dict, edge := t.edge, held := t.held } := by
  intro t
  obtain ⟨d, e, h, hshape⟩ := kwrite_id_shape s m k v
  have ht : t = { s with dict := d, edge := e, held := h } := hshape
  rw [ht]

/-- A write without an action changes its object, the master's last status and its violation counter at most. -/
theorem wrote_obj_ne (hk : j ≠ aliasIndex (k / 256) * 256 + k % 256) (hlast : j ≠ K.dictDictLastStatus m)
    (hcount : j ≠ K.dictViolationCount m) : (wrote s m k v).obj j = s.obj j := by
  rcases wrote_cases s m k v with h | ⟨-, h⟩ | ⟨-, r, -, h⟩
  · rw [h, recorded_obj_ne hlast]
  · rw [h, violation, State.obj_inc_ne _ hcount, recorded_obj_ne hlast]
  · rw [h, acceptStore_obj_ne hk, recorded_obj_ne hlast]

/-- A write that is not accepted records its status, and counts a violation at most. -/
theorem wrote_refused (ha : accepts s m k v = false) :
    (wrote s m k v).edge = s.edge ∧
      ∀ j, j ≠ K.dictDictLastStatus m → j ≠ K.dictViolationCount m → (wrote s m k v).obj j = s.obj j := by
  rcases wrote_cases s m k v with h | ⟨-, h⟩ | ⟨hok, -⟩
  · rw [h]
    exact ⟨recorded_edge, fun j hlast _ => recorded_obj_ne hlast⟩
  · rw [h, violation]
    exact ⟨by rw [State.inc_edge, recorded_edge], fun j hlast hcount => by rw [State.obj_inc_ne _ hcount, recorded_obj_ne hlast]⟩
  · exact absurd hok (of_decide_eq_false ha)

end

/-- Settles O36 (spec/17 R382, R389, R392): by the three ways in which a write ends; the object is the one that the index aliases. -/
theorem writesFrameTheState : Obligations.WritesFrameTheState := by
  intro m k v s t j
  refine ⟨wrote_eq_withValues s m k v, ?frame, ?bytes, ?refused⟩
  case frame =>
    intro x hx
    simp only [Bool.or_eq_false_iff, beq_eq_false_iff_ne] at hx
    obtain ⟨⟨hk, hlast⟩, hcount⟩ := hx
    exact wrote_obj_ne hk hlast hcount
  case bytes => exact fun c _ => congrArg (Memory.read · c) (kwrite_id_mem s m k v)
  case refused =>
    intro ha
    obtain ⟨hedge, hobj⟩ := wrote_refused ha
    refine ⟨hedge, fun f => ⟨kwrite_refused s f id ha, fun x hx => ?_⟩⟩
    simp only [Bool.or_eq_false_iff, beq_eq_false_iff_ne] at hx
    exact hobj x hx.1 hx.2

/-- Refutes O35: the high words of a status object with no sources above 31 ignore what is written to them (spec/19 R428), so that an accepted
write of 1 to enable_hi of block 0, an RW object, leaves it at its default. -/
theorem not_accessCodesActAsStated : ¬ Obligations.AccessCodesActAsStated := by
  intro h
  obtain ⟨-, -, hwrites⟩ := h
  have hrow : objNow State.reset (aliasIndex 0xA020) 4 =
      some ⟨0xA020, 0xA020, 4, 4, .bits32, .rw, .live, 0xFFFF, 4294967295, .bits 0xFFFFFFFF⟩ := by decide
  obtain ⟨hrw, -⟩ := hwrites 2 0xA020 4 1 _ State.reset (by decide) (by decide +kernel) hrow
  have hstored : (wrote State.reset 2 (0xA020 * 256 + 4) 1).obj (aliasIndex 0xA020 * 256 + 4) = 1 := hrw rfl
  exact absurd hstored (by decide +kernel)

/-! ### Locks (spec/17 R393) -/

section
variable {s : State} {m i sub : Nat} {k : Key} {v : Word} {e : Fin 16}

/-- A held entry shuts every other master but Strongroom out of its range, the lock entries apart. -/
theorem lockedOut_of_held (hheld : lockHeld (s.nat (K.dictLock e)) = true) (howner : lockOwner (s.nat (K.dictLock e)) ≠ m) (hm : m ≠ 0)
    (hi : i ≠ 0x1040) (hfirst : lockFirst (s.nat (K.dictLock e)) ≤ i) (hlast : i ≤ lockLast (s.nat (K.dictLock e))) :
    lockedOut s m i = true := by
  simp only [lockedOut, hi, hm, ne_eq, not_false_eq_true, decide_true, Bool.true_and, List.any_eq_true, List.mem_range, Bool.and_eq_true,
    decide_eq_true_eq]
  exact ⟨e, e.isLt, ⟨⟨hheld, howner⟩, hfirst⟩, hlast⟩

theorem lockedOut_lockEntry : lockedOut s m 0x1040 = false := rfl

theorem lockedOut_strongroom : lockedOut s 0 i = false := by
  simp [lockedOut]

/-- A held entry is its owner's and Strongroom's alone to write. -/
theorem lockEntryDenied_of_held (hheld : lockHeld (s.nat (K.dictLock e)) = true) (howner : lockOwner (s.nat (K.dictLock e)) ≠ m)
    (hm : m ≠ 0) : lockEntryDenied s m 0x1040 (1 + e) = true := by
  simp [lockEntryDenied, hm, hheld, howner]

theorem writeStatus_denied {r : ObjRow} {ty : Bool} (hunit : unitAbsent s.variant i = false) (hrow : objNow s (aliasIndex i) sub = some r)
    (hdenied : WriteDenied s m (aliasIndex i) sub r) : writeStatus s m i sub v ty = .accessDenied := by
  rw [writeStatus_row hunit hrow, if_pos hdenied]

theorem accepts_lockEntry_of_held (hheld : lockHeld (s.nat (K.dictLock e)) = true) (howner : lockOwner (s.nat (K.dictLock e)) ≠ m)
    (hm : m ≠ 0) : accepts s m (K.dictLock e) v = false := by
  have he := e.isLt
  have hindex : K.dictLock e / 256 = 0x1040 := key_index (i := 0x1040) (sub := 1 + e) (by omega)
  have hsub : K.dictLock e % 256 = 1 + e := key_sub (i := 0x1040) (sub := 1 + e) (by omega)
  refine decide_eq_false fun hok => ?_
  rw [hindex, hsub] at hok
  obtain ⟨r, -, hallowed⟩ := writeStatus_ok hok
  exact hallowed (.inr (.inr (.inr (lockEntryDenied_of_held hheld howner hm))))

end

/-- The fields of a lock entry are the number's bits: its range as written, and where it is held its writer. -/
theorem lockWord_fields {m v : Nat} (hm : m < 32) :
    lockHeld (lockWord m v) = lockHeld v ∧ lockFirst (lockWord m v) = lockFirst v ∧ lockLast (lockWord m v) = lockLast v ∧
      lockOwner (lockWord m v) = if lockHeld v then m else 0 := by
  have hbit (n : Nat) : lockHeld n = decide (n / 2 ^ 37 % 2 = 1) := Nat.testBit_eq_decide_div_mod_eq
  cases hheld : lockHeld v with
  | true =>
    have hw : lockWord m v = v % 2 ^ 32 + (m * 2 ^ 32 + 2 ^ 37) := by rw [lockWord, if_pos hheld]
    simp only [hw, hbit, lockFirst, lockLast, lockOwner, bitsOf, decide_eq_true_eq, if_true]
    omega
  | false =>
    have hw : lockWord m v = v % 2 ^ 32 := by rw [lockWord, if_neg (ne_true_of_eq_false hheld), Nat.add_zero]
    simp only [hw, hbit, lockFirst, lockLast, lockOwner, bitsOf, decide_eq_false_iff_not, Bool.false_eq_true, if_false]
    omega

/-- Settles O46 (spec/17 R393): a write that a held entry shuts out is denied, counted and without an action. That the owner of an entry that
is not held reads 0 and that its reserved bits are dropped is the model's reading (log 11). -/
theorem locksShutOthersOut : Obligations.LocksShutOthersOut := by
  refine ⟨?range, ?entry, fun m i s => ⟨lockedOut_lockEntry, lockedOut_strongroom⟩, ?word⟩
  case range =>
    intro e m i sub v r s w hheld howner hm hi hfirst hlast hunit hrow hsub
    have hm0 : m.val ≠ 0 := fun h => hm (Fin.ext h)
    have hdenied : writeStatus s m i sub v true = .accessDenied :=
      writeStatus_denied hunit hrow (.inr (.inr (.inl (lockedOut_of_held hheld howner hm0 hi hfirst hlast))))
    refine ⟨hdenied, fun f => ?_⟩
    rw [kwrite_denied f (by rw [key_index hsub, key_sub hsub]; exact hdenied), recorded, key_index hsub, key_sub hsub]
    rfl
  case entry =>
    intro e m v s hheld howner hm
    exact accepts_lockEntry_of_held hheld howner fun h => hm (Fin.ext h)
  case word =>
    intro m v hv w
    exact lockWord_fields (Nat.lt_trans m.isLt (by decide))

end Sys2Proof.Machine

/-! PROOF. Values that wait for their boundary, and writes that meet in a dictionary cycle (O37, O52). -/

namespace Sys2Proof.Machine

/-! ### Values in force (spec/17 R390) -/

section
variable {s : State} {r : ObjRow} {b c : Boundary} {k j : Key} {v : Word}

theorem sp_get_filter_key {α : Type} (m : Sp α) (p : Nat → Bool) (k : Nat) :
    Sp.get (m.filter fun e => p e.1) k = if p k then Sp.get m k else none := by
  induction m with
  | nil => simp [Sp.get]
  | cons e m ih =>
    rw [List.filter_cons, Sp.get]
    by_cases hk : e.1 = k
    · subst hk
      by_cases hp : p e.1 = true
      · simp [hp, Sp.get]
      · simp [hp, ih]
    · rw [if_neg hk, ← ih]
      split
      · rw [Sp.get, if_neg hk]
      · rfl

/-- Of the objects that `p` selects the last value accepted takes force; the others keep theirs. -/
theorem inForce_takeEdge (p : Key → Bool) : (s.takeEdge p).inForce k = if p k then s.obj k else s.inForce k := by
  have hget : Sp.get (s.takeEdge p).edge k = if !p k then Sp.get s.edge k else none := sp_get_filter_key s.edge (fun x => !p x) k
  rw [State.inForce, hget]
  cases p k <;> rfl

/-- At its boundary the last value accepted takes force. -/
theorem boundary_inForce_self (hrow : objRow (k / 256) (k % 256) = some r) (hr : r.apply = .edge b) :
    (boundary s b).inForce k = s.obj k := by
  rw [boundary, boundaryIn, inForce_takeEdge]
  exact if_pos (by simp [hrow, hr])

/-- Any other boundary leaves the value in force. -/
theorem boundary_inForce_ne (hrow : objRow (k / 256) (k % 256) = some r) (hr : r.apply = .edge c) (hbc : b ≠ c) :
    (boundary s b).inForce k = s.inForce k := by
  rw [boundary, boundaryIn, inForce_takeEdge]
  exact if_neg (by simp [hrow, hr, hbc.symm])

theorem storeObj_obj_self : (storeObj s r k v).obj k = r.ty.word v := by
  unfold storeObj
  split
  · split <;> exact State.obj_set_self s k _
  · exact State.obj_set_self s k _

/-- A store of an EDGE object whose value waits keeps the value in force. -/
theorem storeObj_waits (hr : r.apply = .edge b) (hwaits : b ≠ .revolution ∨ s.nat K.sunState ≠ 0) :
    storeObj s r k v = { s.set k (r.ty.word v) with edge := Sp.put s.edge k (s.inForce k) } := by
  unfold storeObj
  rw [hr]
  exact if_neg (by tauto)

/-- While Sundial is INVALID nothing waits for a revolution. -/
theorem storeObj_atOnce (hr : r.apply = .edge .revolution) (hinvalid : s.nat K.sunState = 0) :
    storeObj s r k v = { s.set k (r.ty.word v) with edge := Sp.del s.edge k } := by
  unfold storeObj
  rw [hr]
  exact if_pos ⟨rfl, hinvalid⟩

theorem storeObj_inForce_self (hr : r.apply = .edge b) (hwaits : b ≠ .revolution ∨ s.nat K.sunState ≠ 0) :
    (storeObj s r k v).inForce k = s.inForce k := by
  rw [storeObj_waits hr hwaits, State.inForce, sp_get_put_self]
  rfl

theorem storeObj_inForce_ne (hr : r.apply = .edge b) (hwaits : b ≠ .revolution ∨ s.nat K.sunState ≠ 0) (hj : j ≠ k) :
    (storeObj s r k v).inForce j = s.inForce j := by
  have hobj := storeObj_obj_ne (s := s) (r := r) (v := v) hj
  rw [storeObj_waits hr hwaits] at hobj ⊢
  rw [State.inForce, hobj, sp_get_put_ne _ _ _ _ hj]
  rfl

theorem storeObj_inForce_atOnce (hr : r.apply = .edge .revolution) (hinvalid : s.nat K.sunState = 0) :
    (storeObj s r k v).inForce k = r.ty.word v := by
  have hobj := storeObj_obj_self (s := s) (r := r) (k := k) (v := v)
  rw [storeObj_atOnce hr hinvalid] at hobj ⊢
  rw [State.inForce, hobj, sp_get_del_self]
  rfl

end

/-- Settles O37 (spec/17 R390): a store keeps the value in force aside until a boundary, and only the object's own, drops it. -/
theorem edgeValuesWaitForTheirBoundary : Obligations.EdgeValuesWaitForTheirBoundary := by
  refine ⟨?waits, ?atOnce, ?other⟩
  case waits =>
    intro k v r b s hr hwaits t
    refine ⟨storeObj_obj_self, storeObj_inForce_self hr hwaits,
      fun j hj => ⟨storeObj_obj_ne hj, storeObj_inForce_ne hr hwaits hj⟩, fun hrow => ⟨storeObj_obj_self, ?_, fun w => ?_⟩⟩
    · exact (boundary_inForce_self hrow hr).trans storeObj_obj_self
    · exact (boundary_inForce_self hrow hr).trans storeObj_obj_self
  case atOnce => exact fun k v r s hr hinvalid => ⟨storeObj_obj_self, storeObj_inForce_atOnce hr hinvalid⟩
  case other => exact fun b c k r s hrow hr hbc => boundary_inForce_ne hrow hr hbc

/-! ### The winner of a cycle (spec/17 R391) -/

section
variable {s : State} {l : List DictStore} {n : Nat} {x y : DictStore}

theorem beats_iff : beats x y = true ↔
    rankOf x.master < rankOf y.master ∨ (rankOf x.master = rankOf y.master ∧ x.master.val < y.master.val) := by
  simp [beats]

theorem beats_asymm (h : beats x y = true) : beats y x = false := by
  rw [Bool.eq_false_iff]
  rw [beats_iff] at h
  rw [ne_eq, beats_iff]
  omega

theorem beats_self (x : DictStore) : beats x x = false := by
  rw [Bool.eq_false_iff, ne_eq, beats_iff]
  omega

/-- Store y at j goes before store x at n: it beats it, or neither beats the other and it came first. -/
def goesBefore (j : Nat) (y : DictStore) (n : Nat) (x : DictStore) : Bool := beats y x || (!beats x y && decide (j < n))

theorem loses_iff : loses s l n x = true ↔
    ∃ j y, l[j]? = some y ∧ writes s y = true ∧ storeKey y = storeKey x ∧ goesBefore j y n x = true := by
  simp only [loses, List.any_eq_true, List.mem_range]
  constructor
  · rintro ⟨j, -, h⟩
    split at h
    case h_1 y hy =>
      simp only [Bool.and_eq_true, beq_iff_eq] at h
      exact ⟨j, y, hy, h.1.1, h.1.2, h.2⟩
    case h_2 => cases h
  · rintro ⟨j, y, hy, hw, hk, hb⟩
    refine ⟨j, (List.getElem?_eq_some_iff.1 hy).1, ?_⟩
    simp only [hy, Bool.and_eq_true, beq_iff_eq]
    exact ⟨⟨hw, hk⟩, hb⟩

/-- The stores of the cycle that write the object. -/
def Contends (s : State) (l : List DictStore) (k : Key) (n : Nat) (x : DictStore) : Prop :=
  l[n]? = some x ∧ writes s x = true ∧ storeKey x = k

/-- The place of a store in the order of R391, then of arrival. -/
def storePlace (n : Nat) (x : DictStore) : Nat ×ₗ Nat ×ₗ Nat := toLex (rankOf x.master, toLex (x.master.val, n))

theorem goesBefore_iff {j : Nat} : goesBefore j y n x = true ↔ storePlace j y < storePlace n x := by
  have hxy := beats_iff (x := x) (y := y)
  have hyx := beats_iff (x := y) (y := x)
  simp only [goesBefore, storePlace, Prod.Lex.toLex_lt_toLex, Bool.or_eq_true, Bool.and_eq_true, Bool.not_eq_true', decide_eq_true_eq,
    ← Bool.not_eq_true, hxy, hyx]
  omega

theorem storePlace_lt_of_not_lt {w j : Nat} (hjw : j ≠ w) (h : ¬ storePlace j x < storePlace w y) :
    storePlace w y < storePlace j x := by
  refine lt_of_le_of_ne (not_lt.1 h) fun heq => hjw ?_
  simp only [storePlace, toLex_inj, Prod.mk.injEq] at heq
  exact heq.2.2.symm

/-- Of the stores that write an object one comes before all others. -/
theorem exists_first_contender {k : Key} (hx : Contends s l k n x) :
    ∃ w y, Contends s l k w y ∧ ∀ j z, Contends s l k j z → ¬ storePlace j z < storePlace w y := by
  obtain ⟨⟨w, y⟩, hwy, hmin⟩ := WellFounded.has_min (InvImage.wf (fun p : Nat × DictStore => storePlace p.1 p.2) wellFounded_lt)
    {p | Contends s l k p.1 p.2} ⟨(n, x), hx⟩
  exact ⟨w, y, hwy, fun j z hjz => hmin (j, z) hjz⟩

/-- A store loses to any that writes its object before it. -/
theorem loses_of_before {j : Nat} (hj : l[j]? = some y) (hw : writes s y = true) (hkey : storeKey y = storeKey x)
    (hbefore : goesBefore j y n x = true) : loses s l n x = true :=
  loses_iff.2 ⟨j, y, hj, hw, hkey, hbefore⟩

theorem not_loses_of_none (h : ∀ j y, l[j]? = some y → writes s y = true → storeKey y = storeKey x → goesBefore j y n x = false) :
    loses s l n x = false := by
  rw [Bool.eq_false_iff, ne_eq, loses_iff]
  rintro ⟨j, y, hj, hw, hkey, hbefore⟩
  rw [h j y hj hw hkey] at hbefore
  cases hbefore

end

/-- Settles O52 (spec/17 R391): rank, master id and arrival order the stores of a cycle strictly, and the first of them wins. That all of them
are judged on the state before the cycle is the model's reading (log 61). -/
theorem oneWriteOfACycleWins : Obligations.OneWriteOfACycleWins := by
  refine ⟨?winner, ?two, ?alone⟩
  case winner =>
    intro l x n s hn hwrites
    obtain ⟨w, y, ⟨hw, hy, hkey⟩, hfirst⟩ := exists_first_contender (s := s) (k := storeKey x) ⟨hn, hwrites, rfl⟩
    refine ⟨w, y, hw, hy, hkey, ?_, fun j z hj hz hzx hjw => ?_, fun j z hj hz hzx => ?_⟩
    · exact not_loses_of_none fun j z hj hz hzy =>
        Bool.eq_false_iff.2 fun hbefore => hfirst j z ⟨hj, hz, hzy.trans hkey⟩ (goesBefore_iff.1 hbefore)
    · exact loses_of_before hw hy (hkey.trans hzx.symm) (goesBefore_iff.2 (storePlace_lt_of_not_lt hjw (hfirst j z ⟨hj, hz, hzx⟩)))
    · have hplace := hfirst j z ⟨hj, hz, hzx⟩
      simp only [storePlace, Prod.Lex.toLex_lt_toLex] at hplace
      omega
  case two =>
    intro x y s hx hy hkey hbeats
    have hself (n : Nat) (z : DictStore) : goesBefore n z n z = false := by simp [goesBefore, beats_self]
    have hafter (j n : Nat) : goesBefore j y n x = false := by simp [goesBefore, beats_asymm hbeats, hbeats]
    have hbefore (j n : Nat) : goesBefore j x n y = true := by simp [goesBefore, hbeats]
    refine ⟨?_, loses_of_before (j := 0) rfl hx hkey (hbefore 0 1), loses_of_before (j := 1) rfl hx hkey (hbefore 1 0), ?_⟩
    · refine not_loses_of_none fun j z hj _ _ => ?_
      rcases j with _ | _ | j
      · cases hj; exact hself 0 x
      · cases hj; exact hafter 1 0
      · cases hj
    · refine not_loses_of_none fun j z hj _ _ => ?_
      rcases j with _ | _ | j
      · cases hj; exact hafter 0 1
      · cases hj; exact hself 1 x
      · cases hj
  case alone =>
    intro l x n s hother
    exact not_loses_of_none fun j y hj hw hkey => absurd hkey (hother y (List.mem_of_getElem? hj) hw)

end Sys2Proof.Machine

/-! PROOF. The capture mode, and pops of the Pantry's queues (O41, O39). -/

namespace Sys2Proof.Machine

/-! ### Accepted writes of RW objects (spec/17 R382) -/

section
variable {s : State} {m i sub : Nat} {k : Key} {v : Word} {r : ObjRow}

/-- A value that is accepted has passed the check of its row. -/
theorem chkOk_of_ok {ty : Bool} (h : writeStatus s m i sub v ty = .ok) (hrow : objNow s (aliasIndex i) sub = some r) :
    chkOk r v = true := by
  cases hunit : unitAbsent s.variant i with
  | true =>
    rw [writeStatus_absent hunit] at h
    split at h <;> cases h
  | false =>
    rw [writeStatus_row hunit hrow] at h
    split_ifs at h with _ _ _ _ hok
    exact (Bool.and_eq_true_iff.1 hok).1

/-- What an accepted write of an RW object stores is what it reads next; the status objects, whose unused high words ignore theirs, apart. -/
theorem wrote_obj_rw (ha : accepts s m k v = true) (hrow : objNow s (aliasIndex (k / 256)) (k % 256) = some r) (hacc : r.acc = .rw)
    (hstat : aliasIndex (k / 256) < 0xA020 ∨ 0xA033 < aliasIndex (k / 256)) :
    (wrote s m k v).obj (aliasIndex (k / 256) * 256 + k % 256) = r.ty.word v := by
  have hok : writeStatus s m (k / 256) (k % 256) v true = .ok := of_decide_eq_true ha
  have hw : wrote s m k v = acceptStore (recorded s m k .ok) r (aliasIndex (k / 256) * 256 + k % 256) v := by
    rw [wrote, kwrite, dwrite, hok, finishWrite]
    simp only [hrow, hacc, reduceCtorEq, or_self, false_and, if_false]
    rfl
  rw [hw, acceptStore, hacc]
  have hsub : k % 256 < 256 := Nat.mod_lt _ (by decide)
  refine (congrArg (State.obj · _) (if_neg ?_)).trans storeObj_obj_self
  rw [key_index hsub]
  rintro ⟨hlow, hhigh, -⟩
  exact hstat.elim (Nat.not_lt.2 hlow) (Nat.not_lt.2 hhigh)

end

/-! ### The capture mode (spec/19 R432, R434) -/

section
variable {s : State} {m : Master} {v : Word}

theorem objNow_evtCaptureMode (s : State) :
    objNow s (aliasIndex 0xA000) 1 = some ⟨0xA000, 0xA000, 1, 1, .enum, .rw, .live, 0xFFFF, 0, .enum [0, 1]⟩ :=
  (if_neg fun h => absurd h.1 (by decide)).trans (by decide)

theorem exec_captureModeWrite_accepted (ha : accepts s m K.evtCaptureMode v = true) :
    exec (.captureModeWrite m v) s = .next (captureModeWriteAct (wrote s m K.evtCaptureMode v)) :=
  congrArg Host.Outcome.next (kwrite_act_rw s ha (objNow_evtCaptureMode s) rfl)

theorem captureMode_of_accepted (ha : accepts s m K.evtCaptureMode v = true) : v = 0 ∨ v = 1 := by
  have hchk := chkOk_of_ok (of_decide_eq_true ha) (objNow_evtCaptureMode s)
  have hmode : v.toNat = 0 ∨ v.toNat = 1 := by
    simp only [chkOk, Bool.and_eq_true, List.contains_iff_mem, List.mem_cons, List.not_mem_nil, or_false] at hchk
    exact hchk.2
  exact hmode.imp (fun h => BitVec.eq_of_toNat_eq h) (fun h => BitVec.eq_of_toNat_eq h)

theorem blk_captureModeWriteAct (t : State) (b : Fin 20) : (captureModeWriteAct t).ev.blk b = (t.ev.blk b).released := by
  simp [captureModeWriteAct, EvState.blk, at']

end

/-- Settles O41 (spec/19 R432, R434): the mode's row takes 0 and 1 alone, its value selects the capture, and each block is released; a block
so armed takes the next occurrence and only counts or marks those after it. -/
theorem captureModeClearsAndSelects : Obligations.CaptureModeClearsAndSelects := by
  refine ⟨?mode, ?armed, ?taken⟩
  case mode =>
    intro m v s ha
    refine ⟨_, exec_captureModeWrite_accepted ha, captureMode_of_accepted ha, ?_, fun b => ?_⟩
    · have hobj : (wrote s m K.evtCaptureMode v).obj K.evtCaptureMode = v :=
        wrote_obj_rw ha (objNow_evtCaptureMode s) rfl (.inl (by decide))
      have hnat : (captureModeWriteAct (wrote s m K.evtCaptureMode v)).nat K.evtCaptureMode = v.toNat := congrArg BitVec.toNat hobj
      rw [State.evCtx, hnat]
      exact decide_eq_decide.2 ⟨fun h => BitVec.eq_of_toNat_eq h, fun h => congrArg BitVec.toNat h⟩
    · rw [blk_captureModeWriteAct, wrote, kwrite_id_ev]
      rfl
  case armed =>
    intro b c e i cls cq en cap hcapture hmissed hfirst hoverflow x
    exact ⟨fun hnative => by simp [x, StatBlk.latch, hnative, hcapture, hmissed, hfirst],
      fun hca => by simp [x, StatBlk.latch, hca, hcapture, hfirst, hoverflow]⟩
  case taken =>
    intro b c e f i cls cq en cap old x
    refine ⟨fun hnative hcapture hmissed => ?_, fun hca hfirst => ?_⟩
    · simp only [x, StatBlk.latch, hnative, hcapture, Option.isNone_some, Option.isSome_some, Bool.and_false, Bool.and_self,
        Bool.false_eq_true, if_false, if_true, true_and]
      split <;> omega
    · simp [x, StatBlk.latch, hca, hfirst, bne]

/-! ### Pops (spec/15 R349, R354) -/

section
variable {s : State} {q p : Nat} {x : PanQueue}

theorem State.queue_setQueue_self : (s.setQueue q x).queue q = x := by
  unfold State.setQueue State.queue
  by_cases hx : x = {}
  · simp [hx]
  · simp [hx]

theorem State.queue_setQueue_ne (h : p ≠ q) : (s.setQueue q x).queue p = s.queue p := by
  unfold State.setQueue State.queue
  by_cases hx : x = {}
  · simp [hx, sp_get_del_ne _ _ _ h]
  · simp [hx, sp_get_put_ne _ _ _ _ h]

/-- The number of cells in use alone changes of the Pantry's own state. -/
theorem setUsed_pan (n : Nat) : (setUsed s n).pan = { s.pan with used := n } := by
  unfold setUsed
  extract_lets t u
  split <;> rfl

theorem setUsed_queue (n : Nat) : (setUsed s n).queue q = s.queue q := by
  unfold State.queue
  rw [setUsed_pan]

/-- The fields of the tag word (R349). -/
theorem popTagWord_fields (tag : Nat) (poison last : Bool) :
    popTagWord tag poison last % 65536 = tag % 65536 ∧ bitAt (popTagWord tag poison last) 16 = true ∧
      bitAt (popTagWord tag poison last) 17 = poison ∧ bitAt (popTagWord tag poison last) 18 = last ∧
      popTagWord tag poison last < 2 ^ 19 := by
  have htag : tag % 65536 < 65536 := Nat.mod_lt _ (by decide)
  have hbit (n i : Nat) : bitAt n i = decide (n / 2 ^ i % 2 = 1) := Nat.testBit_eq_decide_div_mod_eq
  simp only [hbit, popTagWord]
  cases poison <;> cases last <;> simp only [b2n, decide_eq_true_eq, decide_eq_false_iff_not, Bool.false_eq_true, if_true, if_false] <;> omega

/-- A pop of an item whose cell reads well, or whose payload alone does not. -/
theorem pantryPop_takes {it : PanItem} {rest : List PanItem} (bad : Bool) (hdegraded : s.flag K.poolPantryDegraded = false)
    (hitems : (s.queue q).items = it :: rest) :
    let t := setUsed (s.setQueue q { s.queue q with items := rest }) (s.pan.used - 1)
    pantryPop raise s q (if bad then .payloadBad else .ok) = (popTagWord it.tag bad rest.isEmpty, it.payload,
      lowCross raise (if bad then cellError raise (t.inc K.poolPoisonCount) q 0 else t) q) := by
  intro t
  unfold pantryPop
  simp only [hdegraded, hitems]
  cases bad <;> rfl

theorem pantryPop_empty (hitems : (s.queue q).items = []) : pantryPop raise s q .ok = (0, List.replicate 60 0, s) := by
  simp only [pantryPop, hitems, reduceCtorEq, if_false, ite_self]

end

/-- Settles O39 (spec/15 R349): a pop takes the item at the head and forms the tag word of it, and a pop of an empty queue returns at once. -/
theorem popTakesTheHead : Obligations.PopTakesTheHead := by
  refine ⟨?head, fun q s => pantryPop_empty⟩
  case head =>
    intro q it rest bad s hdegraded hitems r t
    have hr : r = _ := pantryPop_takes bad hdegraded hitems
    have hqueue (p : Nat) : t.queue p = (s.setQueue q { s.queue q with items := rest }).queue p := setUsed_queue _
    obtain ⟨htag, hvalid, hpoison, hlast, hbelow⟩ := popTagWord_fields it.tag bad rest.isEmpty
    refine ⟨by rw [hr], by rw [hr, htag], by rw [hr, hvalid], by rw [hr, hpoison], by rw [hr, hlast], by rw [hr]; exact hbelow, ?_, ?_,
      fun p hp => ?_⟩
    · rw [hqueue, State.queue_setQueue_self]
    · exact congrArg Pantry.used (setUsed_pan _)
    · rw [hqueue, State.queue_setQueue_ne hp]

end Sys2Proof.Machine

/-! PROOF. The commands of the host's queues and the commands turned away (O17, O47). -/

namespace Sys2Proof.Machine

/-! ### Connections (spec/12 R293-R295) -/

section
variable {s : State}

/-- On a link that is up a host without an association gets one with its admin queue. -/
theorem exec_fabricsConnect_admin {h : BitVec 64} {n : BitVec 16} {src : BitVec 32} (htr : s.nat K.hostHostTransport = 1)
    (hup : s.flag K.hostLinkUp = true) (hfree : s.host.assoc = none) :
    let t := s.setHost { s.host with assoc := some (h.toNat, n.toNat), conns := [0]
                                     sqs := Sp.put s.host.sqs 0 { size := adminSize, cqid := 0 }
                                     cqs := Sp.put s.host.cqs 0 { size := adminSize } }
    exec (.fabricsConnect 0 h n src) s = .next (raise (t.drawn.setN K.hostAssocState 1) 386 [t.free.toNat % 2 ^ 32, 1] {}) :=
  (if_neg (by simp [htr, hup])).trans ((if_pos rfl).trans (if_neg (by simp [hfree])))

/-- An I/O queue of a free number joins the association of its host. -/
theorem exec_fabricsConnect_io {q : BitVec 16} {h : BitVec 64} {n : BitVec 16} {src : BitVec 32} (htr : s.nat K.hostHostTransport = 1)
    (hup : s.flag K.hostLinkUp = true) (hassoc : s.host.assoc = some (h.toNat, n.toNat)) (hq : 0 < q.toNat) (hq32 : q.toNat ≤ 32)
    (hfree : (s.subQ q.toNat).isSome = false) (hen : s.host.ccEn = true) :
    let t := boundary s .queueCreation
    let t := t.setHost { t.host with conns := q.toNat :: t.host.conns, cqs := Sp.put t.host.cqs q.toNat { size := 4096 } }
    exec (.fabricsConnect q h n src) s =
      .next (showOq ((t.setSubQ q.toNat (newSubQ t q.toNat 4096)).setN K.hostAssocState 2) q.toNat) := by
  refine (if_neg (by simp [htr, hup])).trans ((if_neg (Nat.ne_of_gt hq)).trans ?_)
  rw [hassoc]
  exact (if_neg (by simp)).trans (if_neg (by simp [hfree, hen, hq32]))

theorem exec_tcpPduError_known {c code : BitVec 16} {p : Byte} {w : BitVec 2} (hconn : s.host.conns.contains c.toNat = true) :
    let t := violate raise s.drawn 21 c.toNat 0xFFFF s.free.toNat
    let t := if w = 1 then raise t.drawn 389 [c.toNat, t.free.toNat % 2] {} else t
    exec (.tcpPduError c p code w) s = .next (endAssociation (raise t 390 [c.toNat, p.toNat, code.toNat] {})) :=
  if_neg (by rw [hconn]; decide)

theorem exec_tcpConnectionClose_known {c : BitVec 16} (hconn : s.host.conns.contains c.toNat = true) :
    exec (.tcpConnectionClose c) s = .next (connectionClosed s c.toNat) :=
  congrArg Host.Outcome.next (State.on_true _ hconn)

theorem exec_keepAliveTimeout_associated {v : Nat} (hassoc : s.host.assoc.isSome = true) (hkato : Sp.get s.host.features 0x0F = some v) :
    exec .keepAliveTimeout s = .next (controllerReset raise (raise s.drawn 388 [v] {}) 3 false) := by
  refine (if_neg (by simp [Option.isSome_iff_ne_none.1 hassoc])).trans ?_
  rw [hkato]

/-! ### Doorbells (spec/12 R279, R291) -/

variable {q : BitVec 16} {v : BitVec 32}

/-- A tail in range is taken, one out of range is a violation of kind 5 and one of no queue of kind 4. -/
theorem exec_sqTailDoorbell (q : BitVec 16) (v : BitVec 32) (s : State) :
    exec (.sqTailDoorbell q v) s = .next (match s.subQ q.toNat with
      | none => badDoorbell s 4 q.toNat v.toNat 0
      | some x => if x.size ≤ v.toNat then badDoorbell s 5 q.toNat v.toNat 1 else s.setSubQ q.toNat { x with tail := v.toNat }) := rfl

theorem exec_sqTailDoorbell_none (hq : s.subQ q.toNat = none) :
    exec (.sqTailDoorbell q v) s = .next (badDoorbell s 4 q.toNat v.toNat 0) := by
  rw [exec_sqTailDoorbell, hq]

theorem exec_sqTailDoorbell_beyond {x : SubQ} (hq : s.subQ q.toNat = some x) (hv : x.size ≤ v.toNat) :
    exec (.sqTailDoorbell q v) s = .next (badDoorbell s 5 q.toNat v.toNat 1) := by
  rw [exec_sqTailDoorbell, hq]
  exact congrArg Host.Outcome.next (if_pos hv)

theorem exec_sqTailDoorbell_inRange {x : SubQ} (hq : s.subQ q.toNat = some x) (hv : v.toNat < x.size) :
    exec (.sqTailDoorbell q v) s = .next (s.setSubQ q.toNat { x with tail := v.toNat }) := by
  rw [exec_sqTailDoorbell, hq]
  exact congrArg Host.Outcome.next (if_neg (Nat.not_le.2 hv))

/-- A head in range that no entry of the queue is ahead of is taken, any other is a violation of kind 5 and one of no queue of kind 4. -/
theorem exec_cqHeadDoorbell (q : BitVec 16) (v : BitVec 32) (s : State) :
    exec (.cqHeadDoorbell q v) s = .next (match Sp.get s.host.cqs q.toNat with
      | none => badDoorbell s 4 q.toNat v.toNat 0
      | some x =>
        let n := if x.size = 0 then 1 else x.size
        if x.size ≤ v.toNat ∨ x.used < (v.toNat + n - x.head) % n then badDoorbell s 5 q.toNat v.toNat 1
        else s.setHost { s.host with cqs := Sp.put s.host.cqs q.toNat { x with head := v.toNat } }) := rfl

theorem exec_cqHeadDoorbell_none (hq : Sp.get s.host.cqs q.toNat = none) :
    exec (.cqHeadDoorbell q v) s = .next (badDoorbell s 4 q.toNat v.toNat 0) := by
  rw [exec_cqHeadDoorbell, hq]

theorem exec_cqHeadDoorbell_beyond {x : ComplQ} (hq : Sp.get s.host.cqs q.toNat = some x) (hv : x.size ≤ v.toNat) :
    exec (.cqHeadDoorbell q v) s = .next (badDoorbell s 5 q.toNat v.toNat 1) := by
  rw [exec_cqHeadDoorbell, hq]
  exact congrArg Host.Outcome.next (if_pos (.inl hv))

theorem exec_cqHeadDoorbell_inRange {x : ComplQ} (hq : Sp.get s.host.cqs q.toNat = some x) (hv : v.toNat < x.size)
    (hused : (v.toNat + x.size - x.head) % x.size ≤ x.used) :
    exec (.cqHeadDoorbell q v) s =
      .next (s.setHost { s.host with cqs := Sp.put s.host.cqs q.toNat { x with head := v.toNat } }) := by
  have hsize : (if x.size = 0 then 1 else x.size) = x.size := if_neg (by omega)
  rw [exec_cqHeadDoorbell, hq]
  refine congrArg Host.Outcome.next (if_neg ?_)
  rw [hsize]
  omega

/-! ### Fetch (spec/12 R280, R291) -/

/-- A queue with a command to fetch and room for it in the table, the queue's limit and its completion queue has it fetched. -/
theorem exec_commandFetch_room {e : Sqe} {x : SubQ} :
    let n := q.toNat
    s.subQ n = some x → fetchWanted s x = true → s.host.table.length < 1024 →
    (queueEnts s n).length < s.nat K.hostSqInflightMax → cqRoom s n x = true →
    let bad := fetchCheck s n e
    let ent : CmdEnt := { sqid := n, sqe := e, order := s.host.orderSeq, qpos := x.fetched, covered := x.covering.isSome
                          bad := if x.covering = some true then none else bad }
    let t := (s.drawn.setHost { s.host with table := s.host.table ++ [ent], orderSeq := s.host.orderSeq + 1
                                            stalled := false }).inc K.hostCommandsCount
    let t := t.setSubQ n { x with head := (x.head + 1) % (if x.size = 0 then 1 else x.size), fetched := x.fetched + 1
                                  fetchFails := 0, cqStop := false }
    let t := t.on (decide (n ≠ 0)) hostWakes
    let t := if x.covering = some true then discards raise t n else t
    let t := advance t n
    let t := match t.host.table.find? fun f => f.order == ent.order with
      | some f => if f.st = .fetched ∧ x.ordered = true then t.setCmd { f with st := .held } else t
      | none => t
    let t := restartCheck raise t n
    exec (.commandFetch q e) s = .next (settle raise (showOq t n)) := by
  intro n hx hwanted htable hinflight hroom bad ent t0 t1 t2 t3 t4 t5 t6
  have hexec : exec (.commandFetch q e) s = execCommandFetch q e s := rfl
  rw [hexec, execCommandFetch]
  split
  case h_1 hnone => cases hnone.symm.trans hx
  case h_2 x' hsome =>
    cases hsome.symm.trans hx
    exact (if_neg (by simp [hwanted])).trans ((if_neg (Nat.not_le.2 htable)).trans
      ((if_neg (Nat.not_le.2 hinflight)).trans (if_neg (by simpa using hroom))))

theorem exec_sqFetchError_known {c : XferCause} {x : SubQ} (hq : s.subQ q.toNat = some x) :
    let t := violate raise s 6 q.toNat 0xFFFF (xferCode c)
    exec (.sqFetchError q c) s = if x.fetchFails = 0 then .next (t.setSubQ q.toNat { x with fetchFails := 1 })
      else .next (raise (asyncEvent raise (t.setSubQ q.toNat { x with fetchFails := 2, fetchStopped := true }) 7 0xC3 0xC3) 361
        [q.toNat, xferCode c] {}) := by
  have hexec : exec (.sqFetchError q c) s = execSqFetchError q c s := rfl
  rw [hexec, execSqFetchError]
  simp only [hq]

/-! ### Completion and posting (spec/12 R281) -/

theorem exec_cqePost_ready {e : CmdEnt} {x : ComplQ} (hcommit : oldestCommit s q.toNat = some e)
    (hq : Sp.get s.host.cqs q.toNat = some x) (hready : ¬ postWaits s e) (hroom : x.used + 1 < x.size) :
    let h := { s.host with table := s.host.table.filter fun f => f.order != e.order
                           cqs := Sp.put s.host.cqs q.toNat { x with tail := (x.tail + 1) % x.size }
                           posted := (q.toNat, e.sqid, e.sqe.cid.toNat, e.status, e.dw0) :: s.host.posted }
    exec (.cqePost q) s = .next (s.setHost h) := by
  have hexec : exec (.cqePost q) s = execCqePost q s := rfl
  rw [hexec, execCqePost, hcommit, hq]
  exact if_neg (not_or.2 ⟨hready, Nat.not_le.2 hroom⟩)

/-! ### Picks, aborts and restarts (spec/12 R282, R287, R290) -/

theorem exec_descriptorPick_free {a : Act} {l : List Desc} :
    let u := postFresh (boundaryIn s .command (actOwns a)) a l
    let t := twinSettle raise u a
    trlState u a = 3 → mayPick (admitPool t a) a = true →
    exec (.descriptorPick a l) s = .next (onePick (admitPool t a) a) := by
  intro u t hrun hmay
  exact (if_neg (not_not.2 hrun)).trans (congrArg Host.Outcome.next (if_pos hmay))

theorem exec_abortBudgetExpiry_aborting {c : CmdRef} {e : CmdEnt} (hent : s.cmd (refOf c) = some e) (hst : e.st = .aborting) :
    exec (.abortBudgetExpiry c) s = .next (raise s.drawn 364 [1, s.free.toNat % 1024] {}) := by
  have hexec : exec (.abortBudgetExpiry c) s = execAbortBudgetExpiry c s := rfl
  rw [hexec, execAbortBudgetExpiry, hent]
  exact if_pos hst

theorem exec_orderedQueueRestart_begins {c : CmdRef} {e : CmdEnt} {x : SubQ}
    (hent : activeEnt s.host.table (refOf c) true 0xC4 = some e) :
    let w := e.sqe.cdw10.toNat
    let n := bitsOf w 0 16
    s.subQ n = some x → x.restart = none → restartStatus s e = 0 →
    let t := beginRestart s e n x (bitAt w 16)
    let t := if bitAt w 16 then discards raise t n else advance t n
    exec (.orderedQueueRestart c) s = .next (settle raise (restartCheck raise (showOq t n) n)) := by
  intro w n hx hnew hstatus t u
  refine (match_active hent).trans ?_
  dsimp only
  split
  case h_1 hnone => cases hnone.symm.trans hx
  case h_2 x' hsome =>
    cases hsome.symm.trans hx
    exact (if_neg (by simp [hnew])).trans (if_neg (not_not.2 hstatus))

end

/-- Settles O17 (spec/12 R278-R297): each command acts by its rule where its guard holds. The sizes of admin queues and of NVMe/TCP queues are
presumed (log 20); the values that a fetch draws and what a Restart covers are the model's (log 4, log 62). -/
theorem hostQueueCommandsComplete : Obligations.HostQueueCommandsComplete := by
  refine ⟨?admin, ?io, ?pduError, ?close, ?keepAlive, ?tail, ?head, ?fetch, ?fetchError, ?tlp, ?completion, ?post, ?pick, ?budget,
    ?restart, ?mask⟩
  case admin => exact fun _ _ _ _ => exec_fabricsConnect_admin
  case io => exact fun _ _ _ _ _ => exec_fabricsConnect_io
  case pduError => exact fun _ _ _ _ _ => exec_tcpPduError_known
  case close => exact fun _ _ => exec_tcpConnectionClose_known
  case keepAlive => exact fun _ _ => exec_keepAliveTimeout_associated
  case tail => exact fun _ _ _ _ => exec_sqTailDoorbell_inRange
  case head => exact fun _ _ _ _ => exec_cqHeadDoorbell_inRange
  case fetch => exact fun _ _ _ _ => exec_commandFetch_room
  case fetchError =>
    intro q c x s hx t
    exact ⟨fun hfirst => (exec_sqFetchError_known hx).trans (if_pos hfirst),
      fun hagain => (exec_sqFetchError_known hx).trans (if_neg hagain)⟩
  case tlp => exact fun _ _ _ => ⟨rfl, rfl, rfl, rfl, rfl⟩
  case completion => exact fun _ _ _ _ _ _ hent => ⟨match_active hent, match_active hent⟩
  case post => exact fun _ _ _ _ => exec_cqePost_ready
  case pick => exact fun _ _ _ => exec_descriptorPick_free
  case budget => exact fun _ _ _ => exec_abortBudgetExpiry_aborting
  case restart => exact fun _ _ _ _ => exec_orderedQueueRestart_begins
  case mask => exact fun _ _ _ => rfl

/-! ### Commands turned away in Safe (spec/20 R456) -/

/-- In Safe an active I/O command completes with Namespace Not Ready and does no work. -/
theorem ioWork_safe {s : State} {c : CmdRef} {e : CmdEnt} {op : Nat} {f : CmdEnt → State} (hmode : s.nat K.pmMode = 5)
    (hent : activeEnt s.host.table (refOf c) false op = some e) : ioWork s c op f = complete raise s e.ref 0x82 0 := by
  rw [ioWork, hent]
  exact if_pos hmode

/-- Settles O47 (spec/12 R291; spec/20 R456): in Safe no I/O command reaches its work, and a doorbell of no queue or out of range is a
violation and nothing else. The opcodes are presumed (log 20). -/
theorem hostCommandsTurnedAway : Obligations.HostCommandsTurnedAway := by
  refine ⟨?safe, ?doorbells⟩
  case safe =>
    intro c l s hmode
    have hturned {op : Nat} (f : CmdEnt → State) (e : CmdEnt) (hent : activeEnt s.host.table (refOf c) false op = some e) :
        Host.Outcome.next (φ := Fault) (ρ := Refusal) (ioWork s c op f) = .next (complete raise s e.ref 0x82 0) :=
      congrArg Host.Outcome.next (ioWork_safe hmode hent)
    exact ⟨hturned _, hturned _, hturned _, hturned _, hturned _, hturned _⟩
  case doorbells =>
    exact fun q v s => ⟨exec_sqTailDoorbell_none, exec_cqHeadDoorbell_none, fun _ => exec_sqTailDoorbell_beyond,
      fun _ => exec_cqHeadDoorbell_beyond⟩

end Sys2Proof.Machine

/-! PROOF. The Admin commands that reach Strongroom and the dictionary (O27). -/

namespace Sys2Proof.Machine

section
variable {s : State} {c : CmdRef} {e : CmdEnt}

/-! ### Erases (spec/18 R423) -/

/-- Format NVM of namespace 1, 2 or all asks for an erase where its secure erase setting is 2. -/
theorem exec_formatNvm_named (hent : activeEnt s.host.table (refOf c) true 0x80 = some e)
    (hns : e.sqe.nsid.toNat = 1 ∨ e.sqe.nsid.toNat = 2 ∨ e.sqe.nsid.toNat = 0xFFFFFFFF) :
    exec (.formatNvm c) s = .next (hostErase s e (decide (bitsOf e.sqe.cdw10.toNat 9 3 = 2)) (.format e.ref)) := by
  have hnamed : ([1, 2, 0xFFFFFFFF] : List Nat).contains e.sqe.nsid.toNat = true := by simpa using hns
  exact (match_active hent).trans (if_neg (by rw [hnamed]; decide))

/-! ### Security protocols (spec/18 R421) -/

theorem exec_securitySend_tcg {l : List Byte} (hent : activeEnt s.host.table (refOf c) true 0x81 = some e)
    (hprotocol : (secProtocol e).1 = 1 ∨ (secProtocol e).1 = 2) (hcom : (secProtocol e).2 = 0x1000) :
    let ranges := Vector.ofFn fun (r : Fin 17) => tcgRange l r (at' s.strong.ranges r {})
    let t := { s with strong := { s.strong with ranges := ranges } }
    let t := t.setN K.srOpalState (Config.tcgState l (t.nat K.srOpalState) % 2)
    exec (.securitySend c l) s = .next (complete raise (t.setHost { t.host with tcg := Config.tcgAnswer l }) e.ref 0 0) :=
  (match_active hent).trans (congrArg Host.Outcome.next (if_pos ⟨hprotocol, hcom⟩))

theorem exec_securityReceive_active (hent : activeEnt s.host.table (refOf c) true 0x82 = some e) :
    let n := e.sqe.cdw11.toNat
    exec (.securityReceive c) s = .next (if (secProtocol e).1 = 0 then
        complete raise (returnData { s with freeCtr := s.freeCtr + n } e.ref (freeBytes s n)) e.ref 0 0
      else if ((secProtocol e).1 = 1 ∨ (secProtocol e).1 = 2) ∧ (secProtocol e).2 = 0x1000 then
        complete raise (returnData s e.ref (s.host.tcg.take n)) e.ref 0 0
      else complete raise s e.ref (stat 0 0x02) 0) :=
  match_active hent

/-! ### Frames and dictionary commands (spec/12 R296; spec/17 R395-R397) -/

theorem exec_nvmeMiSend_runs {l : List Byte} {f : FrameRun} (hent : activeEnt s.host.table (refOf c) true 0x1D = some e)
    (hrun : runFrame s 16 l = some f) :
    exec (.nvmeMiSend c l) s =
      .next (complete raise (f.state.setHost { f.state.host with miReply := response f 4096 }) e.ref 0 0) := by
  refine (match_active hent).trans ?_
  dsimp only
  rw [hrun]

/-- A well-formed frame of write entries is run, and double word 0 names its first failure. -/
theorem exec_dictionaryWrite_runs {l : List Byte} {n : Nat} {f : FrameRun} (hent : activeEnt s.host.table (refOf c) true 0xC1 = some e)
    (hlen : e.sqe.cdw10.toNat = l.length) (hmin : 4 ≤ l.length) (hmax : l.length ≤ 4096) (hhead : frameHead l = some (1, n))
    (hrun : runFrame s 16 l = some f) :
    let w := firstFailure f.replies 1
    exec (.dictionaryWrite c l) s = .next (complete raise (raise f.state 366 [0xC1, w % 256] {}) e.ref 0 w) := by
  intro w
  have hframe : (if e.sqe.cdw10.toNat = l.length ∧ 4 ≤ e.sqe.cdw10.toNat ∧ e.sqe.cdw10.toNat ≤ 4096 ∧
      (frameHead l).map (·.1) = some 1 then runFrame s 16 l else none) = some f := by
    rw [hlen, hhead, hrun]
    exact if_pos ⟨rfl, hmin, hmax, rfl⟩
  refine (match_active hent).trans ?_
  dsimp only
  rw [hframe]

/-- A read of at least one entry into a buffer of 4 to 4,096 bytes. -/
theorem exec_dictionaryRead_runs (hent : activeEnt s.host.table (refOf c) true 0xC2 = some e) :
    let w := e.sqe.cdw10.toNat
    bitsOf w 24 8 ≠ 0 → 4 ≤ e.sqe.cdw11.toNat → e.sqe.cdw11.toNat ≤ 4096 →
    let x := runReads s 16 false (entryObjs (bitsOf w 0 16, bitsOf w 16 8, bitsOf w 24 8))
    let t := raise x.2 366 [0xC2, firstFailure x.1 1 % 256] {}
    exec (.dictionaryRead c) s =
      .next (complete raise (returnData t e.ref (response ⟨2, x.1, x.2⟩ e.sqe.cdw11.toNat)) e.ref 0 0) := by
  intro w hsome hmin hmax x t
  exact (match_active hent).trans (if_neg (not_or.2 ⟨hsome, not_or.2 ⟨Nat.not_lt.2 hmin, Nat.not_lt.2 hmax⟩⟩))

end

/-- Settles O27 (spec/12 R296; spec/17 R395-R397; spec/18 R421-R424): an active command whose operands pass their checks has its work done. What
the security protocols carry is free or opaque (log 4, log 21); the opcodes and the fields' places are presumed (log 20), and that a
Dictionary Read completes with double word 0 of 0 is deduced (log 14). -/
theorem securityAndDictionaryCommandsComplete : Obligations.SecurityAndDictionaryCommandsComplete := by
  refine ⟨?format, ?sanitize, ?send, ?receive, ?miSend, ?miReceive, ?write, ?read⟩
  case format => exact fun _ _ _ => exec_formatNvm_named
  case sanitize => exact fun _ _ _ => match_active
  case send => exact fun _ _ _ _ => exec_securitySend_tcg
  case receive =>
    intro c e s hent n
    refine ⟨fun hdiscovery => (exec_securityReceive_active hent).trans (congrArg Host.Outcome.next (if_pos hdiscovery)),
      fun htcg hcom => (exec_securityReceive_active hent).trans (congrArg Host.Outcome.next ?_)⟩
    exact (if_neg (by omega)).trans (if_pos ⟨htcg, hcom⟩)
  case miSend => exact fun _ _ _ _ _ => exec_nvmeMiSend_runs
  case miReceive => exact fun _ _ _ => match_active
  case write => exact fun _ _ _ _ _ _ => exec_dictionaryWrite_runs
  case read => exact fun _ _ _ => exec_dictionaryRead_runs

end Sys2Proof.Machine

/-! PROOF. Power loss, the flush and recovery (O15). -/

namespace Sys2Proof.Machine

section
variable {s : State}

/-! ### Power loss and the flush (spec/13 R311-R315) -/

theorem exec_powerLossSignal_first {i : PowerInput} {mv : BitVec 16} (hfirst : s.power.loss = false) :
    let t : State := { s with power := { s.power with loss := true } }
    let t := modeEvent raise t 4 [powerInputCode i, mv.toNat]
    let t := raise t 335 [t.nat K.sheafCommitSeq, t.nat K.sheafOpenCount, t.nat K.sheafPwcValid] {}
    let t := sheafQuiesce (mediaOff raise t 6 0)
    let t := t.setHost { t.host with quiet := true }
    let t := hoeStop (motorPowerLoss raise t) 1
    exec (.powerLossSignal i mv) s = .next (flushStart { t with sheaf := { t.sheaf with flush := none } } 1) := by
  intro t1 t2 t3 t4 t5 t6
  have hexec : exec (.powerLossSignal i mv) s = execPowerLossSignal i mv s := rfl
  rw [hexec, execPowerLossSignal, if_neg (ne_true_of_eq_false hfirst)]

variable {img : FlushSlot} {slot since : Nat}

theorem exec_flushDone_running (hrun : s.sheaf.flush = some (img, slot, since)) :
    let t : State := { s with sheaf := { s.sheaf with flush := none, slots := upd s.sheaf.slots slot (some img), changed := false } }
    let t := (((t.setN K.sheafFlushState 2).setN K.sheafFlushSeq img.seq).setN K.sheafFlushSlot slot).inc K.sheafFlushCount
    exec .flushDone s = .next (raise t 336 [img.cause, img.seq, slot, s.elapsed since] {}) := by
  have hexec : exec .flushDone s = execFlushDone s := rfl
  rw [hexec, execFlushDone, hrun]

/-- A failed flush of a power loss has no successor: only one of another cause is followed by the flush of a lost hold-up. -/
theorem exec_flushFail_powerLoss {a : BitVec 32} (hrun : s.sheaf.flush = some (img, slot, since)) (hcause : img.cause = 1) :
    let t : State := { s with sheaf := { s.sheaf with flush := none } }
    exec (.flushFail a) s = .next (raise ((t.setN K.sheafFlushState 3).inc K.sheafFlushFailCount) 337 [1, a.toNat] {}) := by
  have hexec : exec (.flushFail a) s = execFlushFail a s := rfl
  rw [hexec, execFlushFail, hrun]
  dsimp only
  rw [hcause]
  exact congrArg Host.Outcome.next (if_neg fun h => h.1 rfl)

theorem exec_holdUpLost_changed (hlost : holdUpOk s = false) (harmed : s.flag K.sheafPwcArmed = true)
    (hchanged : s.sheaf.changed = true) (hidle : s.sheaf.flush = none) :
    exec .holdUpLost s = .next (flushStart (raise s 338 [motorState s, param32 (s.int K.spinSpeedCrpm)] {}) 3) :=
  if_neg (by rw [hlost, harmed, hchanged, hidle]; decide)

/-- A planned flush starts at once where none runs. -/
theorem exec_flushNow_idle {m : Master} {v : Word} (ha : accepts s m K.sheafFlushNow v = true) (hv : v ≠ 0)
    (hidle : (wrote s m K.sheafFlushNow v).sheaf.flush = none) :
    exec (.flushNow m v) s = .next (flushStart (wrote s m K.sheafFlushNow v) 2) :=
  congrArg Host.Outcome.next ((kwrite_act s ha hv).trans (if_neg (by rw [← wrote, hidle]; decide)))

/-! ### Recovery (spec/13 R316, R317) -/

theorem exec_recoveryLoaded_image {c0 c1 : Bool} {f : FlushSlot} (hloading : s.nat K.sheafRecoverState = 1)
    (hslot : chosenSlot s c0 c1 = some f) :
    let base := s.cfg K.sheafPwcBase
    let t := loadRegion (loadRegion s journalBase journalSize f.journal) base cacheSize f.cache
    let t : State := { t with memory := { t.memory with poison := f.poison.foldl (fun p o => Sp.put p (base + o) ()) t.memory.poison },
                              sheaf := { t.sheaf with imageOff := f.oldestOff, imageOldest := f.oldestSeq, changed := false } }
    let t := ((((t.setN K.sheafRecoverState 2).setN K.sheafImageSeq f.seq).setN K.sheafImageCommitSeq f.commitSeq).setN
      K.sheafCommitSeq f.commitSeq).setN K.sheafPwcValid (countValid t)
    let t := t.setB K.sheafPwcArmed true
    exec (.recoveryLoaded c0 c1) s =
      .next (raise t 339 [t.nat K.sheafRecoverState, t.nat K.sheafImageSeq, t.nat K.sheafImageCommitSeq] {}) := by
  refine (if_neg (not_not.2 hloading)).trans ?_
  rw [hslot]

theorem exec_recoveryLoaded_noImage {c0 c1 : Bool} (hloading : s.nat K.sheafRecoverState = 1) (hslot : chosenSlot s c0 c1 = none) :
    let t := (s.setN K.sheafRecoverState (if (newestSlot s).isSome then 4 else 3)).setB K.sheafPwcArmed true
    exec (.recoveryLoaded c0 c1) s =
      .next (raise t 339 [t.nat K.sheafRecoverState, t.nat K.sheafImageSeq, t.nat K.sheafImageCommitSeq] {}) := by
  refine (if_neg (not_not.2 hloading)).trans ?_
  rw [hslot]

/-- An image older than the first record to replay leaves nothing to apply. -/
theorem exec_replayEnd_nothingToApply {torn : Bool} (hreplaying : s.nat K.sheafReplayState = 1)
    (hbehind : s.nat K.sheafImageCommitSeq < s.nat K.sheafReplayFrom) :
    let all := recordsFrom s 2731 s.sheaf.imageOff s.sheaf.imageOldest
    let l := if torn then all.dropLast else all
    let bytes := l.foldl (fun n r => n + recordSize r.actions.length) 0
    let t : State := { s with sheaf := { s.sheaf with
      recs := l.map fun (r : JRec) => (r.seq, recordSize r.actions.length), oldOff := s.sheaf.imageOff,
      nextOff := (s.sheaf.imageOff + bytes) % journalSize } }
    let t := t.setN K.sheafJournalFree (journalFree t)
    let t := (((t.setN K.sheafReplayState 2).setN K.sheafSheafState 0).setN K.sheafReplayApplied 0).setN K.sheafReplayDiscarded 0
    exec (.replayEnd torn) s = .next (raise t 340 [0, 0] {}) :=
  (if_neg (not_not.2 hreplaying)).trans (if_pos hbehind)

end

/-- Settles O15 (spec/13 R311-R317): each signal acts in the state that waits for it and each accepted request starts its action. That a
failed flush of a power loss starts no other and that a replay behind its first record applies nothing are deduced (log 45), and so is
what starts a flush (log 60). -/
theorem flushAndRecoveryComplete : Obligations.FlushAndRecoveryComplete := by
  refine ⟨?signal, ?done, ?fail, ?holdUp, ?now, ?load, ?loaded, ?noImage, ?replay, ?replayEnd⟩
  case signal => exact fun _ _ _ => exec_powerLossSignal_first
  case done => exact fun _ _ _ _ => exec_flushDone_running
  case fail => exact fun _ _ _ _ _ => exec_flushFail_powerLoss
  case holdUp => exact fun _ => exec_holdUpLost_changed
  case now => exact fun _ _ _ ha hv => exec_flushNow_idle ha hv
  case load => exact fun _ _ s ha hv => congrArg Host.Outcome.next (kwrite_act s ha hv)
  case loaded => exact fun _ _ _ _ => exec_recoveryLoaded_image
  case noImage => exact fun _ _ _ => exec_recoveryLoaded_noImage
  case replay => exact fun _ _ s ha hv => congrArg Host.Outcome.next (kwrite_act s ha hv)
  case replayEnd => exact fun _ _ => exec_replayEnd_nothingToApply

end Sys2Proof.Machine

/-! PROOF. The memories and the Pantry's queues (O20). -/

namespace Sys2Proof.Machine

section
variable {s : State} {m : Master} {v : Word}

/-! ### The Cellar and the cache's switch (spec/14 R327, R335, R336) -/

theorem exec_cellarFillDone_filling (hfilling : s.nat K.memCellarState = 2) :
    let t := (s.setN K.memCellarState 3).setN K.memFillPointer cellarEnd
    let t := memEventFree t 403 [s.elapsed s.memory.fillSince] 0
    exec .cellarFillDone s = .next (serveWaits t) :=
  if_neg (not_not.2 hfilling)

/-- The row of cache_enable is found in every state, for its index lies below those of the factory test mode (R380). -/
theorem objNow_memCacheEnable (s : State) :
    objNow s (aliasIndex 0x7100) 1 = some ⟨0x7100, 0x7100, 1, 1, .bool, .rw, .live, 0x7FFD, 1, .bool⟩ :=
  (if_neg fun h => absurd h.1 (by decide)).trans (by decide)

/-- The row of scratch_ways is found in every state. -/
theorem objNow_memScratchWays (s : State) :
    objNow s (aliasIndex 0x7100) 3 = some ⟨0x7100, 0x7100, 3, 3, .u8, .rw, .halt .cache, 0x7FFD, 0, .range 0 12⟩ :=
  (if_neg fun h => absurd h.1 (by decide)).trans (by decide)

theorem exec_cacheEnableWrite_accepted (ha : accepts s m K.memCacheEnable v = true) :
    exec (.cacheEnableWrite m v) s = .next (cacheSwitch (s.flag K.memCacheEnable) (wrote s m K.memCacheEnable v)) :=
  congrArg Host.Outcome.next (kwrite_act_rw s ha (objNow_memCacheEnable s) rfl)

theorem exec_scratchWaysWrite_accepted (ha : accepts s m K.memScratchWays v = true) :
    exec (.scratchWaysWrite m v) s = .next (scratchWaysWriteAct s (wrote s m K.memScratchWays v)) :=
  congrArg Host.Outcome.next (kwrite_act_rw s ha (objNow_memScratchWays s) rfl)

theorem exec_llcCleanDone_cleaning (hcleaning : s.flag K.memCleanInProgress = true) :
    let held := s.memory.enableHeld
    let dirty := (s.memory.lines.filter fun p => p.2.dirty).map (·.1) ++ s.memory.evict.map fun (e : Evict) => e.line
    let t := dirty.foldl lineWritten s
    let t := { t with memory := { t.memory with lines := [], evict := [], enableHeld := false } }
    let t := (t.setB K.memCleanInProgress false).setB K.memCacheEnable held
    exec .llcCleanDone s = .next (serveWaits (memEventFree t 408 [s.memory.cleanLines, s.elapsed s.memory.cleanSince] 2)) :=
  if_neg (by rw [hcleaning]; decide)

/-! ### Lines (spec/14 R325, R331, R332) -/

theorem exec_zeroLine_inCellar {a : Addr} (hin : inCellar (lineOf a.toNat) = true) :
    exec (.zeroLine a) s =
      .next (coreAccess s { master := 2, write := true, addr := lineOf a.toNat, size := 64, data := 0, since := s.now }) :=
  if_neg (by rw [hin]; decide)

section
variable {addr : Addr} {x : CoreAcc} {l : List CoreAcc} {ms : List Maint} {arr : ArrayEcc}

/-- A line that comes back clean is allocated, and the accesses and the maintenance that wait for it go on. -/
theorem exec_lineFill_clean (hfill : Sp.get s.memory.fills (lineOf addr.toNat) = some (x :: l, ms))
    (hgoes : fillStalls s (lineOf addr.toNat) = false) (hserves : cellarServes s = true) :
    let a := lineOf addr.toNat
    let t := { s with memory := { s.memory with fills := Sp.del s.memory.fills a } }
    badCause s a .clean = none → exec (.lineFill addr .clean arr) s =
      .next (ms.foldl (fun u k => maintain u a k) ((x :: l).foldl coreHit (allocLine t a { way := 0, dirty := false, data := [] } arr))) := by
  intro a t hgood
  have hexec : exec (.lineFill addr .clean arr) s = execLineFill addr .clean arr s := rfl
  rw [hexec, execLineFill]
  dsimp only
  rw [hfill]
  refine (if_neg (by rw [hgoes, hserves]; decide)).trans ?_
  rw [hgood]

/-- A line that comes back bad is not allocated, and each access that waits for it fails. -/
theorem exec_lineFill_bad {ecc : Ecc} {n : Nat} (hfill : Sp.get s.memory.fills (lineOf addr.toNat) = some (x :: l, ms))
    (hgoes : fillStalls s (lineOf addr.toNat) = false) (hserves : cellarServes s = true) :
    let a := lineOf addr.toNat
    let t := { s with memory := { s.memory with fills := Sp.del s.memory.fills a } }
    badCause s a ecc = some n → exec (.lineFill addr ecc arr) s =
      .next (ms.foldl (fun u k => maintain u a k) ((x :: l).foldl (fun u y => errorTo u y.master) (lineBad t a n x.master))) := by
  intro a t hbad
  have hexec : exec (.lineFill addr ecc arr) s = execLineFill addr ecc arr s := rfl
  rw [hexec, execLineFill]
  dsimp only
  rw [hfill]
  refine (if_neg (by rw [hgoes, hserves]; decide)).trans ?_
  rw [hbad]

end

/-! ### The Hoe (spec/14 R340-R342) -/

/-- A pass over a range of memory starts where none runs, the Cellar is not being filled and the mode is not an idle one. -/
theorem hoeStartAct_started {t : State} (hrange : hoeRangeOk t (t.nat K.memHoeBase) (t.nat K.memHoeLength) = true)
    (hfilled : t.nat K.memCellarState ≠ 2) (hidle : t.memory.hoeRun = false) (hstandby : t.nat K.pmMode ≠ 2) (hpark : t.nat K.pmMode ≠ 3) :
    let u := (t.setN K.memHoeState 1).setN K.memHoeProgress 0
    hoeStartAct t = { u.zero K.memCeFound 7 with memory := { u.memory with hoeRun := true, hoeSince := t.now } } :=
  if_neg (by simp [hrange, hfilled, hidle, hstandby, hpark])

theorem exec_hoePassEnd_running {correctable uncorrectable : List Addr} (hrun : s.memory.hoeRun = true) :
    let b := s.nat K.memHoeBase
    let n := s.nat K.memHoeLength
    let bad := linesOf (uncorrectable.map (·.toNat) ++ s.memory.poison.map (·.1)) b n
    let good := (linesOf (correctable.map (·.toNat)) b n).filter fun a => !bad.contains a
    let fails := good ++ bad
    let hits := (fails.filter (tracked s)).length
    let rewrite := decide (s.nat K.memHoeMode = 1)
    let t := good.foldl (fun u a => if inCellar a then corrected u.drawn a (u.free.toNat % 2 ^ 32) (reqCode .hoe) else u) s
    let t := if rewrite then good.foldl (fun u a => (lineUnits a).foldl (fun x k => untrack x (hoeMemory a) k) u) t else t
    let re := if rewrite then good.length else 0
    let t := ((t.setN K.memHoeState 2).setN K.memHoeProgress n).setN K.memCeFound good.length
    let t := ((t.setN K.memUeFound bad.length).setN K.memFirstFailAddr (listMin fails)).setN K.memLastFailAddr (listMax fails)
    let t := ((t.setN K.memTrackerHits hits).setN K.memRewritten re).setN K.memPassUs (sat32 (s.elapsed s.memory.hoeSince))
    let t := { t with memory := { t.memory with hoeRun := false } }
    exec (.hoePassEnd correctable uncorrectable) s =
      .next (memEvent t 409 [good.length, bad.length, re] (hoeMemory b) (listMin fails)) :=
  if_neg (by rw [hrun]; decide)

/-! ### The Pantry's sweep (spec/15 R353) -/

theorem exec_sweepDone_sweeping {q : BitVec 9} (hsweep : (s.queue q.toNat).sweep = true) :
    let x := s.queue q.toNat
    let kept := upd (Vector.replicate 4 0) (x.epoch % 4) (at' x.stale (x.epoch % 4) 0)
    let t := s.setQueue q.toNat { x with sweep := false, stale := kept, since := 0 }
    let t := setFlag (setUsed t (t.pan.used - swept x)) q.toNat 4 false
    exec (.sweepDone q) s = .next (raise (t.addN K.poolReclaimedCount (swept x)) 434 [q.toNat, swept x, s.elapsed x.since] {}) :=
  if_neg (by rw [hsweep]; decide)

end

/-- Settles O20 (spec/14 R321-R343; spec/15 R346-R356): an access has the effect of its port, an accepted write is stored and acts, and
what ends acts where it runs. A zeroed line is an access of the core CTL[0] (log 32), and the address of an event of the memory that
names none is free (log 19). -/
theorem memoryCommandsComplete : Obligations.MemoryCommandsComplete := by
  refine ⟨?access, ?fillDone, ?refresh, ?enable, ?cleanDone, ?ways, ?lines, ?fillClean, ?fillBad, ?tracker, ?hoeStart, ?hoeCancel,
    ?hoeEnd, ?queues, ?reset, ?sweep⟩
  case access => exact fun _ _ _ _ _ _ => rfl
  case fillDone => exact fun _ => exec_cellarFillDone_filling
  case refresh => exact fun _ _ _ => rfl
  case enable => exact fun _ _ _ => exec_cacheEnableWrite_accepted
  case cleanDone => exact fun _ => exec_llcCleanDone_cleaning
  case ways => exact fun _ _ _ => exec_scratchWaysWrite_accepted
  case lines => exact fun _ _ => ⟨rfl, rfl, rfl, exec_zeroLine_inCellar⟩
  case fillClean => exact fun _ _ _ _ _ _ => exec_lineFill_clean
  case fillBad => exact fun _ _ _ _ _ _ _ _ => exec_lineFill_bad
  case tracker => exact fun _ _ s ha hv => congrArg Host.Outcome.next (kwrite_act s ha hv)
  case hoeStart =>
    intro m v s ha hv t hrange hfilled hidle hstandby hpark u
    exact congrArg Host.Outcome.next ((kwrite_act s ha hv).trans (hoeStartAct_started hrange hfilled hidle hstandby hpark))
  case hoeCancel => exact fun _ _ s ha hv => congrArg Host.Outcome.next (kwrite_act s ha hv)
  case hoeEnd => exact fun _ _ _ => exec_hoePassEnd_running
  case queues => exact fun _ _ _ _ _ _ => ⟨rfl, rfl, rfl, rfl⟩
  case reset => exact fun _ _ _ s ha hv => congrArg Host.Outcome.next (kwrite_act s ha hv)
  case sweep => exact fun _ _ => exec_sweepDone_sweeping

end Sys2Proof.Machine

/-! PROOF. The Sieve's commands and runs (O21). -/

namespace Sys2Proof.Machine

section
variable {s : State} {c : CmdRef} {e : CmdEnt} {f : CmdEnt → State}

/-! ### Commands of the host (spec/16 R366-R372) -/

/-- An active Admin command of the Sieve does its work. -/
theorem sieveAdmin_active {op : Nat} (hent : activeEnt s.host.table (refOf c) true op = some e) : sieveAdmin s c op f = f e := by
  rw [sieveAdmin, hent]

/-- An active I/O command of the Sieve does its work outside Safe. -/
theorem sieveWork_active {ns : Nat} (hent : sieveEnt s (refOf c) ns = some e) (hmode : s.nat K.pmMode ≠ 5) : sieveWork s c ns f = f e := by
  rw [sieveWork, hent]
  exact if_neg hmode

theorem exec_loadProgram_accepted {slot : BitVec 4} {img : ProgImage} (hent : activeEnt s.host.table (refOf c) true 0x22 = some e)
    (hslot : 4 ≤ slot.toNat) (hgood : rejectCause s slot.toNat img = none) :
    exec (.loadProgram c slot img) s = .next (complete raise (acceptProgram s slot.toNat img) e.ref 0 0) := by
  refine congrArg Host.Outcome.next ((sieveAdmin_active hent).trans ((if_neg (Nat.not_lt.2 hslot)).trans ?_))
  rw [hgood]

theorem exec_loadProgram_rejected {slot : BitVec 4} {img : ProgImage} {k : Nat} (hent : activeEnt s.host.table (refOf c) true 0x22 = some e)
    (hslot : 4 ≤ slot.toNat) (hbad : rejectCause s slot.toNat img = some k) :
    exec (.loadProgram c slot img) s = .next (sieveRefused (rejectProgram s slot.toNat k) e) := by
  refine congrArg Host.Outcome.next ((sieveAdmin_active hent).trans ((if_neg (Nat.not_lt.2 hslot)).trans ?_))
  rw [hbad]

/-- A loaded program is activated, and deactivated where no run of it stands. -/
theorem exec_programActivationManagement_loaded {slot : BitVec 4} {up : Bool}
    (hent : activeEnt s.host.table (refOf c) true 0x23 = some e) (hloaded : slotLoaded s slot.toNat = true)
    (hidle : up = false → slotBusy s slot.toNat = false) :
    exec (.programActivationManagement c slot up) s =
      .next (complete raise (s.setBitOf (K.sivProgramSlot slot.toNat) 1 up) e.ref 0 0) := by
  have hfree : (!up && slotBusy s slot.toNat) = false := by
    cases up with
    | false => rw [hidle rfl]; rfl
    | true => rfl
  exact congrArg Host.Outcome.next ((sieveAdmin_active hent).trans
    ((if_neg (by rw [hloaded]; decide)).trans (if_neg (ne_true_of_eq_false hfree))))

/-- A new memory range set takes the lowest free number. -/
theorem exec_memoryRangeSetManagement_create {set : BitVec 4} {l : List (BitVec 32 × BitVec 32)} {i : Nat}
    (hent : activeEnt s.host.table (refOf c) true 0x21 = some e)
    (hfree : ((List.range 16).find? fun i => (Sp.get s.sieve.sets i).isNone) = some i) (hlen : l.length ≤ 8)
    (hranges : l.all (rangeOk s) = true) :
    exec (.memoryRangeSetManagement c true set l) s = .next (complete raise
      (putSets s (Sp.put s.sieve.sets i (l.map fun r => (r.1.toNat, r.2.toNat)))) e.ref 0 i) := by
  refine congrArg Host.Outcome.next ((sieveAdmin_active hent).trans ((if_pos rfl).trans ?_))
  rw [hfree]
  exact if_neg (by simp only [hranges, Nat.not_lt.2 hlen]; decide)

theorem exec_memoryRangeSetManagement_delete {set : BitVec 4} {l : List (BitVec 32 × BitVec 32)}
    (hent : activeEnt s.host.table (refOf c) true 0x21 = some e) (hset : (Sp.get s.sieve.sets set.toNat).isNone = false) :
    exec (.memoryRangeSetManagement c false set l) s =
      .next (complete raise (putSets s (Sp.del s.sieve.sets set.toNat)) e.ref 0 0) :=
  congrArg Host.Outcome.next ((sieveAdmin_active hent).trans ((if_neg (by decide)).trans (if_neg (ne_true_of_eq_false hset))))

/-- A copy of blocks of its namespace that no lock covers and that do not lie on the media is done at once. -/
theorem exec_memoryCopy_resident {d : BitVec 32} {blocks : Nat} (hent : sieveEnt s (refOf c) 4 = some e) (hmode : s.nat K.pmMode ≠ 5) :
    let ns := e.sqe.cdw13.toNat
    let first := e.sqe.slba.toNat
    let count := e.sqe.nlb.toNat + 1
    let bs := (List.range count).map fun i => resolveBlock s ns (first + i)
    nsBlocks s ns = some blocks → first + count ≤ blocks → slmOk s d.toNat (4096 * count) = true →
    lockedRange s false ns first count = none → bs.contains .media = false →
    exec (.memoryCopy c d) s =
      .next (complete raise (s.store (s.nat K.sivSlmBase + d.toNat) (bs.flatMap (blockData s))) e.ref 0 0) := by
  intro ns first count bs hns hrange hdest hopen hresident
  refine congrArg Host.Outcome.next ((sieveWork_active hent hmode).trans ?_)
  dsimp only
  rw [hns]
  refine (if_neg (Nat.not_lt.2 hrange)).trans ((if_neg (by rw [hdest]; decide)).trans ?_)
  rw [hopen]
  exact if_neg (ne_true_of_eq_false hresident)

theorem exec_slmRead_inside {o n : BitVec 32} (hent : sieveEnt s (refOf c) 4 = some e) (hmode : s.nat K.pmMode ≠ 5)
    (hrange : slmOk s o.toNat n.toNat = true) :
    exec (.slmRead c o n) s =
      .next (complete raise (returnData s e.ref (s.load (s.nat K.sivSlmBase + o.toNat) n.toNat)) e.ref 0 0) :=
  congrArg Host.Outcome.next ((sieveWork_active hent hmode).trans (if_neg (by rw [hrange]; decide)))

theorem exec_slmWrite_inside {o : BitVec 32} {l : List Byte} (hent : sieveEnt s (refOf c) 4 = some e) (hmode : s.nat K.pmMode ≠ 5)
    (hrange : slmOk s o.toNat l.length = true) :
    exec (.slmWrite c o l) s = .next (complete raise (s.store (s.nat K.sivSlmBase + o.toNat) l) e.ref 0 0) :=
  congrArg Host.Outcome.next ((sieveWork_active hent hmode).trans (if_neg (by rw [hrange]; decide)))

end

section
variable {s : State} {n : Fin 8} {x : Run}

/-! ### Runs of the firmware and of the host (spec/16 R369-R378) -/

/-- A firmware run begins in an active slot while the Sieve is on. -/
theorem fwStartAct_active {t : State} {i : Nat} (hon : t.flag K.sivSieveEnable = true)
    (hactive : slotActive t (t.nat (K.engFwSlot i)) = true) :
    let f := fwRanges t (t.nat (K.engFwRanges i))
    fwStartAct i t = beginRun t i { slot := t.nat (K.engFwSlot i), owner := .firmware, cparam1 := t.nat (K.engFwCparam1 i),
                                    cparam2 := t.nat (K.engFwCparam2 i), ranges := f.1, queue := f.2 } :=
  if_neg (by rw [hon, hactive]; decide)

theorem exec_ecallExit_running {a0 runUs : BitVec 32} (hrun : runningRun s n = some x) :
    let d := if x.slot < 4 then deviceOutput s x else (s, a0.toNat)
    let t := (runEnds d.1 n 1 d.2 0).setN (K.engRunUs n) runUs.toNat
    exec (.ecallExit n a0 runUs) s = .next (afterRun (sieveEvent raise t n 451 [n, d.2, runUs.toNat])) := by
  have hexec : exec (.ecallExit n a0 runUs) s = execEcallExit n a0 runUs s := rfl
  rw [hexec, execEcallExit, hrun]

section
variable {a : BitVec 18} {tag : BitVec 16}

/-- A pop into the run's data takes the head of the run's queue and delivers the tag word. -/
theorem exec_ecallPop_queue (hrun : runningRun s n = some x) (htop : a.toNat + 60 ≤ 0x3F000) (hdata : dataEnd s x ≤ a.toNat)
    (hqueue : x.queue ≠ 0x1FF) :
    let p := pantryPop raise s x.queue .ok
    exec (.ecallPop n a) s = .next ((p.2.2.store (localBase n + a.toNat) p.2.1).deliver (17 + n.val) (BitVec.ofNat 64 p.1)) := by
  have hexec : exec (.ecallPop n a) s = execEcallPop n a s := rfl
  rw [hexec, execEcallPop, hrun]
  exact (if_neg (by omega)).trans (if_neg hqueue)

theorem exec_ecallPop_noQueue (hrun : runningRun s n = some x) (htop : a.toNat + 60 ≤ 0x3F000) (hdata : dataEnd s x ≤ a.toNat)
    (hqueue : x.queue = 0x1FF) : exec (.ecallPop n a) s = .next (s.deliver (17 + n.val) 0) := by
  have hexec : exec (.ecallPop n a) s = execEcallPop n a s := rfl
  rw [hexec, execEcallPop, hrun]
  exact (if_neg (by omega)).trans (if_pos hqueue)

theorem exec_ecallPush_queue (hrun : runningRun s n = some x) (htop : a.toNat + 60 ≤ 0x40000) (hqueue : x.queue ≠ 0x1FF) :
    exec (.ecallPush n a tag) s = .next (pantryPush raise s (portNum (.fabric (.sieve n))) ((x.queue + 1) % 512) tag.toNat
      (s.load (localBase n + a.toNat) 60) .ok) := by
  have hexec : exec (.ecallPush n a tag) s = execEcallPush n a tag s := rfl
  rw [hexec, execEcallPush, hrun]
  exact (if_neg (by omega)).trans (if_neg hqueue)

end

theorem exec_programFault_running {mcause : BitVec 32} {pc : Word} {a : Addr} (hrun : runningRun s n = some x) :
    exec (.programFault n mcause pc a) s = .next (faultRun s n mcause.toNat pc.toNat a.toNat) :=
  congrArg Host.Outcome.next (if_pos (by rw [hrun]; rfl))

theorem exec_execTimeout_running {pc : Word} (hrun : runningRun s n = some x) :
    exec (.execTimeout n pc) s = .next (afterRun
      (sieveEvent raise (runEnds (s.inc K.sivTimeoutCount) n 2 0 (stat 1 0xC2)) n 453 [n, x.slot, pc.toNat])) := by
  have hexec : exec (.execTimeout n pc) s = execExecTimeout n pc s := rfl
  rw [hexec, execExecTimeout, hrun]

/-- A host's run that waits for its grant ends unstarted. -/
theorem exec_grantWaitExpiry_waiting {r : Ref} (hrun : (s.sieveEng n).run = some x) (howner : x.owner = .host r)
    (hwaits : engState s n = 2) (hgrant : x.granted = false) :
    let t := runEnds s n 4 0 (stat 1 0xC4)
    exec (.grantWaitExpiry n) s = .next (afterRun (sieveEvent raise t n 458 [x.slot, t.nat K.pmEnvelopeNowMw])) := by
  have hexec : exec (.grantWaitExpiry n) s = execGrantWaitExpiry n s := rfl
  rw [hexec, execGrantWaitExpiry, hrun]
  dsimp only
  rw [howner]
  exact if_neg (by simp [hwaits, hgrant])

theorem exec_pauseLimitExpiry_paused (hpaused : engState s n = 4) : exec (.pauseLimitExpiry n) s = .next (afterRun (withdrawRun raise s n)) :=
  congrArg Host.Outcome.next (if_pos hpaused)

end

/-- Settles O21 (spec/16 R361-R379): an active command whose operands pass their checks has its work done, and a run's event acts on the
run it finds. The lowest free set number, the namespace in double word 13 and the queue 0x1FF of a run without one are deduced (log 30);
the opcodes are presumed (log 20). -/
theorem sieveCommandsComplete : Obligations.SieveCommandsComplete := by
  refine ⟨?load, ?activation, ?create, ?delete, ?execute, ?copy, ?slm, ?fwStart, ?fwStop, ?start, ?exit, ?ecalls, ?faults, ?grant, ?pause⟩
  case load => exact fun _ _ _ _ _ hent hslot => ⟨exec_loadProgram_accepted hent hslot, fun _ => exec_loadProgram_rejected hent hslot⟩
  case activation => exact fun _ _ _ _ _ => exec_programActivationManagement_loaded
  case create => exact fun _ _ _ _ _ _ => exec_memoryRangeSetManagement_create
  case delete => exact fun _ _ _ _ _ => exec_memoryRangeSetManagement_delete
  case execute =>
    intro c slot set a b e s hent hmode hactive hset hwaiting hrunning
    exact congrArg Host.Outcome.next ((sieveWork_active hent hmode).trans ((if_neg (by rw [hactive, hset]; decide)).trans
      (if_neg (ne_true_of_eq_false (Bool.or_eq_false_iff.2 ⟨hwaiting, hrunning⟩)))))
  case copy => exact fun _ _ _ _ _ => exec_memoryCopy_resident
  case slm => exact fun _ _ _ _ _ _ hent hmode => ⟨exec_slmRead_inside hent hmode, exec_slmWrite_inside hent hmode⟩
  case fwStart =>
    intro m n v s ha hv t slot f hon hactive
    exact congrArg Host.Outcome.next ((kwrite_act s ha hv).trans (fwStartAct_active hon hactive))
  case fwStop => exact fun _ _ _ s ha hv => congrArg Host.Outcome.next (kwrite_act s ha hv)
  case start =>
    intro n x s hrun hmay hgood a
    have hexec : exec (.programStart n) s = execProgramStart n s := rfl
    rw [hexec, execProgramStart, hrun]
    refine (if_neg (by rw [hmay]; decide)).trans ?_
    generalize deviceFault x = o at hgood ⊢
    subst hgood
    rfl
  case exit => exact fun _ _ _ _ _ => exec_ecallExit_running
  case ecalls =>
    exact fun _ _ _ _ _ hrun => ⟨exec_ecallPop_queue hrun, exec_ecallPop_noQueue hrun, exec_ecallPush_queue hrun⟩
  case faults => exact fun _ _ _ _ _ _ hrun => ⟨exec_programFault_running hrun, exec_execTimeout_running hrun⟩
  case grant => exact fun _ _ _ _ => exec_grantWaitExpiry_waiting
  case pause => exact fun _ _ => exec_pauseLimitExpiry_paused

end Sys2Proof.Machine

/-! PROOF. Frames, locks and the management link (O22). -/

namespace Sys2Proof.Machine

section
variable {s : State}

/-! ### Frames on their paths (spec/17 R395-R399) -/

section
variable {l : List Byte} {op n : Nat}

/-- A frame of its path's operation runs through its port. -/
theorem framePath_port {c : Fin 4} (hhead : frameHead l = some (op, n)) : framePath s (.port c) op l = portRun s c.val l := by
  rw [framePath, hhead]
  exact congrArg (portRun s c.val) (if_pos (beq_self_eq_true op))

/-- A well-formed frame of its path's operation is answered on the management bus. -/
theorem framePath_mgmtBus {f : FrameRun} (hrun : runFrame s 15 l = some f) (hhead : frameHead l = some (op, n)) :
    framePath s .mgmtBus op l = answer f.state 0 (response f 4096) := by
  simp [framePath, hhead, hrun]

end

/-! ### Lock entries (spec/17 R393) -/

section
variable {m : Master} {v : Word} {i : Fin 16}

/-- The row of the lock entries is found in every state, for its index lies below those of the factory test mode (R380). -/
theorem objNow_dictLock (s : State) (i : Fin 16) :
    objNow s (aliasIndex 0x1040) (i + 1) = some ⟨0x1040, 0x1040, 1, 16, .u64, .rw, .live, 0x1FFFF, 0, .any⟩ :=
  have hrow : ∀ j : Fin 16, objRow (aliasIndex 0x1040) (j + 1) = some ⟨0x1040, 0x1040, 1, 16, .u64, .rw, .live, 0x1FFFF, 0, .any⟩ := by
    decide
  (if_neg fun h => absurd h.1 (by decide)).trans (hrow i)

/-- A write of a lock entry keeps the writer as its owner, and a change of the entry is one of its object. -/
theorem onWrite_dictLock {t : State} : onWrite s m (0x1040 * 256 + (i.val + 1)) v t =
    if s.obj (0x1040 * 256 + (i.val + 1)) = t.obj (0x1040 * 256 + (i.val + 1)) then
      t.setN (0x1040 * 256 + (i.val + 1)) (lockWord m v.toNat)
    else objectChanged (t.setN (0x1040 * 256 + (i.val + 1)) (lockWord m v.toNat)) 0x1040 (i.val + 1) := by
  have hclear : ∀ j : Fin 16, isClear 0x1040 (j + 1) = false := by decide
  have hsub : i.val + 1 < 256 := Nat.lt_of_le_of_lt i.isLt (by decide)
  simp only [onWrite, onWriteDict, key_index hsub, key_sub hsub, hclear, Bool.false_eq_true, if_false, if_true, Nat.reduceDiv]

theorem dictLock_eq : K.dictLock i = 0x1040 * 256 + (i.val + 1) := congrArg (0x1040 * 256 + ·) (Nat.add_comm 1 i.val)

theorem hookWrite_dictLock (ha : accepts s m (K.dictLock i) v = true) :
    let t := wrote s m (K.dictLock i) v
    let u := t.setN (K.dictLock i) (lockWord m v.toNat)
    hookWrite s m 0x1040 (i.val + 1) v =
      if s.obj (K.dictLock i) = t.obj (K.dictLock i) then u else objectChanged u 0x1040 (i.val + 1) := by
  rw [dictLock_eq] at ha ⊢
  have hsub : i.val + 1 < 256 := Nat.lt_of_le_of_lt i.isLt (by decide)
  rw [hookWrite_accepted_rw hsub ha (objNow_dictLock s i) rfl]
  exact onWrite_dictLock

end

/-! ### The dictionary store (spec/17 R394) -/

theorem exec_dictStoreError_rw {i : BitVec 16} {sub : Byte} {r : ObjRow} (hrow : objNow s (aliasIndex i.toNat) sub.toNat = some r)
    (hunit : unitAbsent s.variant i.toNat = false) (hrw : r.acc = .rw) :
    let k := aliasIndex i.toNat * 256 + sub.toNat
    let t := { s.set k (defaultOf s.variant k) with edge := Sp.del s.edge k, blobs := Sp.del s.blobs k }
    exec (.dictStoreError i sub) s = .next (raise t 492 [i.toNat, sub.toNat] {}) := by
  have hexec : exec (.dictStoreError i sub) s = execDictStoreError i sub s := rfl
  rw [hexec, execDictStoreError]
  dsimp only
  rw [hrow]
  exact if_neg (by rw [hunit, hrw]; decide)

/-! ### Requests of the management link (spec/17 R399-R402) -/

section
variable {c : Byte} {v : BitVec 32}

theorem exec_readNvmeMiDataStructure_ready {d : Byte} (hready : miBusy s = false) :
    exec (.readNvmeMiDataStructure d) s = .next (answer s.drawn 0 (leBytes 8 s.free.toNat)) :=
  congrArg Host.Outcome.next (if_neg (ne_true_of_eq_false hready))

theorem exec_configurationSet_known (hready : miBusy s = false) (hknown : miConfig c = true) :
    exec (.configurationSet c v) s =
      .next (answer { s with mgmt := { s.mgmt with config := Sp.put s.mgmt.config c.toNat v.toNat } } 0 []) :=
  congrArg Host.Outcome.next ((if_neg (ne_true_of_eq_false hready)).trans (if_neg (by rw [hknown]; decide)))

theorem exec_configurationGet_set {x : Nat} (hready : miBusy s = false) (hknown : miConfig c = true)
    (hset : Sp.get s.mgmt.config c.toNat = some x) : exec (.configurationGet c) s = .next (answer s 0 (leBytes 4 x)) := by
  refine congrArg Host.Outcome.next ((if_neg (ne_true_of_eq_false hready)).trans ((if_neg (by rw [hknown]; decide)).trans ?_))
  rw [hset]

theorem exec_mgmtReset_accepted {m : Master} {v : Word} (ha : accepts s m K.mgmtMgmtReset v = true) (hv : v ≠ 0) :
    exec (.mgmtReset m v) s = .next (onWrite s m K.mgmtMgmtReset v (wrote s m K.mgmtMgmtReset v)) :=
  congrArg Host.Outcome.next (hookWrite_accepted (Nat.mod_lt _ (by decide)) ha hv)

end

end

/-- Settles O22 (spec/17 R380-R402): a frame of its path's operation runs, an accepted write of a lock entry names its writer, an error of
the store restores the default of an RW object, and a request of the management link acts where the link is not busy. What the health polls
answer is free and the configuration identifiers are presumed (log 15). -/
theorem managementCommandsComplete : Obligations.ManagementCommandsComplete := by
  refine ⟨?port, ?bus, ?locks, ?store, ?polls, ?config, ?linkReset, ?reset, ?addresses⟩
  case port =>
    exact fun _ _ _ => ⟨fun _ h => congrArg Host.Outcome.next (framePath_port h), fun _ h => congrArg Host.Outcome.next (framePath_port h),
      fun _ h => congrArg Host.Outcome.next (framePath_port h)⟩
  case bus =>
    exact fun _ _ _ hrun => ⟨fun _ h => congrArg Host.Outcome.next (framePath_mgmtBus hrun h),
      fun _ h => congrArg Host.Outcome.next (framePath_mgmtBus hrun h), fun _ h => congrArg Host.Outcome.next (framePath_mgmtBus hrun h)⟩
  case locks =>
    exact fun _ _ _ _ ha => ⟨congrArg Host.Outcome.next (hookWrite_dictLock ha), congrArg Host.Outcome.next (hookWrite_dictLock ha)⟩
  case store => exact fun _ _ _ _ => exec_dictStoreError_rw
  case polls => exact fun _ _ _ hready => ⟨exec_readNvmeMiDataStructure_ready hready, rfl, rfl⟩
  case config =>
    exact fun _ _ _ hready hknown => ⟨exec_configurationSet_known hready hknown, fun _ => exec_configurationGet_set hready hknown⟩
  case linkReset => exact fun _ => ⟨rfl, rfl, rfl⟩
  case reset => exact fun _ _ _ => exec_mgmtReset_accepted
  case addresses => exact fun _ _ _ => ⟨rfl, rfl⟩

end Sys2Proof.Machine

/-! PROOF. Strongroom's commands (O23). -/

namespace Sys2Proof.Machine

section
variable {s t : State}

/-! ### Boot, measurement and the seal (spec/18 R404, R410, R411) -/

theorem exec_bootEntry_reset {i : BootIn} (hmode : s.nat K.pmMode = 0) (hrom : s.nat K.srSrState = 0) (hpower : s.power.loss = false) :
    let t := lockRanges (bootStart s i)
    let t := showStore (showRecord (t.on (decide (t.nat K.srErasePending ≠ 0)) fun u => srEvent u 476 [u.nat K.srErasePending]))
    let t := if t.variant = .xe ∨ t.variant = .xp then
        (List.range 4).foldl (fun u j => u.setN (K.sivProgramSlot j) 9) t else t
    let t := firstStage t i
    exec (.bootEntry i) s = .next (if t.nat K.srSrState = 2 then reloadPrograms t else t) :=
  if_neg (by simp [hmode, hrom, hpower])

/-- A ledger that is not full takes the entry of the range measured. -/
theorem measGoAct_room (hroom : t.strong.entries.length < 57) :
    let e : LedgerEnt := { kind := 7, index := t.nat K.srMeasIndex, flags := 1, version := t.nat K.srMeasVersion,
                           component := t.nat K.srMeasComponent,
                           digest := Config.sha384 (t.load (t.nat K.srMeasAddr) (t.nat K.srMeasLen)) }
    measGoAct t = (measure t e).setN K.srMeasState 2 :=
  if_neg (by rw [decide_eq_false (Nat.not_le.2 hroom), Bool.and_false]; decide)

theorem exec_sealTimeout_unasked {b : Bool} (hopen : s.strong.sealed = false) (hwait : s.strong.sealWait = none)
    (hreleased : s.nat K.srSrState = 2) : exec (.sealTimeout b) s = .next (sealAsk s true b) :=
  congrArg Host.Outcome.next (State.on_true _ (by rw [hopen, hwait, hreleased]; decide))

/-! ### Confirmation (spec/18 R406) -/

/-- The running image is confirmed while it is the one on trial. -/
theorem fwConfirmAct_trial (hrunning : t.strong.running ≠ 0) (htrial : t.strong.running = t.strong.trialImage) :
    let x := t.strong
    fwConfirmAct t = measureRuntime
      (showRecord { t with strong := { x with confirmed := x.running, bootSelect := x.running, trialImage := 0 } })
      (imageEntry 1 x.runVersion x.runHash) :=
  if_neg (not_or.2 ⟨hrunning, not_not.2 htrial⟩)

theorem exec_rollbackAdvance_accepted {m : Master} {v : Word} (ha : accepts s m K.srRollbackAdvance v = true) (hv : v ≠ 0) :
    exec (.rollbackAdvance m v) s = .next (rollbackAdvanceAct (wrote s m K.srRollbackAdvance v)) :=
  congrArg Host.Outcome.next (kwrite_act (f := rollbackAdvanceAct) s ha hv)

/-! ### Attestation (spec/18 R418, R419) -/

/-- With SPDM enabled and the ledger sealed a request is answered with its bytes. -/
theorem spdmServe_ready {p : SpdmPath} {req : Nat} {l : List Byte} (hon : s.flag K.srSpdmEnable = true) (hsealed : s.strong.sealed = true) :
    spdmServe s p req (some l) = spdmAnswer s p req 0 l :=
  (if_neg (by rw [hon]; decide)).trans (if_neg (by rw [hsealed]; decide))

theorem exec_getMeasurements_block {p : SpdmPath} {i : Byte} {b : Nat × List Byte} {c : BitVec 256} (hon : s.flag K.srSpdmEnable = true)
    (hsealed : s.strong.sealed = true) (hfirst : 0 < i.toNat) (hlast : i.toNat < 255) (hblock : measBlock s i.toNat = some b) :
    exec (.getMeasurements p i false c) s = .next (spdmAnswer s p 0xE0 0 (blockBytes i.toNat b)) := by
  have hexec : exec (.getMeasurements p i false c) s = execGetMeasurements p i false c s := rfl
  rw [hexec, execGetMeasurements, if_neg (Nat.ne_of_gt hfirst), if_neg (Nat.ne_of_lt hlast), hblock]
  exact congrArg Host.Outcome.next (spdmServe_ready hon hsealed)

/-! ### Erases and faults (spec/18 R423, R425) -/

theorem exec_genkey_authorised {r : Fin 17} (hfree : eraseHeld s = false) :
    exec (.genkey r true) s = .next (beginErase s [r.val] .genkey) :=
  congrArg Host.Outcome.next ((if_neg (by decide)).trans (if_neg (ne_true_of_eq_false hfree)))

/-- An authorised revert of each method erases every range and takes the Opal state back to Manufactured-Inactive. -/
theorem revertAll_authorised {method : Nat} (hfree : eraseHeld s = false) :
    let t := beginErase s allRanges .revert
    let t := { t with strong := { t.strong with ranges := Vector.replicate 17 {} } }
    revertAll s true method = ((t.setN K.srOpalState 0).setN K.srReadLocked 0).setN K.srWriteLocked 0 :=
  (if_neg (by decide)).trans (if_neg (ne_true_of_eq_false hfree))

/-- The end of an erase that no command of the host asked for. -/
theorem eraseDoneAct_opal {x : EraseSource} (hpending : t.nat K.srErasePending ≠ 0) (hsource : t.strong.erase = some x)
    (hopal : x = .genkey ∨ x = .revert) :
    let u := ({ t.drawn with strong := { t.strong with erase := none } }).setN K.srErasePending 0
    eraseDoneAct t = srEvent u 475 [t.nat K.srErasePending, x.code] := by
  refine (if_neg hpending).trans ?_
  rw [hsource]
  rcases hopal with rfl | rfl <;> rfl

theorem exec_strongroomFault_notKeyStore {c : SrFault} (hcause : c ≠ .keyStore) :
    let t := { s with strong := { s.strong with failed := true } }.setN K.srSrState 6
    exec (.strongroomFault c) s = .next (safeNow raise (srEvent t 478 [srFaultCode c]) 478) := by
  intro t
  have hexec : exec (.strongroomFault c) s = execStrongroomFault c s := rfl
  rw [hexec, execStrongroomFault, if_neg hcause]

end

/-- Settles O23 (spec/18 R404-R425): an accepted request starts its action, and an authorised or enabled one is done where nothing holds it
back. The SPDM codes and the forms of the answers are presumed, and so is that a running erase lets no other begin (log 37). -/
theorem strongroomCommandsComplete : Obligations.StrongroomCommandsComplete := by
  refine ⟨?boot, ?meas, ?sealRequest, ?sealTimeout, ?confirm, ?rollback, ?spdm, ?erases, ?locks, ?eraseDone, ?fault⟩
  case boot => exact fun _ _ => exec_bootEntry_reset
  case meas =>
    intro m v s ha hv t hroom e
    exact congrArg Host.Outcome.next ((kwrite_act s ha hv).trans (measGoAct_room hroom))
  case sealRequest => exact fun _ _ _ s ha hv => congrArg Host.Outcome.next (kwrite_act s ha hv)
  case sealTimeout => exact fun _ _ => exec_sealTimeout_unasked
  case confirm =>
    intro m v s ha hv t x hrunning htrial
    exact congrArg Host.Outcome.next ((kwrite_act s ha hv).trans (fwConfirmAct_trial hrunning htrial))
  case rollback =>
    intro m v s ha hv
    refine (exec_rollbackAdvance_accepted ha hv).trans ?_
    -- the same branches on the least versions, whatever these are
    unfold rollbackAdvanceAct
    generalize leastVersion = least, advanceFloor = advance
    rfl
  case spdm =>
    intro p o n c s hon hsealed l
    have hserve (req : Nat) (l : List Byte) : (.next (spdmServe s p req (some l)) : Host.Outcome State Fault Refusal) =
        .next (spdmAnswer s p req 0 l) := congrArg Host.Outcome.next (spdmServe_ready hon hsealed)
    exact ⟨hserve 0x84 _, hserve 0xE1 _, hserve 0xE3 _, hserve 0x81 _, hserve 0x82 _, hserve 0x83 _, hserve 0xE0 _,
      fun _ _ => exec_getMeasurements_block hon hsealed⟩
  case erases =>
    intro r s hfree t t'
    exact ⟨exec_genkey_authorised hfree, congrArg Host.Outcome.next (revertAll_authorised hfree),
      congrArg Host.Outcome.next (revertAll_authorised hfree), congrArg Host.Outcome.next (revertAll_authorised hfree)⟩
  case locks => exact fun _ _ _ _ => rfl
  case eraseDone =>
    intro m v x s ha hv t hpending hsource hopal u
    exact congrArg Host.Outcome.next ((kwrite_act s ha hv).trans (eraseDoneAct_opal hpending hsource hopal))
  case fault => exact fun _ _ => exec_strongroomFault_notKeyStore

end Sys2Proof.Machine

/-! PROOF. Events and the Almanac (O24). -/

namespace Sys2Proof.Machine

section
variable {s : State} {m : Master} {v : Word} {p : Fin 3}

/-! ### The Almanac's records and cursors (spec/19 R440-R446) -/

/-- The oldest queued record of a partition is written. -/
theorem exec_almanacRecordWrite_queued {r : Rec} {rest : List Rec} (hqueued : (s.ev.part p).ingress = r :: rest) :
    let x := s.ev.part p
    exec (.almanacRecordWrite p) s =
      .next (queueGap { s with ev := s.ev.setPart p { x with ingress := rest, recs := x.recs ++ [r] } } p) := by
  have hexec : exec (.almanacRecordWrite p) s = execAlmanacRecordWrite p s := rfl
  rw [hexec, execAlmanacRecordWrite]
  dsimp only
  rw [hqueued]

/-- The row of the cursors is found in every state, for their indices lie below those of the factory test mode (R380). -/
theorem objNow_almCursor (s : State) (p : Fin 3) :
    objNow s (aliasIndex (0xA040 + 0x1 * p)) 5 = some ⟨0xA040, 0xA040, 5, 5, .u32, .rw, .live, 0xFFFF, 0, .range 0 16777215⟩ := by
  have hfound : ∀ q : Fin 3, aliasIndex (0xA040 + 0x1 * q) < 0xF000 ∧ objRow (aliasIndex (0xA040 + 0x1 * q)) 5 =
      some ⟨0xA040, 0xA040, 5, 5, .u32, .rw, .live, 0xFFFF, 0, .range 0 16777215⟩ := by decide
  obtain ⟨hbelow, hrow⟩ := hfound p
  exact (if_neg fun h => absurd h.1 (Nat.not_le.2 hbelow)).trans hrow

theorem exec_cursorWrite_accepted (ha : accepts s m (K.almCursor p) v = true) :
    exec (.cursorWrite m p v) s = .next (cursorWriteAct p v (wrote s m (K.almCursor p) v)) := by
  have hrow : objNow s (aliasIndex (K.almCursor p / 256)) (K.almCursor p % 256) =
      some ⟨0xA040, 0xA040, 5, 5, .u32, .rw, .live, 0xFFFF, 0, .range 0 16777215⟩ := by
    rw [K.almCursor, key_index (by decide), key_sub (by decide)]
    exact objNow_almCursor s p
  exact congrArg Host.Outcome.next (kwrite_act_rw s ha hrow rfl)

theorem exec_persistEnd_done {a : BitVec 32} (hrun : s.nat (K.almPersistState p) = 1) :
    let x := s.ev.part p
    let slot := s.ev.nextSeg % 1024
    let seg := segmentBytes p x (s.nat K.srBootCounter) s.now (s.ev.nextSeg + 1)
    let t := { s with ev := { s.ev with segs := Sp.put s.ev.segs slot seg, nextSeg := s.ev.nextSeg + 1 } }
    let t := (t.setN (K.almPersistState p) 2).setN (K.almPersistSlot p) slot
    exec (.persistEnd p true a) s = .next (raise t 482 [p.val, slot, x.recs.length] {}) :=
  (if_neg (not_not.2 hrun)).trans (if_pos rfl)

theorem exec_persistEnd_failed {a : BitVec 32} (hrun : s.nat (K.almPersistState p) = 1) :
    exec (.persistEnd p false a) s = .next (raise (s.setN (K.almPersistState p) 3) 483 [p.val, 0, a.toNat] {}) :=
  (if_neg (not_not.2 hrun)).trans (if_neg (by decide))

end

/-- Settles O24 (spec/19 R427-R445): an accepted write is stored and has its object's action, and what ends or is written acts where it is
found. That a source raised again at the end of blanking is raised for the first of its unit's occurrences is the model's (log 52), and an
injected event's engine or slot is deduced (log 19). -/
theorem eventCommandsComplete : Obligations.EventCommandsComplete := by
  refine ⟨?reset, ?blanking, ?pulse, ?hold, ?latched, ?release, ?mode, ?config, ?inject, ?record, ?fwWrite, ?window, ?cursor,
    ?partition, ?persist, ?persistEnd⟩
  case reset => exact fun _ _ _ => rfl
  case blanking =>
    intro u l x s hblank
    have hexec : exec (.blankingEnd u l) s = execBlankingEnd u l s := rfl
    rw [hexec, execBlankingEnd]
    generalize at' s.ev.blank u none = o at hblank ⊢
    subst hblank
    rfl
  case pulse => exact fun _ => rfl
  case hold => exact fun _ _ _ => rfl
  case latched =>
    intro m b hi v s k ha hv t x bits c
    exact congrArg Host.Outcome.next (kwrite_act (f := latchedClearAct b hi v) s ha hv)
  case release => exact fun _ b _ s ha hv => congrArg Host.Outcome.next (kwrite_act (f := captureReleaseAct b) s ha hv)
  case mode => exact fun _ _ _ => exec_captureModeWrite_accepted
  case config => exact fun _ _ _ _ => rfl
  case inject => exact fun m _ s ha hv => congrArg Host.Outcome.next (kwrite_act (f := injectGoAct m) s ha hv)
  case record => exact fun _ _ _ _ => exec_almanacRecordWrite_queued
  case fwWrite => exact fun m _ s ha hv => congrArg Host.Outcome.next (kwrite_act (f := fwWriteAct m) s ha hv)
  case window => exact fun _ _ _ _ => rfl
  case cursor => exact fun _ _ _ _ => exec_cursorWrite_accepted
  case partition => exact fun _ p _ s ha hv => congrArg Host.Outcome.next (kwrite_act (f := partitionReleaseAct p) s ha hv)
  case persist => exact fun _ p _ s ha hv => congrArg Host.Outcome.next (kwrite_act (f := persistGoAct p) s ha hv)
  case persistEnd => exact fun _ _ _ hrun => ⟨exec_persistEnd_done hrun, exec_persistEnd_failed hrun⟩

end Sys2Proof.Machine

/-! PROOF. The power management (O25). -/

namespace Sys2Proof.Machine

section
variable {s : State}

/-! ### Modes and resets (spec/20 R451, R452, R456, R458) -/

theorem exec_modeTick_safeRequest {c : Nat} (hmode : s.nat K.pmMode ≠ 5) (hsafe : s.ev.safeReq = some c) :
    exec .modeTick s = .next (safeEnter raise s c false) := by
  refine congrArg Host.Outcome.next ((if_neg hmode).trans ?_)
  rw [hsafe]

/-- Without a Safe request, a power loss and a trip the mode manager moves on. -/
theorem exec_modeTick_manages (hmode : s.nat K.pmMode ≠ 5) (hsafe : s.ev.safeReq = none) (hpower : s.power.loss = false)
    (htrip : s.power.trip.isSome = false) : exec .modeTick s = .next (manageMode s) := by
  refine congrArg Host.Outcome.next ((if_neg hmode).trans ?_)
  rw [hsafe]
  exact if_neg (by rw [hpower, htrip]; decide)

section
variable {row : Nat}

theorem exec_modeRowComplete_done (hrow : s.power.row = some row) (hdone : rowDone s row = true) :
    exec .modeRowComplete s = .next (endRow s row) := by
  have hexec : exec .modeRowComplete s = execModeRowComplete s := rfl
  rw [hexec, execModeRowComplete, hrow]
  exact congrArg Host.Outcome.next (if_pos hdone)

theorem exec_modeRowTimeout_first (hrow : s.power.row = some row) (hfirst : s.power.rowLate = false) :
    exec .modeRowTimeout s =
      .next (modeEvent raise { s with power := { s.power with rowLate := true } } 10 [row, s.nat K.pmMode]) := by
  have hexec : exec .modeRowTimeout s = execModeRowTimeout s := rfl
  rw [hexec, execModeRowTimeout, hrow]
  exact congrArg Host.Outcome.next (if_neg (ne_true_of_eq_false hfirst))

end

theorem exec_safeEntry_requested {c : Fin 512} {n : Nat} (hsafe : s.ev.safeReq = some n) :
    exec (.safeEntry c false) s = .next (safeEnter raise s n false) := by
  refine congrArg Host.Outcome.next ((if_neg (by decide)).trans ?_)
  rw [hsafe]

theorem exec_warmReset_powerLoss (hidle : flushIdle s = true) (hloss : s.power.loss = true) (hdone : sequenceDone s = true) :
    exec (.warmReset .powerLoss) s = .next (warmReset s 2 0) :=
  congrArg Host.Outcome.next (if_pos (by rw [hloss, hdone, hidle]; rfl))

theorem exec_warmReset_thermalTrip (hidle : flushIdle s = true) (htrip : s.power.trip.isSome = true) :
    exec (.warmReset .thermalTrip) s = .next (warmReset s 3 (s.elapsed s.power.tripSince / 1000)) :=
  congrArg Host.Outcome.next (if_pos (by rw [htrip, hidle]; rfl))

theorem exec_warmReset_safeRestart (hidle : flushIdle s = true) (hmode : s.nat K.pmMode = 5) (hrestart : s.power.restart = true) :
    exec (.warmReset .safeRestart) s = .next (warmReset s 4 0) :=
  congrArg Host.Outcome.next (if_pos ⟨hmode, hrestart, hidle⟩)

/-! ### Supplies (spec/20 R457) -/

section
variable {mv : BitVec 16}

theorem exec_supplyOutOfRange_12V : exec (.supplyOutOfRange 0 mv) s = .next
    (if 10200 ≤ mv.toNat ∧ mv.toNat < 10800 then modeEvent raise s 2 [0, mv.toNat]
      else if 13200 < mv.toNat then modeEvent raise s 3 [0, mv.toNat] else s) := rfl

theorem exec_supplyOutOfRange_5V : exec (.supplyOutOfRange 1 mv) s = .next
    (if 4500 ≤ mv.toNat ∧ mv.toNat < 4750 then modeEvent raise s 2 [1, mv.toNat]
      else if 5250 < mv.toNat then modeEvent raise s 3 [1, mv.toNat] else s) := rfl

end

/-! ### Standby (spec/20 R455) -/

theorem exec_standbyWake_asleep {c : WakeCause} {b : Bool} (hmode : s.nat K.pmMode = 4) (hasleep : s.power.electronicsWake = false) :
    let t := modeEvent raise { s with power := { s.power with electronicsWake := true } } 11 [wakeCode c, b2n b]
    exec (.standbyWake c b) s = .next (wakeDomains.foldl (fun u d => domainGo u d 1) t) :=
  congrArg Host.Outcome.next (if_neg (by simp [hmode, hasleep]))

theorem exec_standbyIdleExpiry_idle (hmode : s.nat K.pmMode = 4) (hawake : s.power.electronicsWake = true) (hrow : s.power.row = none)
    (htarget : (modeTargetOf s).1 = 4) (hdone : (s.host.table.all fun e => e.st == .committed) = true) :
    exec .standbyIdleExpiry s = .next
      (wakeDomains.foldl (fun u d => domainGo u d 2) { s with power := { s.power with electronicsWake := false } }) :=
  congrArg Host.Outcome.next (if_pos ⟨hmode, hawake, by rw [hrow]; rfl, htarget, hdone⟩)

/-! ### Domains (spec/20 R460) -/

section
variable {m : Master} {v : Word} {d : Fin 52} {ok : Bool}

/-- The row of the domain requests is found in every state, for its index lies below those of the factory test mode (R380). -/
theorem objNow_pmDomainRequest (s : State) (d : Fin 52) :
    objNow s (aliasIndex 0xB100) (1 + d) = some ⟨0xB100, 0xB100, 1, 52, .enum, .rw, .live, 0x7FFF, 0, .enum [0, 1, 2]⟩ :=
  have hrow : ∀ x : Fin 52, objRow (aliasIndex 0xB100) (1 + x) =
      some ⟨0xB100, 0xB100, 1, 52, .enum, .rw, .live, 0x7FFF, 0, .enum [0, 1, 2]⟩ := by decide
  (if_neg fun h => absurd h.1 (by decide)).trans (hrow d)

theorem exec_domainRequest_accepted (ha : accepts s m (K.pmDomainRequest d) v = true) :
    exec (.domainRequest m d v) s = .next (domainRequestAct d v (wrote s m (K.pmDomainRequest d) v)) := by
  have hsub : 1 + d.val < 256 := by omega
  have hrow : objNow s (aliasIndex (K.pmDomainRequest d / 256)) (K.pmDomainRequest d % 256) =
      some ⟨0xB100, 0xB100, 1, 52, .enum, .rw, .live, 0x7FFF, 0, .enum [0, 1, 2]⟩ := by
    rw [K.pmDomainRequest, key_index hsub, key_sub hsub]
    exact objNow_pmDomainRequest s d
  exact congrArg Host.Outcome.next (kwrite_act_rw s ha hrow rfl)

/-- Every domain but pd_eth_phy goes at once, its group with it. -/
theorem domainRequestAct_ne_ethPhy {t : State} (hd : d ≠ 19) :
    domainRequestAct d v t = (domainGroup d).foldl (fun u x => domainGo u x v.toNat)
      ((domainGroup d).foldl (fun u x => u.setN (K.pmDomainRequest x) v.toNat) t) := by
  refine if_neg ?_
  rintro ⟨hphy, -⟩
  exact hd (Fin.ext hphy)

section
variable (hgoing : s.nat (K.pmDomainState d) = 2)
include hgoing

/-- A domain that goes on is tested and starts afresh. -/
theorem exec_domainTransitionDone_on (hgoal : (Sp.get s.power.goal d).getD 0 ≠ 3) :
    let t := { s with power := { s.power with goal := Sp.del s.power.goal d } }
    exec (.domainTransitionDone d ok) s =
      .next (cellarFollows ((freshUp (testDomain t d ok) d).setN (K.pmDomainState d) 3) d 3) := by
  have hexec : exec (.domainTransitionDone d ok) s = execDomainTransitionDone d ok s := rfl
  simp only [hexec, execDomainTransitionDone, hgoing, if_true, if_neg hgoal]

/-- A domain that leaves retention keeps what it holds. -/
theorem exec_domainTransitionDone_resume (hgoal : (Sp.get s.power.goal d).getD 0 = 3) :
    let t := { s with power := { s.power with goal := Sp.del s.power.goal d } }
    exec (.domainTransitionDone d ok) s = .next (cellarFollows (t.setN (K.pmDomainState d) 3) d 3) := by
  have hexec : exec (.domainTransitionDone d ok) s = execDomainTransitionDone d ok s := rfl
  simp only [hexec, execDomainTransitionDone, hgoing, if_true, hgoal]

end

section
variable (hleaving : s.nat (K.pmDomainState d) = 5)
include hleaving

theorem exec_domainTransitionDone_off (hgoal : (Sp.get s.power.goal d).getD 0 ≠ 2) :
    let t := { s with power := { s.power with goal := Sp.del s.power.goal d } }
    exec (.domainTransitionDone d ok) s = .next ((domainOff t d).setN (K.pmDomainState d) 1) := by
  have hexec : exec (.domainTransitionDone d ok) s = execDomainTransitionDone d ok s := rfl
  simp only [hexec, execDomainTransitionDone, hleaving, if_true, if_neg hgoal, Nat.reduceEqDiff, if_false]

theorem exec_domainTransitionDone_retained (hgoal : (Sp.get s.power.goal d).getD 0 = 2) (hhoe : d.val ≠ 14) :
    let t := { s with power := { s.power with goal := Sp.del s.power.goal d } }
    exec (.domainTransitionDone d ok) s = .next (cellarFollows (t.setN (K.pmDomainState d) 4) d 4) := by
  have hexec : exec (.domainTransitionDone d ok) s = execDomainTransitionDone d ok s := rfl
  simp only [hexec, execDomainTransitionDone, hleaving, if_true, hgoal, if_neg hhoe, Nat.reduceEqDiff, if_false]

end

theorem exec_domainTimeout_moving (hmoving : s.nat (K.pmDomainState d) = 2 ∨ s.nat (K.pmDomainState d) = 5) :
    exec (.domainTimeout d) s = .next (modeEvent raise (s.setN (K.pmDomainState d) 6) 10 [d, 6]) :=
  congrArg Host.Outcome.next (if_pos hmoving)

end

/-! ### Reservations and the envelope (spec/20 R463-R465) -/

/-- A holder other than an engine of the Sieve asks without a condition. -/
theorem exec_reservationRequest_notSieve {h : Holder} (hholder : ∀ n, h ≠ .sieve n) :
    exec (.reservationRequest h) s = .next (requestRes raise s h) := by
  have hexec : exec (.reservationRequest h) s = execReservationRequest h s := rfl
  rw [hexec, execReservationRequest]
  exact hholder

/-- The row of envelope_mw is found in every state. -/
theorem objNow_pmEnvelopeMw (s : State) :
    objNow s (aliasIndex 0xB010) 1 = some ⟨0xB010, 0xB010, 1, 1, .u16, .rw, .live, 0x7FFF, 9000, .range 4500 12000⟩ :=
  (if_neg fun h => absurd h.1 (by decide)).trans (by decide)

theorem exec_parkHoldExpiry_holding {a : Act} {ma : Int} (hhold : (s.act a).vcm = .parkHold ma) :
    exec (.parkHoldExpiry a) s = .next (s.setAct a { s.act a with vcm := .off }) := by
  have hexec : exec (.parkHoldExpiry a) s = execParkHoldExpiry a s := rfl
  rw [hexec, execParkHoldExpiry, hhold]

end

/-- Settles O25 (spec/20 R450-R466): a command of the power management acts where its condition holds, and an accepted write is stored and
has its object's action. Event 10 of a row bears the row and the mode (log 44), and what a domain loses when it goes off is deduced
(log 27). -/
theorem powerCommandsComplete : Obligations.PowerCommandsComplete := by
  refine ⟨?tick, ?row, ?request, ?safe, ?restart, ?supply, ?powerOn, ?warm, ?wake, ?idle, ?domain, ?transition, ?timeout, ?sieve, ?holder,
    ?release, ?slot, ?envelope, ?parkHold, ?debug, ?faultLine⟩
  case tick => exact fun _ hmode => ⟨fun _ => exec_modeTick_safeRequest hmode, exec_modeTick_manages hmode⟩
  case row => exact fun _ _ hrow => ⟨exec_modeRowComplete_done hrow, exec_modeRowTimeout_first hrow⟩
  case request => exact fun _ _ _ => rfl
  case safe => exact fun _ _ => ⟨rfl, fun _ => exec_safeEntry_requested⟩
  case restart => exact fun _ _ s ha hv => congrArg Host.Outcome.next (kwrite_act (f := safeRestartAct) s ha hv)
  case supply =>
    intro mv s
    refine ⟨fun hlow hbelow => ?_, fun hover => ?_, fun hlow hbelow => ?_, fun hover => ?_⟩
    · rw [exec_supplyOutOfRange_12V, if_pos ⟨hlow, hbelow⟩]
    · rw [exec_supplyOutOfRange_12V, if_neg (by omega), if_pos hover]
    · rw [exec_supplyOutOfRange_5V, if_pos ⟨hlow, hbelow⟩]
    · rw [exec_supplyOutOfRange_5V, if_neg (by omega), if_pos hover]
  case powerOn => exact fun _ _ => rfl
  case warm =>
    exact fun _ hidle => ⟨exec_warmReset_powerLoss hidle, exec_warmReset_thermalTrip hidle, exec_warmReset_safeRestart hidle⟩
  case wake => exact fun _ _ _ => exec_standbyWake_asleep
  case idle => exact fun _ => exec_standbyIdleExpiry_idle
  case domain => exact fun _ _ _ _ ha hd => (exec_domainRequest_accepted ha).trans (congrArg Host.Outcome.next (domainRequestAct_ne_ethPhy hd))
  case transition =>
    exact fun _ _ _ => ⟨exec_domainTransitionDone_on, exec_domainTransitionDone_resume, exec_domainTransitionDone_off,
      exec_domainTransitionDone_retained⟩
  case timeout => exact fun _ _ => exec_domainTimeout_moving
  case sieve => exact fun _ _ hloading hrun => congrArg Host.Outcome.next (if_pos ⟨hloading, hrun⟩)
  case holder => exact fun _ _ => exec_reservationRequest_notSieve
  case release => exact fun _ _ => rfl
  case slot => exact fun _ _ hidle => congrArg Host.Outcome.next (if_pos hidle)
  case envelope =>
    exact fun _ _ s ha => congrArg Host.Outcome.next (kwrite_act_rw (f := envelopeWriteAct) s ha (objNow_pmEnvelopeMw s) rfl)
  case parkHold => exact fun _ _ _ => exec_parkHoldExpiry_holding
  case debug => exact fun _ => ⟨rfl, rfl⟩
  case faultLine => exact fun _ _ => rfl

end Sys2Proof.Machine

/-! PROOF. Measurement and heat (O26). -/

namespace Sys2Proof.Machine

section
variable {s : State}

/-! ### The throttle and the substitution (spec/20 R470, R473) -/

/-- A step down waits for step_down_ms since the last step and since the fall that began the wait. -/
theorem exec_throttleStepDown_due (hthrottled : 0 < s.nat K.pmThrottleStep) (hlevel : s.nat K.pmLevel < 2) (hhold : s.power.substHold = false)
    (hstep : s.nat K.pmStepDownMs * 1000 ≤ s.elapsed s.power.stepAt) (hfall : s.nat K.pmStepDownMs * 1000 ≤ s.elapsed s.power.fallAt) :
    exec .throttleStepDown s = .next (followSubst (setStep s (s.nat K.pmThrottleStep - 1))) :=
  congrArg Host.Outcome.next (if_pos ⟨hthrottled, hlevel, hhold, Bool.and_eq_true_iff.2 ⟨decide_eq_true hstep, decide_eq_true hfall⟩⟩)

theorem exec_substitutionHoldExpiry_held (hhold : s.power.substHold = true) :
    exec .substitutionHoldExpiry s = .next { s with power := { s.power with substHold := false, fallAt := s.now } } :=
  congrArg Host.Outcome.next (if_pos hhold)

/-! ### The hardware trip (spec/20 R472) -/

/-- The first comparator trips the media, the commits and the host. -/
theorem exec_thermalTrip_first {mask : Byte} (hmask : mask ≠ 0) (hfirst : s.power.trip = none) :
    let t := { s with power := { s.power with trip := some mask.toNat, tripSince := s.now } }
    let t := sheafQuiesce (mediaOff raise t 7 1)
    let t := t.on (t.flag K.sheafPwcArmed) fun u => flushAsk u 3
    let t := (t.setHost { t.host with cfs := true }).setN K.hostCtrlState 5
    exec (.thermalTrip mask) s = .next (applySets t) := by
  intro t₁ t₂ t₃ t₄
  have hexec : exec (.thermalTrip mask) s = execThermalTrip mask s := rfl
  rw [hexec, execThermalTrip, hfirst, if_neg hmask]

theorem exec_thermalTrip_further {mask : Byte} {n : Nat} (htripped : s.power.trip = some n) :
    exec (.thermalTrip mask) s = .next { s with power := { s.power with trip := some (n ||| mask.toNat) } } := by
  have hexec : exec (.thermalTrip mask) s = execThermalTrip mask s := rfl
  rw [hexec, execThermalTrip, htripped]

theorem exec_tripRecovery_idle {ms : BitVec 32} (htripped : s.power.trip.isSome = true) (hidle : flushIdle s = true) :
    exec (.tripRecovery ms) s = .next (warmReset s 3 ms.toNat) :=
  congrArg Host.Outcome.next (if_pos (Bool.and_eq_true_iff.2 ⟨htripped, hidle⟩))

/-! ### Compensation (spec/20 R474) -/

theorem exec_compensationUpdate_disabled {o : BitVec 3} (hoff : s.flag K.pmCompEnable = false) :
    exec (.compensationUpdate o) s = .next
      ({ s with power := { s.power with refTrim := compensation 1 0, adcTrim := compensation 2 0 } }.setI K.pmXtalPpb 0) :=
  if_pos (by rw [hoff]; rfl)

end

/-- Settles O26 (spec/20 R463-R475): each branch of a measurement, of the trip and of the compensation is taken under its own condition.
That a further trip adds its comparators and that a disabled compensation takes the correction to 0 are deduced (log 28), and event 12
comes once a fall (log 44). -/
theorem thermalCommandsComplete : Obligations.ThermalCommandsComplete := by
  refine ⟨?power, ?sensor, ?stepDown, ?hold, ?first, ?further, ?recovery, ?disabled, ?enabled⟩
  case power =>
    intro mw s t t' env n u
    refine ⟨fun hwithin => if_pos hwithin, fun hover hfew => ?_, fun hover htenth => ?_, fun hover hmany => ?_⟩
    all_goals refine (if_neg (Nat.not_le.2 hover)).trans ?_
    · exact (if_neg (Nat.ne_of_lt hfew)).trans (if_neg (Nat.lt_asymm hfew))
    · exact if_pos htenth
    · exact (if_neg (Nat.ne_of_gt hmany)).trans (if_pos hmany)
  case sensor => exact fun _ _ _ => rfl
  case stepDown => exact fun _ => exec_throttleStepDown_due
  case hold => exact fun _ => exec_substitutionHoldExpiry_held
  case first => exact fun _ _ => exec_thermalTrip_first
  case further => exact fun _ _ _ => exec_thermalTrip_further
  case recovery => exact fun _ _ => exec_tripRecovery_idle
  case disabled => exact fun _ _ => exec_compensationUpdate_disabled
  case enabled => exact fun _ _ hon => if_neg (by rw [hon]; decide)

end Sys2Proof.Machine
